-- ==== Sys2Proof/Word.lean ====
section
/-! DEFINITION. The word types of the Statiholt and their plainest arithmetic (R8, R34). -/

namespace Sys2Proof

/-- One byte of memory or of scratchpad. -/
abbrev Byte := BitVec 8

/-- A 64-bit scalar register, counter or CSR. -/
abbrev Word := BitVec 64

/-- One 32-bit instruction word (R131). -/
abbrev IWord := BitVec 32

/-- A 512-byte vector register, seen as one little-endian value of 4,096 bits (R192). -/
abbrev VReg := BitVec 4096

/-- A 4,096-bit mask register (R103). -/
abbrev MaskReg := BitVec 4096

/-- Bits `hi .. lo` of a natural number, both ends included (R8). -/
def bits (x hi lo : Nat) : Nat := x / 2 ^ lo % 2 ^ (hi + 1 - lo)

/-- Bit `k` of a natural number. -/
def bit (x k : Nat) : Bool := x / 2 ^ k % 2 == 1

/-- The value of a Bool as 0 or 1. -/
def b2n (b : Bool) : Nat := if b then 1 else 0

/-- Two's complement reading of the low `w` bits of `x`. -/
def toSigned (w x : Nat) : Int :=
  let y := x % 2 ^ w
  if w = 0 then 0 else if y < 2 ^ (w - 1) then (y : Int) else (y : Int) - (2 ^ w : Nat)

/-- The low `w` bits of an integer in two's complement. -/
def ofSigned (w : Nat) (x : Int) : Nat := (x % ((2 ^ w : Nat) : Int)).toNat

/-- Sign extension of the low `w` bits of `x` to 64 bits. -/
def sext64 (w x : Nat) : Word := BitVec.ofInt 64 (toSigned w x)

end Sys2Proof
end

