-- ==== Sys2Proof/Syntax.lean ====
section
/-! DEFINITION. The instructions and steps of the Statiholt: one constructor for each row of the spec's table of
operations and events. The first 220 carry the fields of their 32-bit words (R131 to R148, R191, R222, R255, R287);
the other 94 are steps of the device that no word encodes, with the operands that say where they happen and what the
host or the physical world brings in. -/

namespace Sys2Proof

/-- Who runs instruction words: a context bank of a core (`b` is true for bank B; R19, R20), or the stream of stack
sequencer `n` = 4 × stack + sequencer (R25, R306). -/
inductive AgentId where
  | bank (core : Nat) (b : Bool)
  | seq (n : Nat)
  deriving DecidableEq, Repr

/-- The six engines in chain order Q, L, M, V, S, T (R24). -/
inductive Engine where
  | q | l | m | v | s | t
  deriving DecidableEq, Repr

/-- What an inbound request of a peer asks for (R429, R431). -/
inductive PeerAccess where
  | read (n : Nat)
  | write (data : List Byte)
  | amo (op : BitVec 3) (x : Word) (promoting : Bool)
  | cas (expect new : Word) (promoting : Bool)
  deriving DecidableEq, Repr

/-- A request of peer `src` to physical address `pa` of this device (R429). -/
structure PeerReq where
  src : Nat
  pa : Nat
  acc : PeerAccess
  deriving DecidableEq, Repr

/-- What a power state belongs to (R445): a cluster (12 × die + cluster) or the device. -/
inductive PowerUnit where
  | cluster (n : Nat)
  | device
  deriving DecidableEq, Repr

/-- Every operation and event of the spec's table. -/
inductive Instr where
  /-- NOP (R134). Control word that does nothing. -/
  | nop (z : Bool)
  /-- ADD (R161). Writes s[a] + s[b] to d. -/
  | add (z : Bool) (d a b : BitVec 5)
  /-- SUB (R161). Writes s[a] - s[b] to d. -/
  | sub (z : Bool) (d a b : BitVec 5)
  /-- AND (R161). Writes the bitwise AND of s[a] and s[b] to d. -/
  | and (z : Bool) (d a b : BitVec 5)
  /-- OR (R161). Writes the bitwise OR of s[a] and s[b] to d. -/
  | or (z : Bool) (d a b : BitVec 5)
  /-- XOR (R161). Writes the bitwise XOR of s[a] and s[b] to d. -/
  | xor (z : Bool) (d a b : BitVec 5)
  /-- ANDN (R161). Writes s[a] AND NOT s[b] to d. -/
  | andn (z : Bool) (d a b : BitVec 5)
  /-- SHL (R161). Shifts s[a] left by s[b][5:0] and writes the result to d. -/
  | shl (z : Bool) (d a b : BitVec 5)
  /-- SHR (R161). Shifts s[a] logically right by s[b][5:0] and writes the result to d. -/
  | shr (z : Bool) (d a b : BitVec 5)
  /-- SHRA (R161). Shifts s[a] arithmetically right by s[b][5:0] and writes the result to d. -/
  | shra (z : Bool) (d a b : BitVec 5)
  /-- ROTR (R161). Rotates s[a] right by s[b][5:0] and writes the result to d. -/
  | rotr (z : Bool) (d a b : BitVec 5)
  /-- MUL (R161). Writes the low 64 bits of the product of s[a] and s[b] to d. -/
  | mul (z : Bool) (d a b : BitVec 5)
  /-- MULHS (R161). Writes the high 64 bits of the signed 128-bit product to d. -/
  | mulhs (z : Bool) (d a b : BitVec 5)
  /-- MULHU (R161). Writes the high 64 bits of the unsigned 128-bit product to d. -/
  | mulhu (z : Bool) (d a b : BitVec 5)
  /-- DIV (R162). Writes the signed quotient, truncated toward zero, to d, with the defined results for division by zero and
  overflow. -/
  | div (z : Bool) (d a b : BitVec 5)
  /-- DIVU (R162). Writes the unsigned quotient to d. -/
  | divu (z : Bool) (d a b : BitVec 5)
  /-- REM (R162). Writes the signed remainder, which takes the sign of the dividend, to d. -/
  | rem (z : Bool) (d a b : BitVec 5)
  /-- REMU (R162). Writes the unsigned remainder to d. -/
  | remu (z : Bool) (d a b : BitVec 5)
  /-- MIN (R161). Writes the signed minimum of s[a] and s[b] to d. -/
  | min (z : Bool) (d a b : BitVec 5)
  /-- MAX (R161). Writes the signed maximum of s[a] and s[b] to d. -/
  | max (z : Bool) (d a b : BitVec 5)
  /-- MINU (R161). Writes the unsigned minimum of s[a] and s[b] to d. -/
  | minu (z : Bool) (d a b : BitVec 5)
  /-- MAXU (R161). Writes the unsigned maximum of s[a] and s[b] to d. -/
  | maxu (z : Bool) (d a b : BitVec 5)
  /-- SLT (R161). Writes 1 to d if s[a] is less than s[b] as signed values, and 0 otherwise. -/
  | slt (z : Bool) (d a b : BitVec 5)
  /-- SLTU (R161). Writes 1 to d if s[a] is less than s[b] as unsigned values, and 0 otherwise. -/
  | sltu (z : Bool) (d a b : BitVec 5)
  /-- SEQ (R161). Writes 1 to d if s[a] equals s[b], and 0 otherwise. -/
  | seq (z : Bool) (d a b : BitVec 5)
  /-- CLZ (R161). Writes the number of leading zero bits of s[a] to d. -/
  | clz (z : Bool) (d a : BitVec 5)
  /-- CTZ (R161). Writes the number of trailing zero bits of s[a] to d. -/
  | ctz (z : Bool) (d a : BitVec 5)
  /-- POPC (R161). Writes the number of 1 bits of s[a] to d. -/
  | popc (z : Bool) (d a : BitVec 5)
  /-- BREV (R161). Writes s[a] with its bits reversed to d. -/
  | brev (z : Bool) (d a : BitVec 5)
  /-- SEXT (R161). Sign-extends the low f6+1 bits of s[a] and writes the result to d. -/
  | sext (z : Bool) (d a : BitVec 5) (w : BitVec 6)
  /-- ZEXT (R161). Zero-extends the low f6+1 bits of s[a] and writes the result to d. -/
  | zext (z : Bool) (d a : BitVec 5) (w : BitVec 6)
  /-- ADDI (R163). Writes s[a] + imm to d. -/
  | addi (z : Bool) (d a : BitVec 5) (i : BitVec 11)
  /-- ANDI (R163). Writes s[a] AND imm to d. -/
  | andi (z : Bool) (d a : BitVec 5) (i : BitVec 11)
  /-- ORI (R163). Writes s[a] OR imm to d. -/
  | ori (z : Bool) (d a : BitVec 5) (i : BitVec 11)
  /-- XORI (R163). Writes s[a] XOR imm to d. -/
  | xori (z : Bool) (d a : BitVec 5) (i : BitVec 11)
  /-- SHLI (R163). Shifts s[a] left by an immediate amount and writes the result to d. -/
  | shli (z : Bool) (d a : BitVec 5) (n : BitVec 6)
  /-- SHRI (R163). Shifts s[a] logically right by an immediate amount and writes the result to d. -/
  | shri (z : Bool) (d a : BitVec 5) (n : BitVec 6)
  /-- SHRAI (R163). Shifts s[a] arithmetically right by an immediate amount and writes the result to d. -/
  | shrai (z : Bool) (d a : BitVec 5) (n : BitVec 6)
  /-- SLTI (R163). Writes to d the signed comparison of s[a] with imm. -/
  | slti (z : Bool) (d a : BitVec 5) (i : BitVec 11)
  /-- SLTUI (R163). Writes to d the unsigned comparison of s[a] with the sign-extended imm. -/
  | sltui (z : Bool) (d a : BitVec 5) (i : BitVec 11)
  /-- SEQI (R163). Writes to d the equality comparison of s[a] with imm. -/
  | seqi (z : Bool) (d a : BitVec 5) (i : BitVec 11)
  /-- LUI (R163). Writes imm x 2^16 to d. -/
  | lui (z : Bool) (d : BitVec 5) (i : BitVec 16)
  /-- AUIPC (R163). Writes PC + imm x 2^16 to d. -/
  | auipc (z : Bool) (d : BitVec 5) (i : BitVec 16)
  /-- LDB (R164). Loads a sign-extended byte from s[a] + imm into d. -/
  | ldb (z : Bool) (d a : BitVec 5) (i : BitVec 11)
  /-- LDBU (R164). Loads a zero-extended byte from s[a] + imm into d. -/
  | ldbu (z : Bool) (d a : BitVec 5) (i : BitVec 11)
  /-- LDH (R164). Loads a sign-extended 2-byte value into d. -/
  | ldh (z : Bool) (d a : BitVec 5) (i : BitVec 11)
  /-- LDHU (R164). Loads a zero-extended 2-byte value into d. -/
  | ldhu (z : Bool) (d a : BitVec 5) (i : BitVec 11)
  /-- LDW (R164). Loads a sign-extended 4-byte value into d. -/
  | ldw (z : Bool) (d a : BitVec 5) (i : BitVec 11)
  /-- LDWU (R164). Loads a zero-extended 4-byte value into d. -/
  | ldwu (z : Bool) (d a : BitVec 5) (i : BitVec 11)
  /-- LDD (R164). Loads an 8-byte value into d, after the address checks of R160. -/
  | ldd (z : Bool) (d a : BitVec 5) (i : BitVec 11)
  /-- STB (R164). Stores the low byte of s[b] at s[a] + imm, written through to the home slice. -/
  | stb (z : Bool) (b a : BitVec 5) (i : BitVec 11)
  /-- STH (R164). Stores the low 2 bytes of s[b]. -/
  | sth (z : Bool) (b a : BitVec 5) (i : BitVec 11)
  /-- STW (R164). Stores the low 4 bytes of s[b]. -/
  | stw (z : Bool) (b a : BitVec 5) (i : BitVec 11)
  /-- STD (R164). Stores the 8 bytes of s[b]. -/
  | std (z : Bool) (b a : BitVec 5) (i : BitVec 11)
  /-- AMO (R166). Performs a relaxed atomic read-modify-write at the home slice and writes the old value to d. -/
  | amo (z : Bool) (d a b : BitVec 5) (s o : BitVec 3)
  /-- AMOA (R166). Performs an atomic read-modify-write with acquire at the named scope. -/
  | amoa (z : Bool) (d a b : BitVec 5) (s o : BitVec 3)
  /-- AMOR (R166). Performs an atomic read-modify-write with release at the named scope. -/
  | amor (z : Bool) (d a b : BitVec 5) (s o : BitVec 3)
  /-- AMOAR (R166). Performs an atomic read-modify-write with acquire and release. -/
  | amoar (z : Bool) (d a b : BitVec 5) (s o : BitVec 3)
  /-- AMOP (R169). Performs an atomic read-modify-write with promoting acquire and release. -/
  | amop (z : Bool) (d a b : BitVec 5) (s o : BitVec 3)
  /-- CAS (R167). Compares memory with d, writes s[b] if they are equal, and returns the old value in d. -/
  | cas (z : Bool) (d a b : BitVec 5) (s o : BitVec 3)
  /-- FENCE (R170). Waits for the selected engines to drain and for earlier accesses to be performed at its scope, and
  optionally invalidates the instruction cache. -/
  | fence (z f : Bool) (s : BitVec 3) (e : BitVec 6)
  /-- PREFL (R165). Brings the addressed line into the L2 with a replacement hint, and never traps. -/
  | prefl (z : Bool) (h a : BitVec 5) (i : BitVec 11)
  /-- BEQ (R171). Branches if s[a] equals s[b]. -/
  | beq (z : Bool) (a b : BitVec 5) (i : BitVec 11)
  /-- BNE (R171). Branches if s[a] differs from s[b]. -/
  | bne (z : Bool) (a b : BitVec 5) (i : BitVec 11)
  /-- BLT (R171). Branches if s[a] is less than s[b] as signed values. -/
  | blt (z : Bool) (a b : BitVec 5) (i : BitVec 11)
  /-- BGE (R171). Branches if s[a] is greater than or equal to s[b] as signed values. -/
  | bge (z : Bool) (a b : BitVec 5) (i : BitVec 11)
  /-- BLTU (R171). Branches if s[a] is less than s[b] as unsigned values. -/
  | bltu (z : Bool) (a b : BitVec 5) (i : BitVec 11)
  /-- BGEU (R171). Branches if s[a] is greater than or equal to s[b] as unsigned values. -/
  | bgeu (z : Bool) (a b : BitVec 5) (i : BitVec 11)
  /-- JAL (R172). Writes PC + 4 to d and jumps by a word offset. -/
  | jal (z : Bool) (d : BitVec 5) (i : BitVec 16)
  /-- JALR (R172). Writes PC + 4 to d and jumps to s[a] + imm. -/
  | jalr (z : Bool) (d a : BitVec 5) (i : BitVec 11)
  /-- YIELD (R75). Drains the bank and suspends it if a yield request is pending, and reports a withdrawal of its tag in SPSTAT. -/
  | yield (z : Bool)
  /-- EXIT (R78). Drains the engine queues and retires the spore record; on a stack sequencer it ends the stream. -/
  | exit (z : Bool)
  /-- SPAWN (R174). Enqueues a spore record built from a memory image, or suspends while the target stage queue is full. -/
  | spawn (z : Bool) (a : BitVec 5) (i : BitVec 11)
  /-- CONT (R182). Resumes, skips past or ends a stopped stack stream through a resume descriptor. -/
  | cont (z : Bool) (a : BitVec 5) (i : BitVec 11)
  /-- WAITGE_LOCAL (R175). Stalls in place until local counter pgN is at least s[b], then continues with acquire. -/
  | waitgeLocal (z : Bool) (a b : BitVec 5)
  /-- WAITGE (R76). Reads a memory counter with acquire and suspends the spore while the counter is below s[b]. -/
  | waitge (z : Bool) (a b : BitVec 5) (s : BitVec 3)
  /-- SIGNAL_LOCAL (R175). Adds s[b] to local counter pgN with release at core scope. -/
  | signalLocal (z : Bool) (a b : BitVec 5)
  /-- SIGNAL (R175). Atomically adds s[b] to a memory counter with release at the named scope. -/
  | signal (z : Bool) (a b : BitVec 5) (s : BitVec 3)
  /-- POPR (R176). Removes the oldest reply-queue entry into d, stalling while the queue is empty. -/
  | popr (z : Bool) (d : BitVec 5)
  /-- PEEKR (R176). Reads the oldest reply-queue entry into d without removing it, or all ones when the queue is empty. -/
  | peekr (z : Bool) (d : BitVec 5)
  /-- FORK (R180). Starts an instruction stream on a stack sequencer and returns its handle in d, or 0 when the sequencer is
  busy. -/
  | fork (z : Bool) (d a b : BitVec 5) (k : BitVec 3) (q : BitVec 2)
  /-- MSEND (R181). Appends a message to a sequencer mailbox, stalling while it is full. -/
  | msend (z : Bool) (a b : BitVec 5)
  /-- MRECV (R181). Removes the oldest mailbox message into d, stalling while the mailbox is empty. -/
  | mrecv (z : Bool) (d a : BitVec 5)
  /-- NEST (R177). Reads a 128-byte nest descriptor into the shadow copy of a nest slot. -/
  | nest (z : Bool) (n a : BitVec 5) (i : BitVec 11)
  /-- CSTORE (R184). Checks and loads a macro body into a control-store entry. -/
  | cstore (z : Bool) (e a l : BitVec 5)
  /-- L2PIN (R185). Pins a physical range into the reserved ways of a retention register. -/
  | l2pin (z : Bool) (a b : BitVec 5) (r : BitVec 4) (w : BitVec 2)
  /-- L2UNPIN (R185). Releases a retention register's pin and returns its ways to normal replacement. -/
  | l2unpin (z : Bool) (r : BitVec 4)
  /-- CSRR (R186). Reads a CSR into d. -/
  | csrr (z : Bool) (d : BitVec 5) (c : BitVec 11)
  /-- CSRW (R186). Writes s[a] to a CSR and returns the old value in d. -/
  | csrw (z : Bool) (d a : BitVec 5) (c : BitVec 11)
  /-- CSRS (R186). Sets the CSR bits that are set in s[a] and returns the old value in d. -/
  | csrs (z : Bool) (d a : BitVec 5) (c : BitVec 11)
  /-- CSRC (R186). Clears the CSR bits that are set in s[a] and returns the old value in d. -/
  | csrc (z : Bool) (d a : BitVec 5) (c : BitVec 11)
  /-- ECALL (R188). Takes trap cause ECALL with a code, returning after the word. -/
  | ecall (z : Bool) (c : BitVec 11)
  /-- EBREAK (R188). Takes trap cause EBREAK with a code. -/
  | ebreak (z : Bool) (c : BitVec 11)
  /-- ERET (R345). Returns from the trap handler, applying SKIP and EXIT and lifting the trap barrier. -/
  | eret (z : Bool)
  /-- WFE (R189). Clears the bank's event flag, first waiting for it to be set if it is clear. -/
  | wfe (z : Bool)
  /-- TLBINV (R387). Issues an invalidation of the translations of an identifier over a range, and continues at once. -/
  | tlbinv (z : Bool) (d a b : BitVec 5) (p : BitVec 4)
  /-- SEV (R189). Sets the event flags of the banks of the cluster and partition. -/
  | sev (z : Bool)
  /-- VADD (R196). Adds elementwise in an integer format. -/
  | vadd (z : Bool) (t : BitVec 4) (f : BitVec 3) (d a b : BitVec 5)
  /-- VSUB (R196). Subtracts elementwise in an integer format. -/
  | vsub (z : Bool) (t : BitVec 4) (f : BitVec 3) (d a b : BitVec 5)
  /-- VADDSAT (R196). Adds elementwise with saturation. -/
  | vaddsat (z : Bool) (t : BitVec 4) (f : BitVec 3) (d a b : BitVec 5)
  /-- VSUBSAT (R196). Subtracts elementwise with saturation. -/
  | vsubsat (z : Bool) (t : BitVec 4) (f : BitVec 3) (d a b : BitVec 5)
  /-- VAVG (R196). Writes the rounded-up average of each element pair. -/
  | vavg (z : Bool) (t : BitVec 4) (f : BitVec 3) (d a b : BitVec 5)
  /-- VMUL (R196). Multiplies elementwise in an integer format. -/
  | vmul (z : Bool) (t : BitVec 4) (f : BitVec 3) (d a b : BitVec 5)
  /-- VMULHI (R196). Writes the high half of each elementwise product. -/
  | vmulhi (z : Bool) (t : BitVec 4) (f : BitVec 3) (d a b : BitVec 5)
  /-- VMAC (R196). Adds each elementwise product to vd. -/
  | vmac (z : Bool) (t : BitVec 4) (f : BitVec 3) (d a b : BitVec 5)
  /-- VMIN (R196). Writes the elementwise integer minimum. -/
  | vmin (z : Bool) (t : BitVec 4) (f : BitVec 3) (d a b : BitVec 5)
  /-- VMAX (R196). Writes the elementwise integer maximum. -/
  | vmax (z : Bool) (t : BitVec 4) (f : BitVec 3) (d a b : BitVec 5)
  /-- VABS (R196). Writes the elementwise integer absolute value. -/
  | vabs (z : Bool) (t : BitVec 4) (f : BitVec 3) (d a : BitVec 5)
  /-- VAND (R196). Writes the bitwise AND of the element encodings. -/
  | vand (z : Bool) (t : BitVec 4) (f : BitVec 3) (d a b : BitVec 5)
  /-- VOR (R196). Writes the bitwise OR of the element encodings. -/
  | vor (z : Bool) (t : BitVec 4) (f : BitVec 3) (d a b : BitVec 5)
  /-- VXOR (R196). Writes the bitwise XOR of the element encodings. -/
  | vxor (z : Bool) (t : BitVec 4) (f : BitVec 3) (d a b : BitVec 5)
  /-- VSHL (R196). Shifts integer elements left. -/
  | vshl (z : Bool) (t : BitVec 4) (f : BitVec 3) (d a b : BitVec 5)
  /-- VSHR (R196). Shifts integer elements right. -/
  | vshr (z : Bool) (t : BitVec 4) (f : BitVec 3) (d a b : BitVec 5)
  /-- VFADD (R197). Adds floating elements with one rounding. -/
  | vfadd (z : Bool) (t : BitVec 4) (f : BitVec 3) (d a b : BitVec 5)
  /-- VFSUB (R197). Subtracts floating elements with one rounding. -/
  | vfsub (z : Bool) (t : BitVec 4) (f : BitVec 3) (d a b : BitVec 5)
  /-- VFMUL (R197). Multiplies floating elements with one rounding. -/
  | vfmul (z : Bool) (t : BitVec 4) (f : BitVec 3) (d a b : BitVec 5)
  /-- VFMA (R197). Computes a x b + c as a fused multiply-add with one rounding. -/
  | vfma (z : Bool) (t : BitVec 4) (f : BitVec 3) (d a b : BitVec 5)
  /-- VFMS (R197). Computes c - a x b with one rounding. -/
  | vfms (z : Bool) (t : BitVec 4) (f : BitVec 3) (d a b : BitVec 5)
  /-- VFMIN (R197). Writes the lesser floating operand of each pair. -/
  | vfmin (z : Bool) (t : BitVec 4) (f : BitVec 3) (d a b : BitVec 5)
  /-- VFMAX (R197). Writes the greater floating operand of each pair. -/
  | vfmax (z : Bool) (t : BitVec 4) (f : BitVec 3) (d a b : BitVec 5)
  /-- VFABS (R197). Clears the sign of each floating element. -/
  | vfabs (z : Bool) (t : BitVec 4) (f : BitVec 3) (d a : BitVec 5)
  /-- VFNEG (R197). Inverts the sign of each floating element. -/
  | vfneg (z : Bool) (t : BitVec 4) (f : BitVec 3) (d a : BitVec 5)
  /-- VCVT (R198). Converts elements between formats of equal width. -/
  | vcvt (z : Bool) (t : BitVec 4) (f : BitVec 3) (d a : BitVec 5)
  /-- VWIDEN (R198). Converts elements into a register pair or quad of a wider format. -/
  | vwiden (z : Bool) (t : BitVec 4) (f : BitVec 3) (d a : BitVec 5)
  /-- VNARROW (R198). Converts a register pair or quad into a narrower format. -/
  | vnarrow (z : Bool) (t : BitVec 4) (f : BitVec 3) (d a : BitVec 5)
  /-- VWMUL (R198). Writes widened exact products, rounded once. -/
  | vwmul (z : Bool) (t : BitVec 4) (f : BitVec 3) (d a b : BitVec 5)
  /-- VWMAC (R198). Accumulates widened products into vd with one rounding. -/
  | vwmac (z : Bool) (t : BitVec 4) (f : BitVec 3) (d a b : BitVec 5)
  /-- VACCRD (R199). Copies one accumulator row into a vector register. -/
  | vaccrd (z : Bool) (t : BitVec 4) (c : BitVec 2) (d : BitVec 5) (h : BitVec 2) (l : BitVec 5)
  /-- VACCWR (R199). Copies a vector register into one accumulator row. -/
  | vaccwr (z : Bool) (t : BitVec 4) (c : BitVec 2) (l : BitVec 5) (h : BitVec 2) (b : BitVec 5)
  /-- VCMPEQ (R201). Writes mask bits where elements are equal. -/
  | vcmpeq (z : Bool) (t : BitVec 4) (f : BitVec 3) (d a b : BitVec 5)
  /-- VCMPNE (R201). Writes mask bits where elements differ. -/
  | vcmpne (z : Bool) (t : BitVec 4) (f : BitVec 3) (d a b : BitVec 5)
  /-- VCMPLT (R201). Writes mask bits where a is less than b. -/
  | vcmplt (z : Bool) (t : BitVec 4) (f : BitVec 3) (d a b : BitVec 5)
  /-- VCMPLE (R201). Writes mask bits where a is less than or equal to b. -/
  | vcmple (z : Bool) (t : BitVec 4) (f : BitVec 3) (d a b : BitVec 5)
  /-- VSEL (R202). Selects each element from va or vb by a mask. -/
  | vsel (z : Bool) (t : BitVec 4) (f : BitVec 3) (d a b : BitVec 5)
  /-- VMLOGIC (R202). Combines two masks through a 4-bit truth table. -/
  | vmlogic (z : Bool) (t : BitVec 4) (f : BitVec 3) (d a b : BitVec 5)
  /-- VMPOPC (R202). Appends the count of the set mask bits that take part to the reply queue. -/
  | vmpopc (z : Bool) (t : BitVec 4) (f : BitVec 3) (a : BitVec 5)
  /-- VMFIRST (R202). Appends the lowest set mask index to the reply queue. -/
  | vmfirst (z : Bool) (t : BitVec 4) (f : BitVec 3) (a : BitVec 5)
  /-- VPERM (R203). Permutes elements of va by the indices in vb. -/
  | vperm (z : Bool) (t : BitVec 4) (f : BitVec 3) (d a b : BitVec 5)
  /-- VBCAST (R203). Broadcasts one element of vb to every element of vd. -/
  | vbcast (z : Bool) (t : BitVec 4) (f : BitVec 3) (d b : BitVec 5)
  /-- VIOTA (R203). Writes the prefix count of set mask bits to each element. -/
  | viota (z : Bool) (t : BitVec 4) (f : BitVec 3) (d a : BitVec 5)
  /-- VREDSUM (R204). Reduces the elements by sum into vd[0]. -/
  | vredsum (z : Bool) (t : BitVec 4) (f : BitVec 3) (d a : BitVec 5)
  /-- VREDMIN (R204). Reduces the elements by minimum. -/
  | vredmin (z : Bool) (t : BitVec 4) (f : BitVec 3) (d a : BitVec 5)
  /-- VREDMAX (R204). Reduces the elements by maximum. -/
  | vredmax (z : Bool) (t : BitVec 4) (f : BitVec 3) (d a : BitVec 5)
  /-- VARGMIN (R205). Appends the least element and its index to the reply queue. -/
  | vargmin (z : Bool) (t : BitVec 4) (f : BitVec 3) (a : BitVec 5)
  /-- VSLIDE (R203). Slides the concatenation of va and vb down by s elements. -/
  | vslide (z : Bool) (t : BitVec 4) (f : BitVec 3) (d a b : BitVec 5)
  /-- VTOPN (R206). Keeps the N largest-magnitude elements of each group with their index bytes. -/
  | vtopn (z : Bool) (t : BitVec 4) (f : BitVec 3) (d a : BitVec 5)
  /-- VSPREAD (R207). Scatters kept values back to their indexed positions. -/
  | vspread (z : Bool) (t : BitVec 4) (f : BitVec 3) (d a b : BitVec 5)
  /-- VPACK (R208). Compresses the elements selected by a mask to the front. -/
  | vpack (z : Bool) (t : BitVec 4) (f : BitVec 3) (d a b : BitVec 5)
  /-- VUNPACK (R208). Expands consecutive elements into the positions of set mask bits. -/
  | vunpack (z : Bool) (t : BitVec 4) (f : BitVec 3) (d a b : BitVec 5)
  /-- VHASH (R209). Hashes element pairs with mix64 and a salt. -/
  | vhash (z : Bool) (t : BitVec 4) (f : BitVec 3) (d a b : BitVec 5)
  /-- VPOPCNT (R210). Writes the population count of each element. -/
  | vpopcnt (z : Bool) (t : BitVec 4) (f : BitVec 3) (d a : BitVec 5)
  /-- VXORPC (R210). Writes the population count of a XOR b. -/
  | vxorpc (z : Bool) (t : BitVec 4) (f : BitVec 3) (d a b : BitVec 5)
  /-- VLUT (R211). Decodes codes through a 256-entry table held in vb. -/
  | vlut (z : Bool) (t : BitVec 4) (f : BitVec 3) (d a b : BitVec 5)
  /-- VRCP (R212). Writes an approximate reciprocal of each element. -/
  | vrcp (z : Bool) (t : BitVec 4) (f : BitVec 3) (d a : BitVec 5)
  /-- VRSQ (R212). Writes an approximate reciprocal square root of each element. -/
  | vrsq (z : Bool) (t : BitVec 4) (f : BitVec 3) (d a : BitVec 5)
  /-- VRCPREF (R214). Refines an FP32 reciprocal approximation by one Newton step. -/
  | vrcpref (z : Bool) (t : BitVec 4) (f : BitVec 3) (d a b : BitVec 5)
  /-- VRSQREF (R214). Refines an FP32 reciprocal square root approximation. -/
  | vrsqref (z : Bool) (t : BitVec 4) (f : BitVec 3) (d a b : BitVec 5)
  /-- VEXP2 (R212). Writes an approximate 2^x of each element. -/
  | vexp2 (z : Bool) (t : BitVec 4) (f : BitVec 3) (d a : BitVec 5)
  /-- VLOG2 (R212). Writes an approximate log2 x of each element. -/
  | vlog2 (z : Bool) (t : BitVec 4) (f : BitVec 3) (d a : BitVec 5)
  /-- SBIND (R218). Binds an input stream over the records that an output stream has written. -/
  | sbind (z : Bool) (t : BitVec 4) (d a : BitVec 5)
  /-- SISECT (R217). Emits the keys common to two sorted input streams. -/
  | sisect (z : Bool) (t : BitVec 4) (d a b : BitVec 5)
  /-- SUNION (R217). Emits the union of two sorted input streams. -/
  | sunion (z : Bool) (t : BitVec 4) (d a b : BitVec 5)
  /-- SSUB (R217). Emits the keys of kA that are absent from kB. -/
  | ssub (z : Bool) (t : BitVec 4) (d a b : BitVec 5)
  /-- SMADD (R217). Merges two sorted streams and adds the values of equal keys. -/
  | smadd (z : Bool) (t : BitVec 4) (d a b : BitVec 5)
  /-- SCOUNT (R218). Appends a stream's remaining or written count to the reply queue. -/
  | scount (z : Bool) (t : BitVec 4) (a : BitVec 5)
  /-- SRESET (R218). Unbinds a stream register. -/
  | sreset (z : Bool) (t : BitVec 4) (d : BitVec 5)
  /-- VREPLY (R219). Appends one 64-bit word of va to the reply queue. -/
  | vreply (z : Bool) (t : BitVec 4) (a : BitVec 5)
  /-- MLDB (R231). Loads a B block with its scales from a ring into the shadow. -/
  | mldb (z : Bool) (t : BitVec 4) (a : BitVec 5) (r : BitVec 3)
  /-- MSWAP (R232). Moves the shadow B block into the array as the resident block. -/
  | mswap (z : Bool) (t : BitVec 4)
  /-- MMA (R233). Accumulates A x B into a tile in the inner-product, outer-product or row-wise dataflow. -/
  | mma (z : Bool) (t : BitVec 4) (c : BitVec 2) (x y : BitVec 3) (f : BitVec 2) (m : BitVec 3) (h s : Bool) (g : BitVec 3)
  /-- MSCQ (R230). Copies scale bytes from a ring into an operand's scale queue. -/
  | mscq (z : Bool) (t : BitVec 4) (a : BitVec 5) (w : Bool) (r : BitVec 3)
  /-- MZERO (R239). Sets every element of a tile to +0. -/
  | mzero (z : Bool) (t : BitVec 4) (c : BitVec 2)
  /-- MDRAIN (R241). Converts a tile into the scratchpad, a ring or key-value records. -/
  | mdrain (z : Bool) (t : BitVec 4) (a b : BitVec 5) (k c : BitVec 2)
  /-- MGO (R240). Starts a nest slot that issues outer-product MMAs straight from the scratchpad. -/
  | mgo (z : Bool) (t : BitVec 4) (a b : BitVec 5) (n : BitVec 3)
  /-- MATT (R248). Computes attention over a block table into a tile. -/
  | matt (z : Bool) (t : BitVec 4) (a b : BitVec 5) (m : Bool) (c : BitVec 2)
  /-- MLATLD (R246). Loads a key or value up-projection into the projection buffer. -/
  | mlatld (z : Bool) (t : BitVec 4) (a b : BitVec 5) (v : Bool)
  /-- MLAT (R247). Applies a loaded projection to input rows into a tile. -/
  | mlat (z : Bool) (t : BitVec 4) (a b : BitVec 5) (k c : BitVec 2)
  /-- MBJOIN (R242). Joins a broadcast group of the cluster for operand A or B. -/
  | mbjoin (z : Bool) (t : BitVec 4) (a : BitVec 5) (o : Bool)
  /-- MBLEAVE (R244). Leaves a broadcast group. -/
  | mbleave (z : Bool) (t : BitVec 4) (o : Bool)
  /-- MPOP (R239). Pops ring slots without reading them. -/
  | mpop (z : Bool) (t : BitVec 4) (a : BitVec 5) (r : BitVec 3)
  /-- MQUIET (R245). Completes once every group member has started its matching MQUIET. -/
  | mquiet (z : Bool) (t : BitVec 4)
  /-- LCP (R262). Copies memory into the scratchpad in row or column mode. -/
  | lcp (z : Bool) (t : BitVec 4) (a b : BitVec 5) (c : BitVec 4) (l m : Bool)
  /-- LGO (R263). Starts a nest slot that copies memory into the scratchpad. -/
  | lgo (z : Bool) (t : BitVec 4) (n b : BitVec 5) (c : BitVec 4) (l m : Bool)
  /-- LGATH (R271). Gathers indexed table rows into the scratchpad through the stack engines, with per-element status. -/
  | lgath (z : Bool) (t : BitVec 4) (a b : BitVec 5) (c : BitVec 4) (m r : Bool)
  /-- LPREF (R269). Prefetches a range into the L2 with a hint. -/
  | lpref (z : Bool) (t : BitVec 4) (a b : BitVec 5)
  /-- LQ (R264). Appends scratchpad entries to the inbound qin queue. -/
  | lq (z : Bool) (t : BitVec 4) (a b : BitVec 5) (l : Bool)
  /-- LQX (R264). Appends qin entries whose units are chosen by an offset list. -/
  | lqx (z : Bool) (t : BitVec 4) (a b : BitVec 5)
  /-- LRING (R268). Commits slots of a scratchpad ring. -/
  | lring (z : Bool) (t : BitVec 4) (a : BitVec 5) (r : BitVec 3)
  /-- LMARK (R267). Pairs with an SMARK to order the L and S queues. -/
  | lmark (z : Bool) (t m : BitVec 4)
  /-- LSBIND (R278). Binds an input stream over scratchpad records. -/
  | lsbind (z : Bool) (t : BitVec 4) (a b : BitVec 5) (k : BitVec 4)
  /-- LHINT (R269). Sets the replacement mark of the resident lines of a range. -/
  | lhint (z : Bool) (t : BitVec 4) (a b : BitVec 5)
  /-- SCP (R262). Copies the scratchpad to memory. -/
  | scp (z : Bool) (t : BitVec 4) (a b : BitVec 5) (c : BitVec 4) (l m : Bool)
  /-- SGO (R263). Starts a nest slot that copies the scratchpad to memory. -/
  | sgo (z : Bool) (t : BitVec 4) (n b : BitVec 5) (c : BitVec 4) (l m : Bool)
  /-- SSCAT (R275). Scatters source rows into a table through the stack engines, writing or combining. -/
  | sscat (z : Bool) (t : BitVec 4) (a b : BitVec 5) (c : BitVec 4) (m : Bool)
  /-- SQ (R265). Writes qout entries to memory or to the scratchpad. -/
  | sq (z : Bool) (t : BitVec 4) (a b : BitVec 5) (c : BitVec 4) (m p : Bool)
  /-- SRING (R268). Releases slots of a scratchpad ring. -/
  | sring (z : Bool) (t : BitVec 4) (a : BitVec 5) (r : BitVec 3)
  /-- SMARK (R267). Pairs with an LMARK to order the L and S queues. -/
  | smark (z : Bool) (t m : BitVec 4)
  /-- SSBIND (R278). Binds an output stream region. -/
  | ssbind (z : Bool) (t : BitVec 4) (a b : BitVec 5) (k : Bool)
  /-- SFLUSH (R269). Writes back, and optionally drops, the dirty lines of a range. -/
  | sflush (z : Bool) (t : BitVec 4) (a b : BitVec 5) (c : BitVec 4) (m i : Bool)
  /-- SZERO (R270). Writes zeros to a scratchpad range. -/
  | szero (z : Bool) (t : BitVec 4) (a b : BitVec 5)
  /-- TCVT (R281). Converts elements from memory to memory, with optional MX scales. -/
  | tcvt (z : Bool) (t : BitVec 4) (a : BitVec 5) (c : BitVec 4) (m : Bool)
  /-- TCOPY (R280). Copies memory to memory. -/
  | tcopy (z : Bool) (t : BitVec 4) (a b : BitVec 5) (c : BitVec 4) (m : Bool)
  /-- TROPE (R282). Re-rotates the rotary parts of the slots of block-table entries. -/
  | trope (z : Bool) (t : BitVec 4) (a b : BitVec 5) (c : BitVec 4) (m : Bool)
  /-- TSPLICE (R283). Removes, inserts and shifts entries of a block table. -/
  | tsplice (z : Bool) (t : BitVec 4) (a b : BitVec 5) (c : BitVec 4) (m : Bool)
  /-- TFILL (R280). Fills a range with a 64-bit pattern. -/
  | tfill (z : Bool) (t : BitVec 4) (a b : BitVec 5) (c : BitVec 4) (m : Bool)
  /-- TKVAPP (R284). Appends token slots and fresh blocks to a block table. -/
  | tkvapp (z : Bool) (t : BitVec 4) (a b : BitVec 5) (c : BitVec 4) (m : Bool)
  /-- TCHK (R280). Appends the CRC-32C of a range to the reply queue. -/
  | tchk (z : Bool) (t : BitVec 4) (a : BitVec 5) (c : BitVec 4) (m : Bool)
  /-- QSEARCH (R290). Issues a nearest-neighbour search to an index's home unit. -/
  | qsearch (z : Bool) (t : BitVec 4) (a b : BitVec 5) (c : BitVec 4) (m : Bool)
  /-- QFETCH (R296). Issues a fetch of key-value objects from flash into DRAM blocks. -/
  | qfetch (z : Bool) (t : BitVec 4) (a b : BitVec 5) (c : BitVec 4) (m : Bool)
  /-- QINSERT (R299). Appends a batch of insert records to an index log. -/
  | qinsert (z : Bool) (t : BitVec 4) (a b : BitVec 5) (c : BitVec 4) (m : Bool)
  /-- QDELETE (R299). Appends a batch of delete records to an index log. -/
  | qdelete (z : Bool) (t : BitVec 4) (a b : BitVec 5) (c : BitVec 4) (m : Bool)
  /-- QWALK (R303). Hands walker records to the embedding walkers of the stack engines. -/
  | qwalk (z : Bool) (t : BitVec 4) (a b : BitVec 5) (c : BitVec 4) (m : Bool)
  /-- QCANCEL (R301). Withdraws the partition's items of a tag and appends the three counts. -/
  | qcancel (z : Bool) (t : BitVec 4) (a : BitVec 5)
  /-- QSTAT (R302). Appends the status of a retrieval unit to the reply queue. -/
  | qstat (z : Bool) (t : BitVec 4) (a : BitVec 5)
  /-- QSNAP (R300). Issues a read of an index's current version and log position. -/
  | qsnap (z : Bool) (t : BitVec 4) (a b : BitVec 5) (c : BitVec 4) (m : Bool)
  /-- XEXT (R144). Prefix that gives its target masking, a rounding override, saturation and an immediate. -/
  | xext (m : BitVec 3) (z : Bool) (r : BitVec 3) (s : Bool) (i : BitVec 16)
  /-- XREP (R145). Prefix that re-issues its target up to 64 times with stepped fields. -/
  | xrep (c : BitVec 6) (x y w : BitVec 3)
  /-- XCALL (R148). Runs a control-store macro body with register and immediate substitution. -/
  | xcall (z : Bool) (e s v : BitVec 5) (i : BitVec 9)
  /-- XLIMM (R146). Prefix that extends the immediate of its target by 24 high bits. -/
  | xlimm (h : BitVec 24)
  /-- XSCA (R147). Prefix that replaces a vector vb operand with a scalar register. -/
  | xsca (s : BitVec 5)
  /-- WORD_START (R87). An engine starts its head word once the token and queue conditions hold, popping and reserving tokens. -/
  | wordStart (a : AgentId) (e : Engine)
  /-- WORD_COMPLETE (R88). An engine word completes, adding its reserved token pushes and appending its reply. -/
  | wordComplete (a : AgentId) (e : Engine)
  /-- BROADCAST_DELIVERY (R243). Once every member has its m-th broadcast read at its head, the leader's ring bytes reach all
  members in one clk. -/
  | broadcastDelivery (cluster : Nat) (opB : Bool) (group : Nat)
  /-- TOKDEAD (R91). A bank that stays token-stalled for TOKWD clk takes the TOKDEAD trap. -/
  | tokdead (a : AgentId)
  /-- SUSPEND (R74). After the drain of a suspension word, the record and carry are written and the bank is freed. -/
  | suspend (a : AgentId)
  /-- EXIT_RETIRE (R78). Once the operations that name the window have completed, the record is retired and the window, tiles
  and bank are freed. -/
  | exitRetire (a : AgentId)
  /-- PICKUP (R70). An empty bank takes the chosen READY spore and loads its record, carry, window and defaults. -/
  | pickup (p : Nat)
  /-- FAULT_BATCH_CLOSE (R390). A fault batch closes after WINNS or MAXEV events, is sorted and merged into records, and is
  written to the fault ring. -/
  | faultBatchClose (p : Nat)
  /-- FANS_RETRY (R394). The host's RETRY answer resumes the waiting agents, which translate again. -/
  | fansRetry (p : Nat) (all : Bool) (fid : BitVec 32)
  /-- FANS_ABORT (R394). The host's ABORT answer ends each waiting agent with a failure. -/
  | fansAbort (p : Nat) (all : Bool) (fid : BitVec 32)
  /-- GATHER_ELEMENT_READ (R274). A gather or scatter element's row is translated when read, and is held or zero-filled on an
  invalid page. -/
  | gatherElementRead (op k : Nat)
  /-- SCATTER_ELEMENT (R275). The memory-side write or combine of one SSCAT element takes effect. -/
  | scatterElement (op : Nat)
  /-- TRAP_ENTRY (R344). The control core enters supervisor mode at a word boundary and sets the trap CSRs. -/
  | trapEntry (a : AgentId)
  /-- YIELD_REQUEST (R373). The scheduler posts a yield request to a victim for a READY spore that fits no bank. -/
  | yieldRequest (p : Nat)
  /-- YIELDLATE (R374). A spore whose yield watchdog reaches YWD with a request pending takes YIELDLATE. -/
  | yieldlate (a : AgentId)
  /-- AGING (R371). Each AGEUS in READY raises a spore's PRIO by 1, up to AGELIM. -/
  | aging (p item : Nat)
  /-- ITEM_CREATE (R364). The scheduler creates the next item of a stage once its queue has room. -/
  | itemCreate (p inst stage : Nat)
  /-- GATE_TEST (R367). The scheduler tests a stage's gates with acquire after its backoff interval or a counter add. -/
  | gateTest (p inst stage : Nat)
  /-- WAIT_ENTRY_TEST (R76). The scheduler tests a wait entry's counter and makes the spore READY when it is large enough. -/
  | waitEntryTest (p item : Nat)
  /-- SPAWN_IMAGE_ENQUEUE (R76). When room appears, the scheduler reads a held SPAWN image, enqueues it and makes the parent
  READY. -/
  | spawnImageEnqueue (p item : Nat)
  /-- STAGE_ITEM_ISSUE (R366). A non-compute stage item is issued as a Q command or a FORK once its gates hold. -/
  | stageItemIssue (p inst stage : Nat)
  /-- LAUNCH (R360). A LAUNCH submission entry is checked and its task graph instantiated. -/
  | launch (p ring : Nat)
  /-- WITHDRAW (R370). A WITHDRAW entry withdraws every item of a tag in one atomic step. -/
  | withdraw (p ring : Nat)
  /-- NOP_ENTRY (R421). A NOP submission entry is consumed and completed. -/
  | nopEntry (p ring : Nat)
  /-- LAUNCH_COMPLETION (R423). A launch's completion entry is written once its expansion has created its items or has been
  ended. -/
  | launchCompletion (p ring : Nat)
  /-- SQDB (R422). A doorbell write raises the consumption limit, and the ring's entries are consumed in sequence order. -/
  | sqdb (p ring : Nat) (seq : BitVec 32)
  /-- CQHEAD (R422). A write of CQHEAD frees completion slots and resumes a ring stopped on a full completion ring. -/
  | cqhead (p ring : Nat) (seq : BitVec 32)
  /-- RING_ENABLE (R424). A write of RCTL.EN = 1 checks the ring configuration and re-bases the ring. -/
  | ringEnable (p ring : Nat) (val : Word)
  /-- RING_DISABLE (R424). A write of RCTL.EN = 0 stops consumption after the entry in progress. -/
  | ringDisable (p ring : Nat) (val : Word)
  /-- REBASE (R424). RCTL.REBASE restarts the ring's sequence at SQCFG.START after its completions are written. -/
  | rebase (p ring : Nat) (val : Word)
  /-- IRQST (R427). A W1C write clears interrupt status bits and re-arms their messages. -/
  | irqst (p : Nat) (val : Word)
  /-- IRQMASK (R427). A write of the mask sends the message of any unmasked source whose status bit is set. -/
  | irqmask (p : Nat) (val : Word)
  /-- IRQ_MODERATION (R427). When MODNS has passed since a ring's previous message, a delayed completion message is sent. -/
  | irqModeration (p ring : Nat)
  /-- VFBIND (R416). A write binds virtual functions to partitions, and is ignored whole when illegal. -/
  | vfbind (val : BitVec 32)
  /-- BAR2_READ (R418). A host read through BAR 2 of device DRAM or a scratchpad, refused outside the grant. -/
  | bar2Read (fn off n : Nat)
  /-- BAR2_WRITE (R418). A host write through BAR 2 of device DRAM or a scratchpad, refused outside the grant. -/
  | bar2Write (fn off : Nat) (data : List Byte)
  /-- FUNCTION_LEVEL_RESET (R419). A function-level reset disables the bound partitions and resets their rings and interrupts. -/
  | functionLevelReset (fn : Nat)
  /-- PARTITION_ENABLE (R354). A write of PCTL.EN = 1 checks the partition block and enables it or reports a STATUS code. -/
  | partitionEnable (p : Nat) (val : Word)
  /-- PARTITION_DISABLE (R376). A write of PCTL.EN = 0 stops pickup and brings the partition's work to an end. -/
  | partitionDisable (p : Nat) (val : Word)
  /-- DISABLE_COMPLETE (R354). Once every bank is empty and the work has ended, pins, control stores and SSCR are cleared and
  STATUS becomes 0. -/
  | disableComplete (p : Nat)
  /-- TRLOST (R354). A read of TRLOST returns the count and clears it. -/
  | trlost (p : Nat)
  /-- FRLOST (R395). A read of FRLOST returns the count and clears it. -/
  | frlost (p : Nat)
  /-- ERLOST (R412). A read of ERLOST returns the count and clears it. -/
  | erlost (p : Nat)
  /-- RSSTAT (R412). A read of RSSTAT returns DROPPED and clears it. -/
  | rsstat (p : Nat)
  /-- HSTAT (R425). A read of HSTAT returns BADACC and clears it: 0 the physical function reads its own, 1 to 8 a virtual function
  that of its block, 16 + p the physical function that of block p. -/
  | hstat (fn : Nat)
  /-- ECNT (R439). A read of a correction counter returns its count and clears it. -/
  | ecnt (i : Nat)
  /-- LBPORT (R428). A read of a port register returns REPLAYS and clears it. -/
  | lbport (i : Nat)
  /-- REGISTER_WRITE (R9). A write to a register with no row of its own sets its RW fields under the access codes. -/
  | registerWrite (fn off : Nat) (val : Word)
  /-- RGCFG_WRITE (R118). A CSR write to RGCFGn waits for the ring's words to complete, then resets HEAD, TAIL and COUNT. -/
  | rgcfgWrite (a : AgentId) (n : Nat) (val : Word)
  /-- TICMD (R388). A host write starts a translation invalidation of an identifier over TIBASE and TILEN. -/
  | ticmd (p : Nat) (val : Word)
  /-- TLB_INVAL_DONE (R387). Once every cache has dropped the entries, the invalidation adds to its counter or to TIDONE. -/
  | tlbInvalDone (op : Nat)
  /-- FORMAT (R414). Provisioning command that erases a unit and sets its index and object regions. -/
  | format (p : Nat)
  /-- CREATE (R414). Provisioning command that claims an index slot from a header image. -/
  | create (p : Nat)
  /-- PUTNODES (R414). Provisioning command that places packed node records. -/
  | putnodes (p : Nat)
  /-- SEAL (R414). Provisioning command that writes the version-0 node maps and makes the index BUILT. -/
  | seal (p : Nat)
  /-- MOUNT (R414). Provisioning command that advances the generation and returns the index handle. -/
  | mount (p : Nat)
  /-- UNMOUNT (R414). Provisioning command that returns a mounted index to BUILT. -/
  | unmount (p : Nat)
  /-- DROP (R414). Provisioning command that frees an index's pages and slot. -/
  | drop (p : Nat)
  /-- MERGE (R414). Provisioning command that starts a merge of an index. -/
  | merge (p : Nat)
  /-- PUTOBJ (R414). Provisioning command that writes an object body and replaces its directory entry. -/
  | putobj (p : Nat)
  /-- DELOBJ (R414). Provisioning command that removes an object's directory entry. -/
  | delobj (p : Nat)
  /-- CLEARBAD (R414). Provisioning command that removes a unit's unreadable marks. -/
  | clearbad (p : Nat)
  /-- SEARCH_ACCEPT (R291). The home unit accepts a search, pinning version V and log position P. -/
  | searchAccept (op : Nat)
  /-- SEARCH_ROUND (R291). Once every expansion of a round has returned, the search trims C and picks the next frontier, or ends. -/
  | searchRound (op : Nat)
  /-- SEARCH_END (R293). The home unit writes the result records and header, then adds to the counter. -/
  | searchEnd (op : Nat)
  /-- FETCH_ACCEPT (R296). A fetch is accepted once queued at every unit holding its objects, fixing each object's count. -/
  | fetchAccept (op : Nat)
  /-- FETCH_OBJECT_END (R297). One object of a fetch ends, writing its slots and block-table entry as its state gives. -/
  | fetchObjectEnd (op i : Nat)
  /-- FETCH_END (R297). Once every object has ended, the status bytes and header are written and the counter added. -/
  | fetchEnd (op : Nat)
  /-- LOG_APPEND (R299). The home unit appends a read batch to the index log as one step, writes POSOUT and adds to the counter. -/
  | logAppend (op : Nat)
  /-- QSNAP_READ (R300). The home unit writes the current version and log position at one step of the index order. -/
  | qsnapRead (op : Nat)
  /-- WALK_RECORD (R304). A walker runs one record and writes its output and BAD count. -/
  | walkRecord (op k : Nat)
  /-- PAGE_READ_ATTEMPT (R409). A flash page read attempt ends, succeeding or leading to a retry or an unreadable mark. -/
  | pageReadAttempt (rd : Nat) (ok : Bool)
  /-- MERGE_START (R404). A merge starts when P - LOGBASE reaches MERGEAT, capturing its merge point. -/
  | mergeStart (slot : Nat)
  /-- MERGE_PUBLISH (R404). A finished merge publishes version V+1 and its log base as one step of the index order. -/
  | mergePublish (slot : Nat)
  /-- UNITFAIL (R410). A retrieval unit enters state FAILED and writes UNITFAIL. -/
  | unitfail (unit : Nat)
  /-- STREAM_STOP (R308). A stack stream stops precisely, writes its stop record and appends the STOP message. -/
  | streamStop (n : Nat)
  /-- STREAM_EXIT (R306). A stack stream ends after its waits and appends the EXIT message. -/
  | streamExit (n : Nat)
  /-- WFE_TIMEOUT (R189). WFE ends after 4,096 clk without the event flag being set. -/
  | wfeTimeout (a : AgentId)
  /-- LABEN_INBOUND_REQUEST (R429). A peer's request is accepted or refused against the inbound window. -/
  | labenInboundRequest (r : PeerReq)
  /-- LABEN_TIMEOUT (R430). A peer request with no answer within LBTMO fails as a forbidding translation. -/
  | labenTimeout (a : AgentId) (performed : Bool)
  /-- LANE_FAIL (R428). A failed lane retrains its port at fewer lanes. -/
  | laneFail (port lanes : Nat)
  /-- POWER_GOOD (R434). Power good starts bring-up at phase 1. -/
  | powerGood
  /-- BRINGUP_PHASE_COMPLETE (R434). A bring-up phase ends, advancing PHASE, setting FAIL, or setting READY. -/
  | bringupPhaseComplete (fail badUnits : BitVec 8)
  /-- RCVIMG (R437). A write supplies a recovery image that is verified and stored before bring-up restarts. -/
  | rcvimg (val : Word) (fn : Nat)
  /-- ATCMD (R443). A write starts an attestation request on a host buffer. -/
  | atcmd (val : Word)
  /-- ATTEST_DONE (R443). The signed attestation report is written and DONE advances. -/
  | attestDone
  /-- LATTOL (R446). A TOLUS write below the current state's exit latency starts an exit. -/
  | lattol (p : Nat) (val : Word)
  /-- POWER_STATE_ENTRY (R445). After HOLDUS of idleness, a cluster or the device enters the deepest power state that its
  tolerance allows. -/
  | powerStateEntry (u : PowerUnit)
  /-- POWER_STATE_EXIT (R446). A trigger starts an exit from a power state, abandoning any entry in progress. -/
  | powerStateExit (u : PowerUnit)
  /-- POWER_EXIT_COMPLETE (R446). The exiting unit reaches A0 within its exit latency. -/
  | powerExitComplete (u : PowerUnit)
  /-- PATROL_SCRUB (R438). The patrol scrub reads each DRAM line once in 24 h and rewrites the corrected lines. -/
  | patrolScrub (line : Nat)
  /-- ILLEGAL_WORD (R132). A fetched word that is no instruction raises ILLOP at routing: 0x0000_0000, op7 0x00, a reserved
  opcode, prefix kinds 5 to 15, stream-group fsel 7, or an encoding with a reserved or unused field not 0. -/
  | illegalWord (w : IWord)
  /-- RSCMD (R412). A host write of RSCMD queues a provisioning command block, or is ignored and counted in RSSTAT.DROPPED when
  PEND is 16. -/
  | rscmd (p : Nat) (val : Word)
  /-- POWER_LOSS (R436). Loss of power stops the device mid-operation, leaving only what R436 and R442 say persists for the next
  bring-up. -/
  | powerLoss
  deriving DecidableEq, Repr

end Sys2Proof
end

