-- ==== Sys2Proof/Decode.lean ====
section
/-! DEFINITION. The decoder, total on any bytes and rejecting by name, and the encoder, both from the encoding tables
R131 to R148, R191, R222, R255 and R287. -/

namespace Sys2Proof

/-- Why a word is no instruction (R132). -/
inductive DecodeError where
  /-- Fewer than four bytes are left. -/
  | short
  /-- An opcode the opcode map marks reserved or illegal (R140 to R142); 0x0000_0000 is op7 0x00. -/
  | reservedOpcode
  /-- A reserved bit or an unused operand field that is not 0, or an unassigned variant (R132, R134, R136). -/
  | reservedField
  /-- A prefix kind from 5 to 15 (R132). -/
  | reservedPrefix
  /-- A prefix whose stop bit is 1 (R150). -/
  | prefixStop
  deriving DecidableEq, Repr

/-- The words of engine field 0 (R134, R140): the row its opcode names, if every reserved and unused bit is 0. -/
def decodeControl (w : Nat) : Except DecodeError Instr :=
  match bits w 27 21 with
  | 1 => if bits w 20 0 = 0 then .ok (.nop (bit w 28)) else .error .reservedField
  | 2 => if bits w 5 0 = 0 then .ok (.add (bit w 28) (.ofNat 5 (bits w 20 16)) (.ofNat 5 (bits w 15 11)) (.ofNat 5 (bits w 10 6))) else .error .reservedField
  | 3 => if bits w 5 0 = 0 then .ok (.sub (bit w 28) (.ofNat 5 (bits w 20 16)) (.ofNat 5 (bits w 15 11)) (.ofNat 5 (bits w 10 6))) else .error .reservedField
  | 4 => if bits w 5 0 = 0 then .ok (.and (bit w 28) (.ofNat 5 (bits w 20 16)) (.ofNat 5 (bits w 15 11)) (.ofNat 5 (bits w 10 6))) else .error .reservedField
  | 5 => if bits w 5 0 = 0 then .ok (.or (bit w 28) (.ofNat 5 (bits w 20 16)) (.ofNat 5 (bits w 15 11)) (.ofNat 5 (bits w 10 6))) else .error .reservedField
  | 6 => if bits w 5 0 = 0 then .ok (.xor (bit w 28) (.ofNat 5 (bits w 20 16)) (.ofNat 5 (bits w 15 11)) (.ofNat 5 (bits w 10 6))) else .error .reservedField
  | 7 => if bits w 5 0 = 0 then .ok (.andn (bit w 28) (.ofNat 5 (bits w 20 16)) (.ofNat 5 (bits w 15 11)) (.ofNat 5 (bits w 10 6))) else .error .reservedField
  | 8 => if bits w 5 0 = 0 then .ok (.shl (bit w 28) (.ofNat 5 (bits w 20 16)) (.ofNat 5 (bits w 15 11)) (.ofNat 5 (bits w 10 6))) else .error .reservedField
  | 9 => if bits w 5 0 = 0 then .ok (.shr (bit w 28) (.ofNat 5 (bits w 20 16)) (.ofNat 5 (bits w 15 11)) (.ofNat 5 (bits w 10 6))) else .error .reservedField
  | 10 => if bits w 5 0 = 0 then .ok (.shra (bit w 28) (.ofNat 5 (bits w 20 16)) (.ofNat 5 (bits w 15 11)) (.ofNat 5 (bits w 10 6))) else .error .reservedField
  | 11 => if bits w 5 0 = 0 then .ok (.rotr (bit w 28) (.ofNat 5 (bits w 20 16)) (.ofNat 5 (bits w 15 11)) (.ofNat 5 (bits w 10 6))) else .error .reservedField
  | 12 => if bits w 5 0 = 0 then .ok (.mul (bit w 28) (.ofNat 5 (bits w 20 16)) (.ofNat 5 (bits w 15 11)) (.ofNat 5 (bits w 10 6))) else .error .reservedField
  | 13 => if bits w 5 0 = 0 then .ok (.mulhs (bit w 28) (.ofNat 5 (bits w 20 16)) (.ofNat 5 (bits w 15 11)) (.ofNat 5 (bits w 10 6))) else .error .reservedField
  | 14 => if bits w 5 0 = 0 then .ok (.mulhu (bit w 28) (.ofNat 5 (bits w 20 16)) (.ofNat 5 (bits w 15 11)) (.ofNat 5 (bits w 10 6))) else .error .reservedField
  | 15 => if bits w 5 0 = 0 then .ok (.div (bit w 28) (.ofNat 5 (bits w 20 16)) (.ofNat 5 (bits w 15 11)) (.ofNat 5 (bits w 10 6))) else .error .reservedField
  | 16 => if bits w 5 0 = 0 then .ok (.divu (bit w 28) (.ofNat 5 (bits w 20 16)) (.ofNat 5 (bits w 15 11)) (.ofNat 5 (bits w 10 6))) else .error .reservedField
  | 17 => if bits w 5 0 = 0 then .ok (.rem (bit w 28) (.ofNat 5 (bits w 20 16)) (.ofNat 5 (bits w 15 11)) (.ofNat 5 (bits w 10 6))) else .error .reservedField
  | 18 => if bits w 5 0 = 0 then .ok (.remu (bit w 28) (.ofNat 5 (bits w 20 16)) (.ofNat 5 (bits w 15 11)) (.ofNat 5 (bits w 10 6))) else .error .reservedField
  | 19 => if bits w 5 0 = 0 then .ok (.min (bit w 28) (.ofNat 5 (bits w 20 16)) (.ofNat 5 (bits w 15 11)) (.ofNat 5 (bits w 10 6))) else .error .reservedField
  | 20 => if bits w 5 0 = 0 then .ok (.max (bit w 28) (.ofNat 5 (bits w 20 16)) (.ofNat 5 (bits w 15 11)) (.ofNat 5 (bits w 10 6))) else .error .reservedField
  | 21 => if bits w 5 0 = 0 then .ok (.minu (bit w 28) (.ofNat 5 (bits w 20 16)) (.ofNat 5 (bits w 15 11)) (.ofNat 5 (bits w 10 6))) else .error .reservedField
  | 22 => if bits w 5 0 = 0 then .ok (.maxu (bit w 28) (.ofNat 5 (bits w 20 16)) (.ofNat 5 (bits w 15 11)) (.ofNat 5 (bits w 10 6))) else .error .reservedField
  | 23 => if bits w 5 0 = 0 then .ok (.slt (bit w 28) (.ofNat 5 (bits w 20 16)) (.ofNat 5 (bits w 15 11)) (.ofNat 5 (bits w 10 6))) else .error .reservedField
  | 24 => if bits w 5 0 = 0 then .ok (.sltu (bit w 28) (.ofNat 5 (bits w 20 16)) (.ofNat 5 (bits w 15 11)) (.ofNat 5 (bits w 10 6))) else .error .reservedField
  | 25 => if bits w 5 0 = 0 then .ok (.seq (bit w 28) (.ofNat 5 (bits w 20 16)) (.ofNat 5 (bits w 15 11)) (.ofNat 5 (bits w 10 6))) else .error .reservedField
  | 26 => if bits w 10 0 = 0 then .ok (.clz (bit w 28) (.ofNat 5 (bits w 20 16)) (.ofNat 5 (bits w 15 11))) else .error .reservedField
  | 27 => if bits w 10 0 = 0 then .ok (.ctz (bit w 28) (.ofNat 5 (bits w 20 16)) (.ofNat 5 (bits w 15 11))) else .error .reservedField
  | 28 => if bits w 10 0 = 0 then .ok (.popc (bit w 28) (.ofNat 5 (bits w 20 16)) (.ofNat 5 (bits w 15 11))) else .error .reservedField
  | 29 => if bits w 10 0 = 0 then .ok (.brev (bit w 28) (.ofNat 5 (bits w 20 16)) (.ofNat 5 (bits w 15 11))) else .error .reservedField
  | 30 => if bits w 10 6 = 0 then .ok (.sext (bit w 28) (.ofNat 5 (bits w 20 16)) (.ofNat 5 (bits w 15 11)) (.ofNat 6 (bits w 5 0))) else .error .reservedField
  | 31 => if bits w 10 6 = 0 then .ok (.zext (bit w 28) (.ofNat 5 (bits w 20 16)) (.ofNat 5 (bits w 15 11)) (.ofNat 6 (bits w 5 0))) else .error .reservedField
  | 32 => .ok (.addi (bit w 28) (.ofNat 5 (bits w 20 16)) (.ofNat 5 (bits w 15 11)) (.ofNat 11 (bits w 10 0)))
  | 33 => .ok (.andi (bit w 28) (.ofNat 5 (bits w 20 16)) (.ofNat 5 (bits w 15 11)) (.ofNat 11 (bits w 10 0)))
  | 34 => .ok (.ori (bit w 28) (.ofNat 5 (bits w 20 16)) (.ofNat 5 (bits w 15 11)) (.ofNat 11 (bits w 10 0)))
  | 35 => .ok (.xori (bit w 28) (.ofNat 5 (bits w 20 16)) (.ofNat 5 (bits w 15 11)) (.ofNat 11 (bits w 10 0)))
  | 36 => if bits w 10 6 = 0 then .ok (.shli (bit w 28) (.ofNat 5 (bits w 20 16)) (.ofNat 5 (bits w 15 11)) (.ofNat 6 (bits w 5 0))) else .error .reservedField
  | 37 => if bits w 10 6 = 0 then .ok (.shri (bit w 28) (.ofNat 5 (bits w 20 16)) (.ofNat 5 (bits w 15 11)) (.ofNat 6 (bits w 5 0))) else .error .reservedField
  | 38 => if bits w 10 6 = 0 then .ok (.shrai (bit w 28) (.ofNat 5 (bits w 20 16)) (.ofNat 5 (bits w 15 11)) (.ofNat 6 (bits w 5 0))) else .error .reservedField
  | 39 => .ok (.slti (bit w 28) (.ofNat 5 (bits w 20 16)) (.ofNat 5 (bits w 15 11)) (.ofNat 11 (bits w 10 0)))
  | 40 => .ok (.sltui (bit w 28) (.ofNat 5 (bits w 20 16)) (.ofNat 5 (bits w 15 11)) (.ofNat 11 (bits w 10 0)))
  | 41 => .ok (.seqi (bit w 28) (.ofNat 5 (bits w 20 16)) (.ofNat 5 (bits w 15 11)) (.ofNat 11 (bits w 10 0)))
  | 42 => .ok (.lui (bit w 28) (.ofNat 5 (bits w 20 16)) (.ofNat 16 (bits w 15 0)))
  | 43 => .ok (.auipc (bit w 28) (.ofNat 5 (bits w 20 16)) (.ofNat 16 (bits w 15 0)))
  | 48 => .ok (.ldb (bit w 28) (.ofNat 5 (bits w 20 16)) (.ofNat 5 (bits w 15 11)) (.ofNat 11 (bits w 10 0)))
  | 49 => .ok (.ldbu (bit w 28) (.ofNat 5 (bits w 20 16)) (.ofNat 5 (bits w 15 11)) (.ofNat 11 (bits w 10 0)))
  | 50 => .ok (.ldh (bit w 28) (.ofNat 5 (bits w 20 16)) (.ofNat 5 (bits w 15 11)) (.ofNat 11 (bits w 10 0)))
  | 51 => .ok (.ldhu (bit w 28) (.ofNat 5 (bits w 20 16)) (.ofNat 5 (bits w 15 11)) (.ofNat 11 (bits w 10 0)))
  | 52 => .ok (.ldw (bit w 28) (.ofNat 5 (bits w 20 16)) (.ofNat 5 (bits w 15 11)) (.ofNat 11 (bits w 10 0)))
  | 53 => .ok (.ldwu (bit w 28) (.ofNat 5 (bits w 20 16)) (.ofNat 5 (bits w 15 11)) (.ofNat 11 (bits w 10 0)))
  | 54 => .ok (.ldd (bit w 28) (.ofNat 5 (bits w 20 16)) (.ofNat 5 (bits w 15 11)) (.ofNat 11 (bits w 10 0)))
  | 55 => .ok (.stb (bit w 28) (.ofNat 5 (bits w 20 16)) (.ofNat 5 (bits w 15 11)) (.ofNat 11 (bits w 10 0)))
  | 56 => .ok (.sth (bit w 28) (.ofNat 5 (bits w 20 16)) (.ofNat 5 (bits w 15 11)) (.ofNat 11 (bits w 10 0)))
  | 57 => .ok (.stw (bit w 28) (.ofNat 5 (bits w 20 16)) (.ofNat 5 (bits w 15 11)) (.ofNat 11 (bits w 10 0)))
  | 58 => .ok (.std (bit w 28) (.ofNat 5 (bits w 20 16)) (.ofNat 5 (bits w 15 11)) (.ofNat 11 (bits w 10 0)))
  | 59 => .ok (.amo (bit w 28) (.ofNat 5 (bits w 20 16)) (.ofNat 5 (bits w 15 11)) (.ofNat 5 (bits w 10 6)) (.ofNat 3 (bits w 5 3)) (.ofNat 3 (bits w 2 0)))
  | 60 => .ok (.amoa (bit w 28) (.ofNat 5 (bits w 20 16)) (.ofNat 5 (bits w 15 11)) (.ofNat 5 (bits w 10 6)) (.ofNat 3 (bits w 5 3)) (.ofNat 3 (bits w 2 0)))
  | 61 => .ok (.amor (bit w 28) (.ofNat 5 (bits w 20 16)) (.ofNat 5 (bits w 15 11)) (.ofNat 5 (bits w 10 6)) (.ofNat 3 (bits w 5 3)) (.ofNat 3 (bits w 2 0)))
  | 62 => .ok (.amoar (bit w 28) (.ofNat 5 (bits w 20 16)) (.ofNat 5 (bits w 15 11)) (.ofNat 5 (bits w 10 6)) (.ofNat 3 (bits w 5 3)) (.ofNat 3 (bits w 2 0)))
  | 63 => .ok (.amop (bit w 28) (.ofNat 5 (bits w 20 16)) (.ofNat 5 (bits w 15 11)) (.ofNat 5 (bits w 10 6)) (.ofNat 3 (bits w 5 3)) (.ofNat 3 (bits w 2 0)))
  | 64 => .ok (.cas (bit w 28) (.ofNat 5 (bits w 20 16)) (.ofNat 5 (bits w 15 11)) (.ofNat 5 (bits w 10 6)) (.ofNat 3 (bits w 5 3)) (.ofNat 3 (bits w 2 0)))
  | 65 => if bits w 20 10 = 0 then .ok (.fence (bit w 28) (bit w 9) (.ofNat 3 (bits w 8 6)) (.ofNat 6 (bits w 5 0))) else .error .reservedField
  | 66 => .ok (.prefl (bit w 28) (.ofNat 5 (bits w 20 16)) (.ofNat 5 (bits w 15 11)) (.ofNat 11 (bits w 10 0)))
  | 72 => .ok (.beq (bit w 28) (.ofNat 5 (bits w 20 16)) (.ofNat 5 (bits w 15 11)) (.ofNat 11 (bits w 10 0)))
  | 73 => .ok (.bne (bit w 28) (.ofNat 5 (bits w 20 16)) (.ofNat 5 (bits w 15 11)) (.ofNat 11 (bits w 10 0)))
  | 74 => .ok (.blt (bit w 28) (.ofNat 5 (bits w 20 16)) (.ofNat 5 (bits w 15 11)) (.ofNat 11 (bits w 10 0)))
  | 75 => .ok (.bge (bit w 28) (.ofNat 5 (bits w 20 16)) (.ofNat 5 (bits w 15 11)) (.ofNat 11 (bits w 10 0)))
  | 76 => .ok (.bltu (bit w 28) (.ofNat 5 (bits w 20 16)) (.ofNat 5 (bits w 15 11)) (.ofNat 11 (bits w 10 0)))
  | 77 => .ok (.bgeu (bit w 28) (.ofNat 5 (bits w 20 16)) (.ofNat 5 (bits w 15 11)) (.ofNat 11 (bits w 10 0)))
  | 78 => .ok (.jal (bit w 28) (.ofNat 5 (bits w 20 16)) (.ofNat 16 (bits w 15 0)))
  | 79 => .ok (.jalr (bit w 28) (.ofNat 5 (bits w 20 16)) (.ofNat 5 (bits w 15 11)) (.ofNat 11 (bits w 10 0)))
  | 80 => if bits w 20 0 = 0 then .ok (.yield (bit w 28)) else .error .reservedField
  | 81 => if bits w 20 0 = 0 then .ok (.exit (bit w 28)) else .error .reservedField
  | 82 => if bits w 20 16 = 0 then .ok (.spawn (bit w 28) (.ofNat 5 (bits w 15 11)) (.ofNat 11 (bits w 10 0))) else .error .reservedField
  | 83 => if bits w 20 16 = 0 then .ok (.cont (bit w 28) (.ofNat 5 (bits w 15 11)) (.ofNat 11 (bits w 10 0))) else .error .reservedField
  | 84 =>
    if bits w 5 0 = 32 ∧ bits w 20 16 = 0 then .ok (.waitgeLocal (bit w 28) (.ofNat 5 (bits w 15 11)) (.ofNat 5 (bits w 10 6))) else
    if bits w 5 3 = 0 ∧ bits w 20 16 = 0 then .ok (.waitge (bit w 28) (.ofNat 5 (bits w 15 11)) (.ofNat 5 (bits w 10 6)) (.ofNat 3 (bits w 2 0))) else
    .error .reservedField
  | 85 =>
    if bits w 5 0 = 32 ∧ bits w 20 16 = 0 then .ok (.signalLocal (bit w 28) (.ofNat 5 (bits w 15 11)) (.ofNat 5 (bits w 10 6))) else
    if bits w 5 3 = 0 ∧ bits w 20 16 = 0 then .ok (.signal (bit w 28) (.ofNat 5 (bits w 15 11)) (.ofNat 5 (bits w 10 6)) (.ofNat 3 (bits w 2 0))) else
    .error .reservedField
  | 86 => if bits w 15 0 = 0 then .ok (.popr (bit w 28) (.ofNat 5 (bits w 20 16))) else .error .reservedField
  | 87 => if bits w 15 0 = 0 then .ok (.peekr (bit w 28) (.ofNat 5 (bits w 20 16))) else .error .reservedField
  | 88 => if bits w 5 5 = 0 then .ok (.fork (bit w 28) (.ofNat 5 (bits w 20 16)) (.ofNat 5 (bits w 15 11)) (.ofNat 5 (bits w 10 6)) (.ofNat 3 (bits w 4 2)) (.ofNat 2 (bits w 1 0))) else .error .reservedField
  | 89 => if bits w 5 0 = 0 ∧ bits w 20 16 = 0 then .ok (.msend (bit w 28) (.ofNat 5 (bits w 15 11)) (.ofNat 5 (bits w 10 6))) else .error .reservedField
  | 90 => if bits w 10 0 = 0 then .ok (.mrecv (bit w 28) (.ofNat 5 (bits w 20 16)) (.ofNat 5 (bits w 15 11))) else .error .reservedField
  | 91 => .ok (.nest (bit w 28) (.ofNat 5 (bits w 20 16)) (.ofNat 5 (bits w 15 11)) (.ofNat 11 (bits w 10 0)))
  | 92 => if bits w 10 5 = 0 then .ok (.cstore (bit w 28) (.ofNat 5 (bits w 20 16)) (.ofNat 5 (bits w 15 11)) (.ofNat 5 (bits w 4 0))) else .error .reservedField
  | 93 => if bits w 20 16 = 0 then .ok (.l2pin (bit w 28) (.ofNat 5 (bits w 15 11)) (.ofNat 5 (bits w 10 6)) (.ofNat 4 (bits w 5 2)) (.ofNat 2 (bits w 1 0))) else .error .reservedField
  | 94 => if bits w 1 0 = 0 ∧ bits w 20 6 = 0 then .ok (.l2unpin (bit w 28) (.ofNat 4 (bits w 5 2))) else .error .reservedField
  | 96 => if bits w 15 11 = 0 then .ok (.csrr (bit w 28) (.ofNat 5 (bits w 20 16)) (.ofNat 11 (bits w 10 0))) else .error .reservedField
  | 97 => .ok (.csrw (bit w 28) (.ofNat 5 (bits w 20 16)) (.ofNat 5 (bits w 15 11)) (.ofNat 11 (bits w 10 0)))
  | 98 => .ok (.csrs (bit w 28) (.ofNat 5 (bits w 20 16)) (.ofNat 5 (bits w 15 11)) (.ofNat 11 (bits w 10 0)))
  | 99 => .ok (.csrc (bit w 28) (.ofNat 5 (bits w 20 16)) (.ofNat 5 (bits w 15 11)) (.ofNat 11 (bits w 10 0)))
  | 100 => if bits w 20 11 = 0 then .ok (.ecall (bit w 28) (.ofNat 11 (bits w 10 0))) else .error .reservedField
  | 101 => if bits w 20 11 = 0 then .ok (.ebreak (bit w 28) (.ofNat 11 (bits w 10 0))) else .error .reservedField
  | 102 => if bits w 20 0 = 0 then .ok (.eret (bit w 28)) else .error .reservedField
  | 103 => if bits w 20 0 = 0 then .ok (.wfe (bit w 28)) else .error .reservedField
  | 104 => if bits w 5 4 = 0 then .ok (.tlbinv (bit w 28) (.ofNat 5 (bits w 20 16)) (.ofNat 5 (bits w 15 11)) (.ofNat 5 (bits w 10 6)) (.ofNat 4 (bits w 3 0))) else .error .reservedField
  | 105 => if bits w 20 0 = 0 then .ok (.sev (bit w 28)) else .error .reservedField
  | _ => .error .reservedOpcode

/-- The words of engine field 1 (R141, R191): the row its opcode names, if every reserved and unused bit is 0. -/
def decodeVector (w : Nat) : Except DecodeError Instr :=
  match bits w 23 18 with
  | 0 => .ok (.vadd (bit w 28) (.ofNat 4 (bits w 27 24)) (.ofNat 3 (bits w 17 15)) (.ofNat 5 (bits w 14 10)) (.ofNat 5 (bits w 9 5)) (.ofNat 5 (bits w 4 0)))
  | 1 => .ok (.vsub (bit w 28) (.ofNat 4 (bits w 27 24)) (.ofNat 3 (bits w 17 15)) (.ofNat 5 (bits w 14 10)) (.ofNat 5 (bits w 9 5)) (.ofNat 5 (bits w 4 0)))
  | 2 => .ok (.vaddsat (bit w 28) (.ofNat 4 (bits w 27 24)) (.ofNat 3 (bits w 17 15)) (.ofNat 5 (bits w 14 10)) (.ofNat 5 (bits w 9 5)) (.ofNat 5 (bits w 4 0)))
  | 3 => .ok (.vsubsat (bit w 28) (.ofNat 4 (bits w 27 24)) (.ofNat 3 (bits w 17 15)) (.ofNat 5 (bits w 14 10)) (.ofNat 5 (bits w 9 5)) (.ofNat 5 (bits w 4 0)))
  | 4 => .ok (.vavg (bit w 28) (.ofNat 4 (bits w 27 24)) (.ofNat 3 (bits w 17 15)) (.ofNat 5 (bits w 14 10)) (.ofNat 5 (bits w 9 5)) (.ofNat 5 (bits w 4 0)))
  | 5 => .ok (.vmul (bit w 28) (.ofNat 4 (bits w 27 24)) (.ofNat 3 (bits w 17 15)) (.ofNat 5 (bits w 14 10)) (.ofNat 5 (bits w 9 5)) (.ofNat 5 (bits w 4 0)))
  | 6 => .ok (.vmulhi (bit w 28) (.ofNat 4 (bits w 27 24)) (.ofNat 3 (bits w 17 15)) (.ofNat 5 (bits w 14 10)) (.ofNat 5 (bits w 9 5)) (.ofNat 5 (bits w 4 0)))
  | 7 => .ok (.vmac (bit w 28) (.ofNat 4 (bits w 27 24)) (.ofNat 3 (bits w 17 15)) (.ofNat 5 (bits w 14 10)) (.ofNat 5 (bits w 9 5)) (.ofNat 5 (bits w 4 0)))
  | 8 => .ok (.vmin (bit w 28) (.ofNat 4 (bits w 27 24)) (.ofNat 3 (bits w 17 15)) (.ofNat 5 (bits w 14 10)) (.ofNat 5 (bits w 9 5)) (.ofNat 5 (bits w 4 0)))
  | 9 => .ok (.vmax (bit w 28) (.ofNat 4 (bits w 27 24)) (.ofNat 3 (bits w 17 15)) (.ofNat 5 (bits w 14 10)) (.ofNat 5 (bits w 9 5)) (.ofNat 5 (bits w 4 0)))
  | 10 => if bits w 4 0 = 0 then .ok (.vabs (bit w 28) (.ofNat 4 (bits w 27 24)) (.ofNat 3 (bits w 17 15)) (.ofNat 5 (bits w 14 10)) (.ofNat 5 (bits w 9 5))) else .error .reservedField
  | 11 => .ok (.vand (bit w 28) (.ofNat 4 (bits w 27 24)) (.ofNat 3 (bits w 17 15)) (.ofNat 5 (bits w 14 10)) (.ofNat 5 (bits w 9 5)) (.ofNat 5 (bits w 4 0)))
  | 12 => .ok (.vor (bit w 28) (.ofNat 4 (bits w 27 24)) (.ofNat 3 (bits w 17 15)) (.ofNat 5 (bits w 14 10)) (.ofNat 5 (bits w 9 5)) (.ofNat 5 (bits w 4 0)))
  | 13 => .ok (.vxor (bit w 28) (.ofNat 4 (bits w 27 24)) (.ofNat 3 (bits w 17 15)) (.ofNat 5 (bits w 14 10)) (.ofNat 5 (bits w 9 5)) (.ofNat 5 (bits w 4 0)))
  | 14 => .ok (.vshl (bit w 28) (.ofNat 4 (bits w 27 24)) (.ofNat 3 (bits w 17 15)) (.ofNat 5 (bits w 14 10)) (.ofNat 5 (bits w 9 5)) (.ofNat 5 (bits w 4 0)))
  | 15 => .ok (.vshr (bit w 28) (.ofNat 4 (bits w 27 24)) (.ofNat 3 (bits w 17 15)) (.ofNat 5 (bits w 14 10)) (.ofNat 5 (bits w 9 5)) (.ofNat 5 (bits w 4 0)))
  | 16 => .ok (.vfadd (bit w 28) (.ofNat 4 (bits w 27 24)) (.ofNat 3 (bits w 17 15)) (.ofNat 5 (bits w 14 10)) (.ofNat 5 (bits w 9 5)) (.ofNat 5 (bits w 4 0)))
  | 17 => .ok (.vfsub (bit w 28) (.ofNat 4 (bits w 27 24)) (.ofNat 3 (bits w 17 15)) (.ofNat 5 (bits w 14 10)) (.ofNat 5 (bits w 9 5)) (.ofNat 5 (bits w 4 0)))
  | 18 => .ok (.vfmul (bit w 28) (.ofNat 4 (bits w 27 24)) (.ofNat 3 (bits w 17 15)) (.ofNat 5 (bits w 14 10)) (.ofNat 5 (bits w 9 5)) (.ofNat 5 (bits w 4 0)))
  | 19 => .ok (.vfma (bit w 28) (.ofNat 4 (bits w 27 24)) (.ofNat 3 (bits w 17 15)) (.ofNat 5 (bits w 14 10)) (.ofNat 5 (bits w 9 5)) (.ofNat 5 (bits w 4 0)))
  | 20 => .ok (.vfms (bit w 28) (.ofNat 4 (bits w 27 24)) (.ofNat 3 (bits w 17 15)) (.ofNat 5 (bits w 14 10)) (.ofNat 5 (bits w 9 5)) (.ofNat 5 (bits w 4 0)))
  | 21 => .ok (.vfmin (bit w 28) (.ofNat 4 (bits w 27 24)) (.ofNat 3 (bits w 17 15)) (.ofNat 5 (bits w 14 10)) (.ofNat 5 (bits w 9 5)) (.ofNat 5 (bits w 4 0)))
  | 22 => .ok (.vfmax (bit w 28) (.ofNat 4 (bits w 27 24)) (.ofNat 3 (bits w 17 15)) (.ofNat 5 (bits w 14 10)) (.ofNat 5 (bits w 9 5)) (.ofNat 5 (bits w 4 0)))
  | 23 => if bits w 4 0 = 0 then .ok (.vfabs (bit w 28) (.ofNat 4 (bits w 27 24)) (.ofNat 3 (bits w 17 15)) (.ofNat 5 (bits w 14 10)) (.ofNat 5 (bits w 9 5))) else .error .reservedField
  | 24 => if bits w 4 0 = 0 then .ok (.vfneg (bit w 28) (.ofNat 4 (bits w 27 24)) (.ofNat 3 (bits w 17 15)) (.ofNat 5 (bits w 14 10)) (.ofNat 5 (bits w 9 5))) else .error .reservedField
  | 25 => if bits w 4 0 = 0 then .ok (.vcvt (bit w 28) (.ofNat 4 (bits w 27 24)) (.ofNat 3 (bits w 17 15)) (.ofNat 5 (bits w 14 10)) (.ofNat 5 (bits w 9 5))) else .error .reservedField
  | 26 => if bits w 4 0 = 0 then .ok (.vwiden (bit w 28) (.ofNat 4 (bits w 27 24)) (.ofNat 3 (bits w 17 15)) (.ofNat 5 (bits w 14 10)) (.ofNat 5 (bits w 9 5))) else .error .reservedField
  | 27 => if bits w 4 0 = 0 then .ok (.vnarrow (bit w 28) (.ofNat 4 (bits w 27 24)) (.ofNat 3 (bits w 17 15)) (.ofNat 5 (bits w 14 10)) (.ofNat 5 (bits w 9 5))) else .error .reservedField
  | 28 => .ok (.vwmul (bit w 28) (.ofNat 4 (bits w 27 24)) (.ofNat 3 (bits w 17 15)) (.ofNat 5 (bits w 14 10)) (.ofNat 5 (bits w 9 5)) (.ofNat 5 (bits w 4 0)))
  | 29 => .ok (.vwmac (bit w 28) (.ofNat 4 (bits w 27 24)) (.ofNat 3 (bits w 17 15)) (.ofNat 5 (bits w 14 10)) (.ofNat 5 (bits w 9 5)) (.ofNat 5 (bits w 4 0)))
  | 30 => if bits w 9 7 = 0 ∧ bits w 17 17 = 0 then .ok (.vaccrd (bit w 28) (.ofNat 4 (bits w 27 24)) (.ofNat 2 (bits w 16 15)) (.ofNat 5 (bits w 14 10)) (.ofNat 2 (bits w 6 5)) (.ofNat 5 (bits w 4 0))) else .error .reservedField
  | 31 => if bits w 9 7 = 0 ∧ bits w 17 17 = 0 then .ok (.vaccwr (bit w 28) (.ofNat 4 (bits w 27 24)) (.ofNat 2 (bits w 16 15)) (.ofNat 5 (bits w 14 10)) (.ofNat 2 (bits w 6 5)) (.ofNat 5 (bits w 4 0))) else .error .reservedField
  | 32 => .ok (.vcmpeq (bit w 28) (.ofNat 4 (bits w 27 24)) (.ofNat 3 (bits w 17 15)) (.ofNat 5 (bits w 14 10)) (.ofNat 5 (bits w 9 5)) (.ofNat 5 (bits w 4 0)))
  | 33 => .ok (.vcmpne (bit w 28) (.ofNat 4 (bits w 27 24)) (.ofNat 3 (bits w 17 15)) (.ofNat 5 (bits w 14 10)) (.ofNat 5 (bits w 9 5)) (.ofNat 5 (bits w 4 0)))
  | 34 => .ok (.vcmplt (bit w 28) (.ofNat 4 (bits w 27 24)) (.ofNat 3 (bits w 17 15)) (.ofNat 5 (bits w 14 10)) (.ofNat 5 (bits w 9 5)) (.ofNat 5 (bits w 4 0)))
  | 35 => .ok (.vcmple (bit w 28) (.ofNat 4 (bits w 27 24)) (.ofNat 3 (bits w 17 15)) (.ofNat 5 (bits w 14 10)) (.ofNat 5 (bits w 9 5)) (.ofNat 5 (bits w 4 0)))
  | 36 => .ok (.vsel (bit w 28) (.ofNat 4 (bits w 27 24)) (.ofNat 3 (bits w 17 15)) (.ofNat 5 (bits w 14 10)) (.ofNat 5 (bits w 9 5)) (.ofNat 5 (bits w 4 0)))
  | 37 => .ok (.vmlogic (bit w 28) (.ofNat 4 (bits w 27 24)) (.ofNat 3 (bits w 17 15)) (.ofNat 5 (bits w 14 10)) (.ofNat 5 (bits w 9 5)) (.ofNat 5 (bits w 4 0)))
  | 38 => if bits w 4 0 = 0 ∧ bits w 14 10 = 0 then .ok (.vmpopc (bit w 28) (.ofNat 4 (bits w 27 24)) (.ofNat 3 (bits w 17 15)) (.ofNat 5 (bits w 9 5))) else .error .reservedField
  | 39 => if bits w 4 0 = 0 ∧ bits w 14 10 = 0 then .ok (.vmfirst (bit w 28) (.ofNat 4 (bits w 27 24)) (.ofNat 3 (bits w 17 15)) (.ofNat 5 (bits w 9 5))) else .error .reservedField
  | 40 => .ok (.vperm (bit w 28) (.ofNat 4 (bits w 27 24)) (.ofNat 3 (bits w 17 15)) (.ofNat 5 (bits w 14 10)) (.ofNat 5 (bits w 9 5)) (.ofNat 5 (bits w 4 0)))
  | 41 => if bits w 9 5 = 0 then .ok (.vbcast (bit w 28) (.ofNat 4 (bits w 27 24)) (.ofNat 3 (bits w 17 15)) (.ofNat 5 (bits w 14 10)) (.ofNat 5 (bits w 4 0))) else .error .reservedField
  | 42 => if bits w 4 0 = 0 then .ok (.viota (bit w 28) (.ofNat 4 (bits w 27 24)) (.ofNat 3 (bits w 17 15)) (.ofNat 5 (bits w 14 10)) (.ofNat 5 (bits w 9 5))) else .error .reservedField
  | 43 => if bits w 4 0 = 0 then .ok (.vredsum (bit w 28) (.ofNat 4 (bits w 27 24)) (.ofNat 3 (bits w 17 15)) (.ofNat 5 (bits w 14 10)) (.ofNat 5 (bits w 9 5))) else .error .reservedField
  | 44 => if bits w 4 0 = 0 then .ok (.vredmin (bit w 28) (.ofNat 4 (bits w 27 24)) (.ofNat 3 (bits w 17 15)) (.ofNat 5 (bits w 14 10)) (.ofNat 5 (bits w 9 5))) else .error .reservedField
  | 45 => if bits w 4 0 = 0 then .ok (.vredmax (bit w 28) (.ofNat 4 (bits w 27 24)) (.ofNat 3 (bits w 17 15)) (.ofNat 5 (bits w 14 10)) (.ofNat 5 (bits w 9 5))) else .error .reservedField
  | 46 => if bits w 4 0 = 0 ∧ bits w 14 10 = 0 then .ok (.vargmin (bit w 28) (.ofNat 4 (bits w 27 24)) (.ofNat 3 (bits w 17 15)) (.ofNat 5 (bits w 9 5))) else .error .reservedField
  | 47 => .ok (.vslide (bit w 28) (.ofNat 4 (bits w 27 24)) (.ofNat 3 (bits w 17 15)) (.ofNat 5 (bits w 14 10)) (.ofNat 5 (bits w 9 5)) (.ofNat 5 (bits w 4 0)))
  | 48 => if bits w 4 0 = 0 then .ok (.vtopn (bit w 28) (.ofNat 4 (bits w 27 24)) (.ofNat 3 (bits w 17 15)) (.ofNat 5 (bits w 14 10)) (.ofNat 5 (bits w 9 5))) else .error .reservedField
  | 49 => .ok (.vspread (bit w 28) (.ofNat 4 (bits w 27 24)) (.ofNat 3 (bits w 17 15)) (.ofNat 5 (bits w 14 10)) (.ofNat 5 (bits w 9 5)) (.ofNat 5 (bits w 4 0)))
  | 50 => .ok (.vpack (bit w 28) (.ofNat 4 (bits w 27 24)) (.ofNat 3 (bits w 17 15)) (.ofNat 5 (bits w 14 10)) (.ofNat 5 (bits w 9 5)) (.ofNat 5 (bits w 4 0)))
  | 51 => .ok (.vunpack (bit w 28) (.ofNat 4 (bits w 27 24)) (.ofNat 3 (bits w 17 15)) (.ofNat 5 (bits w 14 10)) (.ofNat 5 (bits w 9 5)) (.ofNat 5 (bits w 4 0)))
  | 52 => .ok (.vhash (bit w 28) (.ofNat 4 (bits w 27 24)) (.ofNat 3 (bits w 17 15)) (.ofNat 5 (bits w 14 10)) (.ofNat 5 (bits w 9 5)) (.ofNat 5 (bits w 4 0)))
  | 53 => if bits w 4 0 = 0 then .ok (.vpopcnt (bit w 28) (.ofNat 4 (bits w 27 24)) (.ofNat 3 (bits w 17 15)) (.ofNat 5 (bits w 14 10)) (.ofNat 5 (bits w 9 5))) else .error .reservedField
  | 54 => .ok (.vxorpc (bit w 28) (.ofNat 4 (bits w 27 24)) (.ofNat 3 (bits w 17 15)) (.ofNat 5 (bits w 14 10)) (.ofNat 5 (bits w 9 5)) (.ofNat 5 (bits w 4 0)))
  | 55 => .ok (.vlut (bit w 28) (.ofNat 4 (bits w 27 24)) (.ofNat 3 (bits w 17 15)) (.ofNat 5 (bits w 14 10)) (.ofNat 5 (bits w 9 5)) (.ofNat 5 (bits w 4 0)))
  | 56 => if bits w 4 0 = 0 then .ok (.vrcp (bit w 28) (.ofNat 4 (bits w 27 24)) (.ofNat 3 (bits w 17 15)) (.ofNat 5 (bits w 14 10)) (.ofNat 5 (bits w 9 5))) else .error .reservedField
  | 57 => if bits w 4 0 = 0 then .ok (.vrsq (bit w 28) (.ofNat 4 (bits w 27 24)) (.ofNat 3 (bits w 17 15)) (.ofNat 5 (bits w 14 10)) (.ofNat 5 (bits w 9 5))) else .error .reservedField
  | 58 => .ok (.vrcpref (bit w 28) (.ofNat 4 (bits w 27 24)) (.ofNat 3 (bits w 17 15)) (.ofNat 5 (bits w 14 10)) (.ofNat 5 (bits w 9 5)) (.ofNat 5 (bits w 4 0)))
  | 59 => .ok (.vrsqref (bit w 28) (.ofNat 4 (bits w 27 24)) (.ofNat 3 (bits w 17 15)) (.ofNat 5 (bits w 14 10)) (.ofNat 5 (bits w 9 5)) (.ofNat 5 (bits w 4 0)))
  | 60 => if bits w 4 0 = 0 then .ok (.vexp2 (bit w 28) (.ofNat 4 (bits w 27 24)) (.ofNat 3 (bits w 17 15)) (.ofNat 5 (bits w 14 10)) (.ofNat 5 (bits w 9 5))) else .error .reservedField
  | 61 => if bits w 4 0 = 0 then .ok (.vlog2 (bit w 28) (.ofNat 4 (bits w 27 24)) (.ofNat 3 (bits w 17 15)) (.ofNat 5 (bits w 14 10)) (.ofNat 5 (bits w 9 5))) else .error .reservedField
  | 62 =>
    if bits w 4 0 = 0 ∧ bits w 17 15 = 0 then .ok (.sbind (bit w 28) (.ofNat 4 (bits w 27 24)) (.ofNat 5 (bits w 14 10)) (.ofNat 5 (bits w 9 5))) else
    if bits w 17 15 = 1 then .ok (.sisect (bit w 28) (.ofNat 4 (bits w 27 24)) (.ofNat 5 (bits w 14 10)) (.ofNat 5 (bits w 9 5)) (.ofNat 5 (bits w 4 0))) else
    if bits w 17 15 = 2 then .ok (.sunion (bit w 28) (.ofNat 4 (bits w 27 24)) (.ofNat 5 (bits w 14 10)) (.ofNat 5 (bits w 9 5)) (.ofNat 5 (bits w 4 0))) else
    if bits w 17 15 = 3 then .ok (.ssub (bit w 28) (.ofNat 4 (bits w 27 24)) (.ofNat 5 (bits w 14 10)) (.ofNat 5 (bits w 9 5)) (.ofNat 5 (bits w 4 0))) else
    if bits w 17 15 = 4 then .ok (.smadd (bit w 28) (.ofNat 4 (bits w 27 24)) (.ofNat 5 (bits w 14 10)) (.ofNat 5 (bits w 9 5)) (.ofNat 5 (bits w 4 0))) else
    if bits w 4 0 = 0 ∧ bits w 17 10 = 160 then .ok (.scount (bit w 28) (.ofNat 4 (bits w 27 24)) (.ofNat 5 (bits w 9 5))) else
    if bits w 9 0 = 0 ∧ bits w 17 15 = 6 then .ok (.sreset (bit w 28) (.ofNat 4 (bits w 27 24)) (.ofNat 5 (bits w 14 10))) else
    .error .reservedField
  | 63 => if bits w 4 0 = 0 ∧ bits w 17 10 = 0 then .ok (.vreply (bit w 28) (.ofNat 4 (bits w 27 24)) (.ofNat 5 (bits w 9 5))) else .error .reservedField
  | _ => .error .reservedOpcode

/-- The words of engine field 2 (R142, R222): the row its opcode names, if every reserved and unused bit is 0. -/
def decodeMatrix (w : Nat) : Except DecodeError Instr :=
  match bits w 23 18 with
  | 1 => if bits w 12 3 = 0 then .ok (.mldb (bit w 28) (.ofNat 4 (bits w 27 24)) (.ofNat 5 (bits w 17 13)) (.ofNat 3 (bits w 2 0))) else .error .reservedField
  | 2 => if bits w 17 0 = 0 then .ok (.mswap (bit w 28) (.ofNat 4 (bits w 27 24))) else .error .reservedField
  | 3 => .ok (.mma (bit w 28) (.ofNat 4 (bits w 27 24)) (.ofNat 2 (bits w 17 16)) (.ofNat 3 (bits w 15 13)) (.ofNat 3 (bits w 12 10)) (.ofNat 2 (bits w 9 8)) (.ofNat 3 (bits w 7 5)) (bit w 4) (bit w 3) (.ofNat 3 (bits w 2 0)))
  | 4 => if bits w 12 4 = 0 then .ok (.mscq (bit w 28) (.ofNat 4 (bits w 27 24)) (.ofNat 5 (bits w 17 13)) (bit w 3) (.ofNat 3 (bits w 2 0))) else .error .reservedField
  | 5 => if bits w 17 2 = 0 then .ok (.mzero (bit w 28) (.ofNat 4 (bits w 27 24)) (.ofNat 2 (bits w 1 0))) else .error .reservedField
  | 6 => if bits w 7 4 = 0 then .ok (.mdrain (bit w 28) (.ofNat 4 (bits w 27 24)) (.ofNat 5 (bits w 17 13)) (.ofNat 5 (bits w 12 8)) (.ofNat 2 (bits w 3 2)) (.ofNat 2 (bits w 1 0))) else .error .reservedField
  | 7 => if bits w 7 3 = 0 then .ok (.mgo (bit w 28) (.ofNat 4 (bits w 27 24)) (.ofNat 5 (bits w 17 13)) (.ofNat 5 (bits w 12 8)) (.ofNat 3 (bits w 2 0))) else .error .reservedField
  | 8 => if bits w 7 3 = 0 then .ok (.matt (bit w 28) (.ofNat 4 (bits w 27 24)) (.ofNat 5 (bits w 17 13)) (.ofNat 5 (bits w 12 8)) (bit w 2) (.ofNat 2 (bits w 1 0))) else .error .reservedField
  | 9 => if bits w 7 1 = 0 then .ok (.mlatld (bit w 28) (.ofNat 4 (bits w 27 24)) (.ofNat 5 (bits w 17 13)) (.ofNat 5 (bits w 12 8)) (bit w 0)) else .error .reservedField
  | 10 => if bits w 7 4 = 0 then .ok (.mlat (bit w 28) (.ofNat 4 (bits w 27 24)) (.ofNat 5 (bits w 17 13)) (.ofNat 5 (bits w 12 8)) (.ofNat 2 (bits w 3 2)) (.ofNat 2 (bits w 1 0))) else .error .reservedField
  | 11 => if bits w 12 1 = 0 then .ok (.mbjoin (bit w 28) (.ofNat 4 (bits w 27 24)) (.ofNat 5 (bits w 17 13)) (bit w 0)) else .error .reservedField
  | 12 => if bits w 17 1 = 0 then .ok (.mbleave (bit w 28) (.ofNat 4 (bits w 27 24)) (bit w 0)) else .error .reservedField
  | 13 => if bits w 12 3 = 0 then .ok (.mpop (bit w 28) (.ofNat 4 (bits w 27 24)) (.ofNat 5 (bits w 17 13)) (.ofNat 3 (bits w 2 0))) else .error .reservedField
  | 14 => if bits w 17 0 = 0 then .ok (.mquiet (bit w 28) (.ofNat 4 (bits w 27 24))) else .error .reservedField
  | _ => .error .reservedOpcode

/-- The words of engine field 3 (R142, R255): the row its opcode names, if every reserved and unused bit is 0. -/
def decodeLoad (w : Nat) : Except DecodeError Instr :=
  match bits w 23 18 with
  | 1 => if bits w 1 0 = 0 then .ok (.lcp (bit w 28) (.ofNat 4 (bits w 27 24)) (.ofNat 5 (bits w 17 13)) (.ofNat 5 (bits w 12 8)) (.ofNat 4 (bits w 7 4)) (bit w 3) (bit w 2)) else .error .reservedField
  | 2 => if bits w 1 0 = 0 then .ok (.lgo (bit w 28) (.ofNat 4 (bits w 27 24)) (.ofNat 5 (bits w 17 13)) (.ofNat 5 (bits w 12 8)) (.ofNat 4 (bits w 7 4)) (bit w 3) (bit w 2)) else .error .reservedField
  | 3 => if bits w 1 1 = 0 ∧ bits w 3 3 = 0 then .ok (.lgath (bit w 28) (.ofNat 4 (bits w 27 24)) (.ofNat 5 (bits w 17 13)) (.ofNat 5 (bits w 12 8)) (.ofNat 4 (bits w 7 4)) (bit w 2) (bit w 0)) else .error .reservedField
  | 4 => if bits w 7 0 = 0 then .ok (.lpref (bit w 28) (.ofNat 4 (bits w 27 24)) (.ofNat 5 (bits w 17 13)) (.ofNat 5 (bits w 12 8))) else .error .reservedField
  | 5 => if bits w 2 0 = 0 ∧ bits w 7 4 = 0 then .ok (.lq (bit w 28) (.ofNat 4 (bits w 27 24)) (.ofNat 5 (bits w 17 13)) (.ofNat 5 (bits w 12 8)) (bit w 3)) else .error .reservedField
  | 6 => if bits w 7 0 = 0 then .ok (.lqx (bit w 28) (.ofNat 4 (bits w 27 24)) (.ofNat 5 (bits w 17 13)) (.ofNat 5 (bits w 12 8))) else .error .reservedField
  | 7 => if bits w 12 3 = 0 then .ok (.lring (bit w 28) (.ofNat 4 (bits w 27 24)) (.ofNat 5 (bits w 17 13)) (.ofNat 3 (bits w 2 0))) else .error .reservedField
  | 8 => if bits w 17 4 = 0 then .ok (.lmark (bit w 28) (.ofNat 4 (bits w 27 24)) (.ofNat 4 (bits w 3 0))) else .error .reservedField
  | 9 => if bits w 7 4 = 0 then .ok (.lsbind (bit w 28) (.ofNat 4 (bits w 27 24)) (.ofNat 5 (bits w 17 13)) (.ofNat 5 (bits w 12 8)) (.ofNat 4 (bits w 3 0))) else .error .reservedField
  | 10 => if bits w 7 0 = 0 then .ok (.lhint (bit w 28) (.ofNat 4 (bits w 27 24)) (.ofNat 5 (bits w 17 13)) (.ofNat 5 (bits w 12 8))) else .error .reservedField
  | _ => .error .reservedOpcode

/-- The words of engine field 4 (R142, R255): the row its opcode names, if every reserved and unused bit is 0. -/
def decodeStore (w : Nat) : Except DecodeError Instr :=
  match bits w 23 18 with
  | 1 => if bits w 1 0 = 0 then .ok (.scp (bit w 28) (.ofNat 4 (bits w 27 24)) (.ofNat 5 (bits w 17 13)) (.ofNat 5 (bits w 12 8)) (.ofNat 4 (bits w 7 4)) (bit w 3) (bit w 2)) else .error .reservedField
  | 2 => if bits w 1 0 = 0 then .ok (.sgo (bit w 28) (.ofNat 4 (bits w 27 24)) (.ofNat 5 (bits w 17 13)) (.ofNat 5 (bits w 12 8)) (.ofNat 4 (bits w 7 4)) (bit w 3) (bit w 2)) else .error .reservedField
  | 3 => if bits w 1 0 = 0 ∧ bits w 3 3 = 0 then .ok (.sscat (bit w 28) (.ofNat 4 (bits w 27 24)) (.ofNat 5 (bits w 17 13)) (.ofNat 5 (bits w 12 8)) (.ofNat 4 (bits w 7 4)) (bit w 2)) else .error .reservedField
  | 4 => if bits w 1 1 = 0 ∧ bits w 3 3 = 0 then .ok (.sq (bit w 28) (.ofNat 4 (bits w 27 24)) (.ofNat 5 (bits w 17 13)) (.ofNat 5 (bits w 12 8)) (.ofNat 4 (bits w 7 4)) (bit w 2) (bit w 0)) else .error .reservedField
  | 5 => if bits w 12 3 = 0 then .ok (.sring (bit w 28) (.ofNat 4 (bits w 27 24)) (.ofNat 5 (bits w 17 13)) (.ofNat 3 (bits w 2 0))) else .error .reservedField
  | 6 => if bits w 17 4 = 0 then .ok (.smark (bit w 28) (.ofNat 4 (bits w 27 24)) (.ofNat 4 (bits w 3 0))) else .error .reservedField
  | 7 => if bits w 7 1 = 0 then .ok (.ssbind (bit w 28) (.ofNat 4 (bits w 27 24)) (.ofNat 5 (bits w 17 13)) (.ofNat 5 (bits w 12 8)) (bit w 0)) else .error .reservedField
  | 8 => if bits w 1 1 = 0 ∧ bits w 3 3 = 0 then .ok (.sflush (bit w 28) (.ofNat 4 (bits w 27 24)) (.ofNat 5 (bits w 17 13)) (.ofNat 5 (bits w 12 8)) (.ofNat 4 (bits w 7 4)) (bit w 2) (bit w 0)) else .error .reservedField
  | 9 => if bits w 7 0 = 0 then .ok (.szero (bit w 28) (.ofNat 4 (bits w 27 24)) (.ofNat 5 (bits w 17 13)) (.ofNat 5 (bits w 12 8))) else .error .reservedField
  | _ => .error .reservedOpcode

/-- The words of engine field 5 (R142, R255): the row its opcode names, if every reserved and unused bit is 0. -/
def decodeTransform (w : Nat) : Except DecodeError Instr :=
  match bits w 23 18 with
  | 1 => if bits w 1 0 = 0 ∧ bits w 3 3 = 0 ∧ bits w 12 8 = 0 then .ok (.tcvt (bit w 28) (.ofNat 4 (bits w 27 24)) (.ofNat 5 (bits w 17 13)) (.ofNat 4 (bits w 7 4)) (bit w 2)) else .error .reservedField
  | 2 => if bits w 1 0 = 0 ∧ bits w 3 3 = 0 then .ok (.tcopy (bit w 28) (.ofNat 4 (bits w 27 24)) (.ofNat 5 (bits w 17 13)) (.ofNat 5 (bits w 12 8)) (.ofNat 4 (bits w 7 4)) (bit w 2)) else .error .reservedField
  | 3 => if bits w 1 0 = 0 ∧ bits w 3 3 = 0 then .ok (.trope (bit w 28) (.ofNat 4 (bits w 27 24)) (.ofNat 5 (bits w 17 13)) (.ofNat 5 (bits w 12 8)) (.ofNat 4 (bits w 7 4)) (bit w 2)) else .error .reservedField
  | 4 => if bits w 1 0 = 0 ∧ bits w 3 3 = 0 then .ok (.tsplice (bit w 28) (.ofNat 4 (bits w 27 24)) (.ofNat 5 (bits w 17 13)) (.ofNat 5 (bits w 12 8)) (.ofNat 4 (bits w 7 4)) (bit w 2)) else .error .reservedField
  | 5 => if bits w 1 0 = 0 ∧ bits w 3 3 = 0 then .ok (.tfill (bit w 28) (.ofNat 4 (bits w 27 24)) (.ofNat 5 (bits w 17 13)) (.ofNat 5 (bits w 12 8)) (.ofNat 4 (bits w 7 4)) (bit w 2)) else .error .reservedField
  | 6 => if bits w 1 0 = 0 ∧ bits w 3 3 = 0 then .ok (.tkvapp (bit w 28) (.ofNat 4 (bits w 27 24)) (.ofNat 5 (bits w 17 13)) (.ofNat 5 (bits w 12 8)) (.ofNat 4 (bits w 7 4)) (bit w 2)) else .error .reservedField
  | 7 => if bits w 1 0 = 0 ∧ bits w 3 3 = 0 ∧ bits w 12 8 = 0 then .ok (.tchk (bit w 28) (.ofNat 4 (bits w 27 24)) (.ofNat 5 (bits w 17 13)) (.ofNat 4 (bits w 7 4)) (bit w 2)) else .error .reservedField
  | _ => .error .reservedOpcode

/-- The words of engine field 6 (R142, R287): the row its opcode names, if every reserved and unused bit is 0. -/
def decodeQuery (w : Nat) : Except DecodeError Instr :=
  match bits w 23 18 with
  | 1 => if bits w 1 0 = 0 ∧ bits w 3 3 = 0 then .ok (.qsearch (bit w 28) (.ofNat 4 (bits w 27 24)) (.ofNat 5 (bits w 17 13)) (.ofNat 5 (bits w 12 8)) (.ofNat 4 (bits w 7 4)) (bit w 2)) else .error .reservedField
  | 2 => if bits w 1 0 = 0 ∧ bits w 3 3 = 0 then .ok (.qfetch (bit w 28) (.ofNat 4 (bits w 27 24)) (.ofNat 5 (bits w 17 13)) (.ofNat 5 (bits w 12 8)) (.ofNat 4 (bits w 7 4)) (bit w 2)) else .error .reservedField
  | 3 => if bits w 1 0 = 0 ∧ bits w 3 3 = 0 then .ok (.qinsert (bit w 28) (.ofNat 4 (bits w 27 24)) (.ofNat 5 (bits w 17 13)) (.ofNat 5 (bits w 12 8)) (.ofNat 4 (bits w 7 4)) (bit w 2)) else .error .reservedField
  | 4 => if bits w 1 0 = 0 ∧ bits w 3 3 = 0 then .ok (.qdelete (bit w 28) (.ofNat 4 (bits w 27 24)) (.ofNat 5 (bits w 17 13)) (.ofNat 5 (bits w 12 8)) (.ofNat 4 (bits w 7 4)) (bit w 2)) else .error .reservedField
  | 5 => if bits w 1 0 = 0 ∧ bits w 3 3 = 0 then .ok (.qwalk (bit w 28) (.ofNat 4 (bits w 27 24)) (.ofNat 5 (bits w 17 13)) (.ofNat 5 (bits w 12 8)) (.ofNat 4 (bits w 7 4)) (bit w 2)) else .error .reservedField
  | 6 => if bits w 12 0 = 0 then .ok (.qcancel (bit w 28) (.ofNat 4 (bits w 27 24)) (.ofNat 5 (bits w 17 13))) else .error .reservedField
  | 7 => if bits w 12 0 = 0 then .ok (.qstat (bit w 28) (.ofNat 4 (bits w 27 24)) (.ofNat 5 (bits w 17 13))) else .error .reservedField
  | 8 => if bits w 1 0 = 0 ∧ bits w 3 3 = 0 then .ok (.qsnap (bit w 28) (.ofNat 4 (bits w 27 24)) (.ofNat 5 (bits w 17 13)) (.ofNat 5 (bits w 12 8)) (.ofNat 4 (bits w 7 4)) (bit w 2)) else .error .reservedField
  | _ => .error .reservedOpcode

/-- The prefix words and XCALL (R143 to R148): engine field 7, kind in bits 27:24. A stop bit on a prefix other than
XCALL is no instruction (R150). -/
def decodePrefix (w : Nat) : Except DecodeError Instr :=
  match bits w 27 24 with
  | 0 => if bit w 28 = false then .ok (.xext (.ofNat 3 (bits w 23 21)) (bit w 20) (.ofNat 3 (bits w 19 17)) (bit w 16) (.ofNat 16 (bits w 15 0))) else .error .prefixStop
  | 1 => if bits w 23 15 = 0 then
      (if bit w 28 = false then .ok (.xrep (.ofNat 6 (bits w 14 9)) (.ofNat 3 (bits w 8 6)) (.ofNat 3 (bits w 5 3)) (.ofNat 3 (bits w 2 0))) else .error .prefixStop)
    else .error .reservedField
  | 2 => .ok (.xcall (bit w 28) (.ofNat 5 (bits w 23 19)) (.ofNat 5 (bits w 18 14)) (.ofNat 5 (bits w 13 9)) (.ofNat 9 (bits w 8 0)))
  | 3 => if bit w 28 = false then .ok (.xlimm (.ofNat 24 (bits w 23 0))) else .error .prefixStop
  | 4 => if bits w 23 5 = 0 then
      (if bit w 28 = false then .ok (.xsca (.ofNat 5 (bits w 4 0))) else .error .prefixStop)
    else .error .reservedField
  | _ => .error .reservedPrefix

/-- The instruction a 32-bit word is, by its engine field in bits 31:29 (R22, R131). -/
def decodeWord (w : Nat) : Except DecodeError Instr :=
  match bits w 31 29 with
  | 0 => decodeControl w
  | 1 => decodeVector w
  | 2 => decodeMatrix w
  | 3 => decodeLoad w
  | 4 => decodeStore w
  | 5 => decodeTransform w
  | 6 => decodeQuery w
  | _ => decodePrefix w

/-- The little-endian value of a list of bytes (R8). -/
def leNat : List Byte → Nat
  | [] => 0
  | b :: bs => b.toNat + 256 * leNat bs

/-- The `n` low bytes of a number, least significant first (R8). -/
def leBytes : Nat → Nat → List Byte
  | 0, _ => []
  | n + 1, x => BitVec.ofNat 8 x :: leBytes n (x / 256)

/-- Decoding from bytes in memory order: the instruction and the bytes after its four (R131). -/
def decode : List Byte → Except DecodeError (Instr × List Byte)
  | b0 :: b1 :: b2 :: b3 :: rest =>
    match decodeWord (leNat [b0, b1, b2, b3]) with
    | .ok i => .ok (i, rest)
    | .error e => .error e
  | _ => .error .short

/-- Operand fields placed above a word's fixed bits: each value at its lowest bit. -/
def pack (base : Nat) : List (Nat × Nat) → Nat
  | [] => base
  | (v, lo) :: fs => v * 2 ^ lo + pack base fs

/-- The word of an instruction, written from the encoding tables; a step of the device has none. -/
def encodeWord : Instr → Option Nat
  | .nop z => some (pack 0x00200000 [(b2n z, 28)])
  | .add z d a b => some (pack 0x00400000 [(b2n z, 28), (d.toNat, 16), (a.toNat, 11), (b.toNat, 6)])
  | .sub z d a b => some (pack 0x00600000 [(b2n z, 28), (d.toNat, 16), (a.toNat, 11), (b.toNat, 6)])
  | .and z d a b => some (pack 0x00800000 [(b2n z, 28), (d.toNat, 16), (a.toNat, 11), (b.toNat, 6)])
  | .or z d a b => some (pack 0x00A00000 [(b2n z, 28), (d.toNat, 16), (a.toNat, 11), (b.toNat, 6)])
  | .xor z d a b => some (pack 0x00C00000 [(b2n z, 28), (d.toNat, 16), (a.toNat, 11), (b.toNat, 6)])
  | .andn z d a b => some (pack 0x00E00000 [(b2n z, 28), (d.toNat, 16), (a.toNat, 11), (b.toNat, 6)])
  | .shl z d a b => some (pack 0x01000000 [(b2n z, 28), (d.toNat, 16), (a.toNat, 11), (b.toNat, 6)])
  | .shr z d a b => some (pack 0x01200000 [(b2n z, 28), (d.toNat, 16), (a.toNat, 11), (b.toNat, 6)])
  | .shra z d a b => some (pack 0x01400000 [(b2n z, 28), (d.toNat, 16), (a.toNat, 11), (b.toNat, 6)])
  | .rotr z d a b => some (pack 0x01600000 [(b2n z, 28), (d.toNat, 16), (a.toNat, 11), (b.toNat, 6)])
  | .mul z d a b => some (pack 0x01800000 [(b2n z, 28), (d.toNat, 16), (a.toNat, 11), (b.toNat, 6)])
  | .mulhs z d a b => some (pack 0x01A00000 [(b2n z, 28), (d.toNat, 16), (a.toNat, 11), (b.toNat, 6)])
  | .mulhu z d a b => some (pack 0x01C00000 [(b2n z, 28), (d.toNat, 16), (a.toNat, 11), (b.toNat, 6)])
  | .div z d a b => some (pack 0x01E00000 [(b2n z, 28), (d.toNat, 16), (a.toNat, 11), (b.toNat, 6)])
  | .divu z d a b => some (pack 0x02000000 [(b2n z, 28), (d.toNat, 16), (a.toNat, 11), (b.toNat, 6)])
  | .rem z d a b => some (pack 0x02200000 [(b2n z, 28), (d.toNat, 16), (a.toNat, 11), (b.toNat, 6)])
  | .remu z d a b => some (pack 0x02400000 [(b2n z, 28), (d.toNat, 16), (a.toNat, 11), (b.toNat, 6)])
  | .min z d a b => some (pack 0x02600000 [(b2n z, 28), (d.toNat, 16), (a.toNat, 11), (b.toNat, 6)])
  | .max z d a b => some (pack 0x02800000 [(b2n z, 28), (d.toNat, 16), (a.toNat, 11), (b.toNat, 6)])
  | .minu z d a b => some (pack 0x02A00000 [(b2n z, 28), (d.toNat, 16), (a.toNat, 11), (b.toNat, 6)])
  | .maxu z d a b => some (pack 0x02C00000 [(b2n z, 28), (d.toNat, 16), (a.toNat, 11), (b.toNat, 6)])
  | .slt z d a b => some (pack 0x02E00000 [(b2n z, 28), (d.toNat, 16), (a.toNat, 11), (b.toNat, 6)])
  | .sltu z d a b => some (pack 0x03000000 [(b2n z, 28), (d.toNat, 16), (a.toNat, 11), (b.toNat, 6)])
  | .seq z d a b => some (pack 0x03200000 [(b2n z, 28), (d.toNat, 16), (a.toNat, 11), (b.toNat, 6)])
  | .clz z d a => some (pack 0x03400000 [(b2n z, 28), (d.toNat, 16), (a.toNat, 11)])
  | .ctz z d a => some (pack 0x03600000 [(b2n z, 28), (d.toNat, 16), (a.toNat, 11)])
  | .popc z d a => some (pack 0x03800000 [(b2n z, 28), (d.toNat, 16), (a.toNat, 11)])
  | .brev z d a => some (pack 0x03A00000 [(b2n z, 28), (d.toNat, 16), (a.toNat, 11)])
  | .sext z d a w => some (pack 0x03C00000 [(b2n z, 28), (d.toNat, 16), (a.toNat, 11), (w.toNat, 0)])
  | .zext z d a w => some (pack 0x03E00000 [(b2n z, 28), (d.toNat, 16), (a.toNat, 11), (w.toNat, 0)])
  | .addi z d a i => some (pack 0x04000000 [(b2n z, 28), (d.toNat, 16), (a.toNat, 11), (i.toNat, 0)])
  | .andi z d a i => some (pack 0x04200000 [(b2n z, 28), (d.toNat, 16), (a.toNat, 11), (i.toNat, 0)])
  | .ori z d a i => some (pack 0x04400000 [(b2n z, 28), (d.toNat, 16), (a.toNat, 11), (i.toNat, 0)])
  | .xori z d a i => some (pack 0x04600000 [(b2n z, 28), (d.toNat, 16), (a.toNat, 11), (i.toNat, 0)])
  | .shli z d a n => some (pack 0x04800000 [(b2n z, 28), (d.toNat, 16), (a.toNat, 11), (n.toNat, 0)])
  | .shri z d a n => some (pack 0x04A00000 [(b2n z, 28), (d.toNat, 16), (a.toNat, 11), (n.toNat, 0)])
  | .shrai z d a n => some (pack 0x04C00000 [(b2n z, 28), (d.toNat, 16), (a.toNat, 11), (n.toNat, 0)])
  | .slti z d a i => some (pack 0x04E00000 [(b2n z, 28), (d.toNat, 16), (a.toNat, 11), (i.toNat, 0)])
  | .sltui z d a i => some (pack 0x05000000 [(b2n z, 28), (d.toNat, 16), (a.toNat, 11), (i.toNat, 0)])
  | .seqi z d a i => some (pack 0x05200000 [(b2n z, 28), (d.toNat, 16), (a.toNat, 11), (i.toNat, 0)])
  | .lui z d i => some (pack 0x05400000 [(b2n z, 28), (d.toNat, 16), (i.toNat, 0)])
  | .auipc z d i => some (pack 0x05600000 [(b2n z, 28), (d.toNat, 16), (i.toNat, 0)])
  | .ldb z d a i => some (pack 0x06000000 [(b2n z, 28), (d.toNat, 16), (a.toNat, 11), (i.toNat, 0)])
  | .ldbu z d a i => some (pack 0x06200000 [(b2n z, 28), (d.toNat, 16), (a.toNat, 11), (i.toNat, 0)])
  | .ldh z d a i => some (pack 0x06400000 [(b2n z, 28), (d.toNat, 16), (a.toNat, 11), (i.toNat, 0)])
  | .ldhu z d a i => some (pack 0x06600000 [(b2n z, 28), (d.toNat, 16), (a.toNat, 11), (i.toNat, 0)])
  | .ldw z d a i => some (pack 0x06800000 [(b2n z, 28), (d.toNat, 16), (a.toNat, 11), (i.toNat, 0)])
  | .ldwu z d a i => some (pack 0x06A00000 [(b2n z, 28), (d.toNat, 16), (a.toNat, 11), (i.toNat, 0)])
  | .ldd z d a i => some (pack 0x06C00000 [(b2n z, 28), (d.toNat, 16), (a.toNat, 11), (i.toNat, 0)])
  | .stb z b a i => some (pack 0x06E00000 [(b2n z, 28), (b.toNat, 16), (a.toNat, 11), (i.toNat, 0)])
  | .sth z b a i => some (pack 0x07000000 [(b2n z, 28), (b.toNat, 16), (a.toNat, 11), (i.toNat, 0)])
  | .stw z b a i => some (pack 0x07200000 [(b2n z, 28), (b.toNat, 16), (a.toNat, 11), (i.toNat, 0)])
  | .std z b a i => some (pack 0x07400000 [(b2n z, 28), (b.toNat, 16), (a.toNat, 11), (i.toNat, 0)])
  | .amo z d a b s o => some (pack 0x07600000 [(b2n z, 28), (d.toNat, 16), (a.toNat, 11), (b.toNat, 6), (s.toNat, 3), (o.toNat, 0)])
  | .amoa z d a b s o => some (pack 0x07800000 [(b2n z, 28), (d.toNat, 16), (a.toNat, 11), (b.toNat, 6), (s.toNat, 3), (o.toNat, 0)])
  | .amor z d a b s o => some (pack 0x07A00000 [(b2n z, 28), (d.toNat, 16), (a.toNat, 11), (b.toNat, 6), (s.toNat, 3), (o.toNat, 0)])
  | .amoar z d a b s o => some (pack 0x07C00000 [(b2n z, 28), (d.toNat, 16), (a.toNat, 11), (b.toNat, 6), (s.toNat, 3), (o.toNat, 0)])
  | .amop z d a b s o => some (pack 0x07E00000 [(b2n z, 28), (d.toNat, 16), (a.toNat, 11), (b.toNat, 6), (s.toNat, 3), (o.toNat, 0)])
  | .cas z d a b s o => some (pack 0x08000000 [(b2n z, 28), (d.toNat, 16), (a.toNat, 11), (b.toNat, 6), (s.toNat, 3), (o.toNat, 0)])
  | .fence z f s e => some (pack 0x08200000 [(b2n z, 28), (b2n f, 9), (s.toNat, 6), (e.toNat, 0)])
  | .prefl z h a i => some (pack 0x08400000 [(b2n z, 28), (h.toNat, 16), (a.toNat, 11), (i.toNat, 0)])
  | .beq z a b i => some (pack 0x09000000 [(b2n z, 28), (a.toNat, 16), (b.toNat, 11), (i.toNat, 0)])
  | .bne z a b i => some (pack 0x09200000 [(b2n z, 28), (a.toNat, 16), (b.toNat, 11), (i.toNat, 0)])
  | .blt z a b i => some (pack 0x09400000 [(b2n z, 28), (a.toNat, 16), (b.toNat, 11), (i.toNat, 0)])
  | .bge z a b i => some (pack 0x09600000 [(b2n z, 28), (a.toNat, 16), (b.toNat, 11), (i.toNat, 0)])
  | .bltu z a b i => some (pack 0x09800000 [(b2n z, 28), (a.toNat, 16), (b.toNat, 11), (i.toNat, 0)])
  | .bgeu z a b i => some (pack 0x09A00000 [(b2n z, 28), (a.toNat, 16), (b.toNat, 11), (i.toNat, 0)])
  | .jal z d i => some (pack 0x09C00000 [(b2n z, 28), (d.toNat, 16), (i.toNat, 0)])
  | .jalr z d a i => some (pack 0x09E00000 [(b2n z, 28), (d.toNat, 16), (a.toNat, 11), (i.toNat, 0)])
  | .yield z => some (pack 0x0A000000 [(b2n z, 28)])
  | .exit z => some (pack 0x0A200000 [(b2n z, 28)])
  | .spawn z a i => some (pack 0x0A400000 [(b2n z, 28), (a.toNat, 11), (i.toNat, 0)])
  | .cont z a i => some (pack 0x0A600000 [(b2n z, 28), (a.toNat, 11), (i.toNat, 0)])
  | .waitgeLocal z a b => some (pack 0x0A800020 [(b2n z, 28), (a.toNat, 11), (b.toNat, 6)])
  | .waitge z a b s => some (pack 0x0A800000 [(b2n z, 28), (a.toNat, 11), (b.toNat, 6), (s.toNat, 0)])
  | .signalLocal z a b => some (pack 0x0AA00020 [(b2n z, 28), (a.toNat, 11), (b.toNat, 6)])
  | .signal z a b s => some (pack 0x0AA00000 [(b2n z, 28), (a.toNat, 11), (b.toNat, 6), (s.toNat, 0)])
  | .popr z d => some (pack 0x0AC00000 [(b2n z, 28), (d.toNat, 16)])
  | .peekr z d => some (pack 0x0AE00000 [(b2n z, 28), (d.toNat, 16)])
  | .fork z d a b k q => some (pack 0x0B000000 [(b2n z, 28), (d.toNat, 16), (a.toNat, 11), (b.toNat, 6), (k.toNat, 2), (q.toNat, 0)])
  | .msend z a b => some (pack 0x0B200000 [(b2n z, 28), (a.toNat, 11), (b.toNat, 6)])
  | .mrecv z d a => some (pack 0x0B400000 [(b2n z, 28), (d.toNat, 16), (a.toNat, 11)])
  | .nest z n a i => some (pack 0x0B600000 [(b2n z, 28), (n.toNat, 16), (a.toNat, 11), (i.toNat, 0)])
  | .cstore z e a l => some (pack 0x0B800000 [(b2n z, 28), (e.toNat, 16), (a.toNat, 11), (l.toNat, 0)])
  | .l2pin z a b r w => some (pack 0x0BA00000 [(b2n z, 28), (a.toNat, 11), (b.toNat, 6), (r.toNat, 2), (w.toNat, 0)])
  | .l2unpin z r => some (pack 0x0BC00000 [(b2n z, 28), (r.toNat, 2)])
  | .csrr z d c => some (pack 0x0C000000 [(b2n z, 28), (d.toNat, 16), (c.toNat, 0)])
  | .csrw z d a c => some (pack 0x0C200000 [(b2n z, 28), (d.toNat, 16), (a.toNat, 11), (c.toNat, 0)])
  | .csrs z d a c => some (pack 0x0C400000 [(b2n z, 28), (d.toNat, 16), (a.toNat, 11), (c.toNat, 0)])
  | .csrc z d a c => some (pack 0x0C600000 [(b2n z, 28), (d.toNat, 16), (a.toNat, 11), (c.toNat, 0)])
  | .ecall z c => some (pack 0x0C800000 [(b2n z, 28), (c.toNat, 0)])
  | .ebreak z c => some (pack 0x0CA00000 [(b2n z, 28), (c.toNat, 0)])
  | .eret z => some (pack 0x0CC00000 [(b2n z, 28)])
  | .wfe z => some (pack 0x0CE00000 [(b2n z, 28)])
  | .tlbinv z d a b p => some (pack 0x0D000000 [(b2n z, 28), (d.toNat, 16), (a.toNat, 11), (b.toNat, 6), (p.toNat, 0)])
  | .sev z => some (pack 0x0D200000 [(b2n z, 28)])
  | .vadd z t f d a b => some (pack 0x20000000 [(b2n z, 28), (t.toNat, 24), (f.toNat, 15), (d.toNat, 10), (a.toNat, 5), (b.toNat, 0)])
  | .vsub z t f d a b => some (pack 0x20040000 [(b2n z, 28), (t.toNat, 24), (f.toNat, 15), (d.toNat, 10), (a.toNat, 5), (b.toNat, 0)])
  | .vaddsat z t f d a b => some (pack 0x20080000 [(b2n z, 28), (t.toNat, 24), (f.toNat, 15), (d.toNat, 10), (a.toNat, 5), (b.toNat, 0)])
  | .vsubsat z t f d a b => some (pack 0x200C0000 [(b2n z, 28), (t.toNat, 24), (f.toNat, 15), (d.toNat, 10), (a.toNat, 5), (b.toNat, 0)])
  | .vavg z t f d a b => some (pack 0x20100000 [(b2n z, 28), (t.toNat, 24), (f.toNat, 15), (d.toNat, 10), (a.toNat, 5), (b.toNat, 0)])
  | .vmul z t f d a b => some (pack 0x20140000 [(b2n z, 28), (t.toNat, 24), (f.toNat, 15), (d.toNat, 10), (a.toNat, 5), (b.toNat, 0)])
  | .vmulhi z t f d a b => some (pack 0x20180000 [(b2n z, 28), (t.toNat, 24), (f.toNat, 15), (d.toNat, 10), (a.toNat, 5), (b.toNat, 0)])
  | .vmac z t f d a b => some (pack 0x201C0000 [(b2n z, 28), (t.toNat, 24), (f.toNat, 15), (d.toNat, 10), (a.toNat, 5), (b.toNat, 0)])
  | .vmin z t f d a b => some (pack 0x20200000 [(b2n z, 28), (t.toNat, 24), (f.toNat, 15), (d.toNat, 10), (a.toNat, 5), (b.toNat, 0)])
  | .vmax z t f d a b => some (pack 0x20240000 [(b2n z, 28), (t.toNat, 24), (f.toNat, 15), (d.toNat, 10), (a.toNat, 5), (b.toNat, 0)])
  | .vabs z t f d a => some (pack 0x20280000 [(b2n z, 28), (t.toNat, 24), (f.toNat, 15), (d.toNat, 10), (a.toNat, 5)])
  | .vand z t f d a b => some (pack 0x202C0000 [(b2n z, 28), (t.toNat, 24), (f.toNat, 15), (d.toNat, 10), (a.toNat, 5), (b.toNat, 0)])
  | .vor z t f d a b => some (pack 0x20300000 [(b2n z, 28), (t.toNat, 24), (f.toNat, 15), (d.toNat, 10), (a.toNat, 5), (b.toNat, 0)])
  | .vxor z t f d a b => some (pack 0x20340000 [(b2n z, 28), (t.toNat, 24), (f.toNat, 15), (d.toNat, 10), (a.toNat, 5), (b.toNat, 0)])
  | .vshl z t f d a b => some (pack 0x20380000 [(b2n z, 28), (t.toNat, 24), (f.toNat, 15), (d.toNat, 10), (a.toNat, 5), (b.toNat, 0)])
  | .vshr z t f d a b => some (pack 0x203C0000 [(b2n z, 28), (t.toNat, 24), (f.toNat, 15), (d.toNat, 10), (a.toNat, 5), (b.toNat, 0)])
  | .vfadd z t f d a b => some (pack 0x20400000 [(b2n z, 28), (t.toNat, 24), (f.toNat, 15), (d.toNat, 10), (a.toNat, 5), (b.toNat, 0)])
  | .vfsub z t f d a b => some (pack 0x20440000 [(b2n z, 28), (t.toNat, 24), (f.toNat, 15), (d.toNat, 10), (a.toNat, 5), (b.toNat, 0)])
  | .vfmul z t f d a b => some (pack 0x20480000 [(b2n z, 28), (t.toNat, 24), (f.toNat, 15), (d.toNat, 10), (a.toNat, 5), (b.toNat, 0)])
  | .vfma z t f d a b => some (pack 0x204C0000 [(b2n z, 28), (t.toNat, 24), (f.toNat, 15), (d.toNat, 10), (a.toNat, 5), (b.toNat, 0)])
  | .vfms z t f d a b => some (pack 0x20500000 [(b2n z, 28), (t.toNat, 24), (f.toNat, 15), (d.toNat, 10), (a.toNat, 5), (b.toNat, 0)])
  | .vfmin z t f d a b => some (pack 0x20540000 [(b2n z, 28), (t.toNat, 24), (f.toNat, 15), (d.toNat, 10), (a.toNat, 5), (b.toNat, 0)])
  | .vfmax z t f d a b => some (pack 0x20580000 [(b2n z, 28), (t.toNat, 24), (f.toNat, 15), (d.toNat, 10), (a.toNat, 5), (b.toNat, 0)])
  | .vfabs z t f d a => some (pack 0x205C0000 [(b2n z, 28), (t.toNat, 24), (f.toNat, 15), (d.toNat, 10), (a.toNat, 5)])
  | .vfneg z t f d a => some (pack 0x20600000 [(b2n z, 28), (t.toNat, 24), (f.toNat, 15), (d.toNat, 10), (a.toNat, 5)])
  | .vcvt z t f d a => some (pack 0x20640000 [(b2n z, 28), (t.toNat, 24), (f.toNat, 15), (d.toNat, 10), (a.toNat, 5)])
  | .vwiden z t f d a => some (pack 0x20680000 [(b2n z, 28), (t.toNat, 24), (f.toNat, 15), (d.toNat, 10), (a.toNat, 5)])
  | .vnarrow z t f d a => some (pack 0x206C0000 [(b2n z, 28), (t.toNat, 24), (f.toNat, 15), (d.toNat, 10), (a.toNat, 5)])
  | .vwmul z t f d a b => some (pack 0x20700000 [(b2n z, 28), (t.toNat, 24), (f.toNat, 15), (d.toNat, 10), (a.toNat, 5), (b.toNat, 0)])
  | .vwmac z t f d a b => some (pack 0x20740000 [(b2n z, 28), (t.toNat, 24), (f.toNat, 15), (d.toNat, 10), (a.toNat, 5), (b.toNat, 0)])
  | .vaccrd z t c d h l => some (pack 0x20780000 [(b2n z, 28), (t.toNat, 24), (c.toNat, 15), (d.toNat, 10), (h.toNat, 5), (l.toNat, 0)])
  | .vaccwr z t c l h b => some (pack 0x207C0000 [(b2n z, 28), (t.toNat, 24), (c.toNat, 15), (l.toNat, 10), (h.toNat, 5), (b.toNat, 0)])
  | .vcmpeq z t f d a b => some (pack 0x20800000 [(b2n z, 28), (t.toNat, 24), (f.toNat, 15), (d.toNat, 10), (a.toNat, 5), (b.toNat, 0)])
  | .vcmpne z t f d a b => some (pack 0x20840000 [(b2n z, 28), (t.toNat, 24), (f.toNat, 15), (d.toNat, 10), (a.toNat, 5), (b.toNat, 0)])
  | .vcmplt z t f d a b => some (pack 0x20880000 [(b2n z, 28), (t.toNat, 24), (f.toNat, 15), (d.toNat, 10), (a.toNat, 5), (b.toNat, 0)])
  | .vcmple z t f d a b => some (pack 0x208C0000 [(b2n z, 28), (t.toNat, 24), (f.toNat, 15), (d.toNat, 10), (a.toNat, 5), (b.toNat, 0)])
  | .vsel z t f d a b => some (pack 0x20900000 [(b2n z, 28), (t.toNat, 24), (f.toNat, 15), (d.toNat, 10), (a.toNat, 5), (b.toNat, 0)])
  | .vmlogic z t f d a b => some (pack 0x20940000 [(b2n z, 28), (t.toNat, 24), (f.toNat, 15), (d.toNat, 10), (a.toNat, 5), (b.toNat, 0)])
  | .vmpopc z t f a => some (pack 0x20980000 [(b2n z, 28), (t.toNat, 24), (f.toNat, 15), (a.toNat, 5)])
  | .vmfirst z t f a => some (pack 0x209C0000 [(b2n z, 28), (t.toNat, 24), (f.toNat, 15), (a.toNat, 5)])
  | .vperm z t f d a b => some (pack 0x20A00000 [(b2n z, 28), (t.toNat, 24), (f.toNat, 15), (d.toNat, 10), (a.toNat, 5), (b.toNat, 0)])
  | .vbcast z t f d b => some (pack 0x20A40000 [(b2n z, 28), (t.toNat, 24), (f.toNat, 15), (d.toNat, 10), (b.toNat, 0)])
  | .viota z t f d a => some (pack 0x20A80000 [(b2n z, 28), (t.toNat, 24), (f.toNat, 15), (d.toNat, 10), (a.toNat, 5)])
  | .vredsum z t f d a => some (pack 0x20AC0000 [(b2n z, 28), (t.toNat, 24), (f.toNat, 15), (d.toNat, 10), (a.toNat, 5)])
  | .vredmin z t f d a => some (pack 0x20B00000 [(b2n z, 28), (t.toNat, 24), (f.toNat, 15), (d.toNat, 10), (a.toNat, 5)])
  | .vredmax z t f d a => some (pack 0x20B40000 [(b2n z, 28), (t.toNat, 24), (f.toNat, 15), (d.toNat, 10), (a.toNat, 5)])
  | .vargmin z t f a => some (pack 0x20B80000 [(b2n z, 28), (t.toNat, 24), (f.toNat, 15), (a.toNat, 5)])
  | .vslide z t f d a b => some (pack 0x20BC0000 [(b2n z, 28), (t.toNat, 24), (f.toNat, 15), (d.toNat, 10), (a.toNat, 5), (b.toNat, 0)])
  | .vtopn z t f d a => some (pack 0x20C00000 [(b2n z, 28), (t.toNat, 24), (f.toNat, 15), (d.toNat, 10), (a.toNat, 5)])
  | .vspread z t f d a b => some (pack 0x20C40000 [(b2n z, 28), (t.toNat, 24), (f.toNat, 15), (d.toNat, 10), (a.toNat, 5), (b.toNat, 0)])
  | .vpack z t f d a b => some (pack 0x20C80000 [(b2n z, 28), (t.toNat, 24), (f.toNat, 15), (d.toNat, 10), (a.toNat, 5), (b.toNat, 0)])
  | .vunpack z t f d a b => some (pack 0x20CC0000 [(b2n z, 28), (t.toNat, 24), (f.toNat, 15), (d.toNat, 10), (a.toNat, 5), (b.toNat, 0)])
  | .vhash z t f d a b => some (pack 0x20D00000 [(b2n z, 28), (t.toNat, 24), (f.toNat, 15), (d.toNat, 10), (a.toNat, 5), (b.toNat, 0)])
  | .vpopcnt z t f d a => some (pack 0x20D40000 [(b2n z, 28), (t.toNat, 24), (f.toNat, 15), (d.toNat, 10), (a.toNat, 5)])
  | .vxorpc z t f d a b => some (pack 0x20D80000 [(b2n z, 28), (t.toNat, 24), (f.toNat, 15), (d.toNat, 10), (a.toNat, 5), (b.toNat, 0)])
  | .vlut z t f d a b => some (pack 0x20DC0000 [(b2n z, 28), (t.toNat, 24), (f.toNat, 15), (d.toNat, 10), (a.toNat, 5), (b.toNat, 0)])
  | .vrcp z t f d a => some (pack 0x20E00000 [(b2n z, 28), (t.toNat, 24), (f.toNat, 15), (d.toNat, 10), (a.toNat, 5)])
  | .vrsq z t f d a => some (pack 0x20E40000 [(b2n z, 28), (t.toNat, 24), (f.toNat, 15), (d.toNat, 10), (a.toNat, 5)])
  | .vrcpref z t f d a b => some (pack 0x20E80000 [(b2n z, 28), (t.toNat, 24), (f.toNat, 15), (d.toNat, 10), (a.toNat, 5), (b.toNat, 0)])
  | .vrsqref z t f d a b => some (pack 0x20EC0000 [(b2n z, 28), (t.toNat, 24), (f.toNat, 15), (d.toNat, 10), (a.toNat, 5), (b.toNat, 0)])
  | .vexp2 z t f d a => some (pack 0x20F00000 [(b2n z, 28), (t.toNat, 24), (f.toNat, 15), (d.toNat, 10), (a.toNat, 5)])
  | .vlog2 z t f d a => some (pack 0x20F40000 [(b2n z, 28), (t.toNat, 24), (f.toNat, 15), (d.toNat, 10), (a.toNat, 5)])
  | .sbind z t d a => some (pack 0x20F80000 [(b2n z, 28), (t.toNat, 24), (d.toNat, 10), (a.toNat, 5)])
  | .sisect z t d a b => some (pack 0x20F88000 [(b2n z, 28), (t.toNat, 24), (d.toNat, 10), (a.toNat, 5), (b.toNat, 0)])
  | .sunion z t d a b => some (pack 0x20F90000 [(b2n z, 28), (t.toNat, 24), (d.toNat, 10), (a.toNat, 5), (b.toNat, 0)])
  | .ssub z t d a b => some (pack 0x20F98000 [(b2n z, 28), (t.toNat, 24), (d.toNat, 10), (a.toNat, 5), (b.toNat, 0)])
  | .smadd z t d a b => some (pack 0x20FA0000 [(b2n z, 28), (t.toNat, 24), (d.toNat, 10), (a.toNat, 5), (b.toNat, 0)])
  | .scount z t a => some (pack 0x20FA8000 [(b2n z, 28), (t.toNat, 24), (a.toNat, 5)])
  | .sreset z t d => some (pack 0x20FB0000 [(b2n z, 28), (t.toNat, 24), (d.toNat, 10)])
  | .vreply z t a => some (pack 0x20FC0000 [(b2n z, 28), (t.toNat, 24), (a.toNat, 5)])
  | .mldb z t a r => some (pack 0x40040000 [(b2n z, 28), (t.toNat, 24), (a.toNat, 13), (r.toNat, 0)])
  | .mswap z t => some (pack 0x40080000 [(b2n z, 28), (t.toNat, 24)])
  | .mma z t c x y f m h s g => some (pack 0x400C0000 [(b2n z, 28), (t.toNat, 24), (c.toNat, 16), (x.toNat, 13), (y.toNat, 10), (f.toNat, 8), (m.toNat, 5), (b2n h, 4), (b2n s, 3), (g.toNat, 0)])
  | .mscq z t a w r => some (pack 0x40100000 [(b2n z, 28), (t.toNat, 24), (a.toNat, 13), (b2n w, 3), (r.toNat, 0)])
  | .mzero z t c => some (pack 0x40140000 [(b2n z, 28), (t.toNat, 24), (c.toNat, 0)])
  | .mdrain z t a b k c => some (pack 0x40180000 [(b2n z, 28), (t.toNat, 24), (a.toNat, 13), (b.toNat, 8), (k.toNat, 2), (c.toNat, 0)])
  | .mgo z t a b n => some (pack 0x401C0000 [(b2n z, 28), (t.toNat, 24), (a.toNat, 13), (b.toNat, 8), (n.toNat, 0)])
  | .matt z t a b m c => some (pack 0x40200000 [(b2n z, 28), (t.toNat, 24), (a.toNat, 13), (b.toNat, 8), (b2n m, 2), (c.toNat, 0)])
  | .mlatld z t a b v => some (pack 0x40240000 [(b2n z, 28), (t.toNat, 24), (a.toNat, 13), (b.toNat, 8), (b2n v, 0)])
  | .mlat z t a b k c => some (pack 0x40280000 [(b2n z, 28), (t.toNat, 24), (a.toNat, 13), (b.toNat, 8), (k.toNat, 2), (c.toNat, 0)])
  | .mbjoin z t a o => some (pack 0x402C0000 [(b2n z, 28), (t.toNat, 24), (a.toNat, 13), (b2n o, 0)])
  | .mbleave z t o => some (pack 0x40300000 [(b2n z, 28), (t.toNat, 24), (b2n o, 0)])
  | .mpop z t a r => some (pack 0x40340000 [(b2n z, 28), (t.toNat, 24), (a.toNat, 13), (r.toNat, 0)])
  | .mquiet z t => some (pack 0x40380000 [(b2n z, 28), (t.toNat, 24)])
  | .lcp z t a b c l m => some (pack 0x60040000 [(b2n z, 28), (t.toNat, 24), (a.toNat, 13), (b.toNat, 8), (c.toNat, 4), (b2n l, 3), (b2n m, 2)])
  | .lgo z t n b c l m => some (pack 0x60080000 [(b2n z, 28), (t.toNat, 24), (n.toNat, 13), (b.toNat, 8), (c.toNat, 4), (b2n l, 3), (b2n m, 2)])
  | .lgath z t a b c m r => some (pack 0x600C0000 [(b2n z, 28), (t.toNat, 24), (a.toNat, 13), (b.toNat, 8), (c.toNat, 4), (b2n m, 2), (b2n r, 0)])
  | .lpref z t a b => some (pack 0x60100000 [(b2n z, 28), (t.toNat, 24), (a.toNat, 13), (b.toNat, 8)])
  | .lq z t a b l => some (pack 0x60140000 [(b2n z, 28), (t.toNat, 24), (a.toNat, 13), (b.toNat, 8), (b2n l, 3)])
  | .lqx z t a b => some (pack 0x60180000 [(b2n z, 28), (t.toNat, 24), (a.toNat, 13), (b.toNat, 8)])
  | .lring z t a r => some (pack 0x601C0000 [(b2n z, 28), (t.toNat, 24), (a.toNat, 13), (r.toNat, 0)])
  | .lmark z t m => some (pack 0x60200000 [(b2n z, 28), (t.toNat, 24), (m.toNat, 0)])
  | .lsbind z t a b k => some (pack 0x60240000 [(b2n z, 28), (t.toNat, 24), (a.toNat, 13), (b.toNat, 8), (k.toNat, 0)])
  | .lhint z t a b => some (pack 0x60280000 [(b2n z, 28), (t.toNat, 24), (a.toNat, 13), (b.toNat, 8)])
  | .scp z t a b c l m => some (pack 0x80040000 [(b2n z, 28), (t.toNat, 24), (a.toNat, 13), (b.toNat, 8), (c.toNat, 4), (b2n l, 3), (b2n m, 2)])
  | .sgo z t n b c l m => some (pack 0x80080000 [(b2n z, 28), (t.toNat, 24), (n.toNat, 13), (b.toNat, 8), (c.toNat, 4), (b2n l, 3), (b2n m, 2)])
  | .sscat z t a b c m => some (pack 0x800C0000 [(b2n z, 28), (t.toNat, 24), (a.toNat, 13), (b.toNat, 8), (c.toNat, 4), (b2n m, 2)])
  | .sq z t a b c m p => some (pack 0x80100000 [(b2n z, 28), (t.toNat, 24), (a.toNat, 13), (b.toNat, 8), (c.toNat, 4), (b2n m, 2), (b2n p, 0)])
  | .sring z t a r => some (pack 0x80140000 [(b2n z, 28), (t.toNat, 24), (a.toNat, 13), (r.toNat, 0)])
  | .smark z t m => some (pack 0x80180000 [(b2n z, 28), (t.toNat, 24), (m.toNat, 0)])
  | .ssbind z t a b k => some (pack 0x801C0000 [(b2n z, 28), (t.toNat, 24), (a.toNat, 13), (b.toNat, 8), (b2n k, 0)])
  | .sflush z t a b c m i => some (pack 0x80200000 [(b2n z, 28), (t.toNat, 24), (a.toNat, 13), (b.toNat, 8), (c.toNat, 4), (b2n m, 2), (b2n i, 0)])
  | .szero z t a b => some (pack 0x80240000 [(b2n z, 28), (t.toNat, 24), (a.toNat, 13), (b.toNat, 8)])
  | .tcvt z t a c m => some (pack 0xA0040000 [(b2n z, 28), (t.toNat, 24), (a.toNat, 13), (c.toNat, 4), (b2n m, 2)])
  | .tcopy z t a b c m => some (pack 0xA0080000 [(b2n z, 28), (t.toNat, 24), (a.toNat, 13), (b.toNat, 8), (c.toNat, 4), (b2n m, 2)])
  | .trope z t a b c m => some (pack 0xA00C0000 [(b2n z, 28), (t.toNat, 24), (a.toNat, 13), (b.toNat, 8), (c.toNat, 4), (b2n m, 2)])
  | .tsplice z t a b c m => some (pack 0xA0100000 [(b2n z, 28), (t.toNat, 24), (a.toNat, 13), (b.toNat, 8), (c.toNat, 4), (b2n m, 2)])
  | .tfill z t a b c m => some (pack 0xA0140000 [(b2n z, 28), (t.toNat, 24), (a.toNat, 13), (b.toNat, 8), (c.toNat, 4), (b2n m, 2)])
  | .tkvapp z t a b c m => some (pack 0xA0180000 [(b2n z, 28), (t.toNat, 24), (a.toNat, 13), (b.toNat, 8), (c.toNat, 4), (b2n m, 2)])
  | .tchk z t a c m => some (pack 0xA01C0000 [(b2n z, 28), (t.toNat, 24), (a.toNat, 13), (c.toNat, 4), (b2n m, 2)])
  | .qsearch z t a b c m => some (pack 0xC0040000 [(b2n z, 28), (t.toNat, 24), (a.toNat, 13), (b.toNat, 8), (c.toNat, 4), (b2n m, 2)])
  | .qfetch z t a b c m => some (pack 0xC0080000 [(b2n z, 28), (t.toNat, 24), (a.toNat, 13), (b.toNat, 8), (c.toNat, 4), (b2n m, 2)])
  | .qinsert z t a b c m => some (pack 0xC00C0000 [(b2n z, 28), (t.toNat, 24), (a.toNat, 13), (b.toNat, 8), (c.toNat, 4), (b2n m, 2)])
  | .qdelete z t a b c m => some (pack 0xC0100000 [(b2n z, 28), (t.toNat, 24), (a.toNat, 13), (b.toNat, 8), (c.toNat, 4), (b2n m, 2)])
  | .qwalk z t a b c m => some (pack 0xC0140000 [(b2n z, 28), (t.toNat, 24), (a.toNat, 13), (b.toNat, 8), (c.toNat, 4), (b2n m, 2)])
  | .qcancel z t a => some (pack 0xC0180000 [(b2n z, 28), (t.toNat, 24), (a.toNat, 13)])
  | .qstat z t a => some (pack 0xC01C0000 [(b2n z, 28), (t.toNat, 24), (a.toNat, 13)])
  | .qsnap z t a b c m => some (pack 0xC0200000 [(b2n z, 28), (t.toNat, 24), (a.toNat, 13), (b.toNat, 8), (c.toNat, 4), (b2n m, 2)])
  | .xext m z r s i => some (pack 0xE0000000 [(m.toNat, 21), (b2n z, 20), (r.toNat, 17), (b2n s, 16), (i.toNat, 0)])
  | .xrep c x y w => some (pack 0xE1000000 [(c.toNat, 9), (x.toNat, 6), (y.toNat, 3), (w.toNat, 0)])
  | .xcall z e s v i => some (pack 0xE2000000 [(b2n z, 28), (e.toNat, 19), (s.toNat, 14), (v.toNat, 9), (i.toNat, 0)])
  | .xlimm h => some (pack 0xE3000000 [(h.toNat, 0)])
  | .xsca s => some (pack 0xE4000000 [(s.toNat, 0)])
  | .wordStart _ _ => none
  | .wordComplete _ _ => none
  | .broadcastDelivery _ _ _ => none
  | .tokdead _ => none
  | .suspend _ => none
  | .exitRetire _ => none
  | .pickup _ => none
  | .faultBatchClose _ => none
  | .fansRetry _ _ _ => none
  | .fansAbort _ _ _ => none
  | .gatherElementRead _ _ => none
  | .scatterElement _ => none
  | .trapEntry _ => none
  | .yieldRequest _ => none
  | .yieldlate _ => none
  | .aging _ _ => none
  | .itemCreate _ _ _ => none
  | .gateTest _ _ _ => none
  | .waitEntryTest _ _ => none
  | .spawnImageEnqueue _ _ => none
  | .stageItemIssue _ _ _ => none
  | .launch _ _ => none
  | .withdraw _ _ => none
  | .nopEntry _ _ => none
  | .launchCompletion _ _ => none
  | .sqdb _ _ _ => none
  | .cqhead _ _ _ => none
  | .ringEnable _ _ _ => none
  | .ringDisable _ _ _ => none
  | .rebase _ _ _ => none
  | .irqst _ _ => none
  | .irqmask _ _ => none
  | .irqModeration _ _ => none
  | .vfbind _ => none
  | .bar2Read _ _ _ => none
  | .bar2Write _ _ _ => none
  | .functionLevelReset _ => none
  | .partitionEnable _ _ => none
  | .partitionDisable _ _ => none
  | .disableComplete _ => none
  | .trlost _ => none
  | .frlost _ => none
  | .erlost _ => none
  | .rsstat _ => none
  | .hstat _ => none
  | .ecnt _ => none
  | .lbport _ => none
  | .registerWrite _ _ _ => none
  | .rgcfgWrite _ _ _ => none
  | .ticmd _ _ => none
  | .tlbInvalDone _ => none
  | .format _ => none
  | .create _ => none
  | .putnodes _ => none
  | .seal _ => none
  | .mount _ => none
  | .unmount _ => none
  | .drop _ => none
  | .merge _ => none
  | .putobj _ => none
  | .delobj _ => none
  | .clearbad _ => none
  | .searchAccept _ => none
  | .searchRound _ => none
  | .searchEnd _ => none
  | .fetchAccept _ => none
  | .fetchObjectEnd _ _ => none
  | .fetchEnd _ => none
  | .logAppend _ => none
  | .qsnapRead _ => none
  | .walkRecord _ _ => none
  | .pageReadAttempt _ _ => none
  | .mergeStart _ => none
  | .mergePublish _ => none
  | .unitfail _ => none
  | .streamStop _ => none
  | .streamExit _ => none
  | .wfeTimeout _ => none
  | .labenInboundRequest _ => none
  | .labenTimeout _ _ => none
  | .laneFail _ _ => none
  | .powerGood => none
  | .bringupPhaseComplete _ _ => none
  | .rcvimg _ _ => none
  | .atcmd _ => none
  | .attestDone => none
  | .lattol _ _ => none
  | .powerStateEntry _ => none
  | .powerStateExit _ => none
  | .powerExitComplete _ => none
  | .patrolScrub _ => none
  | .illegalWord _ => none
  | .rscmd _ _ => none
  | .powerLoss => none

/-- The four bytes of an instruction's word as memory holds them; none for a step of the device. -/
def encode (i : Instr) : List Byte :=
  match encodeWord i with
  | some w => leBytes 4 w
  | none => []

/-- The instruction the decoder reads from an instruction whose bits are `w`, numbered as the opcode table numbers
them: every instruction is one 32-bit word, stored little-endian (R131). -/
def decodeTableWord (nbits w : Nat) : Option Instr :=
  match decode (leBytes 4 (w % 2 ^ nbits)) with
  | .ok (i, _) => some i
  | .error _ => none

end Sys2Proof
end

