-- ==== Sys2Proof/Machine/State.lean ====
section
/-! DEFINITION. The state of a Statiholt as plain data: the device, its partitions, its cores and context banks, the
stack sequencers, the retrieval store, the host interface and the peer links; the reasons a step can stop; and the
state right after reset (R65 to R130, R225, R340, R353, R378, R395, R412, R420 to R447). -/

namespace Sys2Proof.Machine

/-- A sparse map from numbers, kept with strictly rising keys; what an absent key reads as is said by its reader. -/
abbrev KMap (α : Type) := List (Nat × α)

/-- Bytes by address: an absent address reads as 0, and no entry holds 0 (log 7, 8, 9). -/
abbrev Mem := List Host.Cell

/-! ### Prefixes, groups and macro calls -/

/-- The payload of XEXT (R144). -/
structure Xext where
  mask : BitVec 3
  zero : Bool
  rnd : BitVec 3
  sat : Bool
  imm : BitVec 16
  deriving DecidableEq, Repr

/-- The payload of XREP (R145): issue count minus one and the three signed steps. -/
structure Xrep where
  cntm1 : BitVec 6
  s1 : BitVec 3
  s2 : BitVec 3
  s3 : BitVec 3
  deriving DecidableEq, Repr

/-- The prefixes met since the last target, at most one of each kind (R143). They stand directly before the word at
the PC. -/
structure Prefixes where
  ext : Option Xext
  rep : Option Xrep
  limm : Option (BitVec 24)
  sca : Option (BitVec 5)
  deriving DecidableEq, Repr

/-- What the group checks of R150 and R151 remember of the words of the open group. -/
structure GroupSt where
  count : Nat
  scalars : List Nat
  vectors : List Nat
  deriving DecidableEq, Repr

/-- A macro body being run (R148): its entry, the index of the next body word, the substitutions, the address of the
XCALL, and the body's own group. -/
structure MacroCall where
  entry : Nat
  idx : Nat
  sbase : Nat
  vbase : Nat
  imm9 : BitVec 9
  pc : Word
  grp : GroupSt
  deriving DecidableEq, Repr

/-- Why the control core of a context stands still at its current word; `fault`: it met an invalid translation and waits
for the answer (R389). -/
inductive Stall where
  | none | queueFull | popr | fence | waitgeLocal | drain | mailbox | wfe | rgcfg | laben | fault
  deriving DecidableEq, Repr

/-- The front end of a context (R131, R143 to R151). -/
structure Front where
  pc : Word
  grp : GroupSt
  pfx : Prefixes
  /-- The issue of the XREP target that is routed next (R145). -/
  issue : Nat
  mac : Option MacroCall
  stall : Stall
  /-- The answer ABORT to this control word's fault, or the failure of its peer request (R394, R430): its next access
  raises ACCESS; `true` when the peer has performed the access all the same. -/
  abort : Option Bool
  /-- The access that waits, or has failed, is the fetch of the word. -/
  waitFetch : Bool
  deriving DecidableEq, Repr

/-! ### Registers of a context -/

/-- A stream binding (R104, R278). `last` is the key of the last record read, when there is one (R216). -/
inductive KBind where
  | unbound
  | input (off rfmt vf count pos : Nat) (last : Option Nat)
  | output (off rfmt vf cap written : Nat)
  deriving DecidableEq, Repr

/-- A ring: RGCFG and the pointers RGPTR shows (R114, R115). -/
structure Ring where
  cfg : Word
  head : Nat
  tail : Nat
  count : Nat
  deriving DecidableEq, Repr

/-- One level of a nest: trip count and byte strides of X and Y (R177). -/
structure NestLevel where
  count : Nat
  sx : Int
  sy : Int
  deriving DecidableEq, Repr

/-- A nest descriptor (R177); no level means LEVELS 0 (R106). -/
structure NestDesc where
  basex : Nat
  basey : Nat
  offy : Nat
  wrapy : Nat
  unit : Nat
  levels : List NestLevel
  deriving DecidableEq, Repr

/-- The architectural registers of a context (R99). `acc` holds the rows of the accumulator tiles, keyed 128 × tile +
row, each 128 elements of 32 bits; an absent row is all +0 (R105). -/
structure Arch where
  s : Vector Word 32
  v : Vector VReg 30
  m : Vector MaskReg 8
  k : Vector KBind 8
  acc : KMap VReg
  pg : Vector Word 16
  rings : Vector Ring 8
  nests : Vector NestDesc 8
  deriving DecidableEq, Repr

/-- The user CSRs of a context (R110, R310), apart from the ring and retention registers. -/
structure UCsr where
  frnd : BitVec 32
  fflags : BitVec 32
  rseed : Word
  rstep : Word
  carry : Word
  spstat : Word
  vfmt : Word
  mfmt : Word
  mfmth : Word
  scyc : Word
  skew : Vector Word 4
  l2hits : Word
  l2miss : Word
  l2cmpl : Word
  l2csel : Word
  sqrec : Word
  sqid : Word
  deriving DecidableEq, Repr

/-- The supervisor CSRs of a context (R340) and the traps that wait for its next word boundary (R343, R374, R91). -/
structure TrapCsr where
  smode : Bool
  fpend : Bool
  tcause : Word
  tret : Word
  tepc : Word
  twpc : Word
  tva : Word
  tdet : Word
  sscr : Vector Word 4
  stvec : Word
  self : Word
  msave : Word
  tokwd : Word
  ywd : Word
  /-- The macro call an ERET resumes, when RESUMEIN names a body word (R344, R345). -/
  resume : Option MacroCall
  /-- The front end of the control word whose ABORT waited when an engine trap or a bank condition was entered before it: the word takes
  its ACCESS after the ERET (R346, R394). -/
  denied : Option Front
  deriving DecidableEq, Repr

/-! ### Engine queues -/

/-- A counter operand (R93, R256). -/
inductive Ctr where
  | none
  | loc (n : Nat)
  | mem (va : Word)
  deriving DecidableEq, Repr

/-- What routing captures for an engine word (R23, R49, R52, R53, R179). -/
structure Capture where
  sa : Word
  sb : Word
  /-- The register s(16 + c) of a memory counter (R256). -/
  sm : Word
  /-- The scalar an XSCA names (R147). -/
  sv : Option Word
  mask : Nat
  zero : Bool
  sat : Bool
  imm : Nat
  rnd : Nat
  seed : Word
  step : Word
  vfmt : Word
  mfmt : Word
  mfmth : Word
  nest : NestDesc
  deriving DecidableEq, Repr

/-- A routed engine word: the instruction with every field as issued, its raw word and address, its place in routing
order, and its capture. -/
structure QWord where
  ins : Instr
  raw : IWord
  pc : Word
  uid : Nat
  cap : Capture
  deriving DecidableEq, Repr

/-- A trap raised but not yet entered (R342, R343, R349). `late`: it arose while the bank was in supervisor mode, so the
handler that runs has not seen it, and the ERET leaves it to be taken at the first user-mode boundary (R339, R344, R346). `sure`:
the ACCESS of an ABORT, which is entered without another check (R346). -/
structure TrapInfo where
  cause : Nat
  va : Word
  det : Word
  raw : IWord
  pc : Word
  uid : Nat
  late : Bool
  sure : Bool
  deriving DecidableEq, Repr

/-- What a ring word owes its ring until it completes (R116). -/
inductive RingOwe where
  | none
  | commit (ring n : Nat)
  | pop (ring n : Nat)
  deriving DecidableEq, Repr

/-- What a started word still does at its completion (R87, R88, R94, R96, R116, R278). -/
structure Finish where
  replies : List Word
  flags : Nat
  add : Bool
  qout : Option VReg
  bind : Option (Nat × KBind)
  deriving DecidableEq, Repr

/-- Why a started word stands still: an invalid translation (R260), a forbidden access it has trapped on (R260), a peer that has
not answered (R430), elements of a gather or scatter not settled (R274), its partner of a pair or a group (R245, R267), a frozen
member of its group (R229), room or an entry of a data queue or its scale bytes (R240, R264, R265), the acceptance of its
command (R88). -/
inductive Hold where
  | none | fault | trapped | laben | elements | partner | member | queue | accept
  deriving DecidableEq, Repr

/-- A started, uncompleted word. `log` holds the results of the memory accesses already made, in order, so that a held
word continues from its held access (R260). `ring2` is the second ring an MMA pops, `ring3` its metadata ring. -/
structure Flight where
  w : QWord
  log : List (List Byte)
  hold : Hold
  /-- Its next access fails: ABORT, or a peer that did not answer; `true` when the peer performed it (R394, R430). -/
  abort : Option Bool
  ring1 : RingOwe
  ring2 : RingOwe
  ring3 : RingOwe
  /-- The operation this word is the engine side of (R274, R288), when there is one. -/
  op : Option Nat
  fin : Option Finish
  /-- Lines of device DRAM it has touched, each counted once (R126). -/
  lines : List Nat
  deriving DecidableEq, Repr

/-- One engine of a context: its queue, its started words (oldest first) and the trap that holds its head (R343). -/
structure EngineSt where
  queue : List QWord
  flying : List Flight
  held : Option TrapInfo
  /-- The held word had been started and stays in `flying` (R260). -/
  heldFlying : Bool
  /-- The head word met an invalid translation before it started, and waits for the answer (R389); whether the answer was
  ABORT, or the peer did not answer (R394, R430). -/
  headWait : Bool
  headAbort : Option Bool
  /-- The results of the accesses the head word made before it met that fault, so that it makes none twice (R397), and the
  lines it touched. -/
  headLog : List (List Byte)
  headLines : List Nat
  /-- The head word has passed its queue-head checks before it may start (R307). -/
  headOk : Bool
  deriving DecidableEq, Repr

/-- The engines of a context with their token counters (pair p: down at 2p, up at 2p + 1; R86), the data queues of
R101, the reply queue (R96), the mark counts (R267) and the barrier of R343. -/
structure Engines where
  q : EngineSt
  l : EngineSt
  m : EngineSt
  v : EngineSt
  s : EngineSt
  t : EngineSt
  tok : Vector Nat 10
  qin : List VReg
  qout : List VReg
  reply : List Word
  lmarks : Vector Nat 16
  smarks : Vector Nat 16
  /-- Words routed at or after this place do not start (R343). -/
  barrier : Option Nat
  event : Bool
  deriving DecidableEq, Repr

/-! ### Spores and the life of a context -/

/-- A spore record (R65). -/
structure Spore where
  resume : Word
  reason : BitVec 2
  stage : BitVec 16
  hpend : Bool
  cvalid : Bool
  cancel : Bool
  prio : BitVec 3
  tag : BitVec 32
  task : Word
  carry : BitVec 32
  slot : BitVec 32
  arg0 : Word
  arg1 : Word
  arg2 : Word
  arg3 : Word
  deriving DecidableEq, Repr

/-- The state of a context (R20, R79, R369, R307). A stream uses `empty`, `running`, `stopped` and `frozen` (waiting in
place for a fault answer). `halting` is a double trap in its waits (R347). -/
inductive Status where
  | empty | standby | running | frozen | halting | stopped
  deriving DecidableEq, Repr

/-- The suspension word whose steps of R74 are under way, or the EXIT of R78. The `leave` forms have step 4 behind them: the
word suspends, and its record has not been accepted yet (R369 SUSPENDING). -/
inductive Drain where
  | none
  | yield
  | exit
  | waitge (va : Word) (scope : Nat) (val : Word)
  | spawn (va : Word)
  | leaveYield
  | leaveWait (va : Word) (scope : Nat) (val : Word)
  | leaveSpawn (va : Word)
  deriving DecidableEq, Repr

/-- Who runs on a context and where (R70, R72, R111, R369, R372 to R374). -/
structure Life where
  status : Status
  part : Nat
  asid : Nat
  inst : Nat
  stage : Nat
  item : Nat
  rcd : Spore
  /-- Placement of the window in the core's scratchpad, in bytes, and its size W in 16 KiB units. -/
  winBase : Nat
  winUnits : Nat
  tiles : Nat
  pickOrder : Nat
  drain : Drain
  yieldReq : Bool
  /-- The READY item that a pending request was posted for (R373); none for a request of R79 or R376. -/
  yieldFor : Option Nat
  /-- The trap-ring entry of the double trap that halts the bank (R347). -/
  halt : Option (List Byte)
  /-- Set by a withdrawal that came while the spore was on the core (R75, R370). -/
  withdrawn : Bool
  deriving DecidableEq, Repr

/-- One context: a bank of a core or the stream of a sequencer. -/
structure Ctx where
  life : Life
  fr : Front
  arch : Arch
  csr : UCsr
  trap : TrapCsr
  eng : Engines
  deriving DecidableEq, Repr

/-! ### Cores -/

/-- A B block of the matrix engine with its scales and tags (R225, R231). `pair` holds the codes of its entry of the
format table, `entry` its number. -/
structure BBlock where
  bytes : List Byte
  scales : List Byte
  entry : Nat
  pair : Nat
  spn : Nat
  ring : Nat
  deriving DecidableEq, Repr

/-- A region of the projection buffer: its shape and its BF16 values, row-major (R246). -/
structure Proj where
  dc : Nat
  d : Nat
  vals : List Nat
  deriving DecidableEq, Repr

/-- The matrix operand state of a core (R225), but for group membership. -/
structure MatState where
  shadow : Option BBlock
  resident : Option BBlock
  scaleA : List Byte
  scaleB : List Byte
  wk : Option Proj
  wv : Option Proj
  deriving DecidableEq, Repr

/-- What one core holds for both of its banks: the control store (R149), the matrix operand state with its owner and
the saved states of banks A and B (R225), and its data and instruction cache lines by physical line address (R121,
R122). -/
structure Core where
  cstore : KMap (List IWord × Bool)
  mat : MatState
  owner : Option Bool
  savedA : Option MatState
  savedB : Option MatState
  dcache : KMap (List Byte)
  icache : KMap (List Byte)
  deriving DecidableEq, Repr

/-- A member of a broadcast group: its bank, the bytes of the read that has reached it and that its word at the head has
yet to take (R243), and how many MQUIETs it has started (R245). -/
structure Member where
  core : Nat
  b : Bool
  got : Option (List Byte)
  quiets : Nat
  /-- It has needed a byte count other than the leader's: the group waits until it leaves (R243). -/
  odd : Bool
  /-- The bytes that have reached it were read from its own ring, which its word pops (R243). -/
  own : Bool
  deriving DecidableEq, Repr

/-- A broadcast group of a cluster (R242): the member count it waits for, whether it has been complete, its members. -/
structure BGroup where
  need : Nat
  complete : Bool
  members : List Member
  deriving DecidableEq, Repr

/-! ### Sequencers -/

/-- What a sequencer holds beside the context of its stream (R180 to R182, R306 to R309). -/
structure SeqSt where
  gen : BitVec 32
  down : List Word
  up : List Word
  /-- The bank that forked the stream, for its event flag (R189). -/
  forker : Option Nat
  stopPc : Word
  stopCause : Nat
  /-- The next resumption skips the stopped word (R309). -/
  skip : Bool
  /-- The stream is being ended by a CONT with END or by the disable of its partition (R309, R377). -/
  forced : Bool
  /-- A hardware message that waits for room (R181). -/
  pendMsg : List Word
  /-- An uncorrectable error met by an L word, reported at the next word boundary (R307): its virtual and physical address. -/
  uncorr : Option (Nat × Nat)
  /-- The front end as it stood before each engine word that has not retired, by the word's number, for routing a stopped word again
  (R309). -/
  fronts : List (Nat × Front)
  deriving DecidableEq, Repr

/-! ### Faults -/

/-- Who waits for the answer to a translation fault (R392). -/
inductive Waiter where
  | bank (core : Nat) (b : Bool)
  | stream (n : Nat)
  | element (core : Nat) (b : Bool) (op k : Nat)
  /-- A word that its spore has left behind: the bank or stream that issued it, and its operation (R74, R285; log 86). -/
  | left (a : AgentId) (op : Nat)
  deriving DecidableEq, Repr

/-- A fault event of an open batch (R389, R390); `acc` has bit 0 read, bit 1 write, bit 2 fetch. -/
structure FaultEvent where
  who : Waiter
  asid : Nat
  page : Nat
  acc : Nat
  deriving DecidableEq, Repr

/-- A fault record that is outstanding (R391); `written`: it stands in the fault ring, and is not one counted lost (R393). -/
structure FaultRec where
  fid : BitVec 32
  asid : Nat
  page : Nat
  pages : Nat
  acc : Nat
  who : List Waiter
  written : Bool
  deriving DecidableEq, Repr

/-! ### Launches, stages and items -/

/-- A stage descriptor (R361). `v40`, `v48` and `v56` are the words read by kind. -/
structure StageDesc where
  entry : Nat
  kind : Nat
  window : Nat
  tiles : Nat
  prio : Nat
  carry : Nat
  watchdog : Nat
  qbase : Nat
  bound : Nat
  items : Nat
  handler : Nat
  v40 : Nat
  v48 : Nat
  v56 : Nat
  next : Nat
  donectr : Nat
  gate0 : Nat
  thr0 : Nat
  gate1 : Nat
  thr1 : Nat
  deriving DecidableEq, Repr

/-- One stage of an instantiated launch: how many items are to be created, how many have been, whether its gates have
been found open, and whether its expansion has been ended (R364, R367, R423). -/
structure StageSt where
  total : Nat
  made : Nat
  open_ : Bool
  ended : Bool
  deriving DecidableEq, Repr

/-- An instantiated launch (R360, R364). `levels` are the loop table's used entries (kind, count). -/
structure Instance where
  id : Nat
  tag : BitVec 32
  asid : Nat
  args : List Word
  graph : Nat
  descs : List StageDesc
  levels : List (Nat × Nat)
  stages : List StageSt
  /-- Ring whose completion entry waits for the expansion (R360, R423). -/
  ring : Nat
  /-- The physical pages of 4 KiB that hold the stage queues: scheduler memory, which no user access reaches (R69, R383). -/
  qpages : List Nat
  deriving DecidableEq, Repr

/-- Where a compute item stands (R369), or whether a command item has been issued. `onCore` covers PICKUP to
SUSPENDING, RUNNING, STANDBY and FROZEN: the context says which. -/
inductive ItemState where
  | queued
  | ready (since : Nat) (order : Nat)
  | onCore (core : Nat) (b : Bool)
  | waiting (va : Word) (scope : Nat) (val : Word)
  | spawnwait (va : Word)
  | command
  deriving DecidableEq, Repr

/-- An item of a stage queue (R364), in creation order. -/
structure Item where
  id : Nat
  inst : Nat
  stage : Nat
  st : ItemState
  rcd : Spore
  /-- For an aging spore: when its priority last rose (R371). -/
  aged : Nat
  /-- The D coordinate of a spore that launch expansion created (R85). -/
  die : Option Nat
  /-- The address of the slot of its stage queue that holds its record, from its creation to its pickup (R361). -/
  place : Option Nat
  deriving DecidableEq, Repr

/-! ### Host rings -/

/-- A completion that has not been written (R421, R423). `inst` is the instance it waits for. -/
structure Compl where
  seq : BitVec 32
  cookie : Word
  status : Nat
  kind : Nat
  detail : Nat
  counts : Word
  inst : Option Nat
  deriving DecidableEq, Repr

/-- What a write of RCTL asked for and waits for the ring's completions (R424). -/
inductive RingAct where
  | none | rebase
  deriving DecidableEq, Repr

/-- A submission and completion ring beside its registers: the doorbell limit D (R422), completions owed (R423), a
pending re-base (R424), a delayed message (R427). -/
structure HostRing where
  d : BitVec 32
  owed : List Compl
  act : RingAct
  modPend : Bool
  /-- When the last completion message was sent (R427). -/
  lastMsg : Option Nat
  /-- Consumption has met an entry not yet written, and goes on at the next doorbell (R422). -/
  left : Bool
  /-- Base and LOG2 of the submission and the completion ring, as the last re-base took them (R424). -/
  sqBase : Nat
  sqLog : Nat
  cqBase : Nat
  cqLog : Nat
  deriving DecidableEq, Repr

/-! ### Partitions -/

/-- A partition: its register block by offset (R353, R378, R395, R412, R420, R427, R429, R444; an absent offset reads
as the register's reset value), its rings, its instances and items, the records and carries of suspended spores by slot number
(scheduler memory whose place the spec does not give; log 74), its faults, its provisioning queue. -/
structure Part where
  regs : KMap Word
  rings : Vector HostRing 4
  insts : List Instance
  items : List Item
  carries : KMap (List Byte)
  records : KMap (List Byte)
  nextSlot : Nat
  batch : Option (List FaultEvent)
  recs : List FaultRec
  /-- Host invalidations waiting behind the one in progress: TIBASE, TILEN, identifier (R388). -/
  invals : List (Nat × Nat × Nat)
  cmds : List Word
  /-- Items finished and withdrawn, for the counts of R301. -/
  finished : KMap Nat
  /-- The functions whose function-level resets wait for the partition's work to end (R419). -/
  flr : List Nat
  /-- Slots of suspended spores whose page in scheduler memory has no valid translation now (a fact of the host's tables; R69, R389,
  log 74). -/
  lost : List Nat
  deriving DecidableEq, Repr

/-! ### The retrieval store -/

/-- A region of a unit's flash. -/
inductive Region where
  | index | object
  deriving DecidableEq, Repr

/-- A retrieval unit (R302, R399, R409). `flashBad`: its flash refuses to be programmed or erased (a physical fact; R414). -/
structure IxUnit where
  failed : Bool
  flashBad : Bool
  mounting : Bool
  indexGib : Nat
  /-- Unreadable pages and whether the mark was made since mount. -/
  marks : List (Region × Nat × Bool)
  retries : Nat
  deriving DecidableEq, Repr

/-- A node of a version (R401, R402): identifier, tombstone, page, record offset in 8-byte units, references (identifier,
code). -/
structure Node where
  id : Nat
  tomb : Bool
  page : Nat
  off : Nat
  refs : List (Nat × Nat)
  deriving DecidableEq, Repr

/-- A retained version of an index (R402, R405). -/
structure Version where
  num : Nat
  logbase : Nat
  nodes : List Node
  deriving DecidableEq, Repr

/-- A log record (R403): position, identifier, and the code of an insert. -/
structure LogRec where
  pos : Nat
  id : Nat
  code : Option Nat
  deriving DecidableEq, Repr

/-- The state of an index slot (R414). -/
inductive IdxState where
  | free | building | built | mounted
  deriving DecidableEq, Repr

/-- A merge in progress: its merge point, the page reads it waits for, and whether it has met an unreadable page (R404, R405). -/
structure Merge where
  m : Nat
  base : Nat
  started : Bool
  reads : List Nat
  failed : Bool
  deriving DecidableEq, Repr

/-- An index slot (R400 to R405, R414). The version list is newest last; `serial` tells one index of a slot from the next. -/
structure Index where
  owner : Nat
  serial : Nat
  st : IdxState
  gen : BitVec 16
  cb : Nat
  deg : Nat
  place : List Nat
  stripe : Nat
  entry : Nat
  ecode : Nat
  nodes : Nat
  logcap : Nat
  versions : List Version
  log : List LogRec
  logpos : Nat
  merge : Option Merge
  mergeHold : Bool
  logHigh : Bool
  regionFull : Bool
  deriving DecidableEq, Repr

/-- A key-value object (R407): its directory entry and its body, the 64-byte header with the slot bytes after it. -/
structure KvObj where
  part : Nat
  unit : Nat
  id : Nat
  slotb : Nat
  cnt : Nat
  page : Nat
  data : List Byte
  deriving DecidableEq, Repr

/-- A page read that is being made (R409): attempt number, and what its events say of the earliest-accepted of the tasks that wait,
with the number of that acceptance. -/
structure PageRead where
  unit : Nat
  region : Region
  page : Nat
  attempt : Nat
  what : Nat
  tag : BitVec 32
  slot : Nat
  src : Nat
  part : Nat
  since : Nat
  deriving DecidableEq, Repr

/-! ### Operations in flight -/

/-- What settles of one element of a gather or scatter (R272, R274): `held` waits for the host, `doomed` too after one ABORT
among the answers it waits for; `retry` and `abort` have been answered (R394). -/
inductive ElemSt where
  | todo | held | doomed | abort | retry
  | done (code : Nat)
  deriving DecidableEq, Repr

/-- A gather or scatter (R271 to R276): descriptor fields, indices, states, and rows: a scatter's source rows; those a
gather has taken, which reach the window by whole 32-byte units (R112). -/
structure GatherOp where
  scatter : Bool
  base : Word
  rowoff : Nat
  stoff : Nat
  rowb : Nat
  stride : Nat
  limit : Nat
  wait : Bool
  hint : Nat
  sop : Nat
  efmt : Nat
  rpl : Bool
  idx : List Nat
  st : List ElemSt
  rows : List (List Byte)
  deriving DecidableEq, Repr

/-- A search (R290 to R294). `pin` is the index as it stood at acceptance, whose version `ver` and log below `logpos` the
search uses (R295); `c` holds (dist, node), `wait` the page reads of the round under way, whose nodes are `front`. -/
structure SearchOp where
  slot : Nat
  handle : Word
  qcode : Nat
  res : Word
  k : Nat
  l : Nat
  w : Nat
  hops : Nat
  /-- The handle named an index at the queue head (R290). -/
  known : Bool
  accepted : Bool
  /-- The number of its acceptance (R409). -/
  since : Nat
  pin : Option Index
  ver : Nat
  logpos : Nat
  c : List (Nat × Nat)
  x : List Nat
  seen : List Nat
  unread : List Nat
  rounds : Nat
  flags : Nat
  wait : List Nat
  front : List Nat
  status : Option Nat
  deriving DecidableEq, Repr

/-- One object of a fetch (R296, R297): identifier, block, what the directory said, its page reads, its end state. -/
structure FetchObj where
  id : Nat
  block : Word
  unit : Option Nat
  body : Option KvObj
  cnt : Nat
  begun : Bool
  wait : List Nat
  /-- A page of its body could not be read (R297, R409). -/
  bad : Bool
  st : Option Nat
  deriving DecidableEq, Repr

/-- A fetch (R296 to R298). -/
structure FetchOp where
  ent : Word
  pos : Nat
  slotb : Nat
  status : Word
  accepted : Bool
  since : Nat
  objs : List FetchObj
  deriving DecidableEq, Repr

/-- A log batch (R299); `home`: the unit that has accepted it, if its handle named an index then. -/
structure LogOp where
  handle : Word
  del : Bool
  list : Word
  posout : Word
  count : Nat
  home : Option Nat
  deriving DecidableEq, Repr

/-- What a command that outlives its word still has to do. -/
inductive OpBody where
  | gather (g : GatherOp)
  | search (g : SearchOp)
  | fetch (g : FetchOp)
  | log (g : LogOp)
  | snap (dst : Word) (handle : Word) (home : Option Nat)
  | walk (arr : Word) (nrec : Nat) (done : List Nat)
  | inval (base len asid : Nat) (host : Bool)
  | tables
  /-- A started word that names neither the window nor a local counter, after its spore has left its bank (R74, R285): the bank,
  its context as it was, with this word alone in its engines, and the engine. -/
  | word (a : AgentId) (c : Ctx) (e : Engine)
  deriving DecidableEq, Repr

/-- An operation in flight: who issued it (the context key, or none for a stage item), its partition, identifier and
tag, its counter and scope, the hint of its writes, and whether the tag has been withdrawn (R30, R93 to R95, R288). -/
structure Op where
  owner : Option Nat
  engine : Engine
  part : Nat
  asid : Nat
  tag : BitVec 32
  ctr : Ctr
  scope : Nat
  hint : Nat
  /-- The operation names the window or a local counter of its owner (R74). -/
  holds : Bool
  /-- It is carried by a spore or an item, and so by a tag (R301). -/
  tagged : Bool
  withdrawn : Bool
  body : OpBody
  deriving DecidableEq, Repr

/-! ### Memory hierarchy -/

/-- A cached translation (R385): the cache that holds it, its identifier, page base, page size, the leaf entry. -/
structure TlbEntry where
  cache : Nat
  asid : Nat
  base : Nat
  size : Nat
  leaf : Nat
  deriving DecidableEq, Repr

/-- A table entry in a walk cache (R385): the walker that holds it, its identifier, the level of its table (4 for a root entry),
the virtual addresses it covers (their number at that level), the entry. -/
structure WalkEntry where
  cache : Nat
  asid : Nat
  level : Nat
  pre : Nat
  entry : Nat
  deriving DecidableEq, Repr

/-- A line held in an L2 frame: its place 0 to 3 in the superblock, its size class and whether it is dirty (R123,
R124). -/
structure L2Line where
  pos : Nat
  cls : Nat
  dirty : Bool
  deriving DecidableEq, Repr

/-- A frame of an L2 set: its way, superblock, mark (0 normal, 1 evict-first, 2 retain), recency and lines (R123 to
R125). -/
structure L2Frame where
  way : Nat
  sb : Nat
  mark : Nat
  recency : Nat
  lines : List L2Line
  deriving DecidableEq, Repr

/-- A retention register (R128, R129): the pinned physical range, the ways reserved on each die, and the counts. -/
structure Pin where
  act : Bool
  base : Nat
  len : Nat
  ways : Nat
  part : Nat
  hits : Nat
  ovfl : Nat
  lines : Nat
  /-- Ways reserved by both copies. -/
  mask : List Nat
  deriving DecidableEq, Repr

/-- Which memory an error mark lies in (R438); `l2unit`: a 32-byte unit of a resident L2 line that was filled from a DRAM unit with an
uncorrectable error (log 17). -/
inductive ErrSpace where
  | dram | scratch | seqScratch | acc | reg | insn | queue | l2 | l2tag | l2unit | dcache | record | carry
  deriving DecidableEq, Repr

/-- A stored granule whose check bits disagree (R438 to R440): where, at which granule, and whether it can be
corrected. -/
structure ErrMark where
  space : ErrSpace
  unit : Nat
  addr : Nat
  correctable : Bool
  deriving DecidableEq, Repr

/-! ### Bring-up, attestation, power, peers -/

/-- A firmware image (R441): its public key, its security version, the digests of its three components, the components, its
signature. -/
structure Image where
  key : List Byte
  version : Nat
  digests : List (List Byte)
  comps : List (List Byte)
  sig : List Byte
  deriving DecidableEq, Repr

/-- The forms of the part (R1, R3): form code 3 is never reported. -/
inductive Form where
  | p16 | p08 | m16
  deriving DecidableEq, Repr

/-- Bring-up and attestation (R432 to R437, R441 to R443). -/
structure Boot where
  /-- When bring-up last made the device ready, in clk (R410). -/
  upAt : Nat
  powered : Bool
  phase : Nat
  fail : Nat
  ready : Bool
  form : Form
  stepping : Nat
  fusedVer : Nat
  /-- The digests in the four key slots of the fuses, and their revocation bits (R441). -/
  keySlots : List (List Byte)
  revoked : BitVec 4
  image0 : Option Image
  image1 : Option Image
  running : Option Image
  /-- Burnt reservation bits: the lowest `burnt` bits (R442). -/
  burnt : Nat
  nextLeaf : Nat
  atBuf : Option Nat
  atSnap : List Byte
  deriving DecidableEq, Repr

/-- The power states (R445, R446): of each cluster (absent: A0) and of the device, and the exits in progress with the state
each exit leads to. -/
structure Power where
  clusters : KMap Nat
  device : Nat
  exits : List (PowerUnit × Nat)
  deriving DecidableEq, Repr

/-- How a peer device answers (a physical fact of the world outside; R430). -/
inductive PeerMode where
  | answers | refuses | silent
  deriving DecidableEq, Repr

/-- What the machine does next, as plain data (log 2): a step of the device, one word of a context, or one of the happenings
that no row of the opcode table names. -/
inductive Move where
  | event (i : Instr)
  | control (a : AgentId)
  /-- A word that its spore has left behind goes on (R74, R285). -/
  | detached (op : Nat)
  /-- The host reads the 8-byte register at an offset of BAR 0 through a function (R9, R417); the answer is `State.reply`. -/
  | read (fn off : Nat)
  /-- A cache drops an entry of its own accord (R386): the k-th translation, the k-th table entry. -/
  | dropTlb (k : Nat)
  | dropWalk (k : Nat)
  /-- A core's data or instruction cache drops a line of its own accord (R121, R122). -/
  | dropLine (core line : Nat) (instr : Bool)
  /-- A physical error arises in a stored granule (R438). -/
  | upset (e : ErrMark)
  /-- From now on the flash of a retrieval unit can, or cannot, be programmed and erased (R414). -/
  | flash (unit : Nat) (bad : Bool)
  /-- A flit is replayed on the die-to-die link, or a DRAM link error is retried (R438, R439). -/
  | replay (dram : Bool)
  /-- The die-to-die link cannot retrain (R438). -/
  | d2dLost
  /-- A flit is replayed on a Laben port (R428). -/
  | flit (port : Nat)
  /-- A Laben port trains: lanes up and the number that the far end announces (R428). -/
  | link (port lanes peer : Nat)
  /-- The page that holds the record and the carry of a slot has, or has not, a valid translation from now on (R69, R389). -/
  | slotPage (part slot : Nat) (gone : Bool)
  /-- A buffered access, by its place in the buffer, is performed (R323). -/
  | perform (k : Nat)
  deriving DecidableEq, Repr

/-! ### The whole device -/

/-- The model's own bookkeeping (log 2, 3, 5): which moves come next, which context the control word of `exec` belongs
to, whether routed words start at once, the counter of free values taken, the next number of an operation, and whether accesses of
control cores are buffered. -/
structure Sched where
  agenda : List Move
  cur : AgentId
  eager : Bool
  freeCtr : Nat
  uid : Nat
  /-- Loads, stores and atomics of control cores wait in a buffer, as R318 allows (log 89). -/
  buffer : Bool
  deriving DecidableEq, Repr

/-- A translated place: TYPE, peer, physical or bus address, the evict-first attribute (R381). -/
structure Loc where
  typ : Nat
  peer : Nat
  pa : Nat
  ef : Bool
  deriving DecidableEq, Repr

/-- What a control-core access does at its place (R164, R166, R167, R175): a store of bytes; a load of `n` bytes into a register, with
or without sign; an AMO with its operation and scope, or a CAS, which acquires and promotes as its word says; a SIGNAL's add. -/
inductive HeldAct where
  | store (bytes : List Byte)
  | load (d n : Nat) (signed : Bool)
  | amo (d op : Nat) (x : Word) (scope : Nat) (acquires promotes : Bool)
  | cas (d : Nat) (old new : Word) (scope : Nat) (acquires promotes : Bool)
  | signal (x : Word)
  deriving DecidableEq, Repr

/-- A control-core access that is not yet performed (R318): the context, the place, and what it does there. -/
structure HeldAccess where
  ctx : Nat
  loc : Loc
  act : HeldAct
  deriving DecidableEq, Repr

/-- The memories of the device and of the world it reaches (R19, R25, R119, R352). Peer memory is keyed
2^52 × device + address; scratchpads 2^20 × core + offset and 2^18 × sequencer + offset. -/
structure Stores where
  dram : Mem
  host : Mem
  peer : Mem
  scratch : Mem
  seqScratch : Mem
  /-- The 8-byte words, as TYPE and place, whose last write belongs to the release sequence of an AMOP (R316, R321). -/
  promo : List (Nat × Nat)
  errs : List ErrMark
  /-- Loads, stores and atomics of control cores that are not yet performed, oldest first (R170, R318, R323). -/
  buf : List HeldAccess
  deriving DecidableEq, Repr

/-- The caches of the device (R123 to R129, R385). L2 sets are keyed 4,096 × slice + set. -/
structure Caches where
  tlb : List TlbEntry
  walks : List WalkEntry
  l2 : KMap (List L2Frame)
  l2clock : Nat
  pins : Vector Pin 16
  /-- The contexts that have read from an AMOP's release sequence since their last acquire at cluster scope or wider (R319, R321). -/
  saw : List Nat
  /-- The 8-byte words of held data-cache lines that were written by a release sequence of an AMOP when they were taken from memory, as
  data cache and address (R321). -/
  took : List (Nat × Nat)
  deriving DecidableEq, Repr

/-- The retrieval store (R399 to R414). -/
structure Store where
  units : Vector IxUnit 8
  indexes : KMap Index
  objects : List KvObj
  reads : KMap PageRead
  deriving DecidableEq, Repr

/-- What the last read of the host or the last request of a peer was answered with (R9, R418, R429, R440): data, a Completer
Abort, or a refusal. -/
inductive Reply where
  | none
  | data (bs : List Byte)
  | abort
  | refused
  deriving DecidableEq, Repr

/-- The machine. Contexts are keyed 2 × core + bank and 1,000 + sequencer; an absent context, core, sequencer, group or
partition is as reset left it. -/
structure State where
  sch : Sched
  now : Nat
  mem : Stores
  cache : Caches
  ctxs : KMap Ctx
  cores : KMap Core
  seqs : KMap SeqSt
  groups : KMap BGroup
  parts : Vector Part 8
  dregs : KMap Word
  ops : KMap Op
  store : Store
  boot : Boot
  power : Power
  peers : KMap PeerMode
  msix : List Nat
  reply : Reply
  deriving DecidableEq, Repr

/-- Why a step stops for good. -/
inductive Fault where
  /-- Raised by `exec` of an instruction word when the state names no running context to run it (`sch.cur` is an empty
  bank or sequencer): no hardware state does that, and `step` never does. Safe. -/
  | noRunningContext
  deriving DecidableEq, Repr

/-- Why the model declines an instruction. -/
inductive Refusal where
  /-- Raised by an arm of `exec` whose instruction has no meaning in the model. Safe. -/
  | notModelled (mnemonic : String)
  deriving DecidableEq, Repr

/-! ### Reset -/

/-- No prefix. -/
def Prefixes.reset : Prefixes := ⟨none, none, none, none⟩

/-- An open group with no word yet. -/
def GroupSt.reset : GroupSt := ⟨0, [], []⟩

/-- A front end at PC 0 with nothing pending. -/
def Front.reset : Front := ⟨0, GroupSt.reset, Prefixes.reset, 0, none, .none, none, false⟩

/-- A disabled ring with pointers 0 (R114, R115). -/
def Ring.reset : Ring := ⟨0, 0, 0, 0⟩

/-- A nest slot with LEVELS 0 (R106). -/
def NestDesc.reset : NestDesc := ⟨0, 0, 0, 0, 0, []⟩

/-- Every register 0, unbound or empty (R70, R99). -/
def Arch.reset : Arch :=
  ⟨Vector.replicate 32 0, Vector.replicate 30 0, Vector.replicate 8 0, Vector.replicate 8 .unbound, [],
   Vector.replicate 16 0, Vector.replicate 8 Ring.reset, Vector.replicate 8 NestDesc.reset⟩

/-- Every user CSR 0 (R54, R68, R71, R107 to R109, R113, R126, R127, R310). -/
def UCsr.reset : UCsr :=
  ⟨0, 0, 0, 0, 0, 0, 0, 0, 0, 0, Vector.replicate 4 0, 0, 0, 0, 0, 0, 0⟩

/-- The reset value of TOKWD (R92). -/
def tokwdReset : Word := 0x100000

/-- Every supervisor CSR 0 but TOKWD (R340). -/
def TrapCsr.reset : TrapCsr :=
  ⟨false, false, 0, 0, 0, 0, 0, 0, Vector.replicate 4 0, 0, 0, 0, tokwdReset, 0, none, none⟩

/-- An idle engine. -/
def EngineSt.reset : EngineSt := ⟨[], [], none, false, false, none, [], [], false⟩

/-- Idle engines, counters 0, queues empty (R70, R86, R96, R101). -/
def Engines.reset : Engines :=
  ⟨.reset, .reset, .reset, .reset, .reset, .reset, Vector.replicate 10 0, [], [], [],
   Vector.replicate 16 0, Vector.replicate 16 0, none, false⟩

/-- A record of zeros. -/
def Spore.reset : Spore := ⟨0, 0, 0, false, false, false, 0, 0, 0, 0, 0, 0, 0, 0, 0⟩

/-- Nobody on the context. -/
def Life.reset : Life :=
  ⟨.empty, 0, 0, 0, 0, 0, Spore.reset, 0, 0, 0, 0, .none, false, none, none, false⟩

/-- An empty context bank, or a sequencer without a stream. -/
def Ctx.reset : Ctx := ⟨Life.reset, Front.reset, Arch.reset, UCsr.reset, TrapCsr.reset, Engines.reset⟩

/-- Matrix operand state empty and unloaded (R225). -/
def MatState.reset : MatState := ⟨none, none, [], [], none, none⟩

/-- A core after bring-up: no control-store entry loaded (R149). -/
def Core.reset : Core := ⟨[], MatState.reset, none, none, none, [], []⟩

/-- A sequencer that never ran a stream. -/
def SeqSt.reset : SeqSt := ⟨0, [], [], none, 0, 0, false, false, [], none, []⟩

/-- A ring with nothing owed. -/
def HostRing.reset : HostRing := ⟨0, [], .none, false, none, false, 0, 0, 0, 0⟩

/-- A partition whose block holds its reset values (R353). -/
def Part.reset : Part :=
  ⟨[], Vector.replicate 4 HostRing.reset, [], [], [], [], 0, none, [], [], [], [], [], []⟩

/-- A healthy, unformatted unit (log 21). -/
def IxUnit.reset : IxUnit := ⟨false, false, false, 0, [], 0⟩

/-- A retention register that holds no pin (R129). -/
def Pin.reset : Pin := ⟨false, 0, 0, 0, 0, 0, 0, 0, []⟩

/-- The device before power good (R432 to R434): a P16 of stepping 1 with nothing fused but that (log 10, 18, 19). -/
def Boot.reset : Boot :=
  ⟨0, false, 0, 0, false, .p16, 1, 0, List.replicate 4 (List.replicate 32 0), 0, none, none, none, 0, 0, none, []⟩

/-- The machine right after reset: every register at the value the spec gives it, every memory unlisted, no launch, no
spore, no power good yet (R434); where the spec gives no value, the value a log entry names (log 2 to 21). -/
def State.reset : State where
  sch := ⟨[], .bank 0 false, true, 0, 0, false⟩
  now := 0
  mem := ⟨[], [], [], [], [], [], [], []⟩
  cache := ⟨[], [], [], 0, Vector.replicate 16 Pin.reset, [], []⟩
  ctxs := []
  cores := []
  seqs := []
  groups := []
  parts := Vector.replicate 8 Part.reset
  dregs := []
  ops := []
  store := ⟨Vector.replicate 8 IxUnit.reset, [], [], []⟩
  boot := Boot.reset
  power := ⟨[], 0, []⟩
  peers := []
  msix := []
  reply := .none

end Sys2Proof.Machine
end

