-- ==== Sys2Proof/Machine/Maps.lean ====
section
/-! DEFINITION. Sparse maps and byte memories: reading, writing, and the canonical form of a memory (strictly rising
addresses, no entry equal to what an unlisted address reads as). -/

namespace Sys2Proof.Machine

/-- The entry of a sorted map at a key. -/
def kfind {α : Type} : KMap α → Nat → Option α
  | [], _ => none
  | (j, x) :: r, k => if k < j then none else if k = j then some x else kfind r k

/-- The entry at a key, or a default. -/
def kget {α : Type} (d : α) (m : KMap α) (k : Nat) : α := (kfind m k).getD d

/-- Insert or replace, keeping the keys rising. -/
def kput {α : Type} : KMap α → Nat → α → KMap α
  | [], k, x => [(k, x)]
  | (j, y) :: r, k, x =>
    if k < j then (k, x) :: (j, y) :: r else if k = j then (k, x) :: r else (j, y) :: kput r k x

/-- Remove the entry at a key. -/
def kerase {α : Type} : KMap α → Nat → KMap α
  | [], _ => []
  | (j, y) :: r, k => if k < j then (j, y) :: r else if k = j then r else (j, y) :: kerase r k

/-- Every key of a list is above `n`. -/
def keysAbove {α : Type} (n : Nat) : KMap α → Bool
  | [] => true
  | (j, _) :: _ => decide (n < j)

/-- The keys rise strictly. -/
def ksorted {α : Type} : KMap α → Bool
  | [] => true
  | (j, _) :: r => keysAbove j r && ksorted r

/-- The canonical form of a memory: rising addresses and no zero byte listed (an unlisted byte reads as 0; log 7, 8,
9). -/
def Memory.wf (m : Mem) : Bool := ksorted m && m.all (fun c => c.2 != 0)

/-- One byte. -/
def mget (m : Mem) (a : Nat) : Byte := kget 0 m a

/-- Write one byte, keeping the canonical form. -/
def mset (m : Mem) (a : Nat) (b : Byte) : Mem := if b = 0 then kerase m a else kput m a b

/-- `n` bytes from address `a` up. -/
def mread (m : Mem) (a : Nat) : Nat → List Byte
  | 0 => []
  | n + 1 => mget m a :: mread m (a + 1) n

/-- Write a run of bytes from address `a` up. -/
def mwrite (m : Mem) (a : Nat) : List Byte → Mem
  | [] => m
  | b :: r => mwrite (mset m a b) (a + 1) r

/-- Little-endian value of a byte list (R8). -/
def leVal : List Byte → Nat
  | [] => 0
  | b :: r => b.toNat + 256 * leVal r

/-- The `n` little-endian bytes of a number (R8). -/
def leList : Nat → Nat → List Byte
  | 0, _ => []
  | n + 1, x => BitVec.ofNat 8 x :: leList n (x / 256)

/-- Replace element `i` of a list, when it has one. -/
def listSet {α : Type} : List α → Nat → α → List α
  | [], _, _ => []
  | _ :: r, 0, x => x :: r
  | y :: r, i + 1, x => y :: listSet r i x

/-- Element `i` of a list, or a default. -/
def listGet {α : Type} (d : α) : List α → Nat → α
  | [], _ => d
  | x :: _, 0 => x
  | _ :: r, i + 1 => listGet d r i

/-- A field of a register: `x` with bits `hi .. lo` replaced by `v`. -/
def setBits (x hi lo v : Nat) : Nat :=
  x - bits x hi lo * 2 ^ lo + (v % 2 ^ (hi + 1 - lo)) * 2 ^ lo

/-- Bits `hi .. lo` of a 64-bit register. -/
def wbits (x : Word) (hi lo : Nat) : Nat := bits x.toNat hi lo

end Sys2Proof.Machine
end

