-- ==== Sys2Proof/Machine/Formats.lean ====
section
/-! DEFINITION. The number formats: integer and binary, floating, E8M0 scales, the format codes of vector and matrix
words, and exact values (R33 to R44, R59). -/

namespace Sys2Proof.Machine

/-- The floating formats (R37). -/
inductive Flt where
  | e2m1 | e2m3 | e3m2 | e4m3 | e5m2 | bf16 | fp16 | fp32
  deriving DecidableEq, Repr

/-- An element format of a vector word (R43). -/
inductive Fmt where
  | sint (w : Nat)
  | uint (w : Nat)
  | flt (f : Flt)
  | bin
  deriving DecidableEq, Repr

/-- Exponent bits (R37). -/
def fltE : Flt → Nat
  | .e2m1 | .e2m3 => 2
  | .e3m2 => 3
  | .e4m3 => 4
  | .e5m2 | .fp16 => 5
  | .bf16 | .fp32 => 8

/-- Mantissa bits (R37). -/
def fltM : Flt → Nat
  | .e2m1 => 1
  | .e2m3 => 3
  | .e3m2 => 2
  | .e4m3 => 3
  | .e5m2 => 2
  | .fp16 => 10
  | .bf16 => 7
  | .fp32 => 23

/-- Exponent bias (R37). -/
def fltBias : Flt → Nat
  | .e2m1 | .e2m3 => 1
  | .e3m2 => 3
  | .e4m3 => 7
  | .e5m2 | .fp16 => 15
  | .bf16 | .fp32 => 127

/-- The code of the largest finite value (R37). -/
def fltMax : Flt → Nat
  | .e2m1 => 0x7
  | .e2m3 | .e3m2 => 0x1F
  | .e4m3 => 0x7E
  | .e5m2 => 0x7B
  | .fp16 => 0x7BFF
  | .bf16 => 0x7F7F
  | .fp32 => 0x7F7FFFFF

/-- The code of +∞ (R37). -/
def fltInf : Flt → Option Nat
  | .e5m2 => some 0x7C
  | .fp16 => some 0x7C00
  | .bf16 => some 0x7F80
  | .fp32 => some 0x7F800000
  | _ => none

/-- The canonical NaN (R39). -/
def fltNan : Flt → Option Nat
  | .e4m3 => some 0x7F
  | .e5m2 => some 0x7E
  | .fp16 => some 0x7E00
  | .bf16 => some 0x7FC0
  | .fp32 => some 0x7FC00000
  | _ => none

/-- Bits of a floating value: sign, exponent, mantissa. -/
def fltW (f : Flt) : Nat := 1 + fltE f + fltM f

/-- The exponent of the smallest normal value. -/
def eminOf (f : Flt) : Int := 1 - (fltBias f : Int)

/-- The exponent of the largest normal value of an MX element format (R45). For FP16, BF16 and FP32, which MDRAIN admits with MX = 1 (R241)
and R45 does not list, it is the exponent that the same words give (DEDUCED, log 79). -/
def emaxOf : Flt → Int
  | .e2m1 | .e2m3 => 2
  | .e3m2 => 4
  | .e4m3 => 8
  | .e5m2 | .fp16 => 15
  | .bf16 | .fp32 => 127

/-- The vector format of a 5-bit code; codes 17 to 31 are reserved (R43). -/
def fmtOfCode : Nat → Option Fmt
  | 0 => some (.sint 4)
  | 1 => some (.uint 4)
  | 2 => some (.sint 8)
  | 3 => some (.uint 8)
  | 4 => some (.sint 16)
  | 5 => some (.uint 16)
  | 6 => some (.sint 32)
  | 7 => some (.uint 32)
  | 8 => some (.flt .e2m1)
  | 9 => some (.flt .e2m3)
  | 10 => some (.flt .e3m2)
  | 11 => some (.flt .e4m3)
  | 12 => some (.flt .e5m2)
  | 13 => some (.flt .bf16)
  | 14 => some (.flt .fp16)
  | 15 => some (.flt .fp32)
  | 16 => some .bin
  | _ => none

/-- The matrix format of a 4-bit code; codes 10 to 15 are reserved (R41). -/
def matFmtOfCode : Nat → Option Fmt
  | 0 => some (.flt .e2m1)
  | 1 => some (.flt .e2m3)
  | 2 => some (.flt .e3m2)
  | 3 => some (.flt .e4m3)
  | 4 => some (.flt .e5m2)
  | 5 => some (.sint 8)
  | 6 => some (.sint 4)
  | 7 => some (.flt .bf16)
  | 8 => some (.flt .fp16)
  | 9 => some .bin
  | _ => none

/-- The MX flag is allowed on a format (R41). -/
def mxAllowed : Fmt → Bool
  | .flt .e2m1 | .flt .e2m3 | .flt .e3m2 | .flt .e4m3 | .flt .e5m2 => true
  | _ => false

/-- The value width of a format in bits: 6 for E2M3 and E3M2. -/
def fmtW : Fmt → Nat
  | .sint w | .uint w => w
  | .flt f => fltW f
  | .bin => 1

/-- The stored width: a 6-bit element takes a byte (R34). -/
def storedW : Fmt → Nat
  | .flt .e2m3 | .flt .e3m2 => 8
  | f => fmtW f

/-- Is the format floating? -/
def isFlt : Fmt → Bool
  | .flt _ => true
  | _ => false

/-- Is the format an integer one? -/
def isInt : Fmt → Bool
  | .sint _ | .uint _ => true
  | _ => false

/-- Arithmetic class of a matrix format: 0 floating, 1 integer, 2 binary (R41). -/
def fmtClass : Fmt → Nat
  | .flt _ => 0
  | .sint _ | .uint _ => 1
  | .bin => 2

/-- An exact value: NaN, a signed infinity, or ± m × 2^e with a signed zero. `st` marks a value that lies strictly
between m and m + 1 units of 2^e: a quotient or a root that has been cut far below any bit a rounding looks at. -/
inductive FVal where
  | nan
  | inf (neg : Bool)
  | fin (neg : Bool) (m : Nat) (e : Int) (st : Bool)
  deriving DecidableEq, Repr

/-- +0. -/
def FVal.zero : FVal := .fin false 0 0 false

/-- The exact value of an integer. -/
def fvInt (x : Int) : FVal := .fin (decide (x < 0)) x.natAbs 0 false

/-- The value of a floating code (R37). -/
def fltValue (f : Flt) (x : Nat) : FVal :=
  let neg := bit x (fltW f - 1)
  let mag := x % 2 ^ (fltW f - 1)
  let ex := mag / 2 ^ fltM f
  let ma := mag % 2 ^ fltM f
  if mag ≤ fltMax f then
    if ex = 0 then .fin neg ma (eminOf f - fltM f) false
    else .fin neg (2 ^ fltM f + ma) ((ex : Int) - fltBias f - fltM f) false
  else if fltInf f == some mag then .inf neg
  else .nan

/-- The value of an element of any format; a B1 element is +1 or −1 (R35). -/
def fmtValue (f : Fmt) (x : Nat) : FVal :=
  match f with
  | .sint w => fvInt (toSigned w x)
  | .uint w => fvInt ((x % 2 ^ w : Nat) : Int)
  | .flt g => fltValue g (x % 2 ^ fltW g)
  | .bin => fvInt (if x % 2 = 1 then -1 else 1)

/-- Is the value a zero? -/
def fvIsZero : FVal → Bool
  | .fin _ 0 _ false => true
  | _ => false

/-- Is the value a NaN? -/
def fvIsNan : FVal → Bool
  | .nan => true
  | _ => false

/-- The sign of a value; a NaN has none. -/
def fvNeg : FVal → Bool
  | .nan => false
  | .inf n => n
  | .fin n _ _ _ => n

/-- The negated value. -/
def fvNegate : FVal → FVal
  | .nan => .nan
  | .inf n => .inf (!n)
  | .fin n m e st => .fin (!n) m e st

/-- The magnitude. -/
def fvAbs : FVal → FVal
  | .nan => .nan
  | .inf _ => .inf false
  | .fin _ m e st => .fin false m e st

/-- Times a power of two, exactly. -/
def fvScale (x : FVal) (k : Int) : FVal :=
  match x with
  | .fin n m e st => .fin n m (e + k) st
  | y => y

/-- m × 2^(e − e0) for e0 ≤ e. -/
def shiftTo (m : Nat) (e e0 : Int) : Nat := m * 2 ^ (e - e0).toNat

/-- The sum of two finite values as a signed integer of the lower exponent. -/
def sumInt (n1 : Bool) (m1 : Nat) (e1 : Int) (n2 : Bool) (m2 : Nat) (e2 : Int) : Int × Int :=
  let e0 := min e1 e2
  let a : Int := shiftTo m1 e1 e0
  let b : Int := shiftTo m2 e2 e0
  ((if n1 then -a else a) + (if n2 then -b else b), e0)

/-- Exact addition, with the flag NV (1) for +∞ plus −∞ (R39). A zero sum of values that are not both −0 is +0, and −0
toward −∞ when the values are not both +0 (IEEE 754). -/
def fvAdd (x y : FVal) (rdn : Bool) : FVal × Nat :=
  match x, y with
  | .nan, _ => (.nan, 0)
  | _, .nan => (.nan, 0)
  | .inf a, .inf b => if a = b then (.inf a, 0) else (.nan, 1)
  | .inf a, _ => (.inf a, 0)
  | _, .inf b => (.inf b, 0)
  | .fin n1 m1 e1 _, .fin n2 m2 e2 _ =>
    let (i, e) := sumInt n1 m1 e1 n2 m2 e2
    if i = 0 then (.fin (if n1 = n2 then n1 else rdn) 0 0 false, 0)
    else (.fin (decide (i < 0)) i.natAbs e false, 0)

/-- Exact multiplication, with NV for 0 × ∞ (R39). -/
def fvMul (x y : FVal) : FVal × Nat :=
  match x, y with
  | .nan, _ => (.nan, 0)
  | _, .nan => (.nan, 0)
  | .inf a, .inf b => (.inf (a != b), 0)
  | .inf a, .fin b m _ _ => if m = 0 then (.nan, 1) else (.inf (a != b), 0)
  | .fin a m _ _, .inf b => if m = 0 then (.nan, 1) else (.inf (a != b), 0)
  | .fin a m1 e1 _, .fin b m2 e2 _ => (.fin (a != b) (m1 * m2) (e1 + e2) false, 0)

/-- x × y + z with one exact result: a NaN operand takes precedence over 0 × ∞ (R39). -/
def fvFma (x y z : FVal) (rdn : Bool) : FVal × Nat :=
  if fvIsNan x || fvIsNan y || fvIsNan z then (.nan, 0)
  else
    let (p, f) := fvMul x y
    if f = 1 then (.nan, 1) else fvAdd p z rdn

/-- The order of two values that are not NaN: −0 and +0 are equal. -/
def fvLt (x y : FVal) : Bool :=
  match x, y with
  | .inf a, .inf b => a && !b
  | .inf a, _ => a
  | _, .inf b => !b
  | .fin n1 m1 e1 _, .fin n2 m2 e2 _ => decide ((sumInt n1 m1 e1 (!n2) m2 e2).1 < 0)
  | _, _ => false

/-- Numeric equality of two values that are not NaN. -/
def fvEq (x y : FVal) : Bool :=
  match x, y with
  | .inf a, .inf b => a == b
  | .fin n1 m1 e1 _, .fin n2 m2 e2 _ => decide ((sumInt n1 m1 e1 (!n2) m2 e2).1 = 0)
  | _, _ => false

/-- What one product of an exact sum is (R59). -/
inductive Prod where
  | nan | zinf
  | inf (neg : Bool)
  | fin (neg : Bool) (m : Nat) (e : Int)
  deriving DecidableEq, Repr

/-- A product for an exact sum. -/
def prodOf (x y : FVal) : Prod :=
  match fvMul x y with
  | (.nan, 1) => .zinf
  | (.nan, _) => .nan
  | (.inf n, _) => .inf n
  | (.fin n m e _, _) => .fin n m e

/-- The sum of the finite products as an integer of an exponent. -/
def sumFin : List Prod → Int × Int
  | [] => (0, 0)
  | .fin n m e :: r =>
    let (i, e1) := sumFin r
    let e0 := min e e1
    let a : Int := shiftTo m e e0
    ((if n then -a else a) + i * 2 ^ (e1 - e0).toNat, e0)
  | _ :: r => sumFin r

/-- exactSum with its NV flag (R59); an empty sum is +0. -/
def exactSum (ps : List Prod) : FVal × Nat :=
  if ps.any (· == .nan) then (.nan, 0)
  else if ps.any (· == .zinf) then (.nan, 1)
  else
    let pos := ps.any (· == .inf false)
    let neg := ps.any (· == .inf true)
    if pos && neg then (.nan, 1)
    else if pos then (.inf false, 0)
    else if neg then (.inf true, 0)
    else
      let (i, e) := sumFin ps
      if i = 0 then
        (.fin (!ps.isEmpty && ps.all fun p => match p with
          | .fin n m _ => n && m == 0
          | _ => false) 0 0 false, 0)
      else (.fin (decide (i < 0)) i.natAbs e false, 0)

/-- The value of an E8M0 scale as an exponent; 0xFF is NaN (R40). -/
def scaleExp (s : Byte) : Option Int := if s.toNat = 0xFF then none else some ((s.toNat : Int) - 127)

end Sys2Proof.Machine
end

