-- ==== Sys2Proof/Machine/Flags.lean ====
section
/-! DEFINITION. Rounding and conversion with their flags: roundInt, roundToFormat, overflow, stochastic bits, mxQuantise,
conversions, and the fpDot of the matrix engine (R36, R45 to R58, R63). A flag set is a number: NV 1, DZ 2, OF 4, UF 8,
NX 16, SAT 32. -/

namespace Sys2Proof.Machine

/-- Invalid (R63). -/
def fNV : Nat := 1
/-- Exact infinity from a zero operand (R63). -/
def fDZ : Nat := 2
/-- Overflow (R63). -/
def fOF : Nat := 4
/-- Tiny and inexact (R63). -/
def fUF : Nat := 8
/-- Inexact (R63). -/
def fNX : Nat := 16
/-- Clamped (R63). -/
def fSAT : Nat := 32

/-- A captured rounding: the mode (0 RNE, 1 RTZ, 2 RUP, 3 RDN, 4 RST) and the word's seed and step (R49, R52). -/
structure Rnd where
  mode : Nat
  seed : Nat
  step : Nat
  deriving DecidableEq, Repr

/-- Round to nearest even, as R55 fixes. -/
def rne : Rnd := ⟨0, 0, 0⟩

/-- The mixing function of stochBits and VHASH (R52, R209). -/
def mix64 (h : Nat) : Nat :=
  let h := h ^^^ (h / 2 ^ 33)
  let h := h * 0xFF51AFD7ED558CCD % 2 ^ 64
  let h := h ^^^ (h / 2 ^ 33)
  let h := h * 0xC4CEB9FE1A85EC53 % 2 ^ 64
  h ^^^ (h / 2 ^ 33)

/-- The 16 stochastic bits of an element (R52). -/
def stochBits (r : Rnd) (idx : Nat) : Nat :=
  mix64 (r.seed ^^^ (r.step * 0x9E3779B97F4A7C15 % 2 ^ 64) ^^^ (idx * 0xC2B2AE3D27D4EB4F % 2 ^ 64)) % 2 ^ 16

/-- roundInt of R50 for y = (m, with a sticky part) / 2^d: the integer and whether it differs from y. -/
def roundShift (m : Nat) (st : Bool) (d : Nat) (neg : Bool) (r : Rnd) (idx : Nat) : Nat × Bool :=
  let fl := m / 2 ^ d
  let rem := m % 2 ^ d
  let inexact := rem != 0 || st
  let up := match r.mode with
    | 0 => if d = 0 then false
           else decide (2 ^ (d - 1) < rem) || (rem == 2 ^ (d - 1) && (st || fl % 2 == 1))
    | 1 => false
    | 2 => inexact && !neg
    | 3 => inexact && neg
    | _ => decide (2 ^ 16 ≤ m * 2 ^ 16 / 2 ^ d % 2 ^ 16 + stochBits r idx)
  (if up then fl + 1 else fl, inexact)

/-- roundInt of a magnitude m × 2^e to a multiple of 2^eq: the multiple and whether it is inexact. -/
def roundMag (m : Nat) (e : Int) (st : Bool) (eq : Int) (neg : Bool) (r : Rnd) (idx : Nat) : Nat × Bool :=
  if eq ≤ e then
    let (n, x) := roundShift (shiftTo m e eq) st 0 neg r idx
    (n, x)
  else roundShift m st (eq - e).toNat neg r idx

/-- The bits of a sign and a magnitude code. -/
def signed (f : Flt) (neg : Bool) (mag : Nat) : Nat := mag + b2n neg * 2 ^ (fltW f - 1)

/-- The result of an overflow (R51), without OF and NX. -/
def overflowResult (f : Flt) (mode : Nat) (neg sat : Bool) : Nat × Nat :=
  if sat then (signed f neg (fltMax f), fSAT)
  else if mode = 0 || mode ≥ 4 || (mode = 2 && !neg) || (mode = 3 && neg) then
    match fltInf f with
    | some i => (signed f neg i, 0)
    | none =>
      match fltNan f with
      | some n => (n, 0)
      | none => (signed f neg (fltMax f), fSAT)
  else (signed f neg (fltMax f), 0)

/-- roundToFormat (R50): the code and the flags. -/
def roundToFormat (x : FVal) (f : Flt) (r : Rnd) (sat : Bool) (idx : Nat) : Nat × Nat :=
  match x with
  | .nan =>
    match fltNan f with
    | some n => (n, 0)
    | none => (0, fNV)
  | .inf neg =>
    match fltInf f, sat with
    | some i, false => (signed f neg i, 0)
    | _, _ => if f = .e4m3 && !sat then (0x7F, fNV) else (signed f neg (fltMax f), fSAT)
  | .fin neg m e st =>
    if m = 0 && !st then (signed f neg 0, 0)
    else
      let lg : Int := if m = 0 then eminOf f else (Nat.log2 m : Int) + e
      let ex := max lg (eminOf f)
      let (n, inexact) := roundMag m e st (ex - fltM f) neg r idx
      let mag := if n < 2 ^ fltM f then n
        else ((ex + fltBias f).toNat) * 2 ^ fltM f + (n - 2 ^ fltM f)
      let nx := if inexact then fNX else 0
      if fltMax f < mag then
        let (v, g) := overflowResult f r.mode neg sat
        (v, fOF ||| fNX ||| g)
      else if inexact && decide (mag < 2 ^ fltM f) then (signed f neg mag, nx ||| fUF)
      else (signed f neg mag, nx)

/-- Smallest and largest value of an integer format (R33). -/
def intRange : Fmt → Int × Int
  | .sint w => (-(2 ^ (w - 1) : Nat), (2 ^ (w - 1) : Nat) - 1)
  | .uint w => (0, (2 ^ w : Nat) - 1)
  | _ => (0, 1)

/-- An exact integer into an integer format: wrapped, or clamped with SAT (R36). -/
def intInto (f : Fmt) (x : Int) (sat : Bool) : Nat × Nat :=
  let (lo, hi) := intRange f
  if sat then
    if x < lo then (ofSigned (fmtW f) lo, fSAT)
    else if hi < x then (ofSigned (fmtW f) hi, fSAT)
    else (ofSigned (fmtW f) x, 0)
  else (ofSigned (fmtW f) x, 0)

/-- A floating value into an integer format, always saturating (R56). -/
def fltToInt (x : FVal) (f : Fmt) (r : Rnd) (idx : Nat) : Nat × Nat :=
  let (lo, hi) := intRange f
  match x with
  | .nan => (0, fNV)
  | .inf neg => (ofSigned (fmtW f) (if neg then lo else hi), fNV ||| fSAT)
  | .fin neg m e st =>
    let (n, inexact) := roundMag m e st 0 neg r idx
    let v : Int := if neg then -(n : Int) else n
    if v < lo then (ofSigned (fmtW f) lo, fNV ||| fSAT)
    else if hi < v then (ofSigned (fmtW f) hi, fNV ||| fSAT)
    else (ofSigned (fmtW f) v, if inexact then fNX else 0)

/-- The integer an element of an integer format holds. -/
def intValue (f : Fmt) (x : Nat) : Int :=
  match f with
  | .sint w => toSigned w x
  | _ => ((x % 2 ^ fmtW f : Nat) : Int)

/-- Conversion of an exact value into a format (R35, R56); integers into integers follow R36. -/
def convertVal (x : FVal) (dst : Fmt) (r : Rnd) (sat : Bool) (idx : Nat) : Nat × Nat :=
  match dst with
  | .flt f => roundToFormat x f r sat idx
  | .bin =>
    match x with
    | .nan => (0, fNV)
    | y => (b2n (fvNeg y), 0)
  | i => fltToInt x i r idx

/-- Conversion of an element from one format to another (R35, R36, R56, R57). −1 of B1 in an unsigned integer format wraps, or with
saturation clamps to 0 and sets SAT; an infinity that is widened with saturation is clamped as R50 says (DESIGN CHOICE, log 79). -/
def convert (src dst : Fmt) (x : Nat) (r : Rnd) (sat : Bool) (idx : Nat) : Nat × Nat :=
  match src, dst with
  | .flt g, d => convertVal (fltValue g (x % 2 ^ fltW g)) d r sat idx
  | s, .flt f => roundToFormat (fmtValue s x) f r sat idx
  | .bin, .bin => (x % 2, 0)
  | .bin, d => intInto d (if x % 2 = 1 then -1 else 1) sat
  | s, .bin => (b2n (decide (intValue s x < 0)), 0)
  | s, d => intInto d (intValue s x) sat

/-- mxQuantise (R45) of values with their RST indices: scale, elements, flags. -/
def mxQuantise (xs : List (FVal × Nat)) (f : Flt) (r : Rnd) : Nat × List Nat × Nat :=
  let special := xs.any fun x => match x.1 with
    | .nan => true
    | .inf _ => true
    | _ => false
  if special then
    (0xFF, xs.map (fun _ => 0), if xs.any (fun x => fvIsNan x.1) then 0 else fNV)
  else
    let lg := xs.foldl (fun (acc : Option Int) x => match x.1 with
      | .fin _ m e _ =>
        if m = 0 then acc
        else
          let l : Int := (Nat.log2 m : Int) + e
          match acc with
          | none => some l
          | some k => some (max k l)
      | _ => acc) none
    let ex : Int := match lg with
      | none => -127
      | some l => max (-127) (min 127 (l - emaxOf f))
    let es := xs.map fun x => roundToFormat (fvScale x.1 (-ex)) f r true x.2
    ((ex + 127).toNat, es.map (·.1), es.foldl (fun a x => a ||| x.2) 0)

/-- One group of fpDot (R58): the accumulator code of FP32 after adding the scaled exact sum. Under a block scale
of 0xFF the elements are NaN (R44), so what the raw products would have flagged does not count (DESIGN CHOICE, log 79). -/
def dotStep (acc : Nat × Nat) (ps : List Prod) (sa sb : Option Int) : Nat × Nat :=
  let (s, f) := exactSum ps
  let (s, f) := match sa, sb with
    | some i, some j => (fvScale s (i + j), f)
    | _, _ => (.nan, 0)
  let (v, g) := fvAdd (fltValue .fp32 acc.1) s false
  let (o, h) := roundToFormat v .fp32 rne false 0
  (o, acc.2 ||| f ||| g ||| h)

/-- fpDot (R58) over a list of groups, each with its products and scales: the FP32 code and the flags raised. -/
def fpDot (acc : Nat × Nat) : List (List Prod × Option Int × Option Int) → Nat × Nat
  | [] => acc
  | (ps, sa, sb) :: r => fpDot (dotStep acc ps sa sb) r

/-- Cut a list into runs of `n`. -/
def chunks {α : Type} (n : Nat) : Nat → List α → List (List α)
  | 0, _ => []
  | _, [] => []
  | fuel + 1, l => l.take n :: chunks n fuel (l.drop n)

/-- fpDot of two value lists without scales, with groups of `g` (R247, R250). -/
def plainDot (acc : Nat × Nat) (a b : List FVal) (g : Nat) : Nat × Nat :=
  fpDot acc ((chunks g (a.length + 1) (a.zip b)).map fun l => (l.map fun p => prodOf p.1 p.2, some 0, some 0))

end Sys2Proof.Machine
end

