-- ==== Sys2Proof/Config.lean ====
section
/-! DEFINITION. What the spec leaves to an implementation and to the physical world: free values with no body.
Nothing can be proved of a value of these constants but what holds for every value. -/

namespace Sys2Proof.Config

/-- How many core clk one step of the machine takes (R220, R252, R286 and R305 give figures for words, none for a
step): a free value, applied to the counter `State.freeCtr` (log 5). -/
opaque stepClk : Nat → Nat

/-- Whether an access that finds its line in the data or the instruction cache of its core takes it from there (R121, R122: it
may): free, applied to the counter `State.freeCtr` and the line's address (log 11). -/
opaque cacheHit : Nat → Nat → Bool

/-- Which line a full data or instruction cache gives up for a new one, as its place in line order (R19, R121, R122 give no
replacement): free, applied to the counter `State.freeCtr` (log 11). -/
opaque victim : Nat → Nat

/-- The DRAM bank and the column of a physical address (R308 reports them; no rule gives the map below a channel): free (log
83). -/
opaque dramBank : Nat → Nat

/-- See `dramBank`. -/
opaque dramCol : Nat → Nat

/-- Byte of the identifier of one of the key trees of the identity key (R442): tree 0 is the top one, tree 1 + t lies below its leaf t.
No rule gives the key material (free value, log 19). -/
opaque lmsIdByte : (tree place : Nat) → BitVec 8

/-- Byte of the private key of a leaf of a key tree, chain after chain (R442; free value, log 19). -/
opaque lmsSecretByte : (tree leaf place : Nat) → BitVec 8

/-- Byte of the randomizer with which a leaf of a key tree signs a message (R442; free value, log 19). -/
opaque lmsRandomByte : (tree leaf : Nat) → (msg : List (BitVec 8)) → (place : Nat) → BitVec 8

/-- The fuse words in address order, whose digest an attestation report carries (R443): where the fuses hold the form code, the
stepping, the security version, the key digests and their revocation bits is not given, so the words are free, applied to those
(log 19). -/
opaque fuseBytes : Nat → Nat → Nat → List (List (BitVec 8)) → BitVec 4 → List (BitVec 8)

/-- What an image in memory holds (R441): the layout of an image is not given, so each part is a free function of its bytes by
offset (log 18). -/
opaque imageKey : (Nat → BitVec 8) → List (BitVec 8)

/-- The security version of an image in memory (R441); see `imageKey`. -/
opaque imageVersion : (Nat → BitVec 8) → Nat

/-- The digests that an image in memory carries (R441), by component; see `imageKey`. -/
opaque imageDigest : (Nat → BitVec 8) → Nat → List (BitVec 8)

/-- The components of an image in memory (R441): management processor, scheduler, retrieval controller; see `imageKey`. -/
opaque imageComponent : (Nat → BitVec 8) → Nat → List (BitVec 8)

/-- The signature of an image in memory (R441); see `imageKey`. -/
opaque imageSignature : (Nat → BitVec 8) → List (BitVec 8)

/-- The bytes over which an image is signed (R441: its key, version, digests and components; the layout of an image is not given):
free, applied to those (log 18). -/
opaque signedBytes : List (BitVec 8) → Nat → List (List (BitVec 8)) → List (List (BitVec 8)) → List (BitVec 8)

/-- The bytes of a matrix save area (R225, R357): its layout is not given, so each byte written there is free, applied to
the counter `State.freeCtr` and the byte's place (log 26). -/
opaque saveByte : Nat → Nat → BitVec 8

/-- The elements of a tile that an inner-product MMA leaves when its format pair entry no longer names the formats its resident
block was loaded under (R233 compares the entry number; no rule says what such a block then means): free, applied to the counter
`State.freeCtr`, the row and the column (log 56). -/
opaque staleTile : Nat → Nat → Nat → BitVec 32

/-- The flags such an MMA raises: free (log 56). -/
opaque staleFlags : Nat → BitVec 5

end Sys2Proof.Config
end

