-- ==== Sys2Proof/Machine/Memory.lean ====
section
/-! DEFINITION. Where the parts of the state are found (contexts, cores, partitions, register blocks), and physical
memory: device DRAM with its error marks, host and peer memory, the L2 (R123 to R129, R352, R356, R428, R430, R438
to R440). -/

namespace Sys2Proof.Machine

/-! ### Finding parts of the state -/

/-- The key of a context: 2 × core + bank, or 1,000 + sequencer. -/
def ctxKey : AgentId → Nat
  | .bank c b => 2 * c + b2n b
  | .seq n => 1000 + n

/-- The context of a key. -/
def keyAgent (k : Nat) : AgentId := if k < 1000 then .bank (k / 2) (k % 2 == 1) else .seq (k - 1000)

/-- The other bank of a bank's core. -/
def otherBank : AgentId → AgentId
  | .bank c b => .bank c (!b)
  | .seq n => .seq n

/-- The core a bank belongs to. -/
def agentCore : AgentId → Nat
  | .bank c _ => c
  | .seq _ => 0

/-- Is the context a sequencer's? -/
def isSeq : AgentId → Bool
  | .bank _ _ => false
  | .seq _ => true

/-- The context of an agent. -/
def getCtx (s : State) (a : AgentId) : Ctx := kget Ctx.reset s.ctxs (ctxKey a)

/-- Replace the context of an agent. -/
def setCtx (s : State) (a : AgentId) (c : Ctx) : State := { s with ctxs := kput s.ctxs (ctxKey a) c }

/-- Change the context of an agent. -/
def updCtx (s : State) (a : AgentId) (f : Ctx → Ctx) : State := setCtx s a (f (getCtx s a))

/-- The core of a number. -/
def getCore (s : State) (n : Nat) : Core := kget Core.reset s.cores n

/-- Replace a core. -/
def setCore (s : State) (n : Nat) (c : Core) : State := { s with cores := kput s.cores n c }

/-- The sequencer of a number (4 × stack + sequencer). -/
def getSeq (s : State) (n : Nat) : SeqSt := kget SeqSt.reset s.seqs n

/-- Replace a sequencer. -/
def setSeq (s : State) (n : Nat) (q : SeqSt) : State := { s with seqs := kput s.seqs n q }

/-- The partition of a number; one above 7 does not exist and reads as reset. -/
def getPart (s : State) (p : Nat) : Part := if h : p < 8 then s.parts[p] else Part.reset

/-- Replace a partition. -/
def setPart (s : State) (p : Nat) (x : Part) : State :=
  if h : p < 8 then { s with parts := s.parts.set p x } else s

/-- Change a partition. -/
def updPart (s : State) (p : Nat) (f : Part → Part) : State := setPart s p (f (getPart s p))

/-- The reset value of a register of a partition block: PL2 opens every way, every other register is 0 (R353). -/
def pregReset (off : Nat) : Word := if off = 0x030 then 0xFFFF0000 else 0

/-- A register of a partition block, by offset (R353). -/
def preg (s : State) (p off : Nat) : Word := kget (pregReset off) (getPart s p).regs off

/-- Write a register of a partition block. -/
def setPreg (s : State) (p off : Nat) (x : Word) : State :=
  updPart s p fun q => { q with regs := kput q.regs off x }

/-- A device register of BAR 0, by offset (R416, R428, R439, R440, R443). -/
def dreg (s : State) (off : Nat) : Word := kget 0 s.dregs off

/-- Write a device register. -/
def setDreg (s : State) (off : Nat) (x : Word) : State := { s with dregs := kput s.dregs off x }

/-- Add one to a 32-bit counting register that saturates. -/
def satInc32 (x : Word) : Word := if x.toNat < 2 ^ 32 - 1 then x + 1 else x

/-- The cluster of a core, 12 × die + cluster (R16). -/
def coreCluster (c : Nat) : Nat := c / 16

/-- The die of a core (R16). -/
def coreDie (c : Nat) : Nat := c / 192

/-- PCTL.EN of a partition (R353). -/
def partOn (s : State) (p : Nat) : Bool := wbits (preg s p 0x000) 0 0 == 1

/-- STATUS of PCTL (R353). -/
def partStatus (s : State) (p : Nat) : Nat := wbits (preg s p 0x000) 15 12

/-- A partition holds its grant while it is enabled or draining (R354). -/
def granted (s : State) (p : Nat) : Bool := partOn s p || partStatus s p == 3

/-- The first identifier of a partition (R353 PASID). -/
def asidBase (s : State) (p : Nat) : Nat := wbits (preg s p 0x028) 8 0

/-- An identifier lies in the partition's range (R355). -/
def asidOk (s : State) (p asid : Nat) : Bool :=
  decide (asidBase s p ≤ asid) && decide (asid ≤ asidBase s p + wbits (preg s p 0x028) 24 16)

/-- The partition that is enabled and holds a cluster, when there is one. -/
def clusterPart (s : State) (cl : Nat) : Option Nat :=
  (List.range 8).find? fun p => partOn s p && bit (preg s p 0x008).toNat cl

/-- The next number for an operation, a routed word or an instance. -/
def freshUid (s : State) : Nat × State := (s.sch.uid, { s with sch := { s.sch with uid := s.sch.uid + 1 } })

/-! ### Device DRAM and partitions -/

/-- The shares k of SHARE (R352). -/
def shareK (share : Nat) : Nat := 2 ^ share

/-- A physical address lies in a partition's DRAM (R352). -/
def inDram1 (s : State) (p pa : Nat) : Bool :=
  let m := (preg s p 0x010).toNat
  let share := bits m 9 8
  decide (pa < 2 ^ 39) && bit m (pa / 2 ^ 36)
    && (share == 0 || pa % 2 ^ 36 / (2 ^ 36 / shareK share) == bits m 12 10)

/-- Every byte of a range lies in a partition's DRAM: the shares and stacks are larger than any page, so the two ends
say it (R352). -/
def inDram (s : State) (p pa len : Nat) : Bool := inDram1 s p pa && inDram1 s p (pa + (len - 1))

/-! ### Error marks -/

/-- Bytes of the protected granule of each memory (R438, R440). -/
def granule : ErrSpace → Nat
  | .dram | .l2unit => 32
  | .l2tag => 128
  | .scratch | .seqScratch | .l2 | .dcache => 8
  | .acc | .reg | .insn | .queue | .record | .carry => 1

/-- A mark lies in the range `[addr, addr + len)` of a memory. -/
def markHit (sp : ErrSpace) (u addr len : Nat) (e : ErrMark) : Bool :=
  e.space == sp && e.unit == u && decide (e.addr * granule sp < addr + len)
    && decide (addr < (e.addr + 1) * granule sp)

/-- The first uncorrectable granule a read of the range meets (R440). -/
def uncorrIn (s : State) (sp : ErrSpace) (u addr len : Nat) : Option ErrMark :=
  s.mem.errs.find? fun e => markHit sp u addr len e && !e.correctable

/-- The class of R439 in which a correction is counted. -/
def corrClass : ErrSpace → Nat
  | .dram | .l2unit | .record | .carry => 6
  | .l2 | .l2tag => 5
  | .scratch | .seqScratch => 4
  | .acc => 3
  | .reg => 2
  | .dcache => 1
  | .insn | .queue => 0

/-- Count events of a class of R439. -/
def countClass (s : State) (cls n : Nat) : State :=
  if n = 0 then s
  else
    let off := 0x3000 + 8 * cls
    setDreg s off (BitVec.ofNat 64 (min (2 ^ 32 - 1) ((dreg s off).toNat + n)))

/-- Count the corrections a read of the range makes (R438, R439). -/
def countCorr (s : State) (sp : ErrSpace) (u addr len : Nat) : State :=
  countClass s (corrClass sp) (s.mem.errs.filter fun e => markHit sp u addr len e && e.correctable).length

/-- A write that covers a whole granule writes fresh check bits (R440). -/
def clearMarks (s : State) (sp : ErrSpace) (u addr len : Nat) : State :=
  { s with mem := { s.mem with errs := s.mem.errs.filter fun e =>
      !(e.space == sp && e.unit == u && decide (addr ≤ e.addr * granule sp)
        && decide ((e.addr + 1) * granule sp ≤ addr + len)) } }

/-- The virtual function bound to a partition (R416). -/
def boundVf (s : State) (p : Nat) : Option Nat :=
  (List.range 8).find? (fun n => bits (dreg s 0x1000).toNat (4 * n + 3) (4 * n) == 8 + p) |>.map (· + 1)

/-- Send a partition's message (R427): on the vector of the virtual function bound to it, written 256 × function + vector, or on
16 × p + vector of the physical function (DEDUCED, log 37). -/
def sendMsg (s : State) (p vec : Nat) : State :=
  if s.boot.ready then
    { s with msix := s.msix ++ [match boundVf s p with
      | some n => 256 * n + vec
      | none => 16 * p + vec] }
  else s

/-- Set a bit of a partition's IRQST and send its message when it was clear and is not masked (R427). No message is
sent before READY (R435). -/
def raiseIrq (s : State) (p k vec : Nat) : State :=
  let st := (preg s p 0x600).toNat
  let masked := bit (preg s p 0x608).toNat k
  let s := setPreg s p 0x600 (BitVec.ofNat 64 (if bit st k then st else st + 2 ^ k))
  if !bit st k && !masked then sendMsg s p vec else s

/-- A trigger of R446 starts the exit of the device to A0, when it is in another state. -/
def wakeDevice (s : State) : State :=
  if s.power.device = 0 then s
  else
    { s with power := { s.power with
        exits := s.power.exits.filter (fun e => e.1 != .device) ++ [(.device, 0)] } }

/-- Log an uncorrectable error in ELOGA and ELOGB, count it, and raise the device interrupt (R439, R440). -/
def logUncorr (s : State) (struct : Nat) (part : Option Nat) (core bank unit chan : Nat) (addr : Nat) : State :=
  let s := setDreg s (0x3000 + 8 * 10) (satInc32 (dreg s (0x3000 + 8 * 10)))
  let a := (dreg s 0x3100).toNat
  let s :=
    if bit a 63 then setDreg s 0x3100 (BitVec.ofNat 64 (setBits a 62 62 1))
    else
      let rcd := 2 ^ 63 + struct * 2 ^ 48 + (part.getD 0) * 2 ^ 37 + b2n part.isSome * 2 ^ 36 + core * 2 ^ 17
        + bank * 2 ^ 16 + unit * 2 ^ 8 + chan
      setDreg (setDreg s 0x3100 (BitVec.ofNat 64 rcd)) 0x3108 (BitVec.ofNat 64 addr)
  match part with
  | some p => raiseIrq s p 3 3
  | none => (List.range 8).foldl (fun s p => if partOn s p then raiseIrq s p 3 3 else s) s

/-! ### The L2 -/

/-- The home slice of a physical address (R123). -/
def homeSlice (pa : Nat) : Nat := bits pa 13 9 ^^^ bits pa 30 26

/-- The set of a physical address (R123). -/
def setIndex (pa : Nat) : Nat := bits pa 25 14

/-- The key of the set that holds a physical address. -/
def l2Key (pa : Nat) : Nat := 4096 * homeSlice pa + setIndex pa

/-- The 4-byte words of a line. -/
def lineWords : Nat → List Byte → List Nat
  | 0, _ => []
  | n + 1, l => leVal (l.take 4) :: lineWords n (l.drop 4)

/-- The size class of a line's bytes (R124). -/
def lineClass (l : List Byte) : Nat :=
  let ws := lineWords 32 l
  let w0 := ws.headD 0
  if ws.all (· == w0) then 1
  else if ws.all (fun w =>
      let d := toSigned 32 (w + 2 ^ 32 - w0)
      decide (-128 ≤ d) && decide (d ≤ 127)) then 2
  else 3

/-- Sectors of a size class (R124). -/
def classSectors : Nat → Nat
  | 1 => 1
  | 2 => 2
  | _ => 4

/-- Sectors a frame's lines take. -/
def frameSectors (f : L2Frame) : Nat := (f.lines.map fun l => classSectors l.cls).foldl (· + ·) 0

/-- The frame and line of a resident physical line, when there is one. -/
def l2Find (frames : List L2Frame) (sb pos : Nat) : Option (L2Frame × L2Line) :=
  frames.findSome? fun f =>
    if f.sb == sb then (f.lines.find? fun l => l.pos == pos).map fun l => (f, l) else none

/-- The retention register a physical line belongs to: the lowest-numbered active one whose range holds it (R128). -/
def pinOf (s : State) (pa : Nat) : Option Nat :=
  (List.range 16).find? fun i =>
    match s.cache.pins[i]? with
    | some p => p.act && decide (p.base ≤ pa) && decide (pa < p.base + p.len)
    | none => false

/-- Ways that some pin reserves (R128). -/
def reservedWays (s : State) : List Nat :=
  (s.cache.pins.toList.map fun p => if p.act then p.mask else []).flatten

/-- The ways reserved by register `i`. -/
def pinWays (s : State) (i : Nat) : List Nat :=
  match s.cache.pins[i]? with
  | some p => if p.act then p.mask else []
  | none => []

/-- The unreserved ways open to an install for a partition (R125, R128, R356). -/
def openWays (s : State) (part : Option Nat) : List Nat :=
  let mask := match part with
    | some p => wbits (preg s p 0x030) 31 16
    | none => 0xFFFF
  (List.range 16).filter fun w => bit mask w && !(reservedWays s).contains w

/-- The lowest way of a list that holds a frame of the superblock with room for the sectors (R124). -/
def joinWay (frames : List L2Frame) (sb sectors : Nat) (ways : List Nat) : Option Nat :=
  ways.find? fun w => frames.any fun f => f.way == w && f.sb == sb && decide (frameSectors f + sectors ≤ 4)

/-- The lowest way of a list that holds no frame (R125). -/
def freeWay (frames : List L2Frame) (ways : List Nat) : Option Nat :=
  ways.find? fun w => !frames.any fun f => f.way == w

/-- The least recently used frame of a mark within some ways. -/
def lruOf (frames : List L2Frame) (ways : List Nat) (mark : Nat) : Option Nat :=
  let fs := frames.filter fun f => ways.contains f.way && f.mark == mark
  match fs with
  | [] => none
  | f :: r => some (r.foldl (fun (g : L2Frame) h => if h.recency < g.recency then h else g) f).way

/-- The way a new frame evicts: evict-first frames, then normal, then retain, the least recently used first (R125). -/
def victimWay (frames : List L2Frame) (ways : List Nat) : Option Nat :=
  match lruOf frames ways 1 with
  | some w => some w
  | none =>
    match lruOf frames ways 0 with
    | some w => some w
    | none => lruOf frames ways 2

/-- Put a line into a way: into the frame there when it is of the superblock and has room, else into a new frame, which
evicts what the way held (R124, R125). -/
def putLine (frames : List L2Frame) (way sb mark clk : Nat) (l : L2Line) : List L2Frame :=
  if frames.any (fun f => f.way == way && f.sb == sb && decide (frameSectors f + classSectors l.cls ≤ 4)) then
    frames.map fun f => if f.way == way then { f with mark := mark, recency := clk, lines := f.lines ++ [l] } else f
  else
    (frames.filter fun f => f.way != way) ++ [{ way := way, sb := sb, mark := mark, recency := clk, lines := [l] }]

/-- Take a line out of its frame; a frame without lines is gone. -/
def dropLine (frames : List L2Frame) (sb pos : Nat) : List L2Frame :=
  (frames.map fun f => if f.sb == sb then { f with lines := f.lines.filter fun l => l.pos != pos } else f).filter
    fun f => !f.lines.isEmpty

/-- Where a line is installed (R124, R125, R128 steps 4 and 5): the way, and whether it is a reserved way of its
register; none when it may take no frame (R356). -/
def chooseWay (s : State) (frames : List L2Frame) (part : Option Nat) (pa sectors : Nat) : Option (Nat × Bool) :=
  let sb := pa / 512
  let unres := openWays s part
  let normal : Option (Nat × Bool) :=
    match joinWay frames sb sectors (List.range 16 |>.filter fun w => !(reservedWays s).contains w) with
    | some w => some (w, false)
    | none =>
      match freeWay frames unres with
      | some w => some (w, false)
      | none => (victimWay frames unres).map fun w => (w, false)
  match pinOf s pa with
  | none => normal
  | some i =>
    match joinWay frames sb sectors (pinWays s i) with
    | some w => some (w, true)
    | none =>
      match freeWay frames (pinWays s i) with
      | some w => some (w, true)
      | none => normal

/-- The saturating counts of a retention register (R129). -/
def countPin (s : State) (pa : Nat) (hit ovfl : Bool) : State :=
  match pinOf s pa with
  | none => s
  | some i =>
    if h : i < 16 then
      let p := s.cache.pins[i]
      let p := { p with
        hits := if hit then min (2 ^ 24 - 1) (p.hits + 1) else p.hits
        ovfl := if ovfl then min (2 ^ 16 - 1) (p.ovfl + 1) else p.ovfl }
      { s with cache := { s.cache with pins := s.cache.pins.set i p } }
    else s

/-- A line of DRAM is read into the L2 (R438, R439): its corrections are counted; a unit with an uncorrectable error is as bad in the
line. -/
def dramFill (s : State) (line : Nat) : State :=
  if s.mem.errs.isEmpty then s
  else
    let bad := s.mem.errs.filter fun e => markHit .dram 0 line 128 e && !e.correctable
    let s := countCorr s .dram 0 line 128
    { s with mem := { s.mem with errs :=
        (s.mem.errs.filter fun e => !markHit .l2unit 0 line 128 e) ++ bad.map fun e => { e with space := .l2unit } } }

/-- Install a line that is not resident (R124, R125, R128). -/
def l2Install (s : State) (part : Option Nat) (pa mark : Nat) (dirty : Bool) : State :=
  let key := l2Key pa
  let frames := kget [] s.cache.l2 key
  let cls := lineClass (mread s.mem.dram (pa / 128 * 128) 128)
  match chooseWay s frames part pa (classSectors cls) with
  | none => countCorr s .dram 0 (pa / 128 * 128) 128
  | some (w, res) =>
    let clk := s.cache.l2clock + 1
    let m := if res then 2 else mark
    let frames := putLine frames w (pa / 512) m clk ⟨pa / 128 % 4, cls, dirty⟩
    let s := dramFill s (pa / 128 * 128)
    let s := { s with cache := { s.cache with l2 := kput s.cache.l2 key frames, l2clock := clk } }
    if res then s else countPin s pa false true

/-- A hit: the frame becomes the most recently used and takes the access's mark (R125), in a reserved way too: step 4 of R128 marks a
line retain when it is installed (DEDUCED, log 79); a write judges the class again
and may move the line (R124). R128 counts an overflow at an install; a line of a pinned range that such a move takes into an
unreserved way is none (DESIGN CHOICE, log 79). -/
def l2Hit (s : State) (part : Option Nat) (pa mark : Nat) (write : Bool) : State :=
  let key := l2Key pa
  let frames := kget [] s.cache.l2 key
  match l2Find frames (pa / 512) (pa / 128 % 4) with
  | none => s
  | some (f, l) =>
    let clk := s.cache.l2clock + 1
    let cls := if write then lineClass (mread s.mem.dram (pa / 128 * 128) 128) else l.cls
    let l' := { l with cls := cls, dirty := l.dirty || write }
    let fits := decide (frameSectors f - classSectors l.cls + classSectors cls ≤ 4)
    if fits then
      let frames := frames.map fun g =>
        if g.way == f.way then
          { g with mark := mark, recency := clk
                   lines := g.lines.map fun k => if k.pos == l.pos then l' else k }
        else g
      { s with cache := { s.cache with l2 := kput s.cache.l2 key frames, l2clock := clk } }
    else
      let frames := dropLine frames (pa / 512) (pa / 128 % 4)
      match chooseWay s frames part pa (classSectors cls) with
      | none => { s with cache := { s.cache with l2 := kput s.cache.l2 key frames, l2clock := clk } }
      | some (w, r) =>
        let frames := putLine frames w (pa / 512) (if r then 2 else mark) clk l'
        { s with cache := { s.cache with l2 := kput s.cache.l2 key frames, l2clock := clk } }

/-- What one L2 line access found: the class of a resident line. -/
def l2Class (s : State) (pa : Nat) : Option Nat :=
  (l2Find (kget [] s.cache.l2 (l2Key pa)) (pa / 512) (pa / 128 % 4)).map fun x => x.2.cls

/-- The line of a physical address is resident and dirty. -/
def l2Dirty (s : State) (pa : Nat) : Bool :=
  match l2Find (kget [] s.cache.l2 (l2Key pa)) (pa / 512) (pa / 128 % 4) with
  | some (_, l) => l.dirty
  | none => false

/-- A mark lies in the data or the tag of L2 lines in a range (R438). -/
def l2Mark (pa n : Nat) (e : ErrMark) : Bool := markHit .l2 0 pa n e || markHit .l2tag 0 pa n e

/-- A mark that the L2 cannot correct: an uncorrectable one of its data, or one of a tag, which has parity alone (R438). -/
def l2Lost (e : ErrMark) : Bool := !(e.correctable && e.space == .l2)

/-- A clean line with such a mark is read again from DRAM at its next access (R438). -/
def l2Rereads (s : State) (pa : Nat) : Bool :=
  !l2Dirty s pa && s.mem.errs.any fun e => l2Mark (pa / 128 * 128) 128 e && l2Lost e

/-- What an access to an L2 line finds of errors in it (R438, R439): a correction counts; a clean line with an uncorrectable
error is read again from DRAM, and one with a tag error is dropped, which count too; a line that is not resident holds none. -/
def l2Errors (s : State) (pa : Nat) : State :=
  if s.mem.errs.isEmpty then s
  else
    let line := pa / 128 * 128
    match l2Class s pa with
    | none => { s with mem := { s.mem with errs := s.mem.errs.filter fun e =>
        !(l2Mark line 128 e || markHit .l2unit 0 line 128 e) } }
    | some _ =>
      let dirty := l2Dirty s pa
      let gone := fun (e : ErrMark) => l2Mark line 128 e && (!dirty || !l2Lost e)
      let n := (s.mem.errs.filter gone).length
      let s := if dirty then s
        else if s.mem.errs.any (markHit .l2tag 0 line 128) then
          { s with cache := { s.cache with
              l2 := kput s.cache.l2 (l2Key pa) (dropLine (kget [] s.cache.l2 (l2Key pa)) (pa / 512) (pa / 128 % 4)) } }
        else if l2Rereads s pa then dramFill s line
        else s
      let s := countClass s 5 n
      { s with mem := { s.mem with errs := s.mem.errs.filter fun e => !gone e } }

/-- When the sets change, the line of an address is written back: it was dirty, and is dropped or left clean. -/
def wroteBack (old new : State) (pa : Nat) : Bool := l2Dirty old pa && !l2Dirty new pa

/-- What becomes of an error of a line when the sets change. One of an L2 line stays while its line is resident. A write-back reads the
line, which corrects what it can, and covers whole units of DRAM, whose own errors end; an uncorrectable error stays with the bytes, in
the units of DRAM they go to, and in a line left clean (R440; DESIGN CHOICE, log 17). -/
def movedMark (old new : State) (e : ErrMark) : List ErrMark :=
  let pa := e.addr * granule e.space
  if e.space = .l2 ∨ e.space = .l2tag ∨ e.space = .l2unit then
    if wroteBack old new pa then
      if l2Lost e then
        (if (l2Class new pa).isSome then [e] else [])
          ++ (List.range (if e.space = .l2tag then 4 else 1)).map fun i => ⟨.dram, 0, pa / 32 + i, false⟩
      else []
    else if (l2Class new pa).isSome then [e] else []
  else if e.space = .dram ∧ wroteBack old new pa then []
  else [e]

/-- The error marks after the L2's sets have changed; the corrections of the lines that are written back are counted (R438, R439). -/
def moveMarks (old new : State) : State :=
  if new.mem.errs.isEmpty then new
  else
    let n := (new.mem.errs.filter fun e => e.space == .l2 && e.correctable && wroteBack old new (e.addr * granule .l2)).length
    countClass { new with mem := { new.mem with errs := new.mem.errs.flatMap (movedMark old new) } } 5 n

/-- One access to a line of device DRAM by an agent of a partition: hit or install, with the counts of its retention
register (R124, R125, R128, R129). A prefetch that hits counts nothing and moves nothing but the mark (R129). -/
def l2Access (s : State) (part : Option Nat) (pa mark : Nat) (write prefetch : Bool) : State :=
  let s := l2Errors s pa
  moveMarks s (match l2Class s pa with
    | some _ => l2Hit (if prefetch then s else countPin s pa true false) part pa mark write
    | none => l2Install s part pa mark write)

/-- The first bytes of the 128-byte lines that a range touches. -/
def linesOf (pa len : Nat) : List Nat :=
  if len = 0 then [] else (List.range ((pa + len - 1) / 128 - pa / 128 + 1)).map fun i => (pa / 128 + i) * 128

/-- Every line of a range is accessed in ascending order. -/
def l2Range (s : State) (part : Option Nat) (pa len mark : Nat) (write prefetch : Bool) : State :=
  (linesOf pa len).foldl (fun s a => l2Access s part a mark write prefetch) s

/-- Lines that a range touches, hits among them, and hits of class 1 or 2: what R126 counts. -/
def l2Counts (s : State) (pa len : Nat) : Nat × Nat × Nat :=
  let ls := (linesOf pa len).map fun a => l2Class s a
  (ls.length - (ls.filter (·.isSome)).length, (ls.filter (·.isSome)).length,
   (ls.filter fun c => c == some 1 || c == some 2).length)

/-- Lines of a retention register's range that lie in its reserved ways (R129 LINES). -/
def pinLines (s : State) (i : Nat) : Nat :=
  (s.cache.l2.map fun kf => (kf.2.map fun f =>
    if (pinWays s i).contains f.way then
      (f.lines.filter fun l => pinOf s (f.sb * 512 + l.pos * 128) == some i).length
    else 0).foldl (· + ·) 0).foldl (· + ·) 0

/-! ### Locations -/

/-- The L2 side of an access to translated places: the lines of device DRAM, in order; with no hint, the mark follows the page's
attribute (R123 to R125). -/
def l2Pieces (s : State) (part : Option Nat) (mark : Nat) (write : Bool) (ps : List (Loc × Nat)) : State :=
  ps.foldl (fun s x =>
    if x.1.typ = 0 then l2Range s part x.1.pa x.2 (if mark = 0 && x.1.ef then 1 else mark) write false else s) s

/-- The key of peer memory. -/
def peerKey (peer pa : Nat) : Nat := 2 ^ 52 * peer + pa

/-- The bytes at a location. -/
def locRead (s : State) (l : Loc) (n : Nat) : List Byte :=
  if l.typ = 0 then mread s.mem.dram l.pa n
  else if l.typ = 1 then mread s.mem.host l.pa n
  else mread s.mem.peer (peerKey l.peer l.pa) n

/-- The place of a location within its TYPE. -/
def locPlace (l : Loc) : Nat := if l.typ = 2 then peerKey l.peer l.pa else l.pa

/-- The last write of the 8-byte word at a place belongs to the release sequence of an AMOP (R316, R321). -/
def promoted (s : State) (l : Loc) : Bool := s.mem.promo.contains (l.typ, locPlace l)

/-- A plain write ends the release sequences of the words it touches (R316). -/
def endPromo (s : State) (l : Loc) (n : Nat) : State :=
  if s.mem.promo.isEmpty then s
  else { s with mem := { s.mem with promo := s.mem.promo.filter fun x =>
    !(x.1 == l.typ && decide (x.2 < locPlace l + n) && decide (locPlace l < x.2 + 8)) } }

/-- The word at a place has been written by an AMOP, or by an RMW that follows one (R316). -/
def addPromo (s : State) (l : Loc) : State :=
  { s with mem := { s.mem with promo := (l.typ, locPlace l) :: s.mem.promo } }

/-- Write bytes at a location; a write of whole granules of DRAM or of an L2 line refreshes their check bits (R440). -/
def locWrite (s : State) (l : Loc) (bs : List Byte) : State :=
  let s := endPromo s l bs.length
  if l.typ = 0 then
    let s := if s.mem.errs.isEmpty then s
      else [ErrSpace.dram, .l2, .l2tag, .l2unit].foldl (fun s sp => clearMarks s sp 0 l.pa bs.length) s
    { s with mem := { s.mem with dram := mwrite s.mem.dram l.pa bs } }
  else if l.typ = 1 then { s with mem := { s.mem with host := mwrite s.mem.host l.pa bs } }
  else { s with mem := { s.mem with peer := mwrite s.mem.peer (peerKey l.peer l.pa) bs } }

/-- A mark is one that a read of its place in device DRAM reports (R438, R440): of a DRAM unit, when the read reaches DRAM, since its
line is not resident or is read again; of a unit that its resident line took over from DRAM; of a dirty line. -/
def readsBad (s : State) (e : ErrMark) : Bool :=
  let pa := e.addr * granule e.space
  let fromDram := (l2Class s pa).isNone || l2Rereads s pa
  match e.space with
  | .dram => !e.correctable && fromDram
  | .l2unit => !fromDram
  | _ => l2Lost e && l2Dirty s pa

/-- An uncorrectable error in the bytes a read of device DRAM returns (R440). -/
def locBad (s : State) (l : Loc) (n : Nat) : Option ErrMark :=
  if l.typ = 0 then
    s.mem.errs.find? fun e => (markHit .dram 0 l.pa n e || markHit .l2unit 0 l.pa n e || l2Mark l.pa n e) && readsBad s e
  else none

/-- The structure, channel and physical address that the log of an error in device memory gives (R438, R440): a DRAM unit, or an L2
line. -/
def memErrAt (e : ErrMark) : Nat × Nat × Nat :=
  if e.space = .dram ∨ e.space = .l2unit then (6, e.addr * 32 / 256 % 32, e.addr * 32) else (5, 0xFF, e.addr * granule e.space)

/-- Log an uncorrectable error of device memory (R440): UNIT is the stack of the address. -/
def logMemErr (s : State) (part : Option Nat) (core bank : Nat) (e : ErrMark) : State :=
  let (st, chan, pa) := memErrAt e
  logUncorr s st part core bank (4 * (pa / 2 ^ 36 % 8)) chan pa

/-- How a request to a peer fares (R430): the peer answers, refuses, or stays silent until the timeout. -/
def peerFate (s : State) (peer : Nat) : PeerMode :=
  if peer = wbits (dreg s 0x2000) 7 0 then .refuses
  else if (List.range 16).any (fun i =>
      bit (dreg s (0x2800 + 8 * peer)).toNat i && wbits (dreg s (0x2100 + 8 * i)) 18 16 != 0) then
    kget .answers s.peers peer
  else .refuses

/-- What an access that timed out did at the peer, when it was performed there (R430): its effect on peer memory alone, which it had at
once. -/
def peerOnly (s : State) (go : State → State) : State :=
  let t := { s with peers := [], sch := { s.sch with buffer := false }, mem := { s.mem with buf := [] } }
  { s with mem := { s.mem with peer := (go t).mem.peer } }

end Sys2Proof.Machine
end

