-- ==== Sys2Proof/Machine/Translate.lean ====
section
/-! DEFINITION. Address translation: page tables, permissions, translation caches and their invalidation (R380 to
R388). -/

namespace Sys2Proof.Machine

/-- The kinds of access R383 tells apart; `touch` is the translation of a word that makes no access (R185, R311), which no permission
to read or write decides; `both` is that of bytes that are read and written by separate plain accesses (R303), which a page needs both
permissions for. -/
inductive AccKind where
  | read | write | rmw | fetch | touch | both
  deriving DecidableEq, Repr

/-- What a walk ends in (R381): an invalid entry, a malformed one, or a leaf with the base and size of its page. -/
inductive Walk where
  | invalid
  | malformed
  | leaf (e base size : Nat)
  deriving DecidableEq, Repr

/-- What translation gives an access (R383): a place, an invalid translation, or a forbidden access. `silent` is a
peer request that gets no answer (R430). -/
inductive Xlat where
  | ok (l : Loc)
  | invalid
  | forbid
  | silent (l : Loc)
  deriving DecidableEq, Repr

/-- An 8-byte table entry, read whole (R380). -/
def tableEntry (s : State) (table idx : Nat) : Nat := leVal (mread s.mem.dram (table + 8 * idx) 8)

/-- Page size of a SIZE code at a level (R382). -/
def pageSize : Nat → Nat → Option Nat
  | 3, 0 => some (2 ^ 12)
  | 3, 1 => some (2 ^ 16)
  | 2, 0 => some (2 ^ 21)
  | 2, 3 => some (2 ^ 25)
  | 2, 4 => some (2 ^ 29)
  | _, _ => none

/-- Base page size of a level (R382). -/
def baseSize (lvl : Nat) : Nat := if lvl = 3 then 2 ^ 12 else 2 ^ 21

/-- A valid table entry is well formed (R381). -/
def tableOk (s : State) (p e : Nat) : Bool :=
  bits e 63 52 == 0 && bits e 11 2 == 0 && inDram s p (bits e 51 12 * 2 ^ 12) 4096

/-- A valid leaf is well formed for a page of the given size (R381). -/
def leafOk (e size : Nat) : Bool :=
  bits e 63 60 == 0 && (bits e 11 10 == 2 || bits e 59 52 == 0) && bits e 11 10 != 3
    && (bits e 51 12 * 2 ^ 12) % size == 0

/-- The end of a walk at a leaf that was reached (R381, R382): it counts only for deciding SIZE. The first entry of its run governs
when it is valid, well formed and of the same SIZE; an invalid first entry makes the access fault; when it is valid but not so,
the reached entry stands alone as a page of the base size. -/
def walkLeaf (s : State) (table lvl idx e va : Nat) : Walk :=
  let base1 := va / baseSize lvl * baseSize lvl
  let alone : Walk := if leafOk e (baseSize lvl) then .leaf e base1 (baseSize lvl) else .malformed
  match pageSize lvl (bits e 4 2) with
  | none => .malformed
  | some size =>
    if size = baseSize lvl then alone
    else
      let run := size / baseSize lvl
      let f := tableEntry s table (idx / run * run)
      if !bit f 0 then .invalid
      else if bits f 4 2 == bits e 4 2 && !bit f 1 && leafOk f size then .leaf f (va / size * size) size
      else alone

/-- A table entry in a walk cache (R385, R386); the scheduler's own accesses have none. -/
def walkFind (s : State) (cache asid lvl pre : Nat) : Option Nat :=
  (s.cache.walks.find? fun t => t.cache == cache && t.asid == asid && t.level == lvl && t.pre == pre).map fun t => t.entry

/-- The entries of a table that deciding a reached leaf reads: its own, and the first of its run (R382). -/
def leafReads (table lvl idx e : Nat) : List Nat :=
  match pageSize lvl (bits e 4 2) with
  | none => [table + 8 * idx]
  | some size =>
    let run := size / baseSize lvl
    if run = 1 then [table + 8 * idx] else [table + 8 * idx, table + 8 * (idx / run * run)]

/-- What a walk ends in, the table entries it can cache, latest first, and the addresses of the entries it read from memory, in
order. -/
structure Walked where
  walk : Walk
  new : List WalkEntry
  reads : List Nat
  deriving DecidableEq, Repr

/-- The walk from a table of a level down (R380), with the table entries it reads from memory; a table entry that the walker has
cached is used as it is (R386; log 12). The list names the levels still to be walked. -/
def walkFrom (s : State) (cache p asid va : Nat) : List Nat → Nat → List WalkEntry → List Nat → Walked
  | [], _, new, rd => ⟨.malformed, new, rd⟩
  | lvl :: rest, table, new, rd =>
    let pre := va / 2 ^ (39 - 9 * lvl)
    match walkFind s cache asid lvl pre with
    | some e =>
      if tableOk s p e then walkFrom s cache p asid va rest (bits e 51 12 * 2 ^ 12) new rd else ⟨.malformed, new, rd⟩
    | none =>
      let e := tableEntry s table (pre % 512)
      let rd' := rd ++ [table + 8 * (pre % 512)]
      if !bit e 0 then ⟨.invalid, new, rd'⟩
      else if bit e 1 then
        if lvl = 3 || !tableOk s p e then ⟨.malformed, new, rd'⟩
        else walkFrom s cache p asid va rest (bits e 51 12 * 2 ^ 12) (⟨cache, asid, lvl, pre, e⟩ :: new) rd'
      else if lvl < 2 then ⟨.malformed, new, rd'⟩
      else ⟨walkLeaf s table lvl (pre % 512) e va, new, rd ++ leafReads table lvl (pre % 512) e⟩

/-- A root entry is well formed (R384). -/
def rootOk (s : State) (p r : Nat) : Bool :=
  bits r 63 52 == 0 && bits r 11 1 == 0 && inDram s p (bits r 51 12 * 2 ^ 12) 4096

/-- The level number under which a walk cache holds a root entry. -/
def rootLevel : Nat := 4

/-- The walk of an address of an identifier, from its root entry (R384), with the entries it reads from memory. -/
def walk (s : State) (cache p asid va : Nat) : Walked :=
  let go := fun (r : Nat) (new : List WalkEntry) (rd : List Nat) =>
    if rootOk s p r then walkFrom s cache p asid va [0, 1, 2, 3] (bits r 51 12 * 2 ^ 12) new rd else ⟨.malformed, [], rd⟩
  match walkFind s cache asid rootLevel 0 with
  | some r => go r [] []
  | none =>
    let at_ := (preg s p 0x200).toNat / 2 ^ 12 * 2 ^ 12
    let r := tableEntry s at_ (asid - asidBase s p)
    let rd := [at_ + 8 * (asid - asidBase s p)]
    if !bit r 0 then ⟨.invalid, [], rd⟩ else go r [⟨cache, asid, rootLevel, 0, r⟩] rd

/-- An uncorrectable error in the table entry at an address (R440). -/
def walkBad (s : State) (at_ : Nat) : Option ErrMark := locBad s ⟨0, 0, at_, false⟩ 8

/-- The walk of an address. One that reads an entry with an uncorrectable error is stopped there, and its access is not permitted
(R440; DESIGN CHOICE, log 17). -/
def sureWalk (s : State) (cache p asid va : Nat) : Walked :=
  let w := walk s cache p asid va
  if s.mem.errs.isEmpty then w
  else if w.reads.any fun x => (walkBad s x).isSome then { w with walk := .malformed, new := [] } else w

/-- The L2 side of a walk: one access for each entry it read, without the page attribute of any leaf (R123, R125); an uncorrectable
error is logged (R440). -/
def walkL2 (s : State) (p : Nat) (reads : List Nat) : State :=
  reads.foldl (fun s a =>
    let s := match walkBad s a with
      | some e => logMemErr s (some p) 0 0 e
      | none => s
    l2Access s (some p) (a / 128 * 128) 0 false false) s

/-- The numbers of the caches of R385: the control core of a core or of a sequencer, the stream TLBs of engines, of retrieval
units, of walkers and of coalescers. -/
def coreTlb (a : AgentId) : Nat := match a with
  | .bank c _ => c
  | .seq n => 1000 + n

/-- The stream TLB of an engine. -/
def engineTlb (a : AgentId) (e : Nat) : Nat := 10000 + 10 * coreTlb a + e

/-- The translation cache of a retrieval unit. -/
def unitTlb (u : Nat) : Nat := 30000 + u

/-- The translation cache of the coalescer that serves element `k` of a gather or scatter: elements go round the eight stack
engines (DESIGN CHOICE, log 82). -/
def coalTlb (k : Nat) : Nat := 31000 + k % 8

/-- The translation cache of the embedding walker that serves record `k` of a QWALK: records go round the eight stack engines
(DESIGN CHOICE, log 82). -/
def walkerTlb (k : Nat) : Nat := 31100 + k % 8

/-- The scheduler and the ring writers, which R385 gives no translation cache. -/
def sysTlb : Nat := 32000

/-- The scheduler and the ring writers keep no translation. -/
def noTlb (cache : Nat) : Bool := cache == sysTlb

/-- A cached translation of an address. -/
def tlbFind (s : State) (cache asid va : Nat) : Option TlbEntry :=
  s.cache.tlb.find? fun t => t.cache == cache && t.asid == asid && decide (t.base ≤ va) && decide (va < t.base + t.size)

/-- A launch still has items to create, or items that have not left the partition. -/
def liveInst (q : Part) (i : Instance) : Bool :=
  i.stages.any (fun x => !x.ended && decide (x.made < x.total)) || q.items.any fun x => x.inst == i.id

/-- A physical address lies in scheduler memory of a partition: a stage queue of one of its launches (R69, R361; log 74). -/
def schedPage (s : State) (p pa : Nat) : Bool :=
  (getPart s p).insts.any fun i => i.qpages.contains (pa / 4096) && liveInst (getPart s p) i

/-- What a leaf permits (R383), and the place it gives; user accesses do not reach scheduler memory (R69, R339). -/
def leafAccess (s : State) (p : Nat) (kind : AccKind) (user : Bool) (e base size va : Nat) : Xlat :=
  let typ := bits e 11 10
  let kindOk := match kind with
    | .read => bit e 5
    | .write => bit e 6
    | .rmw | .both => bit e 5 && bit e 6
    | .fetch => bit e 7
    | .touch => true
  let pa := bits e 51 12 * 2 ^ 12 + (va - base)
  let loc : Loc := ⟨typ, bits e 59 52, pa, bit e 9⟩
  if !kindOk || (user && !bit e 8) then .forbid
  else if typ = 0 then
    if inDram s p (bits e 51 12 * 2 ^ 12) size && !(user && schedPage s p pa) then .ok loc else .forbid
  else if typ = 1 then if kind = .rmw then .forbid else .ok loc
  else
    match peerFate s (bits e 59 52) with
    | .answers => .ok loc
    | .refuses => .forbid
    | .silent => .silent loc

/-- Translation of an access by an agent of a partition (R355, R380 to R386): a cached entry is used as long as it is
held (log 12); a walk caches the table entries it read, and the leaf it ends in. -/
def xlate (s : State) (cache p asid va : Nat) (kind : AccKind) (user : Bool) : Xlat × State :=
  if 2 ^ 48 ≤ va || !asidOk s p asid then (.forbid, s)
  else
    match tlbFind s cache asid va with
    | some t => (leafAccess s p kind user t.leaf t.base t.size va, s)
    | none =>
      let w := sureWalk s cache p asid va
      let s := walkL2 s p w.reads
      let s := if noTlb cache || w.new.isEmpty then s else { s with cache := { s.cache with walks := w.new ++ s.cache.walks } }
      match w.walk with
      | .invalid => (.invalid, s)
      | .malformed => (.forbid, s)
      | .leaf e base size =>
        let x := leafAccess s p kind user e base size va
        match x with
        | .forbid => (x, s)
        | _ => (x, if noTlb cache then s
            else { s with cache := { s.cache with tlb := ⟨cache, asid, base, size, e⟩ :: s.cache.tlb } })

/-- The pages of 4 KiB that a range of an identifier covers for an invalidation, as first byte and end (R387). -/
def invalRange (base len : Nat) : Nat × Nat :=
  if len = 0 then (0, 2 ^ 48)
  else
    let b := base / 4096 * 4096
    (b, min (2 ^ 48) (b + (len + 4095) / 4096 * 4096))

/-- Every cache drops every entry of the identifier that translates a page of the range, and every table entry of the identifier
(R387 step 4). -/
def tlbDrop (s : State) (asid base len : Nat) : State :=
  let (b, e) := invalRange base len
  { s with cache := { s.cache with
      tlb := s.cache.tlb.filter fun t => !(t.asid == asid && decide (t.base < e) && decide (b < t.base + t.size))
      walks := s.cache.walks.filter fun t => t.asid != asid } }

/-! ### Accesses of the device itself -/

/-- Translate every page of a range for the device: the places of its 4 KiB pieces with their lengths, or the first
failure. -/
def sysPieces (s : State) (cache p asid va : Nat) (kind : AccKind) (user : Bool) :
    Nat → Nat → Except Xlat (List (Loc × Nat)) × State
  | 0, _ => (.ok [], s)
  | _ + 1, 0 => (.ok [], s)
  | fuel + 1, len =>
    let n := min len (4096 - va % 4096)
    match xlate s cache p asid va kind user with
    | (.ok l, s) =>
      match sysPieces s cache p asid (va + n) kind user fuel (len - n) with
      | (.ok r, s) => (.ok ((l, n) :: r), s)
      | x => x
    | (x, s) => (.error x, s)

/-- How many pieces a range of this length can take. -/
def pieceFuel (len : Nat) : Nat := len / 4096 + 2

/-- The bytes of translated pieces. -/
def piecesRead (s : State) : List (Loc × Nat) → List Byte
  | [] => []
  | (l, n) :: r => locRead s l n ++ piecesRead s r

/-- Write bytes over translated pieces. -/
def piecesWrite (s : State) : List (Loc × Nat) → List Byte → State
  | [], _ => s
  | (l, n) :: r, bs => piecesWrite (locWrite s l (bs.take n)) r (bs.drop n)

/-- The data cache of a context's control core: its core's, or its sequencer's (R122, R323). -/
def dataCache (key : Nat) : Nat := if key < 1000 then key / 2 else key

/-- The data-cache lines of a context that a written range touches are dropped (R122). -/
def dropLines (s : State) (own : Option Nat) (ps : List (Loc × Nat)) : State :=
  match own with
  | none => s
  | some k =>
    let c := getCore s (dataCache k)
    let hit := fun (e : Nat × List Byte) => ps.any fun x =>
      x.1.typ == 0 && decide (x.1.pa / 128 ≤ e.1) && decide (e.1 ≤ (x.1.pa + x.2 - 1) / 128)
    if c.dcache.any hit then setCore s (dataCache k) { c with dcache := c.dcache.filter fun e => !hit e } else s

/-- A held line with the aligned 8-byte words of a range as memory has them now: a word that an access took whole is not read in part
afterwards (R314, R315). -/
def dcMerge (m : Mem) (pa n : Nat) (line : Nat) (bs : List Byte) : List Byte :=
  bs.zipIdx.map fun x =>
    if pa / 8 * 8 ≤ line * 128 + x.2 ∧ line * 128 + x.2 < (pa + n + 7) / 8 * 8 then mget m (line * 128 + x.2) else x.1

/-- Words of a range of device DRAM have been taken into a data cache: which of them an AMOP's release sequence has written (R321). -/
def noteTook (s : State) (cache pa n : Nat) : State :=
  if s.mem.promo.isEmpty && s.cache.took.isEmpty then s
  else
    let inside := fun (x : Nat) => decide (x < pa + n) && decide (pa < x + 8)
    { s with cache := { s.cache with
        took := s.cache.took.filter (fun x => !(x.1 == cache && inside x.2))
          ++ (s.mem.promo.filter fun x => x.1 == 0 && inside x.2).map fun x => (cache, x.2) } }

/-- Bytes that a data cache takes from memory have fresh parity (R438). -/
def dcFresh (s : State) (cache pa n : Nat) : State := if s.mem.errs.isEmpty then s else clearMarks s .dcache cache pa n

/-- The words of a range in the data cache of a context are as memory has them now (R122, R315). -/
def dcRenew (s : State) (key : Nat) (l : Loc) (n : Nat) : State :=
  let c := getCore s (dataCache key)
  if l.typ = 0 && !c.dcache.isEmpty then
    let s := dcFresh s (dataCache key) (l.pa / 8 * 8) ((l.pa + n + 7) / 8 * 8 - l.pa / 8 * 8)
    setCore (noteTook s (dataCache key) l.pa n) (dataCache key) { c with dcache := c.dcache.map fun e =>
      if l.pa / 128 ≤ e.1 ∧ e.1 ≤ (l.pa + n - 1) / 128 then (e.1, dcMerge s.mem.dram l.pa n e.1 e.2) else e }
  else s

/-- A context has read from an AMOP's release sequence. -/
def addSaw (s : State) (key : Nat) : State :=
  { s with cache := { s.cache with saw := key :: s.cache.saw.filter fun k => k != key } }

/-- A read of a context takes words of an AMOP's release sequence: its next acquire acts at the promoting scope, a FENCE too (R319,
R321). -/
def noteSaw (s : State) (key : Nat) (l : Loc) (n : Nat) : State :=
  if s.mem.promo.any fun x => x.1 == l.typ && decide (x.2 < locPlace l + n) && decide (locPlace l < x.2 + 8) then addSaw s key else s

/-- The same of a load that its data cache answers: the words were taken from memory earlier. -/
def noteSawHeld (s : State) (key : Nat) (l : Loc) (n : Nat) : State :=
  if s.cache.took.any fun x => x.1 == dataCache key && decide (x.2 < l.pa + n) && decide (l.pa < x.2 + 8) then addSaw s key else s

/-- What a read from the home slice, made by a context or for it, leaves: no later load returns older bytes (R313, R315; DESIGN
CHOICE, log 11), and an AMOP's release has been seen (R321). -/
def tookBytes (s : State) (own : Option Nat) (ps : List (Loc × Nat)) : State :=
  match own with
  | none => s
  | some k => ps.foldl (fun s x => noteSaw (dcRenew s k x.1 x.2) k x.1 x.2) s

/-- What stops a read of the device: a failing translation, or an uncorrectable error (R440). -/
inductive ReadStop where
  | xlat (x : Xlat)
  | uncorr
  deriving DecidableEq, Repr

/-- Read a range of an identifier, every page translated first, with what stops it otherwise. An uncorrectable error is logged, and no
byte is taken (R440). Device DRAM lines it touches are accessed in the L2 as by any other agent (R123 to R125). The state keeps the
translations. -/
def devReadE (s : State) (cache p asid va n : Nat) (user : Bool) (own : Option Nat := none) : Except ReadStop (List Byte) × State :=
  match sysPieces s cache p asid va .read user (pieceFuel n) n with
  | (.error x, s) => (.error (.xlat x), s)
  | (.ok ps, s) =>
    let t := l2Pieces s (some p) 0 false ps
    match ps.findSome? fun x => locBad s x.1 x.2 with
    | some e => (.error .uncorr, logMemErr t (some p) 0 0 e)
    | none => (.ok (piecesRead s ps), tookBytes t own ps)

/-- Such a read where an uncorrectable error counts as a forbidden access. -/
def devReadS (s : State) (cache p asid va n : Nat) (user : Bool) (own : Option Nat := none) : Except Xlat (List Byte) × State :=
  match devReadE s cache p asid va n user own with
  | (.ok bs, s) => (.ok bs, s)
  | (.error (.xlat x), s) => (.error x, s)
  | (.error .uncorr, s) => (.error .forbid, s)

/-- Such a read with the cause of what stops it: PAGE or UNCORR (R389, R440). -/
def readSure (s : State) (cache p asid va n : Nat) (user : Bool) (own : Option Nat := none) : Except Nat (List Byte) × State :=
  match devReadE s cache p asid va n user own with
  | (.ok bs, s) => (.ok bs, s)
  | (.error (.xlat _), s) => (.error 7, s)
  | (.error .uncorr, s) => (.error 0x0E, s)

/-- Write a range of an identifier, every page translated first; the first failure otherwise. Device DRAM lines it
touches are accessed in the L2 as by any other agent (R125); a write made for a context counts as one of its core's own (R313),
and its data cache drops the lines (R122). A failure comes with the state that the translations leave. -/
def devWrite (s : State) (cache p asid va : Nat) (bs : List Byte) (user : Bool) (mark : Nat) (own : Option Nat := none) :
    Except (Xlat × State) State :=
  match sysPieces s cache p asid va .write user (pieceFuel bs.length) bs.length with
  | (.ok ps, s) =>
    .ok (l2Pieces (dropLines (piecesWrite s ps bs) own ps) (some p) mark true ps)
  | (.error x, s) => .error (x, s)

/-- A write of the device into a ring of a partition, in its first identifier with supervisor access (R350, R393,
R411). -/
def sysWrite (s : State) (p va : Nat) (bs : List Byte) : Except (Xlat × State) State :=
  devWrite s sysTlb p (asidBase s p) va bs false 0

end Sys2Proof.Machine
end

