-- ==== Sys2Proof/Machine/Ops.lean ====
section
/-! DEFINITION. The named operations over registers, counters, queues and mailboxes, fault events and the freeze (R389 to
R397), and taking a trap with its return (R342 to R350), on a core and on a stack sequencer (R307, R308). -/

namespace Sys2Proof.Machine

/-! ### Registers -/

/-- A scalar register; s0 reads as 0 (R100). -/
def getS (c : Ctx) (r : Nat) : Word := if h : 0 < r ∧ r < 32 then c.arch.s[r]'(h.2) else 0

/-- Write a scalar register; a write to s0 is discarded (R100). -/
def setS (c : Ctx) (r : Nat) (x : Word) : Ctx :=
  if h : 0 < r ∧ r < 32 then { c with arch := { c.arch with s := c.arch.s.set r x h.2 } } else c

/-- Write a scalar register of an agent. -/
def writeS (s : State) (a : AgentId) (r : Nat) (x : Word) : State := updCtx s a fun c => setS c r x

/-- A vector register v0 to v29. -/
def getV (c : Ctx) (r : Nat) : VReg := if h : r < 30 then c.arch.v[r] else 0

/-- Write a vector register v0 to v29. -/
def setV (c : Ctx) (r : Nat) (x : VReg) : Ctx :=
  if h : r < 30 then { c with arch := { c.arch with v := c.arch.v.set r x } } else c

/-- A mask register. -/
def getM (c : Ctx) (r : Nat) : MaskReg := if h : r < 8 then c.arch.m[r] else 0

/-- Write a mask register. -/
def setM (c : Ctx) (r : Nat) (x : MaskReg) : Ctx :=
  if h : r < 8 then { c with arch := { c.arch with m := c.arch.m.set r x } } else c

/-- A stream binding. -/
def getK (c : Ctx) (r : Nat) : KBind := if h : r < 8 then c.arch.k[r] else .unbound

/-- Set a stream binding. -/
def setK (c : Ctx) (r : Nat) (x : KBind) : Ctx :=
  if h : r < 8 then { c with arch := { c.arch with k := c.arch.k.set r x } } else c

/-- A local progress counter (R93). -/
def getPg (c : Ctx) (n : Nat) : Word := if h : n < 16 then c.arch.pg[n] else 0

/-- Add to a local counter, modulo 2^64, which sets the event flag (R93, R94, R189). -/
def addPg (c : Ctx) (n : Nat) (x : Word) : Ctx :=
  if h : n < 16 then
    { c with arch := { c.arch with pg := c.arch.pg.set n (c.arch.pg[n] + x) }, eng := { c.eng with event := true } }
  else c

/-- A ring. -/
def getRing (c : Ctx) (n : Nat) : Ring := if h : n < 8 then c.arch.rings[n] else Ring.reset

/-- Replace a ring. -/
def setRing (c : Ctx) (n : Nat) (r : Ring) : Ctx :=
  if h : n < 8 then { c with arch := { c.arch with rings := c.arch.rings.set n r } } else c

/-- The shadow of a nest slot (R177). -/
def getNest (c : Ctx) (n : Nat) : NestDesc := if h : n < 8 then c.arch.nests[n] else NestDesc.reset

/-- Write the shadow of a nest slot (R177). -/
def setNest (c : Ctx) (n : Nat) (d : NestDesc) : Ctx :=
  if h : n < 8 then { c with arch := { c.arch with nests := c.arch.nests.set n d } } else c

/-- Row `i` of a tile (R105). -/
def getAccRow (c : Ctx) (t i : Nat) : VReg := kget 0 c.arch.acc (128 * t + i)

/-- Write row `i` of a tile; a row of zeros is not listed. -/
def setAccRow (c : Ctx) (t i : Nat) (x : VReg) : Ctx :=
  { c with arch := { c.arch with
      acc := if x = 0 then kerase c.arch.acc (128 * t + i) else kput c.arch.acc (128 * t + i) x } }

/-- The engine of a context. -/
def getE (g : Engines) : Engine → EngineSt
  | .q => g.q
  | .l => g.l
  | .m => g.m
  | .v => g.v
  | .s => g.s
  | .t => g.t

/-- Replace an engine of a context. -/
def setE (g : Engines) (e : Engine) (x : EngineSt) : Engines :=
  match e with
  | .q => { g with q := x }
  | .l => { g with l := x }
  | .m => { g with m := x }
  | .v => { g with v := x }
  | .s => { g with s := x }
  | .t => { g with t := x }

/-- The engines in chain order (R24). -/
def allEngines : List Engine := [.q, .l, .m, .v, .s, .t]

/-- The place of an engine in the chain Q, L, M, V, S, T (R24), its bit in HELD, SKIP and TDET (R91, R340). -/
def chainPos : Engine → Nat
  | .q => 0
  | .l => 1
  | .m => 2
  | .v => 3
  | .s => 4
  | .t => 5

/-- The engine field of a word (R22). -/
def engineField : Engine → Nat
  | .v => 1
  | .m => 2
  | .l => 3
  | .s => 4
  | .t => 5
  | .q => 6

/-- Append an entry to the reply queue: the engine field above 61 bits of payload (R96, R176); it sets the event flag
(R189). -/
def pushReply (c : Ctx) (e : Engine) (x : Nat) : Ctx :=
  { c with eng := { c.eng with
      reply := c.eng.reply ++ [BitVec.ofNat 64 (engineField e * 2 ^ 61 + x % 2 ^ 61)], event := true } }

/-- OR flags into FFLAGS (R63, R64). -/
def orFlags (c : Ctx) (f : Nat) : Ctx := { c with csr := { c.csr with fflags := c.csr.fflags ||| BitVec.ofNat 32 f } }

/-- Change the front end of an agent. -/
def updFr (s : State) (a : AgentId) (f : Front → Front) : State := updCtx s a fun c => { c with fr := f c.fr }

/-- Change the life of an agent's context. -/
def updLife (s : State) (a : AgentId) (f : Life → Life) : State := updCtx s a fun c => { c with life := f c.life }

/-- The control core of an agent stands still for a reason; nothing else changes. -/
def stallAt (s : State) (a : AgentId) (w : Stall) : State := updFr s a fun f => { f with stall := w }

/-- The control core stands still at an access of its word: the fetch, or one of the word's own. -/
def stallAcc (s : State) (a : AgentId) (w : Stall) (fetch : Bool) : State :=
  updFr s a fun f => { f with stall := w, abort := none, waitFetch := fetch }

/-- Prefix words met since the last target. -/
def pfxCount (p : Prefixes) : Nat := b2n p.ext.isSome + b2n p.rep.isSome + b2n p.limm.isSome + b2n p.sca.isSome

/-- The address a trap reports for the current word: that of its first prefix, or of the XCALL in a body (R132,
R148). -/
def curPc (c : Ctx) : Word :=
  match c.fr.mac with
  | some m => m.pc
  | none => c.fr.pc - BitVec.ofNat 64 (4 * pfxCount c.fr.pfx)

/-! ### Mailboxes and streams -/

/-- Append a message to a sequencer's upward mailbox, and set the event flag of the bank that forked the stream
(R181, R189). -/
def appendUp (s : State) (n : Nat) (x : Word) : State :=
  let q := getSeq s n
  let s := setSeq s n { q with up := q.up ++ [x] }
  match q.forker with
  | some k => updCtx s (keyAgent k) fun c => { c with eng := { c.eng with event := true } }
  | none => s

/-- An EXIT message: bit 63 set and kind 0 (R181). -/
def isExitMsg (x : Word) : Bool := bit x.toNat 63 && bits x.toNat 62 60 == 0

/-- Deliver a hardware message that waits for room (R181); when it is the EXIT message the sequencer becomes free, its
downward mailbox is emptied and its handle is ended. -/
def deliverUp (s : State) (n : Nat) : State :=
  let q := getSeq s n
  match q.pendMsg with
  | [] => s
  | x :: r =>
    if q.up.length < 8 then
      let s := appendUp (setSeq s n { q with pendMsg := r }) n x
      if isExitMsg x then
        let q := getSeq s n
        let s := setSeq s n { q with down := [] }
        setCtx s (.seq n) Ctx.reset
      else s
    else s

/-- A hardware message for an upward mailbox: it waits for room and is never dropped (R181). -/
def hardMsg (s : State) (n : Nat) (x : Word) : State :=
  let q := getSeq s n
  deliverUp (setSeq s n { q with pendMsg := q.pendMsg ++ [x] }) n

/-! ### The trap ring -/

/-- Append a 64-byte entry to a partition's trap ring, or count it lost on a full ring (R350); an entry whose write
fails translation is counted lost too (DESIGN CHOICE, log 22). -/
def appendTrapRing (s : State) (p : Nat) (rcd : List Byte) : State :=
  let tail := (preg s p 0x068).toNat
  let head := (preg s p 0x070).toNat
  let size := 2 ^ wbits (preg s p 0x060) 4 0
  let lost := fun (s : State) => setPreg s p 0x078 (satInc32 (preg s p 0x078))
  if (tail + 2 ^ 32 - head) % 2 ^ 32 = size then lost s
  else
    match sysWrite s p ((preg s p 0x058).toNat + 64 * (tail % size)) rcd with
    | .error (_, s) => lost s
    | .ok s =>
      let s := setPreg s p 0x068 (BitVec.ofNat 64 ((tail + 1) % 2 ^ 32))
      raiseIrq s p 0 0

/-- A trap-ring entry (R348). -/
def trapEntryBytes (tepc twpc tva tdet tcause : Word) (l : Life) (a : AgentId) (scyc : Word) (kind : Nat) : List Byte :=
  let place := match a with
    | .bank c b => c + 512 * b2n b
    | .seq _ => 0
  leList 8 tepc.toNat ++ leList 8 twpc.toNat ++ leList 8 tva.toNat ++ leList 8 tdet.toNat ++ leList 8 tcause.toNat
    ++ leList 4 l.rcd.tag.toNat ++ leList 2 l.rcd.stage.toNat ++ leList 2 place ++ leList 8 scyc.toNat
    ++ leList 7 0 ++ leList 1 kind

/-! ### The data cache of a control core -/

/-- Count the L2 line accesses of a context (R126). -/
def countL2 (c : Ctx) (x : Nat × Nat × Nat) : Ctx :=
  { c with csr := { c.csr with l2miss := c.csr.l2miss + BitVec.ofNat 64 x.1
                               l2hits := c.csr.l2hits + BitVec.ofNat 64 x.2.1
                               l2cmpl := c.csr.l2cmpl + BitVec.ofNat 64 x.2.2 } }

/-- The L2 side of a control-core access to device DRAM: hit or install, and the counts when CTRL is 1 (R125 to
R127). The counter reads of WAITGE and the reads of SPAWN, CONT and CSTORE count like that of NEST (R177; DESIGN CHOICE, log 79). -/
def ctlL2 (s : State) (a : AgentId) (l : Loc) (n : Nat) (write : Bool) : State :=
  if l.typ ≠ 0 then s
  else
    let c := getCtx s a
    let s := if wbits c.csr.l2csel 0 0 = 1 then setCtx s a (countL2 c (l2Counts s l.pa n)) else s
    l2Range s (some c.life.part) l.pa n (if l.ef then 1 else 0) write false

/-- Lines of a core's data cache and of its instruction cache: 64 KiB of 128 bytes each (R19; log 11). -/
def cacheLines : Nat := 512

/-- Put a line into a cache; a full one gives up a line for it (R19; log 11). -/
def fillLine (ctr : Nat) (m : KMap (List Byte)) (line : Nat) (bs : List Byte) : KMap (List Byte) :=
  if (kfind m line).isNone && decide (cacheLines ≤ m.length) then
    kput (m.eraseIdx (Config.victim ctr % m.length)) line bs
  else kput m line bs

/-- The data-cache line of a place, when the control core of a context holds one (R122, R323; lines of 128 bytes of device DRAM, log
11). -/
def dcLine (s : State) (a : AgentId) (l : Loc) : Option (List Byte) :=
  if l.typ = 0 then kfind (getCore s (coreTlb a)).dcache (l.pa / 128) else none

/-- Change the data cache of a context's control core. -/
def updCache (s : State) (a : AgentId) (f : KMap (List Byte) → KMap (List Byte)) : State :=
  let k := getCore s (coreTlb a)
  setCore s (coreTlb a) { k with dcache := f k.dcache }

/-- The line of a place holds bytes with an uncorrectable error, which no core's cache takes (R440; DESIGN CHOICE, log 17). -/
def lineBad (s : State) (l : Loc) : Bool := (locBad s { l with pa := l.pa / 128 * 128 } 128).isSome

/-- Fill a data-cache line from memory (R122), with fresh parity (R438). -/
def dcFill (s : State) (a : AgentId) (l : Loc) : State :=
  if l.typ = 0 && !lineBad s l then
    updCache (noteTook (dcFresh s (coreTlb a) (l.pa / 128 * 128) 128) (coreTlb a) (l.pa / 128 * 128) 128) a fun m =>
      fillLine s.sch.freeCtr m (l.pa / 128) (mread s.mem.dram (l.pa / 128 * 128) 128)
  else s

/-- What a read of a context from the home slice leaves (`tookBytes`). -/
def homeRead (s : State) (a : AgentId) (l : Loc) (n : Nat) : State := tookBytes s (some (ctxKey a)) [(l, n)]

/-- Writes by the core's own engines invalidate the lines they touch (R122). -/
def dcInval (s : State) (a : AgentId) (l : Loc) (n : Nat) : State := dropLines s (some (ctxKey a)) [(l, n)]

/-- An acquire: at cluster scope or wider the whole data cache is invalidated (R122). -/
def acquire (s : State) (a : AgentId) (scope : Nat) : State :=
  if 1 ≤ scope then
    let s := updCache s a fun _ => []
    { s with cache := { s.cache with saw := s.cache.saw.filter fun k => k != ctxKey a } }
  else s

/-- A FENCE is an acquire for the earlier reads of its context, some of which may have read from an AMOP: it then acts at the
promoting word's scope (R319, R321), which the model takes as device scope. -/
def fenceScope (s : State) (a : AgentId) (scope : Nat) : Nat := if s.cache.saw.contains (ctxKey a) then max 3 scope else scope

/-- An acquire that reads a place: one that reaches a peer has system scope whatever it names (R168, R327), and one that reads from
an AMOP acts at the promoting word's scope (R321), which the model takes as device scope. -/
def acquireAt (s : State) (a : AgentId) (l : Loc) (scope : Nat) : State :=
  acquire s a (if l.typ = 2 then 4 else if promoted s l then max 3 scope else scope)

/-- A parity error in a line of the data cache. -/
def dcMark (a : AgentId) (l : Loc) (e : ErrMark) : Bool := markHit .dcache (coreTlb a) (l.pa / 128 * 128) 128 e

/-- A data-cache line with a parity error is dropped, and counts (R438, R439). -/
def dcParity (s : State) (a : AgentId) (l : Loc) : State :=
  if s.mem.errs.isEmpty || (dcLine s a l).isNone then s
  else
    let n := (s.mem.errs.filter (dcMark a l)).length
    if n = 0 then s
    else
      let s := countClass { s with mem := { s.mem with errs := s.mem.errs.filter fun e => !dcMark a l e } } 1 n
      updCache s a fun m => kerase m (l.pa / 128)

/-- A load is answered by the data cache: the line is there without a parity error, and the free choice of R122 takes it (log 11). -/
def dcServes (s : State) (a : AgentId) (l : Loc) : Bool :=
  (dcLine s a l).isSome && Config.cacheHit s.sch.freeCtr (l.pa / 128) && !s.mem.errs.any (dcMark a l)

/-! ### What a control-core access does -/

/-- Stores and atomics update the copies of their bytes in the data cache (R122). -/
def dcUpdate (s : State) (a : AgentId) (l : Loc) (n : Nat) : State := dcRenew s (ctxKey a) l n

/-- A control-core store is performed at the home slice, updating the core's own copy of the line (R122, R164). -/
def ctlStore (s : State) (a : AgentId) (l : Loc) (bs : List Byte) : State :=
  dcUpdate (ctlL2 (locWrite s l bs) a l bs.length true) a l bs.length

/-- The bytes a control-core load takes: from the data cache when that answers, otherwise from its home slice, which fills the line
(R122, R164; log 11). -/
def ctlLoad (s : State) (a : AgentId) (l : Loc) (n : Nat) : List Byte × State :=
  let s := dcParity s a l
  let miss := (locRead s l n, dcFill (ctlL2 (noteSaw s (ctxKey a) l n) a l n false) a l)
  match dcLine s a l with
  | some line =>
    if Config.cacheHit s.sch.freeCtr (l.pa / 128) then (line.drop (l.pa % 128) |>.take n, noteSawHeld s (ctxKey a) l n) else miss
  | none => miss

/-- Zero or sign extension of a loaded value of `n` bytes (R164). -/
def loadExt (signed : Bool) (n x : Nat) : Word := if signed then sext64 (8 * n) x else BitVec.ofNat 64 x

/-- The new value of an AMO operation (R135, R166). -/
def amoNew (op : Nat) (old x : Word) : Word :=
  match op with
  | 0 => x
  | 1 => old + x
  | 2 => old &&& x
  | 3 => old ||| x
  | 4 => old ^^^ x
  | 5 => if old.toNat < x.toNat then old else x
  | _ => if old.toNat < x.toNat then x else old

/-- The 64-bit word at a place, from its home slice. -/
def homeWord (s : State) (l : Loc) : Word := BitVec.ofNat 64 (leVal (locRead s l 8))

/-- An atomic write of an 8-byte word: it goes on with the release sequence that its read belongs to, or begins one with an AMOP
(R316, R321). -/
def keepPromo (s : State) (l : Loc) (amop : Bool) (write : State → State) : State :=
  if amop || promoted s l then addPromo (write s) l else write s

/-- An atomic write of the control core to the word at a place; its data cache then holds the word as a member of the release sequence it
went on with (R321). -/
def ctlAtomic (s : State) (a : AgentId) (l : Loc) (amop : Bool) (x : Word) : State :=
  dcUpdate (keepPromo (noteSaw s (ctxKey a) l 8) l amop fun s => ctlStore s a l (leList 8 x.toNat)) a l 8

/-- A control-core access is performed at its place: an atomic takes the old value from the home slice, and one that acquires empties the
data cache at cluster scope or wider (`acquireAt`); AMOP promotes (R164, R166 to R169, R175, R321). -/
def doAct (s : State) (a : AgentId) (l : Loc) : HeldAct → State
  | .store bs => ctlStore s a l bs
  | .load d n signed =>
    let (bs, s) := ctlLoad s a l n
    writeS s a d (loadExt signed n (leVal bs))
  | .amo d op x scope acq amop =>
    let old := homeWord s l
    let t := ctlAtomic s a l amop (amoNew op old x)
    writeS (if acq then acquireAt t a l scope else t) a d old
  | .cas d old new scope acq amop =>
    let was := homeWord s l
    let t := if was = old then ctlAtomic s a l amop new else homeRead (ctlL2 s a l 8 false) a l 8
    writeS (if acq then acquireAt t a l scope else t) a d was
  | .signal x => ctlAtomic s a l false (homeWord s l + x)

/-! ### Accesses that are not performed at once -/

/-- Bytes that an access touches. -/
def actBytes : HeldAct → Nat
  | .store bs => bs.length
  | .load _ n _ => n
  | .amo _ _ _ _ _ _ | .cas _ _ _ _ _ _ | .signal _ => 8

/-- The scalar register that an access writes. -/
def actDest : HeldAct → Option Nat
  | .load d _ _ | .amo d _ _ _ _ _ | .cas d _ _ _ _ _ => some d
  | .store _ | .signal _ => none

/-- A buffered access is performed (R318, R323). -/
def performHeld (s : State) (x : HeldAccess) : State := doAct s (keyAgent x.ctx) x.loc x.act

/-- Every buffered access of a context is performed, in program order. -/
def performOwn (s : State) (a : AgentId) : State :=
  if s.mem.buf.isEmpty then s
  else
    let own := fun (x : HeldAccess) => x.ctx == ctxKey a
    (s.mem.buf.filter own).foldl performHeld { s with mem := { s.mem with buf := s.mem.buf.filter fun x => !own x } }

/-- Every buffered access is performed, in order. -/
def performAll (s : State) : State := s.mem.buf.foldl performHeld { s with mem := { s.mem with buf := [] } }

/-- Two accesses share a byte. -/
def accessesMeet (x y : HeldAccess) : Bool :=
  x.loc.typ == y.loc.typ && decide (locPlace x.loc < locPlace y.loc + actBytes y.act)
    && decide (locPlace y.loc < locPlace x.loc + actBytes x.act)

/-- An access `y` must be performed after an earlier one `x`: those of one context keep their order (R317), but that a load may come before
an earlier store of other bytes, which no other agent can tell (R320; log 89). -/
def comesAfter (y x : HeldAccess) : Bool :=
  x.ctx == y.ctx && match x.act, y.act with
    | .store _, .load _ _ _ => accessesMeet x y
    | _, _ => true

/-- The `k`-th buffered access is performed, unless an earlier one has to come first. -/
def performNth (s : State) (k : Nat) : State :=
  match s.mem.buf[k]? with
  | none => s
  | some y =>
    if (s.mem.buf.take k).any (comesAfter y) then s
    else performHeld { s with mem := { s.mem with buf := s.mem.buf.eraseIdx k } } y

/-- Control-core accesses are buffered now: while `buffer` is set and no error mark stands (log 89). -/
def buffers (s : State) : Bool := s.sch.buffer && s.mem.errs.isEmpty

/-- A control-core access whose checks have been made (R160, R317, R318): it is performed at once, after the earlier ones of its context,
or waits in the buffer (log 89). -/
def ctlPost (s : State) (a : AgentId) (l : Loc) (act : HeldAct) : State :=
  if buffers s then { s with mem := { s.mem with buf := s.mem.buf ++ [⟨ctxKey a, l, act⟩] } }
  else doAct (performOwn s a) a l act

/-! ### Stops of a stream -/

/-- The stop record of R308. -/
def stopRecord (pc va : Word) (cause n chan bank col : Nat) (det : Word) : List Byte :=
  leList 8 pc.toNat ++ leList 8 va.toNat ++ leList 1 cause ++ leList 1 n ++ leList 1 chan ++ leList 1 bank
    ++ leList 4 col ++ leList 8 det.toNat

/-- A stream stops (R307, R308): the stop record goes to SQREC when that is not 0, a copy to the trap ring, and the
STOP message to the upward mailbox, which releases the stream's accesses (R324): the buffered ones come first. -/
def stopStream (s : State) (n cause : Nat) (pc va det : Word) (chan bank col : Nat) : State :=
  let a := AgentId.seq n
  let s := performOwn s a
  let c := getCtx s a
  let rcd := stopRecord pc va cause n chan bank col det
  let addr := c.csr.sqrec.toNat
  let (s, recw) :=
    if addr = 0 then (s, false)
    else
      match devWrite s (coreTlb a) c.life.part c.life.asid addr rcd true 0 with
      | .ok s => (s, true)
      | .error (_, s) => (s, false)
  let s := appendTrapRing s c.life.part (rcd ++ leList 31 0 ++ leList 1 2)
  let s := setSeq s n { getSeq s n with stopPc := pc, stopCause := cause }
  let s := updCtx s a fun c => { c with life := { c.life with status := .stopped, drain := .none }
                                        fr := { c.fr with stall := .none, abort := none } }
  let msg := 2 ^ 63 + 2 ^ 60 + cause * 2 ^ 52 + n % 4 * 2 ^ 50 + n / 4 * 2 ^ 47 + b2n recw * 2 ^ 46
    + wbits pc 47 2
  hardMsg s n (BitVec.ofNat 64 msg)

/-! ### Taking a trap -/

/-- The origin of a trap (R342). -/
inductive Origin where
  | routing | control | engine | bank
  deriving DecidableEq, Repr

/-- A trap to be taken: its cause and origin, the engine field of the trapping word, the addresses and details R342 and
R349 give, and whether the resume point is the current issue or body word (it is not for ECALL and EBREAK). -/
structure TrapReq where
  cause : Nat
  origin : Origin
  engine : Nat
  twpc : Word
  tepc : Word
  va : Word
  det : Word
  inside : Bool
  deriving DecidableEq, Repr

/-- The macro call at the resume point, with the body word's first prefix as the place (R344; DEDUCED, log 23). -/
def resumeMac (c : Ctx) : Option MacroCall :=
  c.fr.mac.map fun m => { m with idx := m.idx - pfxCount c.fr.pfx, grp := GroupSt.reset }

/-- The front end at a control word whose ABORT, or failed peer request, has yet to raise its ACCESS (R346, R394, R430). -/
def deniedFront (c : Ctx) : Option Front :=
  if c.fr.abort.isSome then
    some { c.fr with grp := GroupSt.reset, stall := .none, mac := c.fr.mac.map fun m => { m with grp := GroupSt.reset } }
  else none

/-- TCAUSE of a trap (R340, R344). -/
def tcauseOf (c : Ctx) (t : TrapReq) : Word :=
  let mac := if t.inside then resumeMac c else none
  let issue := if t.inside then c.fr.issue else 0
  let body := match mac with
    | some m => m.idx
    | none => 0
  BitVec.ofNat 64 (t.cause + t.engine * 2 ^ 8 + b2n (t.origin == .engine) * 2 ^ 11 + issue * 2 ^ 12 + body * 2 ^ 18
    + b2n mac.isSome * 2 ^ 23 + b2n (issue != 0 || mac.isSome) * 2 ^ 24)

/-- A mark word (R267). -/
def isMark (w : QWord) : Bool :=
  match w.ins with
  | .lmark _ _ _ | .smark _ _ _ => true
  | _ => false

/-- A mark whose partner has not started (R267). -/
def loneMark (g : Engines) (w : QWord) : Bool :=
  match w.ins with
  | .lmark _ _ m | .smark _ _ m => g.lmarks[m.toNat] != g.smarks[m.toNat]
  | _ => false

/-- Discard the words of an engine that have not started (R347 step 1), a word that a trap holds, and a mark whose partner will
not start. -/
def dropQueue (g : Engines) (e : EngineSt) : EngineSt :=
  { e with queue := [], held := none, heldFlying := false, headWait := false, headAbort := none, headLog := [], headLines := [], headOk := false
           flying := e.flying.filter fun f => f.hold != .trapped && !loneMark g f.w }

/-- Discard every word that has not started. -/
def dropQueues (g : Engines) : Engines :=
  { g with q := dropQueue g g.q, l := dropQueue g g.l, m := dropQueue g g.m, v := dropQueue g g.v, s := dropQueue g g.s,
           t := dropQueue g g.t, barrier := none }

/-- A double trap halts the bank (R347): words not started are discarded; the spore is retired once the waits of R78
are over (the EXIT_RETIRE step). -/
def doubleTrap (s : State) (a : AgentId) (t : TrapReq) : State :=
  let c := getCtx s a
  let rcd := trapEntryBytes t.tepc t.twpc t.va t.det (tcauseOf c t) c.life a c.csr.scyc 1
  setCtx s a { c with life := { c.life with status := .halting, halt := some rcd, drain := .none }
                      fr := { c.fr with stall := .none, abort := none }
                      eng := dropQueues c.eng }

/-- Taking a trap (R344): the one operation every trap of a bank goes through. Its saved registers are TCAUSE, TWPC,
TEPC, TVA and TDET, TRET becomes 0, the mode becomes supervisor and the PC STVEC; with TRLOG the entry is appended to
the trap ring. In supervisor mode a trap that is not an engine's is a double trap. A control word that has still to take the ACCESS of
an ABORT takes it after the ERET (R346). -/
def takeTrap (s : State) (a : AgentId) (t : TrapReq) : State :=
  let c := getCtx s a
  if c.trap.smode && t.origin != .engine then doubleTrap s a t
  else
    let tc := tcauseOf c t
    let c' := { c with
      trap := { c.trap with smode := true, tcause := tc, tret := 0, tepc := t.tepc, twpc := t.twpc, tva := t.va,
                            tdet := t.det, resume := if t.inside then resumeMac c else none
                            denied := if t.origin = .engine ∨ t.origin = .bank then deniedFront c else none }
      fr := { Front.reset with pc := c.trap.stvec }
      life := { c.life with drain := .none } }
    let s := setCtx s a c'
    if wbits (preg s c.life.part 0x000) 8 8 == 1 then
      appendTrapRing s c.life.part (trapEntryBytes t.tepc t.twpc t.va t.det tc c.life a c.csr.scyc 0)
    else s

/-- A trap cause at a control word (R342): on a core it is taken at once, on a sequencer it stops the stream (R307). -/
def raiseAt (s : State) (a : AgentId) (origin : Origin) (engine cause : Nat) (va det : Word) : State :=
  let c := getCtx s a
  match a with
  | .seq n => stopStream s n cause (curPc c) va (if cause = 1 then det else 0) 0xFF 0xFF 0xFFFFFFFF
  | .bank _ _ => takeTrap s a ⟨cause, origin, engine, curPc c, curPc c, va, det, true⟩

/-- A trap of control-core execution at the current word (R342). -/
def raiseCtl (s : State) (a : AgentId) (cause : Nat) (va det : Word) : State := raiseAt s a .control 0 cause va det

/-- The trap of ECALL and EBREAK, which return after the word (R188); on a sequencer a stop (R183). -/
def raiseCall (s : State) (a : AgentId) (cause : Nat) (det : Word) : State :=
  let c := getCtx s a
  match a with
  | .seq n => stopStream s n cause (curPc c) 0 0 0xFF 0xFF 0xFFFFFFFF
  | .bank _ _ => takeTrap s a ⟨cause, .control, 0, curPc c, c.fr.pc + 4, 0, det, false⟩

/-- Engines with a word held by a trap condition (R340 HELD). -/
def heldMask (g : Engines) : Nat :=
  (allEngines.map fun e => if (getE g e).held.isSome then 2 ^ chainPos e else 0).foldl (· + ·) 0

/-- A trap is entered before another: one that arose in user mode first, then that of the word routed first (R344, R346). -/
def trapBefore (x y : TrapInfo) : Bool := if x.late != y.late then !x.late else decide (x.uid < y.uid)

/-- The trap that is entered first among those held (R346). -/
def firstHeld (g : Engines) : Option (Engine × TrapInfo) :=
  (allEngines.filterMap fun e => (getE g e).held.map fun t => (e, t)).foldl (fun acc x =>
    match acc with
    | none => some x
    | some y => if trapBefore x.2 y.2 then some x else acc) none

/-- An engine trap waits for the next user-mode word boundary of the bank (R343, R344). -/
def trapPending (c : Ctx) : Bool := (firstHeld c.eng).isSome

/-- A barrier that also stands before the words routed at or after `uid` (R343). -/
def lowBarrier (b : Option Nat) (uid : Nat) : Option Nat :=
  match b with
  | some x => some (min x uid)
  | none => some uid

/-- What a trap entry leaves of an engine's held word: the handler sees it in HELD, so the ERET lets it be checked again (R345,
R346); the ACCESS of an ABORT that this entry does not report stays to be entered (R346). -/
def seenHeld (e : Engine) (x : EngineSt) (f : Engine) : EngineSt :=
  { x with held := x.held.map fun t => if t.sure && e != f then t else { t with late := false, sure := false } }

/-- The control core takes the pending engine trap at its word boundary (R342 to R344). -/
def takeEngineTrap (s : State) (a : AgentId) : State :=
  let c := getCtx s a
  match firstHeld c.eng with
  | none => s
  | some (e, t) =>
    let s := takeTrap s a ⟨t.cause, .engine, engineField e, t.pc, curPc c, t.va, t.det, true⟩
    updCtx s a fun c =>
      { c with eng := { allEngines.foldl (fun g f => setE g f (seenHeld e (getE g f) f)) c.eng with
          barrier := lowBarrier c.eng.barrier t.uid } }

/-- A trap condition at the head of an engine's queue, or at a started word of it (R343): the word is held, words
routed after it do not start. On a sequencer the stream stops instead (R307). -/
def holdWord (s : State) (a : AgentId) (e : Engine) (w : QWord) (flying : Bool) (cause : Nat) (va det : Word) : State :=
  match a with
  | .seq n =>
    let s := stopStream s n cause w.pc va (if cause = 1 then det else 0) 0xFF 0xFF 0xFFFFFFFF
    updCtx s a fun c => { c with eng := setE c.eng e { getE c.eng e with held := some ⟨cause, va, det, w.raw, w.pc, w.uid, false, false⟩
                                                                         heldFlying := flying } }
  | .bank _ _ =>
    updCtx s a fun c =>
      let x := getE c.eng e
      let g := setE c.eng e { x with held := some ⟨cause, va, det, w.raw, w.pc, w.uid, c.trap.smode, false⟩, heldFlying := flying }
      { c with eng := { g with barrier := lowBarrier g.barrier w.uid } }

/-! ### Fault events and the freeze -/

/-- The agent that waits as `Waiter` names it. -/
def waiterOf : AgentId → Waiter
  | .bank c b => .bank c b
  | .seq n => .stream n

/-- The page of an event lies in a record that has been written and not yet answered (R390). -/
def inRecord (r : FaultRec) (ev : FaultEvent) : Bool :=
  r.written && r.asid == ev.asid && decide (r.page ≤ ev.page) && decide (ev.page < r.page + r.pages)

/-- A fault event (R389, R390): it attaches to a written, outstanding record that holds its page, or enters the open batch,
which it opens when there is none. -/
def faultEvent (s : State) (p : Nat) (ev : FaultEvent) : State :=
  updPart s p fun q =>
    if q.recs.any fun r => inRecord r ev then
      { q with recs := q.recs.map fun r =>
          if inRecord r ev && !r.who.contains ev.who then { r with who := r.who ++ [ev.who] } else r }
    else { q with batch := some (q.batch.getD [] ++ [ev]) }

/-- A waiter has an event in the open batch or stands in an outstanding record (R394). -/
def stillWaits (q : Part) (w : Waiter) : Bool :=
  (q.batch.getD []).any (fun e => e.who == w) || q.recs.any fun r => r.who.contains w

/-- The bits of ACC for an access (R391). -/
def accBits : AccKind → Nat
  | .read => 1
  | .write => 2
  | .rmw => 3
  | .fetch => 4
  | .touch => 1
  | .both => 3

/-- The core chooses which bank runs next (R79): with no bank running, a bank that waits to run runs. -/
def switchBank (s : State) (core : Nat) : State :=
  let st b := (getCtx s (.bank core b)).life.status
  let busy b := st b == .running || st b == .halting
  if busy false || busy true then s
  else if st false == .standby then updLife s (.bank core false) fun l => { l with status := .running }
  else if st true == .standby then updLife s (.bank core true) fun l => { l with status := .running }
  else s

/-- A context freezes on an invalid translation (R396): its fault event is made, no later word is routed, and the core
switches banks (R79). A stream waits in place (R389). -/
def freeze (s : State) (a : AgentId) (page acc : Nat) : State :=
  let c := getCtx s a
  let s := faultEvent s c.life.part ⟨waiterOf a, c.life.asid, page, acc⟩
  let s := updLife s a fun l => { l with status := .frozen }
  match a with
  | .bank n _ => switchBank s n
  | .seq _ => s

/-- A routed word meets an invalid translation (R389, R346): the fault event, and the freeze unless a trap is pending
or the bank is in supervisor mode, when FPEND is set, or the bank is frozen or halting already (R347). -/
def faultWord (s : State) (a : AgentId) (page acc : Nat) : State :=
  let c := getCtx s a
  if !isSeq a && (c.trap.smode || trapPending c) then
    let s := faultEvent s c.life.part ⟨waiterOf a, c.life.asid, page, acc⟩
    updCtx s a fun c => { c with trap := { c.trap with fpend := true } }
  else if c.life.status == .frozen || c.life.status == .halting then
    faultEvent s c.life.part ⟨waiterOf a, c.life.asid, page, acc⟩
  else freeze s a page acc

/-! ### Control-core accesses -/

/-- What the checks of R160 find for a control-core access: a place, or how the word ends, each with the state that the translation
leaves. -/
inductive CtlAcc where
  | ok (l : Loc) (s : State)
  | trap (cause : Nat) (s : State)
  | fault (s : State)
  | uncorr (l : Loc) (s : State)
  | stall (s : State)
  deriving DecidableEq

/-- A read of a place by the control core does not reach memory: a load that the data cache answers, or a fetch that the instruction cache
of a core does (R121, R122; log 11). -/
def cacheServes (s : State) (a : AgentId) (l : Loc) : AccKind → Bool
  | .read => dcServes s a l
  | .fetch => match a with
    | .bank n _ => l.typ == 0 && (kfind (getCore s n).icache (l.pa / 128)).isSome && Config.cacheHit s.sch.freeCtr (l.pa / 128)
    | .seq _ => false
  | _ => false

/-- The checks of R160 in order, for `n` bytes at `va` that must be a multiple of `align`; with no byte only the place is found,
and no peer is asked (R185). A word whose fault was answered ABORT, or whose peer did not answer, takes ACCESS (R394, R430). -/
def ctlCheck (s : State) (a : AgentId) (va : Word) (n align : Nat) (kind : AccKind) : CtlAcc :=
  let c := getCtx s a
  if va.toNat % align ≠ 0 then .trap 5 s
  else if 2 ^ 48 ≤ va.toNat then .trap 6 s
  else if c.fr.abort.isSome && c.fr.waitFetch == (kind == .fetch) then .trap 6 s
  else
    match xlate s (coreTlb a) c.life.part c.life.asid va.toNat kind (!c.trap.smode) with
    | (.invalid, s') => .fault s'
    | (.forbid, s') => .trap 6 s'
    | (.silent _, s') => if n = 0 then .trap 6 s' else .stall s'
    | (.ok l, s') =>
      if kind != .write && (locBad s' l n).isSome && !cacheServes s' a l kind then .uncorr l s' else .ok l s'

/-- Log an uncorrectable error of device memory that an access of a context met (R440). -/
def logMem (s : State) (a : AgentId) (e : ErrMark) : State :=
  let (core, b) := match a with
    | .bank c b => (c, b2n b)
    | .seq _ => (0, 0)
  logMemErr s (some (getCtx s a).life.part) core b e

/-- An uncorrectable error of a structure of a context's core or sequencer: the log of R440. -/
def logOwn (s : State) (a : AgentId) (struct addr : Nat) : State :=
  let p := some (getCtx s a).life.part
  match a with
  | .bank c b => logUncorr s struct p c (b2n b) 0 0xFF addr
  | .seq n => logUncorr s struct p 0 0 n 0xFF addr

/-- A register with an uncorrectable error was read: the log of R440. -/
def logReg (s : State) (a : AgentId) : State := logOwn s a 2 0

/-- Log an uncorrectable error that an access of a place met. -/
def logDram (s : State) (a : AgentId) (l : Loc) (n : Nat) : State :=
  match locBad s l n with
  | none => s
  | some e => logMem s a e

/-- A stream stops on an uncorrectable error of device memory: its record names the DRAM channel, bank and column (R308; log 83). -/
def stopMem (s : State) (n : Nat) (va : Word) (pa : Nat) : State :=
  stopStream s n 0x0E (curPc (getCtx s (.seq n))) va 0 (pa / 256 % 32) (Config.dramBank pa % 256) (Config.dramCol pa)

/-- UNCORR at a control word that met an uncorrectable error in device memory (R307, R308, R440): a trap, or the stop of a
stream, after the access of the L2 that met it (R123). R349 gives TVA 0 for this cause and R440 the address; the model follows R440
(DEDUCED, log 79). -/
def raiseMem (s : State) (a : AgentId) (va : Word) (l : Loc) (n : Nat) (fetch : Bool) : State :=
  let pa := match locBad s l n with
    | some e => (memErrAt e).2.2
    | none => l.pa
  let s := logDram s a l n
  let s := if fetch then l2Pieces s (some (getCtx s a).life.part) 0 false [(l, n)] else ctlL2 s a l n false
  match a with
  | .seq m => stopMem s m va pa
  | .bank _ _ => raiseCtl s a 0x0E va (2 * 2 ^ 16)

/-- A control-core access (R160): the word goes on with the place, or takes its trap, freezes its bank, takes PAGE in
supervisor mode (R339, R389), or waits for a peer. -/
def withAccess (s : State) (a : AgentId) (va : Word) (n align : Nat) (kind : AccKind) (go : State → Loc → State) : State :=
  match ctlCheck s a va n align kind with
  | .ok l s' => go s' l
  | .trap cause s' =>
    let t := if (getCtx s a).fr.abort = some true ∧ cause = 6 then
        peerOnly s' fun s =>
          match ctlCheck (updFr s a fun f => { f with abort := none }) a va n align kind with
          | .ok l s' => go s' l
          | _ => s
      else s'
    raiseCtl (updFr t a fun f => { f with abort := none }) a cause va 0
  | .fault s' =>
    if (getCtx s a).trap.smode then raiseCtl s' a 7 va 0
    else faultWord (stallAcc s' a .fault (kind == .fetch)) a (va.toNat / 4096) (accBits kind)
  | .uncorr l s' => raiseMem s' a va l n (kind == .fetch)
  | .stall s' => stallAcc s' a .laben (kind == .fetch)

/-! ### Counter adds by the device -/

/-- Add to a memory counter by an agent that is not a control core (R93, R94): an atomic add of 64 bits in the identifier given;
it counts as a write of the context it is made for (R122, R313). The line it accesses in the L2 is not counted among those of a
word (DESIGN CHOICE, log 84). A counter whose place fails translation or is host memory receives no add (DESIGN CHOICE, log 24); nor
does one whose word holds an uncorrectable error, which is logged (R440). Reading from an AMOP's release sequence counts as a read of
that context (R321).
-/
def devAdd (s : State) (cache p asid va : Nat) (x : Word) (own : Option Nat := none) : State :=
  if va % 8 ≠ 0 then s
  else
    match xlate s cache p asid va .rmw true with
    | (.ok l, s') =>
      match locBad s' l 8 with
      | some e => l2Pieces (logMemErr s' (some p) 0 0 e) (some p) 0 false [(l, 8)]
      | none =>
        let old := leVal (locRead s' l 8)
        let s := tookBytes s' own [(l, 8)]
        let s := keepPromo s l false fun s => locWrite s l (leList 8 ((old + x.toNat) % 2 ^ 64))
        let s := dropLines s own [(l, 8)]
        l2Pieces s (some p) 0 true [(l, 8)]
    | (_, s') => s'

/-- Add to a counter operand of a context (R94, R256). -/
def addCtr (s : State) (owner : Option Nat) (cache p asid : Nat) (k : Ctr) (x : Word) : State :=
  match k with
  | .none => s
  | .loc n =>
    match owner with
    | some o => updCtx s (keyAgent o) fun c => addPg c n x
    | none => s
  | .mem va => devAdd s cache p asid va.toNat x owner

/-! ### Operations in flight -/

/-- Add an operation in flight; its key is the next operation number. -/
def addOp (s : State) (o : Op) : Nat × State :=
  let (id, s) := freshUid s
  (id, { s with ops := kput s.ops id o })

/-- Remove an operation. -/
def dropOp (s : State) (id : Nat) : State := { s with ops := kerase s.ops id }

/-! ### Return from a trap -/

/-- Let an engine's held word go on, or discard it (R345). A discarded word that had started gives back what it
reserved: it leaves its engine with no token, reply or counter add. A trap that arose in supervisor mode, and the ACCESS of an ABORT that no
entry has reported, stay held, to be taken at the first user-mode boundary; from here on they are like traps that arise in user mode,
of which the word routed first is reported (R339, R344, R346). -/
def releaseHeld (x : EngineSt) (skip : Bool) : EngineSt :=
  match x.held with
  | none => x
  | some t =>
    if skip then
      if x.heldFlying then { x with held := none, heldFlying := false
                                    flying := x.flying.filter fun f => f.hold != .trapped }
      else { x with held := none, queue := x.queue.drop 1 }
    else if t.late || t.sure then { x with held := some { t with late := false } }
    else { x with held := none, heldFlying := false
                  flying := x.flying.map fun f => if f.hold == .trapped then { f with hold := .none } else f }

/-- The front end after an ERET: the one given, or that of a word which has still to take its ACCESS, when the ERET returns to that very
word (R346). -/
def returnFront (c : Ctx) (fr : Front) : Front :=
  match c.trap.denied with
  | some d =>
    if curPc { c with fr := d } = c.trap.tepc ∧ d.issue = fr.issue ∧ d.mac.isSome = fr.mac.isSome then d else fr
  | none => fr

/-- ERET (R345), but for the EXIT that TRET may ask for: held words are discarded or let go, the mode becomes user, the PC
becomes TEPC with the issue and body word of RESUMEIN, and the barrier is lifted (but for a trap still held). A fault that a
routed word met meanwhile freezes the bank now when it is still unanswered (R346), before a trap that is still held is entered (DESIGN
CHOICE, log 79). -/
def trapReturn (s : State) (a : AgentId) : State :=
  let c := getCtx s a
  let tret := c.trap.tret.toNat
  let g := allEngines.foldl (fun g e => setE g e (releaseHeld (getE g e) (bit tret (chainPos e)))) c.eng
  let tc := c.trap.tcause.toNat
  let inside := bit tc 24
  let fr := { Front.reset with pc := c.trap.tepc, issue := if inside then bits tc 17 12 else 0
                               mac := if inside && bit tc 23 then c.trap.resume else none }
  let c' := { c with
    trap := { c.trap with smode := false, fpend := false, resume := none, denied := none }
    fr := returnFront c fr
    eng := { g with barrier := (firstHeld g).map fun x => x.2.uid } }
  let s := setCtx s a c'
  if c.trap.fpend && stillWaits (getPart s c.life.part) (waiterOf a) then
    match a with
    | .bank n _ => switchBank (updLife s a fun l => { l with status := .frozen }) n
    | .seq _ => s
  else s

end Sys2Proof.Machine
end

