-- ==== Sys2Proof/Machine/Operands.lean ====
section
/-! DEFINITION. Operand forms: the raw fields of a word with macro substitution and XREP steps (R133 to R148), the
elements of vector registers (R34, R192), and what each vector opcode's fields name (R137, R194 to R219). -/

namespace Sys2Proof.Machine

/-! ### Raw words and their fields -/

/-- The 32-bit word of an instruction, or 0 where it has none. -/
def rawOf (i : Instr) : Nat :=
  match i with
  | .illegalWord w => w.toNat
  | _ => (encodeWord i).getD 0

/-- The engine field (R22, R131). -/
def engOf (w : Nat) : Nat := bits w 31 29

/-- The stop bit (R131). -/
def stopOf (w : Nat) : Bool := bit w 28

/-- op7 of a control word (R133). -/
def op7Of (w : Nat) : Nat := bits w 27 21

/-- op6 of an engine word (R136). -/
def op6Of (w : Nat) : Nat := bits w 23 18

/-- The engine a word of engine field 1 to 6 goes to (R22). -/
def engineOf (w : Nat) : Engine :=
  match engOf w with
  | 1 => .v
  | 2 => .m
  | 3 => .l
  | 4 => .s
  | 5 => .t
  | _ => .q

/-- The five layouts of control words (R133, R134). -/
inductive CtlForm where
  | r | i | s | b | j
  deriving DecidableEq, Repr

/-- The layout of a control opcode (R134). -/
def ctlForm (op : Nat) : CtlForm :=
  if op = 0x2A ∨ op = 0x2B ∨ op = 0x4E then .j
  else if 0x48 ≤ op ∧ op ≤ 0x4D then .b
  else if 0x37 ≤ op ∧ op ≤ 0x3A then .s
  else if (0x20 ≤ op ∧ op ≤ 0x36) ∨ op = 0x41 ∨ op = 0x42 ∨ (0x4F ≤ op ∧ op ≤ 0x53) ∨ op = 0x5B ∨ op = 0x5C
    ∨ (0x60 ≤ op ∧ op ≤ 0x67) ∨ op = 0x69 then .i
  else .r

/-- A field of `n` bits at place `lo`, replaced. -/
def putField (w lo n v : Nat) : Nat := setBits w (lo + n - 1) lo v

/-- s28 to s31 become SBASE to SBASE + 3 (R148). -/
def subS (m : MacroCall) (x : Nat) : Nat := if 28 ≤ x then m.sbase + (x - 28) else x

/-- v26 to v29 become VBASE to VBASE + 3 (R148). -/
def subV (m : MacroCall) (x : Nat) : Nat := if 26 ≤ x ∧ x ≤ 29 then m.vbase + (x - 26) else x

/-- Replace a field by a function of it. -/
def mapField (w lo n : Nat) (f : Nat → Nat) : Nat := putField w lo n (f (bits w (lo + n - 1) lo))

/-- The macro immediate placeholder becomes IMM9, sign-extended (R148). -/
def subImm (m : MacroCall) (x : Nat) : Nat := if x = 0x400 then ofSigned 11 m.imm9.toInt else x

/-- Does a stored word hold the macro immediate placeholder (R148)? -/
def holdsPlaceholder (w : Nat) : Bool :=
  engOf w == 0 && (ctlForm (op7Of w) == .i || ctlForm (op7Of w) == .s) && bits w 10 0 == 0x400

/-- The fields of a stored word that substitution replaces hold something that its field checks look at: the placeholder, or a vector
register of VACCRD or VACCWR (R148). -/
def lateChecked (w : Nat) : Bool :=
  holdsPlaceholder w || (engOf w == 1 && (op6Of w == 0x1E || op6Of w == 0x1F))

/-- A stored word without the placeholder and without the vector register fields that substitution replaces: their checks depend on it
(R148, R149). -/
def blankSubst (w : Nat) : Nat :=
  let blank := fun x : Nat => if 26 ≤ x ∧ x ≤ 29 then 0 else x
  if engOf w = 1 ∧ op6Of w ≠ 0x3E then mapField (mapField (mapField w 10 5 blank) 5 5 blank) 0 5 blank
  else if holdsPlaceholder w then putField w 0 11 0
  else w

/-- Substitution of a body word (R148). The va and vb of VACCRD and the vd and va of VACCWR, which hold tile rows, are vd, va and vb
fields of a V word too, and are substituted (DESIGN CHOICE, log 79). -/
def substRaw (m : MacroCall) (w : Nat) : Nat :=
  match engOf w with
  | 0 =>
    match ctlForm (op7Of w) with
    | .r => mapField (mapField (mapField w 16 5 (subS m)) 11 5 (subS m)) 6 5 (subS m)
    | .i => mapField (mapField (mapField w 16 5 (subS m)) 11 5 (subS m)) 0 11 (subImm m)
    | .s => mapField (mapField (mapField w 16 5 (subS m)) 11 5 (subS m)) 0 11 (subImm m)
    | .b => mapField (mapField w 16 5 (subS m)) 11 5 (subS m)
    | .j => mapField w 16 5 (subS m)
  | 1 =>
    if op6Of w = 0x3E then w
    else mapField (mapField (mapField w 10 5 (subV m)) 5 5 (subV m)) 0 5 (subV m)
  | 7 => if bits w 27 24 = 4 then mapField w 0 5 (subS m) else w
  | 2 => if op6Of w = 3 then w else mapField (mapField w 13 5 (subS m)) 8 5 (subS m)
  | _ => mapField (mapField w 13 5 (subS m)) 8 5 (subS m)

/-- A signed step of XREP (R145). -/
def stepVal (x : BitVec 3) : Int := x.toInt

/-- A stepped field, when it stays in its range (R145). -/
def stepField (w lo n : Nat) (j : Nat) (x : BitVec 3) : Option Nat :=
  let v : Int := (bits w (lo + n - 1) lo : Int) + (j : Int) * stepVal x
  if 0 ≤ v ∧ v < (2 ^ n : Nat) then some (putField w lo n v.toNat) else none

/-- The places of the three stepped fields of a word, as (low bit, width) (R145). -/
def stepFields (w : Nat) : Option (Nat × Nat) × Option (Nat × Nat) × Option (Nat × Nat) :=
  match engOf w with
  | 0 =>
    match ctlForm (op7Of w) with
    | .r => (some (16, 5), some (11, 5), some (6, 5))
    | .i | .s => (some (16, 5), some (11, 5), none)
    | _ => (none, none, none)
  | 1 => (some (10, 5), some (5, 5), some (0, 5))
  | 2 => if op6Of w = 3 then (some (16, 2), some (13, 3), some (10, 3)) else (some (13, 5), some (8, 5), some (4, 4))
  | _ => (some (13, 5), some (8, 5), some (4, 4))

/-- One field stepped, or left when the layout has none. -/
def stepOne (w j : Nat) (p : Option (Nat × Nat)) (x : BitVec 3) : Option Nat :=
  match p with
  | none => some w
  | some (lo, n) => stepField w lo n j x

/-- Issue `j` of a target under XREP, when every field stays in its range (R145). -/
def stepRaw (r : Xrep) (j w : Nat) : Option Nat :=
  let (p1, p2, p3) := stepFields w
  match stepOne w j p1 r.s1 with
  | none => none
  | some w =>
    match stepOne w j p2 r.s2 with
    | none => none
    | some w => stepOne w j p3 r.s3

/-- The word as it is issued: substituted in a macro body, stepped under XREP; none when a step leaves its range. -/
def effRaw (f : Front) (j w : Nat) : Option Nat :=
  let w := match f.mac with
    | some m => substRaw m w
    | none => w
  match f.pfx.rep with
  | some r => stepRaw r j w
  | none => some w

/-- The instruction as it is issued; none when its fields fail (R145, R148). Without substitution and steps it is the
instruction itself. -/
def effInstr (f : Front) (i : Instr) : Option Instr :=
  match f.mac, f.pfx.rep with
  | none, none => some i
  | _, _ =>
    match effRaw f f.issue (rawOf i) with
    | none => none
    | some w =>
      match decodeWord w with
      | .ok j => some j
      | .error _ => none

/-- Register field `k` (1, 2 or 3) of a control word of R, I or S form as issued (R145, R148). -/
def effReg (c : Ctx) (k : Nat) (x : BitVec 5) : Nat :=
  let v := match c.fr.mac with
    | some m => subS m x.toNat
    | none => x.toNat
  match c.fr.pfx.rep with
  | none => v
  | some r =>
    let st := if k = 1 then r.s1 else if k = 2 then r.s2 else r.s3
    ((v : Int) + (c.fr.issue : Int) * stepVal st).toNat

/-- The immediate of an I, S or B form: XLIMM gives the 35-bit value, the placeholder gives IMM9 in a body, otherwise
imm11 is sign-extended (R133, R146, R148). -/
def effImm (c : Ctx) (x : BitVec 11) : Word :=
  match c.fr.pfx.limm with
  | some h => sext64 35 (h.toNat * 2 ^ 11 + x.toNat)
  | none =>
    match c.fr.mac with
    | some m => if x = 0x400 then BitVec.signExtend 64 m.imm9 else BitVec.signExtend 64 x
    | none => BitVec.signExtend 64 x

/-- The imm11 of a word that reads it as a number, after substitution (R148). -/
def effNum (c : Ctx) (x : BitVec 11) : Nat :=
  match c.fr.mac with
  | some m => subImm m x.toNat
  | none => x.toNat

/-- The immediate of a U/J form (R133, R146). -/
def effImmJ (c : Ctx) (x : BitVec 16) : Word :=
  match c.fr.pfx.limm with
  | some h => sext64 40 (h.toNat * 2 ^ 16 + x.toNat)
  | none => BitVec.signExtend 64 x

/-- The branch offset in words (R133, R146): the placeholder is not substituted in B form. -/
def effImmB (c : Ctx) (x : BitVec 11) : Word :=
  match c.fr.pfx.limm with
  | some h => sext64 35 (h.toNat * 2 ^ 11 + x.toNat)
  | none => BitVec.signExtend 64 x

/-! ### Elements of registers -/

/-- Elements of a 512-byte register in a format (R43). -/
def elemCount (f : Fmt) : Nat := 4096 / storedW f

/-- Element `i` of a register or group, its bits within the value width (R34, R192). -/
def elemAt (f : Fmt) (r i : Nat) : Nat := r / 2 ^ (storedW f * i) % 2 ^ fmtW f

/-- The first `n` elements of a register or group, from element `i` on. -/
def elemsFrom (f : Fmt) (r : Nat) : Nat → Nat → List Nat
  | _, 0 => []
  | i, n + 1 => elemAt f r i :: elemsFrom f r (i + 1) n

/-- The elements of a register or group. -/
def elems (f : Fmt) (r n : Nat) : List Nat := elemsFrom f r 0 n

/-- A register or group from its elements of `w` bits, element 0 lowest. -/
def packW (w : Nat) : List Nat → Nat
  | [] => 0
  | x :: r => x % 2 ^ w + 2 ^ w * packW w r

/-- A register or group from its elements (R34). -/
def packE (f : Fmt) (l : List Nat) : Nat := packW (storedW f) l

/-- The value of a group of `k` registers from register `r` up. -/
def groupVal (c : Ctx) (r : Nat) : Nat → Nat
  | 0 => 0
  | k + 1 => (getV c r).toNat + 2 ^ 4096 * groupVal c (r + 1) k

/-- Write a group of `k` registers from register `r` up. -/
def setGroup (c : Ctx) (r x : Nat) : Nat → Ctx
  | 0 => c
  | k + 1 => setGroup (setV c r (BitVec.ofNat 4096 x)) (r + 1) (x / 2 ^ 4096) k

/-! ### What the fields of a vector opcode name -/

/-- What a field of a vector word names. -/
inductive VField where
  | unused | reg | mask | other
  deriving DecidableEq, Repr

/-- How a vector word uses the XEXT mask (R194). -/
inductive VMark where
  | d | p | no
  deriving DecidableEq, Repr

/-- The field uses of a vector opcode: what vd, va and vb name, its mask mark, the bits of IMM16 it names, whether XSCA
is accepted, whether its result uses the old vd (R194, R195). -/
structure VInfo where
  vd : VField
  va : VField
  vb : VField
  mark : VMark
  imm : Nat
  xsca : Bool
  readsC : Bool
  deriving DecidableEq, Repr

/-- The field uses of each op6 of the vector engine (R196 to R219). -/
def vInfo (op : Nat) : VInfo :=
  let three : VInfo := ⟨.reg, .reg, .reg, .d, 0, true, false⟩
  let two : VInfo := ⟨.reg, .reg, .unused, .d, 0, false, false⟩
  if op = 0x07 ∨ op = 0x13 ∨ op = 0x14 then { three with readsC := true }
  else if op = 0x0A ∨ op = 0x17 ∨ op = 0x18 then two
  else if op ≤ 0x16 then three
  else if op ≤ 0x1B then two
  else if op = 0x1C then three
  else if op = 0x1D then { three with readsC := true }
  else if op = 0x1E then ⟨.reg, .other, .other, .d, 0, false, false⟩
  else if op = 0x1F then ⟨.other, .other, .reg, .d, 0, true, false⟩
  else if op ≤ 0x23 then ⟨.mask, .reg, .reg, .d, 0, true, false⟩
  else if op = 0x24 then { three with imm := 0x7 }
  else if op = 0x25 then ⟨.mask, .mask, .mask, .d, 0xF, false, false⟩
  else if op ≤ 0x27 then ⟨.unused, .mask, .unused, .p, 0, false, false⟩
  else if op = 0x28 then three
  else if op = 0x29 then ⟨.reg, .unused, .reg, .d, 0xFFFF, true, false⟩
  else if op = 0x2A then ⟨.reg, .mask, .unused, .d, 0, false, false⟩
  else if op ≤ 0x2D then { two with mark := .p }
  else if op = 0x2E then ⟨.unused, .reg, .unused, .p, 0, false, false⟩
  else if op = 0x2F then { three with imm := 0xFFFF }
  else if op = 0x30 then ⟨.reg, .reg, .unused, .no, 0x7FFF, false, false⟩
  else if op = 0x31 then { three with imm := 0xFF }
  else if op ≤ 0x33 then ⟨.reg, .reg, .mask, .no, 0, false, false⟩
  else if op = 0x34 then { three with imm := 0xFFFF }
  else if op = 0x35 then two
  else if op = 0x36 then three
  else if op = 0x37 then { three with imm := 0xFF }
  else if op = 0x38 ∨ op = 0x39 ∨ op = 0x3C ∨ op = 0x3D then two
  else if op = 0x3A ∨ op = 0x3B then three
  else if op = 0x3E then ⟨.other, .other, .other, .no, 0, false, false⟩
  else ⟨.unused, .reg, .unused, .no, 0x3F, false, false⟩

/-- Entry fi of a VFMT value (R107). -/
def vfmtCode (vfmt : Word) (i : Nat) : Nat := wbits vfmt (8 * (i % 8) + 4) (8 * (i % 8))

/-- Registers a field names: 1, 2 or 4; none when the formats give no legal group size (R192). The source format is
f[fsel], the destination format f[fsel + 1] (R137). -/
def groupSize (op : Nat) (vfmt : Word) (fsel : Nat) (field : Nat) : Option Nat :=
  let src := fmtOfCode (vfmtCode vfmt fsel)
  let dst := fmtOfCode (vfmtCode vfmt (fsel + 1))
  if (op = 0x1A ∨ op = 0x1C ∨ op = 0x1D) ∧ field = 1 then
    match src, dst with
    | some a, some b =>
      if storedW b = 2 * storedW a then some 2 else if storedW b = 4 * storedW a then some 4 else none
    | _, _ => none
  else if op = 0x1B ∧ field = 2 then
    match src, dst with
    | some a, some b =>
      if storedW a = 2 * storedW b then some 2 else if storedW a = 4 * storedW b then some 4 else none
    | _, _ => none
  else if op = 0x28 ∧ field = 3 then
    match src with
    | some a =>
      if elemCount a ≤ 256 then some 1 else if elemCount a = 512 then some 2
      else if elemCount a = 1024 then some 4 else none
    | none => none
  else if op = 0x30 ∧ field = 1 then some 2
  else if op = 0x37 ∧ field = 1 then
    match src with
    | some a => if storedW a = 8 then some 2 else if storedW a = 4 then some 4 else none
    | none => none
  else some 1

/-- The rounding words, which take an RSTEP value under RST (R52). -/
def roundingWord (w : Nat) : Bool :=
  let op := op6Of w
  match engOf w with
  | 1 => (decide (0x10 ≤ op) && decide (op ≤ 0x14)) || (decide (0x19 ≤ op) && decide (op ≤ 0x1D)) || op == 0x2B
      || (decide (0x38 ≤ op) && decide (op ≤ 0x3D)) || (op == 0x3E && bits w 17 15 == 4)
  | 2 => op == 0x06
  | 5 => op == 0x01 || op == 0x03
  | _ => false

end Sys2Proof.Machine
end

