-- ==== Sys2Proof/Machine/Route.lean ====
section
/-! DEFINITION. What the splitter does with a word: the checks of R132 in their order, the group rules of R150 and R151,
and moving past a word (R131, R143 to R151). -/

namespace Sys2Proof.Machine

/-! ### CSR numbers -/

/-- The user CSRs (R187). -/
def userCsr (n : Nat) : Bool :=
  decide (n ≤ 0x009) || (decide (0x010 ≤ n) && decide (n ≤ 0x013)) || (decide (0x018 ≤ n) && decide (n ≤ 0x028))
    || n == 0x029 || n == 0x02A || n == 0x02B || (decide (0x030 ≤ n) && decide (n ≤ 0x03F))

/-- The supervisor CSRs (R340, R341). -/
def superCsr (n : Nat) : Bool :=
  (decide (0x400 ≤ n) && decide (n ≤ 0x406)) || (decide (0x408 ≤ n) && decide (n ≤ 0x40B))
    || (decide (0x410 ≤ n) && decide (n ≤ 0x412)) || n == 0x418 || n == 0x419

/-- The CSRs of a stream (R310). -/
def streamCsr (n : Nat) : Bool :=
  decide (n ≤ 0x003) || n == 0x006 || n == 0x009 || (decide (0x010 ≤ n) && decide (n ≤ 0x013)) || n == 0x040
    || n == 0x041

/-- The read-only CSRs (R110, R310, R340). -/
def roCsr (n : Nat) : Bool :=
  n == 0x005 || n == 0x009 || (decide (0x020 ≤ n) && decide (n ≤ 0x02A)) || (decide (0x030 ≤ n) && decide (n ≤ 0x03F))
    || n == 0x041 || n == 0x400 || n == 0x401 || n == 0x404 || n == 0x405 || n == 0x406
    || (decide (0x410 ≤ n) && decide (n ≤ 0x412)) || n == 0x419

/-! ### Used fields -/

/-- Which of sA, sB and the counter field a scalar-layout word uses (R222, R255, R287). -/
def scalUse (eng op : Nat) : Bool × Bool × Bool :=
  match eng with
  | 2 =>
    (!(op == 0x02 || op == 0x05 || op == 0x0C || op == 0x0E),
     op == 0x06 || op == 0x07 || op == 0x08 || op == 0x09 || op == 0x0A, false)
  | 3 => (op != 0x08, !(op == 0x07 || op == 0x08), decide (op ≤ 0x03))
  | 4 => (op != 0x06, !(op == 0x05 || op == 0x06), decide (op ≤ 0x04) || op == 0x08)
  | 5 => (true, !(op == 0x01 || op == 0x07), true)
  | _ => (true, !(op == 0x06 || op == 0x07), !(op == 0x06 || op == 0x07))

/-- The sA field of LGO, SGO and holds a slot number and names no register (R255); MGO's slot is in its variant. -/
def saIsSlot (eng op : Nat) : Bool := (eng == 3 || eng == 4) && op == 0x02

/-- The word has a counter operand in memory: MC is 1 (R256). -/
def hasMc (w : Nat) : Bool :=
  match engOf w with
  | 3 => decide (op6Of w ≤ 0x03) && bit w 2
  | 4 => (decide (op6Of w ≤ 0x04) || op6Of w == 0x08) && bit w 2
  | 5 => bit w 2
  | 6 => !(op6Of w == 0x06 || op6Of w == 0x07) && bit w 2
  | _ => false

/-- Which stepped fields a control word uses (R134, R145). -/
def ctlUse (w : Nat) : Bool × Bool × Bool :=
  let op := op7Of w
  if op = 0x01 ∨ op = 0x41 ∨ op = 0x5E then (false, false, false)
  else if 0x02 ≤ op ∧ op ≤ 0x19 then (true, true, true)
  else if 0x1A ≤ op ∧ op ≤ 0x3A then (true, true, false)
  else if 0x3B ≤ op ∧ op ≤ 0x40 then (true, true, true)
  else if op = 0x54 ∨ op = 0x55 ∨ op = 0x59 ∨ op = 0x5D then (false, true, true)
  else if op = 0x56 ∨ op = 0x57 then (true, false, false)
  else if op = 0x58 then (true, true, true)
  else (true, true, false)

/-- Which stepped fields a word uses (R145). The vb field of a target under XSCA counts as one it uses, so that a STEP3 that is not 0
fails only at the first issue that would step it (R145 and R147 do not say: DESIGN CHOICE, log 79). -/
def stepUse (w : Nat) : Bool × Bool × Bool :=
  match engOf w with
  | 0 => ctlUse w
  | 1 =>
    if op6Of w = 0x3E then
      let f := bits w 17 15
      (f != 5, f != 6, decide (1 ≤ f) && decide (f ≤ 4))
    else
      let v := vInfo (op6Of w)
      (v.vd != .unused, v.va != .unused, v.vb != .unused)
  | 2 => if op6Of w = 3 then (true, true, true) else scalUse 2 (op6Of w)
  | e => scalUse e (op6Of w)

/-! ### Encoding checks (ILLOP) -/

/-- Control words that accept XLIMM (R146). -/
def limmOk (op : Nat) : Bool :=
  (decide (0x20 ≤ op) && decide (op ≤ 0x23)) || (decide (0x27 ≤ op) && decide (op ≤ 0x2B))
    || (decide (0x30 ≤ op) && decide (op ≤ 0x3A)) || op == 0x42 || (decide (0x48 ≤ op) && decide (op ≤ 0x4F))
    || op == 0x52 || op == 0x53 || op == 0x5B

/-- Control words that accept XREP (R143). -/
def repOk (op : Nat) : Bool :=
  (ctlForm op == .r || ctlForm op == .i || ctlForm op == .s)
    && !((decide (0x48 ≤ op) && decide (op ≤ 0x53)) || op == 0x5C || (decide (0x60 ≤ op) && decide (op ≤ 0x69)))

/-- Some prefix of the word is not accepted before it, or holds a value outside its limits (R143 to R147). -/
def badPrefix (p : Prefixes) (vfmt : Word) (w : Nat) : Bool :=
  let eng := engOf w
  let op := op6Of w
  let v := vInfo op
  let badExt := match p.ext with
    | none => false
    | some x =>
      x.rnd == 5 || x.rnd == 6 || (x.mask == 0 && x.zero) ||
        (if eng = 1 then (v.mark == .no && x.mask != 0) || x.imm.toNat &&& v.imm != x.imm.toNat
         else if eng = 2 ∨ eng = 5 then x.mask != 0 || x.zero || x.imm != 0
         else true)
  let badRep := match p.rep with
    | none => false
    | some r =>
      let (u1, u2, u3) := stepUse w
      (eng == 0 && !repOk (op7Of w)) || (!u1 && r.s1 != 0) || (!u2 && r.s2 != 0) || (!u3 && r.s3 != 0)
  let badLimm := p.limm.isSome && !(eng == 0 && limmOk (op7Of w))
  let badSca := p.sca.isSome &&
    !(eng == 1 && v.xsca && bits w 4 0 == 0
      && (op != 0x28 || (match groupSize op vfmt (bits w 17 15) 3 with
          | some k => k == 1
          | none => true)))
  badExt || badRep || badLimm || badSca

/-- A register field of a vector word fails R101 or the alignment of R137. -/
def badVReg (op : Nat) (vfmt : Word) (fsel field x : Nat) : Bool :=
  match groupSize op vfmt fsel field with
  | some k => x % k != 0 || (decide (1 < k) && decide (30 < x + k)) || (if field = 1 then x == 30 else x == 31)
  | none => if field = 1 then x == 30 else x == 31

/-- A vector word fails its field checks (R101, R137, R199 to R219). -/
def badVector (p : Prefixes) (vfmt : Word) (w : Nat) : Bool :=
  let op := op6Of w
  let fs := bits w 17 15
  let d := bits w 14 10
  let a := bits w 9 5
  let b := bits w 4 0
  let v := vInfo op
  let imm := match p.ext with
    | some x => x.imm.toNat
    | none => 0
  if op = 0x3E then
    decide (8 ≤ d) || decide (8 ≤ a) || decide (8 ≤ b) || (decide (1 ≤ fs) && decide (fs ≤ 4) && a == b) || fs == 7
  else
    (v.vd == .reg && badVReg op vfmt fs 1 d) || (v.va == .reg && badVReg op vfmt fs 2 a)
      || (v.vb == .reg && p.sca.isNone && badVReg op vfmt fs 3 b)
      || (v.vd == .mask && decide (8 ≤ d)) || (v.va == .mask && decide (8 ≤ a)) || (v.vb == .mask && decide (8 ≤ b))
      || ((op == 0x30 || op == 0x31) && (bits imm 7 0 == 0 || decide (128 < bits imm 7 0)))
      || (op == 0x30 && decide (127 < bits imm 15 8))

/-- A control word's code fields lie outside their limits (R134, R135, R169, R170), or it is illegal on a sequencer
(R183, R306). -/
def badControl (seq : Bool) (w : Nat) : Bool :=
  let op := op7Of w
  let f6 := bits w 5 0
  let sc := bits w 5 3
  let d := bits w 20 16
  let a := bits w 15 11
  if 0x3B ≤ op ∧ op ≤ 0x3F then decide (4 < sc) || bits w 2 0 == 7 || (op == 0x3F && sc == 0)
  else if op = 0x40 then decide (4 < sc) || decide (4 < bits w 2 0) || (bits w 2 0 == 4 && sc == 0)
  else if op = 0x41 then
    bit w 10 || decide (4 < bits w 8 6) || (seq && (bit w 0 || bit w 2 || bit w 5))
  else if op = 0x42 then decide (2 < d)
  else if op = 0x54 ∨ op = 0x55 then
    if bit f6 5 then decide (16 ≤ a) || bits f6 4 0 != 0 else bits f6 4 3 != 0 || decide (4 < bits f6 2 0)
  else if op = 0x5B then decide (8 ≤ d)
  else seq && (op == 0x50 || op == 0x52 || op == 0x53 || op == 0x58 || op == 0x5C || op == 0x5D || op == 0x5E
    || op == 0x69 || op == 0x66 || op == 0x68)

/-- A word of the other engines fails its field checks (R25, R138, R222, R255, R306). -/
def badEngine (seq : Bool) (w : Nat) : Bool :=
  let eng := engOf w
  let op := op6Of w
  (seq && (eng == 2 || eng == 5 || eng == 6 || (eng == 3 && op == 0x07) || (eng == 4 && op == 0x05)))
    || (saIsSlot eng op && decide (8 ≤ bits w 17 13)) || (eng == 3 && op == 0x09 && decide (6 ≤ bits w 3 0))
    || (eng == 2 && op == 0x03 && (bits w 9 8 == 3 || (!bit w 3 && bits w 2 0 != 0)))
    || (eng == 2 && (op == 0x06 || op == 0x0A) && bits w 3 2 == 3)

/-- The encoding checks that depend on neither mode nor CSR (R132): ILLOP. -/
def badStatic (seq : Bool) (p : Prefixes) (vfmt : Word) (w : Nat) : Bool :=
  badPrefix p vfmt w ||
    (match engOf w with
     | 0 => badControl seq w
     | 1 => badVector p vfmt w
     | _ => badEngine seq w)

/-- Words that raise ILLOP in supervisor mode (R188, R339). -/
def badSuper (w : Nat) : Bool :=
  let op := op7Of w
  engOf w != 0 || op == 0x64 || op == 0x65 || op == 0x50 || op == 0x51 || op == 0x52 || (op == 0x54 && !bit w 5)

/-- Is the word a CSR word? -/
def isCsrWord (w : Nat) : Bool := engOf w == 0 && decide (0x60 ≤ op7Of w) && decide (op7Of w ≤ 0x63)

/-- A CSR word names an unassigned number (R186, R310, R341): ILLOP. -/
def badCsr (seq : Bool) (w : Nat) : Bool :=
  let n := bits w 10 0
  isCsrWord w && !(if seq then streamCsr n else userCsr n || superCsr n)

/-- The word is privileged and the mode is user, or it writes a read-only CSR (R186, R190, R339): PRIV. -/
def badPriv (smode : Bool) (w : Nat) : Bool :=
  let n := bits w 10 0
  (isCsrWord w && ((decide (0x400 ≤ n) && !smode) || (op7Of w != 0x60 && roCsr n)))
    || (engOf w == 0 && (op7Of w == 0x66 || op7Of w == 0x68) && !smode)

/-- A token bit points past an end of the chain (R139): ILLTOK. -/
def badTok (seq : Bool) (w : Nat) : Bool :=
  let up := bit w 27 || bit w 25
  let dn := bit w 26 || bit w 24
  let e := engOf w
  if seq then (e == 3 && up) || (e == 4 && dn) else (e == 6 && up) || (e == 5 && dn)

/-! ### Group rules -/

/-- Words that must end their group (R150). -/
def mustEnd (w : Nat) : Bool :=
  let op := op7Of w
  (engOf w == 0 && ((decide (0x48 ≤ op) && decide (op ≤ 0x52)) || (op == 0x54 && !bit w 5) || op == 0x64 || op == 0x65
    || op == 0x66 || op == 0x67)) || (engOf w == 7 && bits w 27 24 == 2)

/-- Scalar registers a control word reads (R151). -/
def ctlReads (w : Nat) : List Nat :=
  let op := op7Of w
  let d := bits w 20 16
  let a := bits w 15 11
  let b := bits w 10 6
  if 0x02 ≤ op ∧ op ≤ 0x19 then [a, b]
  else if 0x1A ≤ op ∧ op ≤ 0x29 then [a]
  else if 0x30 ≤ op ∧ op ≤ 0x36 then [a]
  else if 0x37 ≤ op ∧ op ≤ 0x3A then [d, a]
  else if 0x3B ≤ op ∧ op ≤ 0x3F then [a, b]
  else if op = 0x40 ∨ op = 0x68 then [d, a, b]
  else if 0x48 ≤ op ∧ op ≤ 0x4D then [d, a]
  else if op = 0x42 ∨ op = 0x4F ∨ op = 0x52 ∨ op = 0x53 ∨ op = 0x5A ∨ op = 0x5B ∨ op = 0x5C then [a]
  else if op = 0x54 ∨ op = 0x55 then if bit w 5 then [b] else [a, b]
  else if op = 0x58 ∨ op = 0x59 ∨ op = 0x5D then [a, b]
  else if 0x61 ≤ op ∧ op ≤ 0x63 then [a]
  else []

/-- Scalar registers a control word writes (R151). -/
def ctlWrites (w : Nat) : List Nat :=
  let op := op7Of w
  let d := bits w 20 16
  if (0x02 ≤ op ∧ op ≤ 0x36) ∨ (0x3B ≤ op ∧ op ≤ 0x40) ∨ op = 0x4E ∨ op = 0x4F ∨ op = 0x56 ∨ op = 0x57 ∨ op = 0x58
    ∨ op = 0x5A ∨ (0x60 ≤ op ∧ op ≤ 0x63) then [d]
  else []

/-- Scalar registers an engine word reads: its used sA and sB, its counter register, the register of XSCA (R151). -/
def engReads (w : Nat) (sca : Option (BitVec 5)) : List Nat :=
  let eng := engOf w
  let op := op6Of w
  if eng = 1 then
    match sca with
    | some r => [r.toNat]
    | none => []
  else if eng = 2 ∧ op = 3 then []
  else
    let (ua, ub, _) := scalUse eng op
    (if ua && !saIsSlot eng op then [bits w 17 13] else []) ++ (if ub then [bits w 12 8] else [])
      ++ (if hasMc w then [16 + bits w 7 4] else [])

/-- The registers of a vector register field. -/
def vExtent (op : Nat) (vfmt : Word) (fsel field x : Nat) : List Nat :=
  (List.range ((groupSize op vfmt fsel field).getD 1)).map fun i => x + i

/-- Vector registers a vector word reads and writes (R151, R195). -/
def vecUse (p : Prefixes) (vfmt : Word) (w : Nat) : List Nat × List Nat :=
  let op := op6Of w
  let fs := bits w 17 15
  let v := vInfo op
  if op = 0x3E then ([], [])
  else
    let d := if v.vd == .reg then vExtent op vfmt fs 1 (bits w 14 10) else []
    let a := if v.va == .reg then vExtent op vfmt fs 2 (bits w 9 5) else []
    let b := if v.vb == .reg && p.sca.isNone then vExtent op vfmt fs 3 (bits w 4 0) else []
    let merges := match p.ext with
      | some x => x.mask != 0 && !x.zero && v.mark == .d
      | none => false
    (a ++ b ++ (if v.readsC || merges then d else []), d)

/-- What one issue reads and writes: scalar registers s1 to s31 and vector registers v0 to v29 (R151). -/
structure RegUse where
  rs : List Nat
  ws : List Nat
  rv : List Nat
  wv : List Nat
  deriving DecidableEq, Repr

/-- The registers of one issue of a word (R151). -/
def regUse (p : Prefixes) (vfmt : Word) (w : Nat) : RegUse :=
  let s := fun l : List Nat => l.filter fun r => decide (0 < r)
  let v := fun l : List Nat => l.filter fun r => decide (r < 30)
  match engOf w with
  | 0 => ⟨s (ctlReads w), s (ctlWrites w), [], []⟩
  | 1 =>
    let (r, wr) := vecUse p vfmt w
    ⟨s (engReads w p.sca), [], v r, v wr⟩
  | 7 => ⟨[], [], [], []⟩
  | _ => ⟨s (engReads w none), [], [], []⟩

/-- The word is an instruction: its codes and fields are assigned (R132). -/
def decodes (w : Nat) : Bool :=
  match decodeWord w with
  | .ok _ => true
  | .error _ => false

/-- The issues of a word whose fields pass the checks of R145. -/
def goodIssues (seq : Bool) (p : Prefixes) (vfmt : Word) (w : Nat) : List Nat :=
  match p.rep with
  | none => [w]
  | some r => (List.range (r.cntm1.toNat + 1)).filterMap fun j =>
      match stepRaw r j w with
      | some x => if decodes x && !badStatic seq p vfmt x then some x else none
      | none => none

/-- The union over the issues of a word (R151). -/
def unionUse (seq : Bool) (p : Prefixes) (vfmt : Word) (w : Nat) : RegUse :=
  (goodIssues seq p vfmt w).foldl (fun u x =>
    let y := regUse p vfmt x
    ⟨u.rs ++ y.rs, u.ws ++ y.ws, u.rv ++ y.rv, u.wv ++ y.wv⟩) ⟨[], [], [], []⟩

/-- Some element of a list is in another. -/
def meets (a b : List Nat) : Bool := a.any fun x => b.contains x

/-- The group check of R150 and R151 for a word of the open group. -/
def badGroup (g : GroupSt) (u : RegUse) (w : Nat) : Bool :=
  decide (8 ≤ g.count) || (mustEnd w && !stopOf w) || meets u.rs g.scalars || meets u.ws g.scalars
    || meets u.rv g.vectors || meets u.wv g.vectors

/-- The open group: the body's own in a macro body (R148, R150). -/
def curGroup (f : Front) : GroupSt :=
  match f.mac with
  | some m => m.grp
  | none => f.grp

/-- The group after a word (R150). -/
def nextGroup (g : GroupSt) (u : RegUse) (w : Nat) : GroupSt :=
  if stopOf w then GroupSt.reset else ⟨g.count + 1, g.scalars ++ u.ws, g.vectors ++ u.wv⟩

/-- The word after macro substitution. -/
def subst (f : Front) (w : Nat) : Nat :=
  match f.mac with
  | some m => substRaw m w
  | none => w

/-- The checks of R132 for the word `i` at the PC of a context with its prefixes, in order: the first trap cause that
applies with its detail word (R349). The group check is made before issue 0 only (R151). -/
def routeCheck (seq : Bool) (c : Ctx) (i : Instr) : Option (Nat × Word) :=
  let raw := rawOf i
  let w0 := subst c.fr raw
  let det := BitVec.ofNat 64 raw
  match effInstr c.fr i with
  | none => some (1, det)
  | some j =>
    let w := rawOf j
    if badStatic seq c.fr.pfx c.csr.vfmt w || badCsr seq w || (c.trap.smode && badSuper w) then some (1, det)
    else if badPriv c.trap.smode w then
      some (4, BitVec.ofNat 64 (raw + (if isCsrWord w then bits w 10 0 * 2 ^ 32 else 0)))
    else if engOf w ≠ 0 ∧ engOf w ≠ 7 ∧ badTok seq w then some (3, det)
    else if c.fr.issue = 0 ∧ badGroup (curGroup c.fr) (unionUse seq c.fr.pfx c.csr.vfmt w0) w0 then some (2, det)
    else none

/-! ### Tokens -/

/-- A token counter. -/
def getTok (g : Engines) (n : Nat) : Nat := if h : n < 10 then g.tok[n] else 0

/-- Add to a token counter. -/
def addTok (g : Engines) (n : Nat) (up : Bool) : Engines :=
  if h : n < 10 then { g with tok := g.tok.set n (if up then g.tok[n] + 1 else g.tok[n] - 1) } else g

/-- The pair below an engine in its chain (R86); on a sequencer the chain is L, V, S (R306). -/
def lowerPair (seq : Bool) (e : Engine) : Nat := if seq && e == .l then 2 else chainPos e

/-- The pair above an engine. -/
def upperPair (e : Engine) : Nat := chainPos e - 1

/-- Counters a word pops (R87, R139): the down counter of the pair above, the up counter of the pair below. -/
def popsOf (seq : Bool) (e : Engine) (w : QWord) : List Nat :=
  let r := rawOf w.ins
  (if bit r 25 then [2 * upperPair e] else []) ++ (if bit r 24 then [2 * lowerPair seq e + 1] else [])

/-- Counters a word pushes: the up counter of the pair above, the down counter of the pair below. -/
def pushesOf (seq : Bool) (e : Engine) (w : QWord) : List Nat :=
  let r := rawOf w.ins
  (if bit r 27 then [2 * upperPair e + 1] else []) ++ (if bit r 26 then [2 * lowerPair seq e] else [])

/-! ### Capture -/

/-- The slot whose shadow a GO word takes (R179, R255). -/
def goSlot (i : Instr) : Option Nat :=
  match i with
  | .lgo _ _ n _ _ _ _ => some n.toNat
  | .sgo _ _ n _ _ _ _ => some n.toNat
  | .mgo _ _ _ _ n => some n.toNat
  | _ => none

/-- The rounding mode of a word (R49). -/
def roundMode (c : Ctx) : Nat :=
  match c.fr.pfx.ext with
  | some x => if x.rnd = 7 then c.csr.frnd.toNat % 8 else x.rnd.toNat
  | none => c.csr.frnd.toNat % 8

/-- The word takes a value of RSTEP (R52). -/
def takesStep (c : Ctx) (w : Nat) : Bool := roundingWord w && roundMode c == 4

/-- What routing captures for the word `w` (R23, R49, R52, R147, R179, R256). -/
def captureOf (c : Ctx) (i : Instr) (w : Nat) : Capture :=
  let ext := c.fr.pfx.ext
  { sa := getS c (bits w 17 13)
    sb := getS c (bits w 12 8)
    sm := getS c (16 + bits w 7 4)
    sv := c.fr.pfx.sca.map fun r => getS c r.toNat
    mask := (ext.map fun x => x.mask.toNat).getD 0
    zero := (ext.map fun x => x.zero).getD false
    sat := (ext.map fun x => x.sat).getD false
    imm := (ext.map fun x => x.imm.toNat).getD 0
    rnd := roundMode c
    seed := c.csr.rseed
    step := c.csr.rstep
    vfmt := c.csr.vfmt
    mfmt := c.csr.mfmt
    mfmth := c.csr.mfmth
    nest := match goSlot i with
      | some n => getNest c n
      | none => NestDesc.reset }

/-- An engine keeps nothing of a head word it has not started. -/
def clearHead (x : EngineSt) : EngineSt := { x with headAbort := none, headLog := [], headLines := [], headOk := false }

/-! ### Moving past a word -/

/-- Body words of a control-store entry, when it has been loaded (R149). -/
def bodyOf (s : State) (a : AgentId) (entry : Nat) : List IWord :=
  match a with
  | .bank n _ =>
    match kfind (getCore s n).cstore entry with
    | some (ws, true) => ws
    | _ => []
  | .seq _ => []

/-- The front end after the word `i` has been executed or routed (R131, R145, R148, R150): the next issue, the next
body word, or the next word. -/
def pastWord (seq : Bool) (c : Ctx) (i : Instr) (bodyLen : Nat) : Front :=
  let f := c.fr
  let w := rawOf i
  let more := match f.pfx.rep with
    | some r => decide (f.issue < r.cntm1.toNat)
    | none => false
  if more then { f with issue := f.issue + 1, stall := .none, abort := none }
  else
    let u := unionUse seq f.pfx c.csr.vfmt (subst f w)
    let f' := { f with pfx := Prefixes.reset, issue := 0, stall := .none, abort := none }
    match f.mac with
    | none => { f' with pc := f.pc + 4, grp := nextGroup f.grp u w }
    | some m =>
      if m.idx + 1 < bodyLen then { f' with mac := some { m with idx := m.idx + 1, grp := nextGroup m.grp u w } }
      else { f' with mac := none, pc := f.pc + 4, grp := GroupSt.reset }

/-- Move past the word `i`. -/
def retire (s : State) (a : AgentId) (i : Instr) : State :=
  updCtx s a fun c => { c with fr := pastWord (isSeq a) c i (match c.fr.mac with
    | some m => (bodyOf s a m.entry).length
    | none => 0) }

/-- Go on at an address, in a new group (R171, R172, R150). -/
def jumpTo (s : State) (a : AgentId) (pc : Word) : State :=
  updFr s a fun _ => { Front.reset with pc := pc }

/-- Run a control word on the context of `sch.cur`: it needs a running context; the checks of R132 come first; then its
own effect, which moves past the word itself. -/
def control (i : Instr) (s : State) (body : State → AgentId → Ctx → State) : Host.Outcome State Fault Refusal :=
  let a := s.sch.cur
  let c := getCtx s a
  if c.life.status ≠ .running then .fault .noRunningContext
  else
    match routeCheck (isSeq a) c i with
    | some (cause, det) => .next (raiseAt s a .routing (engOf (rawOf i)) cause 0 det)
    | none => .next (body s a c)

/-- The values of a prefix lie within its own limits (R144). -/
def prefixLimits (p : Prefixes) : Bool :=
  match p.ext with
  | some x => !(x.rnd == 5 || x.rnd == 6 || (x.mask == 0 && x.zero))
  | none => true

/-- A prefix word (R143): its own checks, then it is remembered for its target. `ok` says that no prefix of its kind
has been met. As a ninth word of its group it is judged at once, ILLOP before ILLGRP (R132, R150). -/
def prefixWord (i : Instr) (s : State) (ok : Prefixes → Bool) (add : Prefixes → Prefixes) :
    Host.Outcome State Fault Refusal :=
  let a := s.sch.cur
  let c := getCtx s a
  let det := BitVec.ofNat 64 (rawOf i)
  if c.life.status ≠ .running then .fault .noRunningContext
  else if !ok c.fr.pfx || c.trap.smode then .next (raiseAt s a .routing 7 1 0 det)
  else if 8 ≤ (curGroup c.fr).count then
    .next (raiseAt s a .routing 7 (if prefixLimits (add Prefixes.reset) then 2 else 1) 0 det)
  else
    .next (updFr s a fun f =>
      let f := { f with pfx := add f.pfx, stall := .none }
      match f.mac with
      | none => { f with pc := f.pc + 4, grp := { f.grp with count := f.grp.count + 1 } }
      | some m => { f with mac := some { m with idx := m.idx + 1, grp := { m.grp with count := m.grp.count + 1 } } })

end Sys2Proof.Machine
end

