-- ==== Sys2Proof/Machine/Control.lean ====
section
/-! DEFINITION. Control words without memory: integer arithmetic and immediates (R161 to R163), branches and jumps (R171,
R172), local counters and the reply queue (R175, R176), and the prefix words (R143 to R147). -/

namespace Sys2Proof.Machine

/-! ### Integer arithmetic -/

/-- Leading zero bits, 0 to 64 (R161). -/
def clz64 (x : Word) : Word := if x = 0 then 64 else BitVec.ofNat 64 (63 - Nat.log2 x.toNat)

/-- Trailing zero bits of a number with fuel. -/
def ctzNat : Nat → Nat → Nat
  | 0, _ => 0
  | n + 1, x => if x % 2 = 1 then 0 else 1 + ctzNat n (x / 2)

/-- Trailing zero bits, 0 to 64 (R161). -/
def ctz64 (x : Word) : Word := BitVec.ofNat 64 (ctzNat 64 x.toNat)

/-- Number of 1 bits among the low `n`. -/
def popNat : Nat → Nat → Nat
  | 0, _ => 0
  | n + 1, x => x % 2 + popNat n (x / 2)

/-- Number of 1 bits (R161). -/
def popc64 (x : Word) : Word := BitVec.ofNat 64 (popNat 64 x.toNat)

/-- The low `n` bits in the opposite order. -/
def revNat : Nat → Nat → Nat
  | 0, _ => 0
  | n + 1, x => x % 2 * 2 ^ n + revNat n (x / 2)

/-- Bit i moved to bit 63 − i (R161). -/
def brev64 (x : Word) : Word := BitVec.ofNat 64 (revNat 64 x.toNat)

/-- Bits 127:64 of the signed product (R161). -/
def mulhs64 (x y : Word) : Word := BitVec.ofInt 64 (x.toInt * y.toInt / 2 ^ 64)

/-- Bits 127:64 of the unsigned product (R161). -/
def mulhu64 (x y : Word) : Word := BitVec.ofNat 64 (x.toNat * y.toNat / 2 ^ 64)

/-- Signed quotient truncated toward zero; all ones for a divisor of 0 (R162). -/
def div64 (x y : Word) : Word := if y = 0 then BitVec.allOnes 64 else BitVec.ofInt 64 (Int.tdiv x.toInt y.toInt)

/-- Unsigned quotient; all ones for a divisor of 0 (R162). -/
def divu64 (x y : Word) : Word := if y = 0 then BitVec.allOnes 64 else BitVec.ofNat 64 (x.toNat / y.toNat)

/-- Signed remainder with the sign of the dividend; the dividend for a divisor of 0 (R162). -/
def rem64 (x y : Word) : Word := if y = 0 then x else BitVec.ofInt 64 (Int.tmod x.toInt y.toInt)

/-- Unsigned remainder; the dividend for a divisor of 0 (R162). -/
def remu64 (x y : Word) : Word := if y = 0 then x else BitVec.ofNat 64 (x.toNat % y.toNat)

/-- 1 when true and 0 otherwise (R161). -/
def bool64 (b : Bool) : Word := if b then 1 else 0

/-- The low `w` bits sign-extended. -/
def sextW (x : Word) (w : Nat) : Word := sext64 w x.toNat

/-- The low `w` bits zero-extended. -/
def zextW (x : Word) (w : Nat) : Word := BitVec.ofNat 64 (x.toNat % 2 ^ w)

/-- A three-register word: d := f(s[a], s[b]) (R161). -/
def alu3 (i : Instr) (s : State) (d a b : BitVec 5) (f : Word → Word → Word) : Host.Outcome State Fault Refusal :=
  control i s fun s g c =>
    retire (writeS s g (effReg c 1 d) (f (getS c (effReg c 2 a)) (getS c (effReg c 3 b)))) g i

/-- A two-register word: d := f(s[a]) (R161). -/
def alu2 (i : Instr) (s : State) (d a : BitVec 5) (f : Word → Word) : Host.Outcome State Fault Refusal :=
  control i s fun s g c => retire (writeS s g (effReg c 1 d) (f (getS c (effReg c 2 a)))) g i

/-- An immediate word: d := f(s[a], imm) (R163). -/
def aluI (i : Instr) (s : State) (d a : BitVec 5) (m : BitVec 11) (f : Word → Word → Word) :
    Host.Outcome State Fault Refusal :=
  control i s fun s g c => retire (writeS s g (effReg c 1 d) (f (getS c (effReg c 2 a)) (effImm c m))) g i

/-- NOP (R134): only the PC advances. -/
def execNop (z : Bool) (s : State) : Host.Outcome State Fault Refusal :=
  control (.nop z) s fun s g _ => retire s g (.nop z)

/-- ADD (R161). -/
def execAdd (z : Bool) (d a b : BitVec 5) (s : State) := alu3 (.add z d a b) s d a b (· + ·)
/-- SUB (R161). -/
def execSub (z : Bool) (d a b : BitVec 5) (s : State) := alu3 (.sub z d a b) s d a b (· - ·)
/-- AND (R161). -/
def execAnd (z : Bool) (d a b : BitVec 5) (s : State) := alu3 (.and z d a b) s d a b (· &&& ·)
/-- OR (R161). -/
def execOr (z : Bool) (d a b : BitVec 5) (s : State) := alu3 (.or z d a b) s d a b (· ||| ·)
/-- XOR (R161). -/
def execXor (z : Bool) (d a b : BitVec 5) (s : State) := alu3 (.xor z d a b) s d a b (· ^^^ ·)
/-- ANDN (R161). -/
def execAndn (z : Bool) (d a b : BitVec 5) (s : State) := alu3 (.andn z d a b) s d a b fun x y => x &&& ~~~y
/-- SHL by s[b][5:0] (R161). -/
def execShl (z : Bool) (d a b : BitVec 5) (s : State) := alu3 (.shl z d a b) s d a b fun x y => x <<< (y.toNat % 64)
/-- SHR by s[b][5:0] (R161). -/
def execShr (z : Bool) (d a b : BitVec 5) (s : State) := alu3 (.shr z d a b) s d a b fun x y => x >>> (y.toNat % 64)
/-- SHRA by s[b][5:0] (R161). -/
def execShra (z : Bool) (d a b : BitVec 5) (s : State) :=
  alu3 (.shra z d a b) s d a b fun x y => BitVec.sshiftRight x (y.toNat % 64)
/-- ROTR by s[b][5:0] (R161). -/
def execRotr (z : Bool) (d a b : BitVec 5) (s : State) :=
  alu3 (.rotr z d a b) s d a b fun x y => BitVec.rotateRight x (y.toNat % 64)
/-- MUL (R161). -/
def execMul (z : Bool) (d a b : BitVec 5) (s : State) := alu3 (.mul z d a b) s d a b (· * ·)
/-- MULHS (R161). -/
def execMulhs (z : Bool) (d a b : BitVec 5) (s : State) := alu3 (.mulhs z d a b) s d a b mulhs64
/-- MULHU (R161). -/
def execMulhu (z : Bool) (d a b : BitVec 5) (s : State) := alu3 (.mulhu z d a b) s d a b mulhu64
/-- DIV (R162). -/
def execDiv (z : Bool) (d a b : BitVec 5) (s : State) := alu3 (.div z d a b) s d a b div64
/-- DIVU (R162). -/
def execDivu (z : Bool) (d a b : BitVec 5) (s : State) := alu3 (.divu z d a b) s d a b divu64
/-- REM (R162). -/
def execRem (z : Bool) (d a b : BitVec 5) (s : State) := alu3 (.rem z d a b) s d a b rem64
/-- REMU (R162). -/
def execRemu (z : Bool) (d a b : BitVec 5) (s : State) := alu3 (.remu z d a b) s d a b remu64
/-- MIN, signed (R161). -/
def execMin (z : Bool) (d a b : BitVec 5) (s : State) :=
  alu3 (.min z d a b) s d a b fun x y => if x.toInt < y.toInt then x else y
/-- MAX, signed (R161). -/
def execMax (z : Bool) (d a b : BitVec 5) (s : State) :=
  alu3 (.max z d a b) s d a b fun x y => if x.toInt < y.toInt then y else x
/-- MINU (R161). -/
def execMinu (z : Bool) (d a b : BitVec 5) (s : State) :=
  alu3 (.minu z d a b) s d a b fun x y => if x.toNat < y.toNat then x else y
/-- MAXU (R161). -/
def execMaxu (z : Bool) (d a b : BitVec 5) (s : State) :=
  alu3 (.maxu z d a b) s d a b fun x y => if x.toNat < y.toNat then y else x
/-- SLT (R161). -/
def execSlt (z : Bool) (d a b : BitVec 5) (s : State) :=
  alu3 (.slt z d a b) s d a b fun x y => bool64 (decide (x.toInt < y.toInt))
/-- SLTU (R161). -/
def execSltu (z : Bool) (d a b : BitVec 5) (s : State) :=
  alu3 (.sltu z d a b) s d a b fun x y => bool64 (decide (x.toNat < y.toNat))
/-- SEQ (R161). -/
def execSeq (z : Bool) (d a b : BitVec 5) (s : State) := alu3 (.seq z d a b) s d a b fun x y => bool64 (x == y)
/-- CLZ (R161). -/
def execClz (z : Bool) (d a : BitVec 5) (s : State) := alu2 (.clz z d a) s d a clz64
/-- CTZ (R161). -/
def execCtz (z : Bool) (d a : BitVec 5) (s : State) := alu2 (.ctz z d a) s d a ctz64
/-- POPC (R161). -/
def execPopc (z : Bool) (d a : BitVec 5) (s : State) := alu2 (.popc z d a) s d a popc64
/-- BREV (R161). -/
def execBrev (z : Bool) (d a : BitVec 5) (s : State) := alu2 (.brev z d a) s d a brev64
/-- SEXT: the low f6 + 1 bits sign-extended (R161). -/
def execSext (z : Bool) (d a : BitVec 5) (w : BitVec 6) (s : State) :=
  alu2 (.sext z d a w) s d a fun x => sextW x (w.toNat + 1)
/-- ZEXT: the low f6 + 1 bits zero-extended (R161). -/
def execZext (z : Bool) (d a : BitVec 5) (w : BitVec 6) (s : State) :=
  alu2 (.zext z d a w) s d a fun x => zextW x (w.toNat + 1)
/-- ADDI (R163). -/
def execAddi (z : Bool) (d a : BitVec 5) (m : BitVec 11) (s : State) := aluI (.addi z d a m) s d a m (· + ·)
/-- ANDI (R163). -/
def execAndi (z : Bool) (d a : BitVec 5) (m : BitVec 11) (s : State) := aluI (.andi z d a m) s d a m (· &&& ·)
/-- ORI (R163). -/
def execOri (z : Bool) (d a : BitVec 5) (m : BitVec 11) (s : State) := aluI (.ori z d a m) s d a m (· ||| ·)
/-- XORI (R163). -/
def execXori (z : Bool) (d a : BitVec 5) (m : BitVec 11) (s : State) := aluI (.xori z d a m) s d a m (· ^^^ ·)
/-- SHLI (R163). -/
def execShli (z : Bool) (d a : BitVec 5) (n : BitVec 6) (s : State) :=
  alu2 (.shli z d a n) s d a fun x => x <<< n.toNat
/-- SHRI (R163). -/
def execShri (z : Bool) (d a : BitVec 5) (n : BitVec 6) (s : State) :=
  alu2 (.shri z d a n) s d a fun x => x >>> n.toNat
/-- SHRAI (R163). -/
def execShrai (z : Bool) (d a : BitVec 5) (n : BitVec 6) (s : State) :=
  alu2 (.shrai z d a n) s d a fun x => BitVec.sshiftRight x n.toNat
/-- SLTI (R163). -/
def execSlti (z : Bool) (d a : BitVec 5) (m : BitVec 11) (s : State) :=
  aluI (.slti z d a m) s d a m fun x y => bool64 (decide (x.toInt < y.toInt))
/-- SLTUI: imm is sign-extended before the unsigned compare (R163). -/
def execSltui (z : Bool) (d a : BitVec 5) (m : BitVec 11) (s : State) :=
  aluI (.sltui z d a m) s d a m fun x y => bool64 (decide (x.toNat < y.toNat))
/-- SEQI (R163). -/
def execSeqi (z : Bool) (d a : BitVec 5) (m : BitVec 11) (s : State) :=
  aluI (.seqi z d a m) s d a m fun x y => bool64 (x == y)
/-- LUI: imm × 2^16 (R163). -/
def execLui (z : Bool) (d : BitVec 5) (m : BitVec 16) (s : State) : Host.Outcome State Fault Refusal :=
  control (.lui z d m) s fun s g c => retire (writeS s g (effReg c 1 d) (effImmJ c m <<< 16)) g (.lui z d m)
/-- AUIPC: PC + imm × 2^16; in a macro body PC is the address of the XCALL (R148, R163). -/
def execAuipc (z : Bool) (d : BitVec 5) (m : BitVec 16) (s : State) : Host.Outcome State Fault Refusal :=
  control (.auipc z d m) s fun s g c =>
    retire (writeS s g (effReg c 1 d) (c.fr.pc + (effImmJ c m <<< 16))) g (.auipc z d m)

/-! ### Branches and jumps -/

/-- A conditional branch (R171): a taken branch whose target has bits 63:48 raises ACCESS (R172). -/
def branch (i : Instr) (s : State) (a b : BitVec 5) (m : BitVec 11) (p : Word → Word → Bool) :
    Host.Outcome State Fault Refusal :=
  control i s fun s g c =>
    if p (getS c (effReg c 1 a)) (getS c (effReg c 2 b)) then
      let t := c.fr.pc + (effImmB c m <<< 2)
      if 2 ^ 48 ≤ t.toNat then raiseCtl s g 6 t 0 else jumpTo s g t
    else retire s g i

/-- BEQ (R171). -/
def execBeq (z : Bool) (a b : BitVec 5) (m : BitVec 11) (s : State) := branch (.beq z a b m) s a b m (· == ·)
/-- BNE (R171). -/
def execBne (z : Bool) (a b : BitVec 5) (m : BitVec 11) (s : State) := branch (.bne z a b m) s a b m (· != ·)
/-- BLT (R171). -/
def execBlt (z : Bool) (a b : BitVec 5) (m : BitVec 11) (s : State) :=
  branch (.blt z a b m) s a b m fun x y => decide (x.toInt < y.toInt)
/-- BGE (R171). -/
def execBge (z : Bool) (a b : BitVec 5) (m : BitVec 11) (s : State) :=
  branch (.bge z a b m) s a b m fun x y => decide (y.toInt ≤ x.toInt)
/-- BLTU (R171). -/
def execBltu (z : Bool) (a b : BitVec 5) (m : BitVec 11) (s : State) :=
  branch (.bltu z a b m) s a b m fun x y => decide (x.toNat < y.toNat)
/-- BGEU (R171). -/
def execBgeu (z : Bool) (a b : BitVec 5) (m : BitVec 11) (s : State) :=
  branch (.bgeu z a b m) s a b m fun x y => decide (y.toNat ≤ x.toNat)

/-- JAL: PC + 4 to d, then PC + 4 × imm (R172). -/
def execJal (z : Bool) (d : BitVec 5) (m : BitVec 16) (s : State) : Host.Outcome State Fault Refusal :=
  control (.jal z d m) s fun s g c =>
    let t := c.fr.pc + (effImmJ c m <<< 2)
    if 2 ^ 48 ≤ t.toNat then raiseCtl s g 6 t 0
    else jumpTo (writeS s g (effReg c 1 d) (c.fr.pc + 4)) g t

/-- JALR: t := s[a] + imm, PC + 4 to d, then t; a misaligned t raises MISALIGN, one above 48 bits ACCESS, and d is then
not written (R172). -/
def execJalr (z : Bool) (d a : BitVec 5) (m : BitVec 11) (s : State) : Host.Outcome State Fault Refusal :=
  control (.jalr z d a m) s fun s g c =>
    let t := getS c (effReg c 2 a) + effImm c m
    if t.toNat % 4 ≠ 0 then raiseCtl s g 5 t 0
    else if 2 ^ 48 ≤ t.toNat then raiseCtl s g 6 t 0
    else jumpTo (writeS s g (effReg c 1 d) (c.fr.pc + 4)) g t

/-! ### Local counters and the reply queue -/

/-- WAITGE with LOC 1: stalls in place until pgN ≥ s[b], unsigned (R175). -/
def execWaitgeLocal (z : Bool) (a b : BitVec 5) (s : State) : Host.Outcome State Fault Refusal :=
  control (.waitgeLocal z a b) s fun s g c =>
    if (getS c (effReg c 3 b)).toNat ≤ (getPg c (effReg c 2 a)).toNat then retire (acquire s g 0) g (.waitgeLocal z a b)
    else stallAt s g .waitgeLocal

/-- SIGNAL with LOC 1: pgN := pgN + s[b] (R175). -/
def execSignalLocal (z : Bool) (a b : BitVec 5) (s : State) : Host.Outcome State Fault Refusal :=
  control (.signalLocal z a b) s fun s g _ =>
    retire (updCtx s g fun c => addPg c (effReg c 2 a) (getS c (effReg c 3 b))) g (.signalLocal z a b)

/-- POPR: stalls on an empty reply queue, otherwise removes the oldest entry into d (R97, R176). -/
def execPopr (z : Bool) (d : BitVec 5) (s : State) : Host.Outcome State Fault Refusal :=
  control (.popr z d) s fun s g c =>
    match c.eng.reply with
    | [] => stallAt s g .popr
    | x :: r =>
      retire (writeS (updCtx s g fun c => { c with eng := { c.eng with reply := r } }) g (effReg c 1 d) x) g (.popr z d)

/-- PEEKR: the oldest entry, or all ones when the queue is empty; it never stalls (R176). -/
def execPeekr (z : Bool) (d : BitVec 5) (s : State) : Host.Outcome State Fault Refusal :=
  control (.peekr z d) s fun s g c =>
    retire (writeS s g (effReg c 1 d) (c.eng.reply.headD (BitVec.allOnes 64))) g (.peekr z d)

/-! ### Prefix words -/

/-- XEXT is remembered for its target; a second one raises ILLOP (R143, R144). -/
def execXext (m : BitVec 3) (z : Bool) (r : BitVec 3) (t : Bool) (x : BitVec 16) (s : State) :
    Host.Outcome State Fault Refusal :=
  prefixWord (.xext m z r t x) s (fun p => p.ext.isNone) fun p => { p with ext := some ⟨m, z, r, t, x⟩ }

/-- XREP is remembered for its target (R143, R145). -/
def execXrep (n : BitVec 6) (x y w : BitVec 3) (s : State) : Host.Outcome State Fault Refusal :=
  prefixWord (.xrep n x y w) s (fun p => p.rep.isNone) fun p => { p with rep := some ⟨n, x, y, w⟩ }

/-- XLIMM is remembered for its target (R143, R146). -/
def execXlimm (h : BitVec 24) (s : State) : Host.Outcome State Fault Refusal :=
  prefixWord (.xlimm h) s (fun p => p.limm.isNone) fun p => { p with limm := some h }

/-- XSCA is remembered for its target (R143, R147); in a macro body its register is substituted (R148). -/
def execXsca (r : BitVec 5) (s : State) : Host.Outcome State Fault Refusal :=
  prefixWord (.xsca r) s (fun p => p.sca.isNone) fun p =>
    { p with sca := some (match (getCtx s s.sch.cur).fr.mac with
      | some m => BitVec.ofNat 5 (subS m r.toNat)
      | none => r) }

/-- XCALL runs a control-store body (R148): a prefix before it, SBASE or VBASE above 28, or a sequencer gives ILLOP; it must end
its group; an entry never loaded raises MACRO. The ILLOP of an XCALL after prefixes reports the first prefix of the word (DESIGN
CHOICE, log 79). -/
def execXcall (z : Bool) (e sb vb : BitVec 5) (m : BitVec 9) (s : State) : Host.Outcome State Fault Refusal :=
  let i := Instr.xcall z e sb vb m
  let a := s.sch.cur
  let c := getCtx s a
  let det := BitVec.ofNat 64 (rawOf i)
  if c.life.status ≠ .running then .fault .noRunningContext
  else if c.fr.pfx ≠ Prefixes.reset ∨ 28 < sb.toNat ∨ 28 < vb.toNat ∨ isSeq a ∨ c.trap.smode then
    .next (raiseAt s a .routing 7 1 0 det)
  else if badGroup c.fr.grp ⟨[], [], [], []⟩ (rawOf i) then .next (raiseAt s a .routing 7 2 0 det)
  else if (bodyOf s a e.toNat).isEmpty then .next (raiseAt s a .control 7 0x0F 0 (BitVec.ofNat 64 e.toNat))
  else
    .next (updFr s a fun f => { f with mac := some ⟨e.toNat, 0, sb.toNat, vb.toNat, m, f.pc, GroupSt.reset⟩
                                       stall := .none })

/-- One prefix added to those met, when none of its kind has been met (R143). -/
def addPrefix (p : Prefixes) : Instr → Option Prefixes
  | .xext m z r t x => if p.ext.isNone then some { p with ext := some ⟨m, z, r, t, x⟩ } else none
  | .xrep n x y w => if p.rep.isNone then some { p with rep := some ⟨n, x, y, w⟩ } else none
  | .xlimm h => if p.limm.isNone then some { p with limm := some h } else none
  | .xsca r => if p.sca.isNone then some { p with sca := some r } else none
  | _ => none

/-- A word with its stop bit set would be, without it, a prefix that passes its own checks after those met: only its group is at
fault (R132, R143, R150). The prefixes with it. -/
def stoppedPrefix (p : Prefixes) (w : Nat) : Option Prefixes :=
  if engOf w = 7 ∧ stopOf w ∧ bits w 27 24 ≠ 2 then
    match decodeWord (w - 2 ^ 28) with
    | .ok i => (addPrefix p i).filter prefixLimits
    | .error _ => none
  else none

/-- A word that is no instruction (R132): ILLOP, but a prefix that only its stop bit makes wrong raises ILLGRP (R150). -/
def execIllegalWord (w : IWord) (s : State) : Host.Outcome State Fault Refusal :=
  let a := s.sch.cur
  let c := getCtx s a
  if c.life.status ≠ .running then .fault .noRunningContext
  else
    let cause := if (stoppedPrefix c.fr.pfx w.toNat).isSome ∧ !c.trap.smode then 2 else 1
    .next (raiseAt s a .routing (engOf w.toNat) cause 0 (BitVec.ofNat 64 w.toNat))

end Sys2Proof.Machine
end

