-- ==== Sys2Proof/Machine/ControlMem.lean ====
section
/-! DEFINITION. Control words that reach memory: loads, stores and prefetch (R164, R165), atomics (R166 to R169), FENCE
(R170), the memory form of SIGNAL (R175), NEST (R177), CSTORE (R149, R184), L2PIN and L2UNPIN (R128, R185). -/

namespace Sys2Proof.Machine

/-! ### Accesses of several places -/

/-- Cut a place at its 128-byte lines. -/
def linePieces (l : Loc) : Nat → Nat → List (Loc × Nat)
  | 0, _ => []
  | _ + 1, 0 => []
  | fuel + 1, len =>
    let n := min len (128 - l.pa % 128)
    (l, n) :: linePieces { l with pa := l.pa + n } fuel (len - n)

/-- The bytes of several places as a control-core load takes them. -/
def ctlLoads (s : State) (a : AgentId) : List (Loc × Nat) → List Byte × State
  | [] => ([], s)
  | (l, n) :: r =>
    let (x, s) := ctlLoad s a l n
    let (y, s) := ctlLoads s a r
    (x ++ y, s)

/-- The 4 KiB pieces of a range, as (address, length). -/
def pagePieces (va : Nat) : Nat → Nat → List (Nat × Nat)
  | 0, _ => []
  | _ + 1, 0 => []
  | fuel + 1, len =>
    let n := min len (4096 - va % 4096)
    (va, n) :: pagePieces (va + n) fuel (len - n)

/-- Translate every piece of a range for a control-core access: the places, the pages that are invalid, whether some
page forbids the access, whether a peer does not answer. -/
def ctlPieces (s : State) (a : AgentId) (kind : AccKind) :
    List (Nat × Nat) → List (Loc × Nat) × List Nat × Bool × Bool × State
  | [] => ([], [], false, false, s)
  | (va, n) :: r =>
    let c := getCtx s a
    let (x, s) := xlate s (coreTlb a) c.life.part c.life.asid va kind (!c.trap.smode)
    let (ls, bad, forb, sil, s) := ctlPieces s a kind r
    match x with
    | .ok l => ((l, n) :: ls, bad, forb, sil, s)
    | .invalid => (ls, va / 4096 :: bad, forb, sil, s)
    | .forbid => (ls, bad, true, sil, s)
    | .silent _ => (ls, bad, forb, true, s)

/-- A control-core read of a range that may span pages (R160, R389): every page is translated together; one fault event
is made for each invalid page. -/
def withRead (s : State) (a : AgentId) (va : Word) (n align : Nat) (go : State → List Byte → State) : State :=
  let c := getCtx s a
  if va.toNat % align ≠ 0 then raiseCtl s a 5 va 0
  else if 2 ^ 48 ≤ va.toNat then raiseCtl s a 6 va 0
  else if c.fr.abort.isSome && !c.fr.waitFetch then raiseCtl (updFr s a fun f => { f with abort := none }) a 6 va 0
  else
    let (ls, bad, forb, sil, s) := ctlPieces s a .read (pagePieces va.toNat (pieceFuel n) n)
    if !bad.isEmpty then
      if c.trap.smode then raiseCtl s a 7 va 0 else bad.foldl (fun s p => faultWord s a p 1) (stallAcc s a .fault false)
    else if forb then raiseCtl s a 6 va 0
    else if sil then stallAcc s a .laben false
    else
      let ps := (ls.map fun x => linePieces x.1 (x.2 / 128 + 2) x.2).flatten
      match ps.find? fun x => (locBad s x.1 x.2).isSome && !dcServes s a x.1 with
      | some (l, k) => raiseMem s a va l k false
      | none =>
        let (bs, s) := ctlLoads s a ps
        go s bs

/-! ### Loads, stores, prefetch -/

/-- A load of `n` bytes at s[a] + imm, extended into d with or without sign (R164). -/
def loadWord (i : Instr) (s : State) (d a : BitVec 5) (m : BitVec 11) (n : Nat) (signed : Bool) :
    Host.Outcome State Fault Refusal :=
  control i s fun s g c =>
    withAccess s g (getS c (effReg c 2 a) + effImm c m) n n .read fun s l =>
      retire (ctlPost s g l (.load (effReg c 1 d) n signed)) g i

/-- A store of the low `n` bytes of s[b] at s[a] + imm (R164). -/
def storeWord (i : Instr) (s : State) (b a : BitVec 5) (m : BitVec 11) (n : Nat) : Host.Outcome State Fault Refusal :=
  control i s fun s g c =>
    withAccess s g (getS c (effReg c 2 a) + effImm c m) n n .write fun s l =>
      retire (ctlPost s g l (.store (leList n (getS c (effReg c 1 b)).toNat))) g i

/-- LDB (R164). -/
def execLdb (z : Bool) (d a : BitVec 5) (m : BitVec 11) (s : State) := loadWord (.ldb z d a m) s d a m 1 true
/-- LDBU (R164). -/
def execLdbu (z : Bool) (d a : BitVec 5) (m : BitVec 11) (s : State) := loadWord (.ldbu z d a m) s d a m 1 false
/-- LDH (R164). -/
def execLdh (z : Bool) (d a : BitVec 5) (m : BitVec 11) (s : State) := loadWord (.ldh z d a m) s d a m 2 true
/-- LDHU (R164). -/
def execLdhu (z : Bool) (d a : BitVec 5) (m : BitVec 11) (s : State) := loadWord (.ldhu z d a m) s d a m 2 false
/-- LDW (R164). -/
def execLdw (z : Bool) (d a : BitVec 5) (m : BitVec 11) (s : State) := loadWord (.ldw z d a m) s d a m 4 true
/-- LDWU (R164). -/
def execLdwu (z : Bool) (d a : BitVec 5) (m : BitVec 11) (s : State) := loadWord (.ldwu z d a m) s d a m 4 false
/-- LDD (R164). -/
def execLdd (z : Bool) (d a : BitVec 5) (m : BitVec 11) (s : State) := loadWord (.ldd z d a m) s d a m 8 false
/-- STB (R164). -/
def execStb (z : Bool) (b a : BitVec 5) (m : BitVec 11) (s : State) := storeWord (.stb z b a m) s b a m 1
/-- STH (R164). -/
def execSth (z : Bool) (b a : BitVec 5) (m : BitVec 11) (s : State) := storeWord (.sth z b a m) s b a m 2
/-- STW (R164). -/
def execStw (z : Bool) (b a : BitVec 5) (m : BitVec 11) (s : State) := storeWord (.stw z b a m) s b a m 4
/-- STD (R164). -/
def execStd (z : Bool) (b a : BitVec 5) (m : BitVec 11) (s : State) := storeWord (.std z b a m) s b a m 8

/-- The mark an L2 access with a hint gives (R125): hint normal follows the page attribute. -/
def hintMark (hint : Nat) (ef : Bool) : Nat := if hint = 0 then (if ef then 1 else 0) else hint

/-- What PREFL brings into the L2: the line of an address that passes the checks of R160, in device DRAM (R165). R311 calls PREFL no
access, and no rule says which permission it needs: the model asks that of a read (DESIGN CHOICE, log 79). -/
def prefetchLine (s : State) (a : AgentId) (va : Word) (hint : Nat) : State :=
  let c := getCtx s a
  match xlate s (coreTlb a) c.life.part c.life.asid va.toNat .read (!c.trap.smode) with
  | (.ok l, s') =>
    if l.typ = 0 then l2Access s' (some c.life.part) (l.pa / 128 * 128) (hintMark hint l.ef) false true else s'
  | (_, s') => s'

/-- PREFL: never traps, never freezes, fills no data cache (R165). -/
def execPrefl (z : Bool) (h a : BitVec 5) (m : BitVec 11) (s : State) : Host.Outcome State Fault Refusal :=
  control (.prefl z h a m) s fun s g c =>
    retire (prefetchLine s g (getS c (effReg c 2 a) + effImm c m) (effReg c 1 h)) g (.prefl z h a m)

/-! ### Atomics -/

/-- An atomic of the AMO family (R166, R168). -/
def amoWord (i : Instr) (s : State) (d a b : BitVec 5) (sc op : BitVec 3) (acq amop : Bool) :
    Host.Outcome State Fault Refusal :=
  control i s fun s g c =>
    withAccess s g (getS c (effReg c 2 a)) 8 8 .rmw fun s l =>
      retire (ctlPost s g l (.amo (effReg c 1 d) op.toNat (getS c (effReg c 3 b)) sc.toNat acq amop)) g i

/-- AMO, relaxed (R166). -/
def execAmo (z : Bool) (d a b : BitVec 5) (sc op : BitVec 3) (s : State) :=
  amoWord (.amo z d a b sc op) s d a b sc op false false
/-- AMOA, acquire (R166). -/
def execAmoa (z : Bool) (d a b : BitVec 5) (sc op : BitVec 3) (s : State) :=
  amoWord (.amoa z d a b sc op) s d a b sc op true false
/-- AMOR, release (R166). -/
def execAmor (z : Bool) (d a b : BitVec 5) (sc op : BitVec 3) (s : State) :=
  amoWord (.amor z d a b sc op) s d a b sc op false false
/-- AMOAR, acquire and release (R166). -/
def execAmoar (z : Bool) (d a b : BitVec 5) (sc op : BitVec 3) (s : State) :=
  amoWord (.amoar z d a b sc op) s d a b sc op true false
/-- AMOP, promoting acquire and release (R166, R169). -/
def execAmop (z : Bool) (d a b : BitVec 5) (sc op : BitVec 3) (s : State) :=
  amoWord (.amop z d a b sc op) s d a b sc op true true

/-- CAS (R167, R168): compares with d, writes s[b] when equal, and writes the old value to d; ordering codes 1, 3 and 4
acquire. -/
def execCas (z : Bool) (d a b : BitVec 5) (sc o : BitVec 3) (s : State) : Host.Outcome State Fault Refusal :=
  let i := Instr.cas z d a b sc o
  control i s fun s g c =>
    withAccess s g (getS c (effReg c 2 a)) 8 8 .rmw fun s l =>
      retire (ctlPost s g l (.cas (effReg c 1 d) (getS c (effReg c 1 d)) (getS c (effReg c 3 b)) sc.toNat
        (decide (o = 1 ∨ o = 3 ∨ o = 4)) (decide (o = 4)))) g i

/-- Every word routed to an engine has completed. -/
def engineIdle (x : EngineSt) : Bool := x.queue.isEmpty && x.flying.isEmpty

/-- The engines of a DRAIN field are empty (R170). -/
def drained (g : Engines) (mask : Nat) : Bool := allEngines.all fun e => !bit mask (chainPos e) || engineIdle (getE g e)

/-- FENCE waits for the queues it names, has its context's earlier accesses performed, then empties the data cache at cluster scope or wider (`fenceScope`), and the instruction
cache with IF (R170). -/
def execFence (z f : Bool) (sc : BitVec 3) (e : BitVec 6) (s : State) : Host.Outcome State Fault Refusal :=
  control (.fence z f sc e) s fun s g c =>
    if !drained c.eng e.toNat then stallAt s g .fence
    else
      let s := performOwn s g
      let s := acquire s g (fenceScope s g sc.toNat)
      let s := match g with
        | .bank n _ => if f then setCore s n { getCore s n with icache := [] } else s
        | .seq _ => s
      retire s g (.fence z f sc e)

/-- SIGNAL with LOC 0: an atomic add of s[b] at s[a] with release (R175). -/
def execSignal (z : Bool) (a b : BitVec 5) (sc : BitVec 3) (s : State) : Host.Outcome State Fault Refusal :=
  control (.signal z a b sc) s fun s g c =>
    withAccess s g (getS c (effReg c 2 a)) 8 8 .rmw fun s l =>
      retire (ctlPost s g l (.signal (getS c (effReg c 3 b)))) g (.signal z a b sc)

/-! ### NEST -/

/-- Bytes `[lo, lo + n)` of a byte list as a number. -/
def fieldAt (bs : List Byte) (lo n : Nat) : Nat := leVal ((bs.drop lo).take n)

/-- The levels of a nest descriptor (R177). -/
def nestLevels (bs : List Byte) (n : Nat) : List NestLevel :=
  (List.range n).map fun l =>
    ⟨fieldAt bs (32 + 16 * l) 4, toSigned 48 (fieldAt bs (36 + 16 * l) 6), toSigned 48 (fieldAt bs (42 + 16 * l) 6)⟩

/-- The nest descriptor of 128 bytes (R177); none where NEST traps. -/
def nestOf (bs : List Byte) : Option NestDesc :=
  let levels := fieldAt bs 29 1 % 8
  let d : NestDesc := ⟨fieldAt bs 0 8, fieldAt bs 8 8, fieldAt bs 16 5, fieldAt bs 21 5, fieldAt bs 26 3,
    nestLevels bs levels⟩
  if levels = 0 || levels = 7 || d.levels.any (fun l => l.count == 0) || d.unit == 0
    || (d.wrapy != 0 && decide (d.wrapy ≤ d.offy)) then none
  else some d

/-- NEST reads a descriptor of 128 bytes into the shadow of a slot (R177). -/
def execNest (z : Bool) (n a : BitVec 5) (m : BitVec 11) (s : State) : Host.Outcome State Fault Refusal :=
  control (.nest z n a m) s fun s g c =>
    withRead s g (getS c (effReg c 2 a) + effImm c m) 128 8 fun s bs =>
      match nestOf bs with
      | none => raiseCtl s g 0x12 0 (BitVec.ofNat 64 (effReg c 1 n))
      | some d => retire (updCtx s g fun c => setNest c (effReg c 1 n) d) g (.nest z n a m)

/-! ### CSTORE -/

/-- A control word a body may not hold (R149). -/
def bodyRefuses (w : Nat) : Bool :=
  let op := op7Of w
  (engOf w == 0 && ((decide (0x48 ≤ op) && decide (op ≤ 0x53)) || op == 0x5C || (decide (0x64 ≤ op) && decide (op ≤ 0x66))
    || (op == 0x54 && !bit w 5))) || (engOf w == 7 && bits w 27 24 == 2)

/-- The body rules of R149 for the words still to be read: the prefixes met and the words of the open group. Checks that depend on
the formats are made with those of the context (DEDUCED, log 42); a group that ends on a prefix is left to the call, as other group
rules are. -/
def bodyOk (vfmt : Word) : Prefixes → Nat → List IWord → Bool
  | p, _, [] => p == Prefixes.reset
  | p, n, x :: r =>
    let w := x.toNat
    if 8 ≤ n then false
    else
      match decodeWord (if lateChecked w then blankSubst w else w) with
      | .error _ =>
        match stoppedPrefix p w with
        | some q => bodyOk vfmt q 0 r
        | none => false
      | .ok i =>
        if engOf w = 7 then
          match addPrefix p i with
          | some q => bodyOk vfmt q (n + 1) r
          | none => false
        else if bodyRefuses w || badStatic false p vfmt (blankSubst w) || badCsr false w || (engOf w ≠ 0 && badTok false w)
            || (p.limm.isSome && holdsPlaceholder w) then false
        else if r.isEmpty && !stopOf w then false
        else bodyOk vfmt Prefixes.reset (if stopOf w then 0 else n + 1) r

/-- The 32-bit words of a byte list. -/
def iwords : Nat → List Byte → List IWord
  | 0, _ => []
  | n + 1, bs => BitVec.ofNat 32 (leVal (bs.take 4)) :: iwords n (bs.drop 4)

/-- CSTORE loads a control-store entry (R149, R184): the grant first, then the address, then the body. TVA of the ACCESS for want of a grant
is s[a] (DESIGN CHOICE, log 53). -/
def execCstore (z : Bool) (e a n : BitVec 5) (s : State) : Host.Outcome State Fault Refusal :=
  let i := Instr.cstore z e a n
  control i s fun s g c =>
    let entry := effReg c 1 e
    let va := getS c (effReg c 2 a)
    if !c.trap.smode && !bit (preg s c.life.part 0x040).toNat entry then raiseCtl s g 6 va 0
    else
      withRead s g va (4 * (n.toNat + 1)) 4 fun s bs =>
        let ws := iwords (n.toNat + 1) bs
        if bodyOk c.csr.vfmt Prefixes.reset 0 ws then
          let k := agentCore g
          retire (setCore s k { getCore s k with cstore := kput (getCore s k).cstore entry (ws, true) }) g i
        else raiseCtl s g 0x0F 0 (BitVec.ofNat 64 entry)

/-! ### Retention registers -/

/-- The `n` highest ways that no pin of another register holds, lowest first (R125, R128 step 1). -/
def highestWays (taken : List Nat) (n : Nat) : List Nat :=
  (((List.range 16).reverse.filter fun w => !taken.contains w).take n).reverse

/-- A pin of the device, or an inactive one. -/
def getPin (s : State) (i : Nat) : Pin := if h : i < 16 then s.cache.pins[i] else Pin.reset

/-- Set a retention register. -/
def setPin (s : State) (i : Nat) (p : Pin) : State :=
  if h : i < 16 then { s with cache := { s.cache with pins := s.cache.pins.set i p h } } else s

/-- Frames in some ways are marked normal (R128, L2UNPIN). -/
def markNormal (s : State) (ways : List Nat) : State :=
  { s with cache := { s.cache with l2 := s.cache.l2.map fun kf =>
      (kf.1, kf.2.map fun f => if ways.contains f.way then { f with mark := 0 } else f) } }

/-- Frames in some ways are evicted (R128 step 2). -/
def evictWays (s : State) (ways : List Nat) : State :=
  { s with cache := { s.cache with l2 := s.cache.l2.map fun kf =>
      (kf.1, kf.2.filter fun f => !ways.contains f.way) } }

/-- Release a pin; its counts stay, LINES among them (R128, R129, R330). -/
def unpin (s : State) (i : Nat) : State :=
  let p := getPin s i
  if p.act then markNormal (setPin s i { p with act := false, mask := [], lines := pinLines s i }) p.mask else s

/-- Ways that the other active pins of the device, or of one partition, take on each die. -/
def waysTaken (s : State) (i : Nat) (part : Option Nat) : Nat :=
  ((List.range 16).map fun j =>
    let p := getPin s j
    if j = i || !p.act || (part.isSome && part != some p.part) then 0 else p.ways).foldl (· + ·) 0

/-- Pin a physical range with `n` ways (R128). -/
def pinRange (s : State) (i part base len n : Nat) : State :=
  let s := unpin s i
  let mask := highestWays (reservedWays s) n
  setPin (moveMarks s (evictWays s mask)) i ⟨true, base, len, n, part, 0, 0, 0, mask⟩

/-- L2PIN (R185): its checks in the order of the table, then the pin, at once in every set. It is no access (R311): it only
translates, and needs no permission to read or write. TVA is s[a] in every case, a length at fault among them (DESIGN CHOICE, log 53). -/
def execL2pin (z : Bool) (a b : BitVec 5) (r : BitVec 4) (w : BitVec 2) (s : State) : Host.Outcome State Fault Refusal :=
  let i := Instr.l2pin z a b r w
  control i s fun s g c =>
    let va := getS c (effReg c 2 a)
    let len := (getS c (effReg c 3 b)).toNat
    let p := c.life.part
    let n := w.toNat + 1
    if len % 128 ≠ 0 ∨ len = 0 then raiseCtl s g 5 va 0
    else
      withAccess s g va 0 128 .touch fun s l =>
        let fits := match tlbFind s (coreTlb g) c.life.asid va.toNat with
          | some t => decide (va.toNat + len ≤ t.base + t.size)
          | none => false
        if !fits || l.typ ≠ 0 || !bit (preg s p 0x038).toNat r.toNat || decide (12 < waysTaken s r.toNat none + n)
            || decide (wbits (preg s p 0x030) 3 0 < waysTaken s r.toNat (some p) + n) then raiseCtl s g 6 va 0
        else retire (pinRange s r.toNat p l.pa len n) g i

/-- L2UNPIN releases a pin; an inactive register is left (R185). -/
def execL2unpin (z : Bool) (r : BitVec 4) (s : State) : Host.Outcome State Fault Refusal :=
  control (.l2unpin z r) s fun s g c =>
    if !bit (preg s c.life.part 0x038).toNat r.toNat then raiseCtl s g 6 0 0
    else retire (unpin s r.toNat) g (.l2unpin z r)

end Sys2Proof.Machine
end

