-- ==== Sys2Proof/Machine/Csr.lean ====
section
/-! DEFINITION. The CSR words and the control and status registers they reach (R47, R53, R63, R68, R71, R107 to R118, R126
to R129, R186, R187, R310, R340). -/

namespace Sys2Proof.Machine

/-! ### Ring words -/

/-- Rings that a routed word names (R118): an MMA names the rings of its fields, a ring-kind MDRAIN the ring of its
captured operand. -/
def ringsOf (i : Instr) (sa : Word) : List Nat :=
  match i with
  | .mldb _ _ _ r => [r.toNat]
  | .mscq _ _ _ _ r => [r.toNat]
  | .mpop _ _ _ r => [r.toNat]
  | .lring _ _ _ r => [r.toNat]
  | .sring _ _ _ r => [r.toNat]
  | .mma _ _ _ x y _ _ _ p g => if p then [x.toNat, y.toNat, g.toNat] else [x.toNat, y.toNat]
  | .mdrain _ _ _ _ k _ => if k = 1 then [sa.toNat % 8] else []
  | _ => []

/-- A routed, uncompleted word of the context names ring `n` (R118). -/
def ringBusy (g : Engines) (n : Nat) : Bool :=
  allEngines.any fun e =>
    let x := getE g e
    (x.queue.any fun w => (ringsOf w.ins w.cap.sa).contains n)
      || x.flying.any fun f => (ringsOf f.w.ins f.w.cap.sa).contains n

/-! ### Reading -/

/-- The FPEND bit of TSTAT reads 1 while a routed word waits on an unanswered fault (R340). -/
def tstat (c : Ctx) : Word :=
  BitVec.ofNat 64 (heldMask c.eng * 2 ^ 8 + b2n c.trap.fpend * 2 + b2n c.trap.smode)

/-- RGPTRn (R115). -/
def rgptr (r : Ring) : Word := BitVec.ofNat 64 (r.tail * 2 ^ 32 + r.head * 2 ^ 16 + r.count)

/-- L2RSi (R129). LINES has 20 bits; a count of 2^20 lines or more reads modulo 2^20, since the rule names no saturation for it
(DESIGN CHOICE, log 79). -/
def l2rs (s : State) (i : Nat) : Word :=
  let p := getPin s i
  BitVec.ofNat 64 (b2n p.act * 2 ^ 63 + (p.ways - 1) % 4 * 2 ^ 60 + p.hits * 2 ^ 36 + p.ovfl * 2 ^ 20
    + (if p.act then pinLines s i else p.lines) % 2 ^ 20)

/-- The value a read of a CSR returns (R186, R187, R310, R340). -/
def csrRead (s : State) (a : AgentId) (n : Nat) : Word :=
  let c := getCtx s a
  if n = 0x000 then BitVec.setWidth 64 c.csr.frnd
  else if n = 0x001 then BitVec.setWidth 64 c.csr.fflags
  else if n = 0x002 then c.csr.rseed
  else if n = 0x003 then c.csr.rstep
  else if n = 0x004 then c.csr.carry
  else if n = 0x005 then c.csr.spstat
  else if n = 0x006 then c.csr.vfmt
  else if n = 0x007 then c.csr.mfmt
  else if n = 0x008 then c.csr.mfmth
  else if n = 0x009 then c.csr.scyc
  else if 0x010 ≤ n ∧ n ≤ 0x013 then c.csr.skew.toList.getD (n - 0x010) 0
  else if 0x018 ≤ n ∧ n ≤ 0x01F then (getRing c (n - 0x018)).cfg
  else if 0x020 ≤ n ∧ n ≤ 0x027 then rgptr (getRing c (n - 0x020))
  else if n = 0x028 then c.csr.l2hits
  else if n = 0x029 then c.csr.l2miss
  else if n = 0x02A then c.csr.l2cmpl
  else if n = 0x02B then c.csr.l2csel
  else if 0x030 ≤ n ∧ n ≤ 0x03F then l2rs s (n - 0x030)
  else if n = 0x040 then c.csr.sqrec
  else if n = 0x041 then c.csr.sqid
  else if n = 0x400 then tstat c
  else if n = 0x401 then c.trap.tcause
  else if n = 0x402 then c.trap.tret
  else if n = 0x403 then c.trap.tepc
  else if n = 0x404 then c.trap.twpc
  else if n = 0x405 then c.trap.tva
  else if n = 0x406 then c.trap.tdet
  else if 0x408 ≤ n ∧ n ≤ 0x40B then c.trap.sscr.toList.getD (n - 0x408) 0
  else if n = 0x410 then c.trap.stvec
  else if n = 0x411 then c.trap.self
  else if n = 0x412 then c.trap.msave
  else if n = 0x418 then c.trap.tokwd
  else if n = 0x419 then c.trap.ywd
  else 0

/-! ### Writing -/

/-- Keep the bits of a mask: reserved bits read 0 (R10). -/
def keep (x : Word) (mask : Nat) : Word := x &&& BitVec.ofNat 64 mask

/-- A write of FRND: codes 5 to 7 are ignored (R47). -/
def frndWrite (old : BitVec 32) (x : Word) : BitVec 32 :=
  if 5 ≤ x.toNat % 8 then old else BitVec.ofNat 32 (x.toNat % 8)

/-- A write of CARRY: LEN above 256 is ignored (R68). -/
def carryWrite (old x : Word) : Word := if 256 < wbits x 24 16 then old else keep x 0x1FF03FF

/-- A write of TOKWD: a period below 1,024 is ignored (R92). -/
def tokwdWrite (old x : Word) : Word := if wbits x 31 0 < 1024 then old else keep x 0xFFFFFFFF

/-- A write of RGCFGn resets the ring's pointers (R114, R118). -/
def rgcfgRing (x : Word) : Ring := ⟨keep x 0x8FFF7FFF000FFFE0, 0, 0, 0⟩

/-- A write of a user CSR that is no ring register. -/
def ucsrWrite (u : UCsr) (n : Nat) (x : Word) : UCsr :=
  if n = 0x000 then { u with frnd := frndWrite u.frnd x }
  else if n = 0x001 then { u with fflags := BitVec.ofNat 32 (x.toNat % 64) }
  else if n = 0x002 then { u with rseed := x }
  else if n = 0x003 then { u with rstep := x }
  else if n = 0x004 then { u with carry := carryWrite u.carry x }
  else if n = 0x006 then { u with vfmt := keep x 0x1F1F1F1F1F1F1F1F }
  else if n = 0x007 then { u with mfmt := keep x 0x1F1F1F1F1F1F1F1F }
  else if n = 0x008 then { u with mfmth := keep x 0x1F1F1F1F1F1F1F1F }
  else if h : 0x010 ≤ n ∧ n ≤ 0x013 then
    { u with skew := u.skew.set (n - 0x010) (keep x 0x83FF001F000FFC00) (by omega) }
  else if n = 0x02B then { u with l2csel := keep x 1 }
  else if n = 0x040 then { u with sqrec := keep x 0xFFFFFFFFFFE0 }
  else u

/-- A write of a supervisor CSR; a write of TEPC clears RESUMEIN (R340). -/
def tcsrWrite (t : TrapCsr) (n : Nat) (x : Word) : TrapCsr :=
  if n = 0x402 then { t with tret := keep x 0x13F }
  else if n = 0x403 then { t with tepc := keep x 0xFFFFFFFFFFFFFFFC, tcause := keep t.tcause (2 ^ 24 - 1) }
  else if h : 0x408 ≤ n ∧ n ≤ 0x40B then { t with sscr := t.sscr.set (n - 0x408) x (by omega) }
  else if n = 0x418 then { t with tokwd := tokwdWrite t.tokwd x }
  else t

/-- What a write of a CSR does to the context. -/
def csrWrite (c : Ctx) (n : Nat) (x : Word) : Ctx :=
  if 0x018 ≤ n ∧ n ≤ 0x01F then setRing c (n - 0x018) (rgcfgRing x)
  else if n < 0x400 then { c with csr := ucsrWrite c.csr n x }
  else { c with trap := tcsrWrite c.trap n x }

/-- A CSR word that writes: the new value is a function of the old value and s[a]; d takes the old value (R186). A write of
RGCFGn waits for the words that name the ring (R118). -/
def csrWord (i : Instr) (s : State) (d a : BitVec 5) (m : BitVec 11) (f : Word → Word → Word) :
    Host.Outcome State Fault Refusal :=
  control i s fun s g c =>
    let n := effNum c m
    if (decide (0x018 ≤ n) && decide (n ≤ 0x01F)) && ringBusy c.eng (n - 0x018) then stallAt s g .rgcfg
    else
      let old := csrRead s g n
      retire (writeS (setCtx s g (csrWrite c n (f old (getS c (effReg c 2 a))))) g (effReg c 1 d) old) g i

/-- CSRR (R186). -/
def execCsrr (z : Bool) (d : BitVec 5) (m : BitVec 11) (s : State) : Host.Outcome State Fault Refusal :=
  control (.csrr z d m) s fun s g c =>
    retire (writeS s g (effReg c 1 d) (csrRead s g (effNum c m))) g (.csrr z d m)

/-- CSRW (R186). -/
def execCsrw (z : Bool) (d a : BitVec 5) (m : BitVec 11) (s : State) :=
  csrWord (.csrw z d a m) s d a m fun _ x => x
/-- CSRS (R186). -/
def execCsrs (z : Bool) (d a : BitVec 5) (m : BitVec 11) (s : State) :=
  csrWord (.csrs z d a m) s d a m fun old x => old ||| x
/-- CSRC (R186). -/
def execCsrc (z : Bool) (d a : BitVec 5) (m : BitVec 11) (s : State) :=
  csrWord (.csrc z d a m) s d a m fun old x => old &&& ~~~x

/-- RGCFG_WRITE: the write of RGCFGn by its context once no routed word names the ring (R118). -/
def execRgcfgWrite (a : AgentId) (n : Nat) (val : Word) (s : State) : Host.Outcome State Fault Refusal :=
  let c := getCtx s a
  .next (if n < 8 ∧ c.life.status = .running ∧ !isSeq a ∧ !ringBusy c.eng n then setCtx s a (setRing c n (rgcfgRing val))
    else s)

end Sys2Proof.Machine
end

