-- ==== Sys2Proof/Machine/Spore.lean ====
section
/-! DEFINITION. The words at which a spore suspends or ends, YIELD, EXIT, SPAWN and WAITGE on a memory counter, with the
steps of R74 to R78 and what leaves the bank with them (R79, R225, R365, R369), and the end of a stack stream (R181). -/

namespace Sys2Proof.Machine

/-! ### Items and stages -/

/-- An instance of a partition. -/
def findInst (q : Part) (id : Nat) : Option Instance := q.insts.find? fun x => x.id == id

/-- The descriptor of a stage of an instance. -/
def findStage (q : Part) (inst stage : Nat) : Option StageDesc := (findInst q inst).bind fun x => x.descs[stage]?

/-- An item of a partition. -/
def findItem (q : Part) (id : Nat) : Option Item := q.items.find? fun x => x.id == id

/-- Change an item of a partition. -/
def updItem (s : State) (p id : Nat) (f : Item → Item) : State :=
  updPart s p fun q => { q with items := q.items.map fun x => if x.id == id then f x else x }

/-- The item stands in its stage queue: it has not been picked up, or is a command not yet issued (R365; DEDUCED, log
25). -/
def inQueue (x : Item) : Bool :=
  match x.st with
  | .queued | .command => true
  | .ready _ _ => x.rcd.reason == 0
  | _ => false

/-- Items in a stage queue. -/
def queueLen (q : Part) (inst stage : Nat) : Nat :=
  (q.items.filter fun x => x.inst == inst && x.stage == stage && inQueue x).length

/-- The identifier of an instance's launch. -/
def instAsid (q : Part) (inst : Nat) : Nat := ((findInst q inst).map fun x => x.asid).getD 0

/-- The address of the lowest free slot of a stage queue: no record of an item of its launch's identifier stands in it (R361; log 74). -/
def freeSlot (q : Part) (inst stage : Nat) : Option Nat :=
  match findStage q inst stage with
  | none => none
  | some d =>
    ((List.range (q.items.length + 1)).map fun k => d.qbase + 64 * k).find? fun va =>
      decide (va < d.qbase + 64 * d.bound)
        && !q.items.any fun x => x.place == some va && instAsid q x.inst == instAsid q inst

/-- The stage queue has room for one more item (R81, R365). -/
def queueRoom (q : Part) (inst stage : Nat) : Bool :=
  match findStage q inst stage with
  | some d => decide (queueLen q inst stage < d.bound) && (d.kind != 0 || (freeSlot q inst stage).isSome)
  | none => false

/-- The gates of a stage have been found open for its instance (R367). -/
def stageOpen (q : Part) (inst stage : Nat) : Bool :=
  match (findInst q inst).bind fun x => x.stages[stage]? with
  | some x => x.open_
  | none => false

/-- The add of a compute item that leaves the partition (R365). -/
def addDone (s : State) (p inst stage : Nat) : State :=
  match findInst (getPart s p) inst, findStage (getPart s p) inst stage with
  | some x, some d => if d.donectr = 0 then s else devAdd s sysTlb p x.asid d.donectr 1
  | _, _ => s

/-- Count an item of a tag as finished (R301). -/
def countFinished (s : State) (p : Nat) (tag : BitVec 32) : State :=
  updPart s p fun q => { q with finished := kput q.finished tag.toNat (kget 0 q.finished tag.toNat + 1) }

/-- A compute item leaves the partition (R365, R369): its record and its carry are gone. -/
def retireItem (s : State) (p id : Nat) : State :=
  match findItem (getPart s p) id with
  | none => s
  | some x =>
    let slot := x.rcd.slot.toNat
    let s := updPart s p fun q =>
      { q with items := q.items.filter fun y => y.id != id, carries := kerase q.carries slot, records := kerase q.records slot }
    countFinished (addDone s p x.inst x.stage) p x.rcd.tag

/-! ### Records in scheduler memory -/

/-- Byte 10 of a record: HPEND, CVALID, CANCEL and PRIO; bits 7:6 are 0 (R65). -/
def recordFlags (r : Spore) : Nat := b2n r.hpend * 2 ^ 5 + b2n r.cvalid * 2 ^ 4 + b2n r.cancel * 2 ^ 3 + r.prio.toNat

/-- The 64 bytes of a spore record (R65, R66, R68). -/
def recordBytes (r : Spore) : List Byte :=
  leList 8 (r.resume.toNat / 4 * 4 + r.reason.toNat) ++ leList 2 r.stage.toNat ++ leList 1 (recordFlags r) ++ leList 1 0
    ++ leList 4 r.tag.toNat ++ leList 8 r.task.toNat ++ leList 4 r.carry.toNat ++ leList 4 r.slot.toNat
    ++ leList 8 r.arg0.toNat ++ leList 8 r.arg1.toNat ++ leList 8 r.arg2.toNat ++ leList 8 r.arg3.toNat

/-- The record that 64 bytes hold; reserved bits are ignored (R65). -/
def recordOf (bs : List Byte) : Spore :=
  let w := fun n => BitVec.ofNat 64 (fieldAt bs n 8)
  let fl := fieldAt bs 10 1
  { resume := BitVec.ofNat 64 (fieldAt bs 0 8 / 4 * 4), reason := BitVec.ofNat 2 (fieldAt bs 0 1)
    stage := BitVec.ofNat 16 (fieldAt bs 8 2), hpend := bit fl 5, cvalid := bit fl 4, cancel := bit fl 3
    prio := BitVec.ofNat 3 fl, tag := BitVec.ofNat 32 (fieldAt bs 12 4), task := w 16
    carry := BitVec.ofNat 32 (fieldAt bs 24 4), slot := BitVec.ofNat 32 (fieldAt bs 28 4)
    arg0 := w 32, arg1 := w 40, arg2 := w 48, arg3 := w 56 }

/-- A spore whose record or carry the scheduler cannot read or write halts as a double trap with cause PAGE or UNCORR (R347, R389,
R440): the trap-ring entry of KIND 1, then the record is retired. Its spore runs on no bank, so the entry names the bank it was
meant for, and PC 0; UNCORR has source 2 in TDET (DESIGN CHOICE, log 81). -/
def haltItem (s : State) (p id cause va : Nat) (a : AgentId) : State :=
  match findItem (getPart s p) id with
  | none => s
  | some x =>
    retireItem (appendTrapRing s p (trapEntryBytes 0 0 (BitVec.ofNat 64 va) (if cause = 0x0E then 2 * 2 ^ 16 else 0) (BitVec.ofNat 64 cause)
      { Life.reset with rcd := x.rcd } a 0 1)) p id

/-- The scheduler writes the record of an item: into its slot of the stage queue while it stands there (R361), in the identifier of
its launch with supervisor access (DEDUCED, log 74), and otherwise beside its carry; a slot whose page has no valid translation halts
the spore with PAGE (R389). -/
def storeRecord (s : State) (p id : Nat) : State :=
  match findItem (getPart s p) id with
  | none => s
  | some x =>
    match x.place with
    | some va =>
      (match devWrite s sysTlb p (instAsid (getPart s p) x.inst) va (recordBytes x.rcd) false 0 with
       | .ok s => s
       | .error (_, s) => haltItem s p id 7 va (.bank 0 false))
    | none =>
      if (getPart s p).lost.contains x.rcd.slot.toNat then haltItem s p id 7 0 (.bank 0 false)
      else updPart (clearMarks s .record p x.rcd.slot.toNat 1) p fun q =>
        { q with records := kput q.records x.rcd.slot.toNat (recordBytes x.rcd) }

/-- Change the record of an item, in the scheduler's memory too. -/
def updRecord (s : State) (p id : Nat) (f : Item → Item) : State := storeRecord (updItem s p id f) p id

/-- Append an item to a stage queue (R364): a compute item takes the next carry slot (R68; log 15) and the lowest free slot of
its queue (R361; log 74), and it is READY at once when the gates of its stage hold (R369). Its number, and the state before its
record is written. -/
def appendItem (s : State) (p inst stage : Nat) (rcd : Spore) (st : ItemState) (die : Option Nat) : Nat × State :=
  let (id, s) := freshUid s
  (id, updPart s p fun q =>
    let st' := if st = .queued ∧ stageOpen q inst stage then .ready s.now id else st
    { q with items := q.items ++ [⟨id, inst, stage, st', { rcd with slot := BitVec.ofNat 32 q.nextSlot }, s.now, die,
                                   if st = .queued then freeSlot q inst stage else none⟩]
             nextSlot := q.nextSlot + 1 })

/-- An item joins a stage queue, and a compute item's record is written there (R364, R369). Once EN is 0 an item is removed as it
comes (R376). -/
def addItem (s : State) (p inst stage : Nat) (rcd : Spore) (st : ItemState) (die : Option Nat) : State :=
  if !partOn s p then (if st = .queued then addDone s p inst stage else s)
  else
    let (id, s) := appendItem s p inst stage rcd st die
    if st = .queued then storeRecord s p id else s

/-! ### Leaving a bank -/

/-- The key of a broadcast group: 16 × cluster + 8 × operand + group (R242). -/
def groupKey (cluster : Nat) (opB : Bool) (g : Nat) : Nat := 16 * cluster + 8 * b2n opB + g

/-- A bank leaves a group: the count the group waits for drops by 1 (R244). -/
def leaveGroup (g : BGroup) (core : Nat) (b : Bool) : BGroup :=
  if g.members.any fun m => m.core == core && m.b == b then
    let ms := g.members.filter fun m => !(m.core == core && m.b == b)
    let need := g.need - 1
    { g with need := need, members := ms, complete := g.complete || decide (ms.length = need ∧ 0 < need) }
  else g

/-- A bank leaves every group of one operand, or of both (R225, R244); a group without members is idle. -/
def leaveGroups (s : State) (core : Nat) (b : Bool) (op : Option Bool) : State :=
  { s with groups := (s.groups.map fun kg =>
      if kg.1 / 16 = coreCluster core ∧ (op = none ∨ op = some (kg.1 / 8 % 2 == 1)) then (kg.1, leaveGroup kg.2 core b)
      else kg).filter fun kg => !kg.2.members.isEmpty }

/-- The matrix operand state of a bank that suspends or exits is discarded (R225). -/
def dropMatrix (s : State) (core : Nat) (b : Bool) : State :=
  let k := getCore s core
  let k := if k.owner = some b then { k with owner := none, mat := MatState.reset } else k
  let k := if b then { k with savedB := none } else { k with savedA := none }
  leaveGroups (setCore s core k) core b none

/-- The counter operand of a word (R256). -/
def ctrOf (w : QWord) : Ctr :=
  if hasMc (rawOf w.ins) then .mem w.cap.sm else .loc (bits (rawOf w.ins) 7 4)

/-- A started word that names neither the window nor a local counter: a T word, SFLUSH, or an SQ to memory that does not wait for its
bank's outbound queue, without a local counter. It does not hold the suspension (R74, R285), unless a trap holds it with its engine
(R343) or it waits for the answer that its bank waits for (R397). -/
def detachable (e : Engine) (f : Flight) : Bool :=
  f.hold != .trapped && f.hold != .fault && (e == .t || (match f.w.ins with
    | .sflush _ _ _ _ _ _ _ => true
    | .sq _ _ _ _ _ _ sp => !sp && f.hold != .queue
    | _ => false))
  && (match ctrOf f.w with
      | .loc _ => false
      | _ => true)

/-- The started words of an engine that are detachable go on as operations of their own (R74, R285), each with the outbound entries
an SQ has still to take. -/
def detachWords (a : AgentId) (s : State) (e : Engine) : State :=
  let c := getCtx s a
  let l := c.life
  let s := ((getE c.eng e).flying.filter (detachable e)).foldl (fun s f =>
    (addOp s ⟨none, e, l.part, l.asid, l.rcd.tag, ctrOf f.w, 3, 0, false, false, false,
      .word a { c with life := { l with status := .running }
                       eng := setE { Engines.reset with qout := c.eng.qout } e { EngineSt.reset with flying := [f] } } e⟩).2) s
  if (getE c.eng e).flying.any (detachable e) then
    updCtx s a fun c =>
      { c with eng := setE c.eng e { getE c.eng e with flying := (getE c.eng e).flying.filter fun f => !detachable e f } }
  else s

/-- The rings and interrupt registers of a partition reset, with the DWBASE of the function whose reset it is (R419): the
physical function's once every partition that it waits for is through. -/
def flrReset (s : State) (p fn : Nat) : State :=
  let gone := fun (off : Nat) => decide (0x400 ≤ off) && decide (off < 0x610) || (off == 0x610 && fn != 0)
  let s := updPart s p fun q => { q with
    regs := q.regs.filter (fun r => !gone r.1), rings := Vector.replicate 4 HostRing.reset, flr := q.flr.filter fun x => x != fn }
  if fn = 0 ∧ !(List.range 8).any (fun q => (getPart s q).flr.contains 0) then setDreg s 0x1008 0 else s

/-- Every bank of a partition is empty (R354). -/
def banksEmpty (s : State) (p : Nat) : Bool :=
  !s.ctxs.any fun kc => decide (kc.1 < 1000) && kc.2.life.part == p && kc.2.life.status != .empty

/-- The function-level resets that wait for a partition's banks are made once the last is empty (R419). -/
def flrDue (s : State) (p : Nat) : State :=
  if banksEmpty s p then (getPart s p).flr.foldl (fun s fn => flrReset s p fn) s else s

/-- The bank is freed with its window and tiles (R74 step 6): every register takes its reset value but SSCR0 to SSCR3
(R340), and the core runs its other bank (R79). Its accesses are performed before it is empty (R324). A function-level reset may have
waited for it (R419). -/
def freeBank (s : State) (core : Nat) (b : Bool) : State :=
  let a := AgentId.bank core b
  let s := performOwn s a
  let c := getCtx s a
  let s := clearMarks (allEngines.foldl (detachWords a) s) .reg (ctxKey a) 0 128
  let s := setCtx (dropMatrix s core b) a { Ctx.reset with trap := { TrapCsr.reset with sscr := c.trap.sscr } }
  flrDue (switchBank s core) c.life.part

/-- A stream ends (R181, R306, R309): its detached words go on by themselves (R78); its EXIT message is delivered, when there is
room; FORCED says that a CONT or a disable ended it. -/
def endStream (s : State) (n : Nat) : State :=
  let s := allEngines.foldl (detachWords (.seq n)) (performOwn s (.seq n))
  let msg := 2 ^ 63 + (if (getSeq s n).forced then 2 ^ 59 else wbits (getS (getCtx s (.seq n)) 10) 58 0)
  let s := updCtx s (.seq n) fun c => { c with life := { c.life with status := .stopped, drain := .exit } }
  hardMsg s n (BitVec.ofNat 64 msg)

/-! ### The waits of R74 -/

/-- An operation in flight that names the window or a local counter of a context (R74). -/
def holdsCtx (s : State) (a : AgentId) : Bool := s.ops.any fun ko => ko.2.owner == some (ctxKey a) && ko.2.holds

/-- Step 2 of R74: every engine queue is empty, every word that is not detached has retired, every operation that names the window
or a local counter has completed. -/
def quiet (s : State) (a : AgentId) : Bool :=
  let g := (getCtx s a).eng
  allEngines.all (fun e => (getE g e).queue.isEmpty && (getE g e).flying.all (detachable e)) && !holdsCtx s a

/-- Step 3 of R74: the carry lies in the window. -/
def carryFits (c : Ctx) : Bool := decide (wbits c.csr.carry 24 16 + wbits c.csr.carry 9 0 ≤ 16 * c.life.winUnits)

/-- The detail of SCRATCH at a suspension word (R349). -/
def carryDetail (c : Ctx) : Word := BitVec.ofNat 64 (max (1024 * wbits c.csr.carry 9 0) (16384 * c.life.winUnits))

/-- The bytes of the window from an offset on. -/
def winRead (s : State) (a : AgentId) (off n : Nat) : List Byte :=
  match a with
  | .bank c _ => mread s.mem.scratch (2 ^ 20 * c + (getCtx s a).life.winBase + off) n
  | .seq m => mread s.mem.seqScratch (2 ^ 18 * m + off) n

/-- The front end past a suspension word that does not suspend: its next issue under XREP (R145), else the next word, in a new group (R74
step 4). -/
def pastSuspension (f : Front) : Front :=
  if match f.pfx.rep with
    | some r => decide (f.issue < r.cntm1.toNat)
    | none => false
  then { f with issue := f.issue + 1, stall := .none, abort := none }
  else { Front.reset with pc := f.pc + 4 }

/-- Go on past a suspension word. -/
def afterSuspension (s : State) (a : AgentId) : State :=
  updLife (updFr s a pastSuspension) a fun l => { l with drain := .none }

/-- The record that a suspension writes (R74 step 5, R67, R369, R370), which resumes at the next word: the issues of an XREP that are
left are not made, since a record holds no issue number (DESIGN CHOICE, log 79). A withdrawal that came after step 4 sets CANCEL with
HPEND. -/
def leavingRecord (s : State) (a : AgentId) (reason : BitVec 2) : Spore :=
  let c := getCtx s a
  let d := findStage (getPart s c.life.part) c.life.inst c.life.stage
  { c.life.rcd with
    resume := c.fr.pc + 4, reason := reason, carry := BitVec.ofNat 32 c.csr.carry.toNat
    cvalid := decide (0 < wbits c.csr.carry 24 16)
    hpend := c.life.withdrawn && (match d with
      | some d => d.handler != 0
      | none => false)
    cancel := c.life.rcd.cancel || c.life.withdrawn
    prio := match d with
      | some d => if reason = 1 then BitVec.ofNat 3 d.prio else c.life.rcd.prio
      | none => c.life.rcd.prio
    arg0 := getS c 10, arg1 := getS c 11, arg2 := getS c 12, arg3 := getS c 13 }

/-- Steps 5 and 6 of R74 for a spore on a bank: the record and the carry are written to scheduler memory, the bank is freed, and the
record is accepted (R369). A record of a disabled partition is retired instead (R376). -/
def suspendSpore (s : State) (a : AgentId) (reason : BitVec 2) (st : State → ItemState) : State :=
  match a with
  | .seq _ => s
  | .bank core b =>
    let s := performOwn s a
    let c := getCtx s a
    let p := c.life.part
    let len := wbits c.csr.carry 24 16
    let rcd := leavingRecord s a reason
    let bytes := winRead s a (1024 * wbits c.csr.carry 9 0) (1024 * len)
    let item := c.life.item
    let s := freeBank s core b
    if !partOn s p then retireItem s p item
    else
      let s := clearMarks s .carry p rcd.slot.toNat 1
      let s := updPart s p fun q => { q with carries := if len = 0 then kerase q.carries rcd.slot.toNat
                                                        else kput q.carries rcd.slot.toNat bytes }
      updRecord s p item fun x => { x with st := st s, rcd := rcd, aged := s.now, place := none }

/-- EXIT retires the record (R78); on a sequencer the stream ends (R183). -/
def retireSpore (s : State) (a : AgentId) : State :=
  match a with
  | .seq n => endStream s n
  | .bank core b =>
    let l := (getCtx s a).life
    retireItem (freeBank s core b) l.part l.item

/-- YIELD tells the spore of a withdrawal (R75). -/
def markCancel (c : Ctx) : Ctx :=
  if c.life.withdrawn then
    { c with csr := { c.csr with spstat := c.csr.spstat ||| 0x400 }
             life := { c.life with rcd := { c.life.rcd with cancel := true } } }
  else c

/-- Step 2 of R74 holds: a bank leaves its broadcast groups (R225). -/
def leaveAll (s : State) (a : AgentId) : State :=
  match a with
  | .bank core b => leaveGroups s core b none
  | .seq _ => s

/-- The registers s10 to s13 and the carry's bytes of the window are read at step 5 of R74: the source of an uncorrectable error in
them, with the state after its log (R438, R440). -/
def leaveBad (s : State) (a : AgentId) : Option (Nat × State) :=
  if s.mem.errs.isEmpty then none
  else
    match a with
    | .seq _ => none
    | .bank core _ =>
      let c := getCtx s a
      if [10, 11, 12, 13].any fun r => (uncorrIn s .reg (ctxKey a) r 1).isSome then some (4, logReg s a)
      else
        (uncorrIn s .scratch core (c.life.winBase + 1024 * wbits c.csr.carry 9 0) (1024 * wbits c.csr.carry 24 16)).map fun e =>
          (3, logOwn s a 4 (8 * e.addr))

/-- The corrections in them are counted (R439). -/
def leaveCorr (s : State) (a : AgentId) : State :=
  if s.mem.errs.isEmpty then s
  else
    match a with
    | .seq _ => s
    | .bank core _ =>
      let c := getCtx s a
      countCorr (countCorr s .reg (ctxKey a) 10 4) .scratch core (c.life.winBase + 1024 * wbits c.csr.carry 9 0)
        (1024 * wbits c.csr.carry 24 16)

/-- Steps 5 and 6 of R74 at the suspension word whose step 4 is over: the record is written and accepted. An uncorrectable error in what
they read is UNCORR at that word, which does not suspend (R438, R440; DEDUCED, log 41). -/
def acceptStep (s : State) (a : AgentId) : State :=
  match leaveBad s a with
  | some (src, s) =>
    raiseCtl (updLife s a fun l => { l with withdrawn := l.withdrawn || l.rcd.cancel }) a 0x0E 0 (BitVec.ofNat 64 (src * 2 ^ 16))
  | none =>
    match (getCtx s a).life.drain with
    | .leaveYield => suspendSpore (leaveCorr s a) a 1 fun s => .ready s.now s.sch.uid
    | .leaveWait va sc val => suspendSpore (leaveCorr s a) a 2 fun _ => .waiting va sc val
    | .leaveSpawn va => suspendSpore (leaveCorr s a) a 3 fun _ => .spawnwait va
    | _ => s

/-- The word suspends (R74 step 4). What the scheduler has withdrawn until now is in the record; its acceptance is a step of its
own, taken at once while `eager` is set (R368, R369 SUSPENDING; log 3). -/
def beginLeave (s : State) (a : AgentId) (d : Drain) : State :=
  let s := updLife (stallAt s a .drain) a fun l =>
    { l with drain := d, withdrawn := false, rcd := { l.rcd with cancel := l.rcd.cancel || l.withdrawn } }
  if s.sch.eager then acceptStep s a else s

/-- The steps of R74 for a context whose control core stands at a suspension word or EXIT, once step 2 holds; until then
it stands still. -/
def drainStep (s : State) (a : AgentId) : State :=
  let c := getCtx s a
  if c.life.drain = .none ∨ c.life.status ≠ .running then s
  else if !quiet s a || trapPending c then stallAt s a .drain
  else
    let s := leaveAll s a
    match c.life.drain with
    | .none => s
    | .exit => retireSpore s a
    | .yield =>
      if !carryFits c then raiseCtl s a 8 0 (carryDetail c)
      else
        let s := updCtx s a markCancel
        if c.life.yieldReq then beginLeave s a .leaveYield else afterSuspension s a
    | .waitge va sc val =>
      if !carryFits c then raiseCtl s a 8 0 (carryDetail c)
      else
        withAccess s a va 8 8 .read fun s l =>
          let s := homeRead (ctlL2 s a l 8 false) a l 8
          if val.toNat ≤ (homeWord s l).toNat then afterSuspension (acquireAt s a l sc) a
          else beginLeave s a (.leaveWait va sc val)
    | .spawn va =>
      if !carryFits c then raiseCtl s a 8 0 (carryDetail c) else beginLeave s a (.leaveSpawn va)
    | .leaveYield | .leaveWait _ _ _ | .leaveSpawn _ => acceptStep s a

/-- Begin the steps of R74 at the current word. -/
def beginDrain (s : State) (a : AgentId) (d : Drain) : State :=
  drainStep (updLife s a fun l => { l with drain := d }) a

/-! ### The words -/

/-- YIELD (R75, R173). -/
def execYield (z : Bool) (s : State) : Host.Outcome State Fault Refusal :=
  control (.yield z) s fun s g _ => beginDrain s g .yield

/-- EXIT (R78, R173); on a sequencer it ends the stream (R183). -/
def execExit (z : Bool) (s : State) : Host.Outcome State Fault Refusal :=
  control (.exit z) s fun s g _ => beginDrain s g .exit

/-- WAITGE with LOC 0 (R76, R175): continues when the counter is large enough, otherwise the steps of R74 are taken; a
stream stalls in place (R183). Its counter reads count under CTRL = 1 (DESIGN CHOICE, log 79). -/
def execWaitge (z : Bool) (a b : BitVec 5) (sc : BitVec 3) (s : State) : Host.Outcome State Fault Refusal :=
  let i := Instr.waitge z a b sc
  control i s fun s g c =>
    let va := getS c (effReg c 2 a)
    let val := getS c (effReg c 3 b)
    if c.life.drain ≠ .none then drainStep s g
    else
      withAccess s g va 8 8 .read fun s l =>
        let s := homeRead (ctlL2 s g l 8 false) g l 8
        if val.toNat ≤ (homeWord s l).toNat then retire (acquireAt s g l sc.toNat) g i
        else if isSeq g then stallAt s g .mailbox
        else beginDrain s g (.waitge va sc.toNat val)

/-- The record that a 64-byte image gives (R174). -/
def imageSpore (bs : List Byte) (tag : BitVec 32) (prio : Nat) : Spore :=
  { Spore.reset with
    resume := BitVec.ofNat 64 (fieldAt bs 0 8 / 4 * 4), stage := BitVec.ofNat 16 (fieldAt bs 8 2), tag := tag
    prio := BitVec.ofNat 3 prio, task := BitVec.ofNat 64 (fieldAt bs 16 8)
    arg0 := BitVec.ofNat 64 (fieldAt bs 32 8), arg1 := BitVec.ofNat 64 (fieldAt bs 40 8)
    arg2 := BitVec.ofNat 64 (fieldAt bs 48 8), arg3 := BitVec.ofNat 64 (fieldAt bs 56 8) }

/-- A stage that a spore of a stage may spawn into: a compute stage that is its own or downstream of it (R174). -/
def spawnTarget (q : Part) (inst src dst : Nat) : Option StageDesc :=
  match findStage q inst src, findStage q inst dst with
  | some a, some b => if b.kind = 0 ∧ (dst = src ∨ bit a.next dst) then some b else none
  | _, _ => none

/-- SPAWN (R76, R174): enqueues the image, or takes the steps of R74 when the target queue is full. -/
def execSpawn (z : Bool) (a : BitVec 5) (m : BitVec 11) (s : State) : Host.Outcome State Fault Refusal :=
  let i := Instr.spawn z a m
  control i s fun s g c =>
    let va := getS c (effReg c 2 a) + effImm c m
    if c.life.drain ≠ .none then drainStep s g
    else
      withRead s g va 64 64 fun s bs =>
        let p := c.life.part
        let dst := fieldAt bs 8 2
        match spawnTarget (getPart s p) c.life.inst c.life.stage dst with
        | none => raiseCtl s g 9 0 (BitVec.ofNat 64 dst)
        | some d =>
          if queueRoom (getPart s p) c.life.inst dst then
            retire (addItem s p c.life.inst dst (imageSpore bs c.life.rcd.tag d.prio) .queued none) g i
          else beginDrain s g (.spawn va)

/-- SUSPEND: the steps of R74 at YIELD, WAITGE or SPAWN, once step 2 holds. -/
def execSuspend (a : AgentId) (s : State) : Host.Outcome State Fault Refusal :=
  let d := (getCtx s a).life.drain
  .next (if d ≠ .none ∧ d ≠ .exit ∧ quiet s a ∧ !trapPending (getCtx s a) then drainStep s a else s)

/-- A double trap ends (R347): the trap-ring entry of KIND 1, and the record is retired. -/
def retireHalted (s : State) (a : AgentId) : State :=
  match a with
  | .seq _ => s
  | .bank core b =>
    let l := (getCtx s a).life
    let s := match l.halt with
      | some rcd => appendTrapRing s l.part rcd
      | none => s
    retireItem (freeBank s core b) l.part l.item

/-- Every started word of a halting bank that is left waits for a queue, a partner or a member that only discarded words would have
served: it never completes (R347; DESIGN CHOICE, log 80). -/
def haltStuck (s : State) (a : AgentId) : Bool :=
  let g := (getCtx s a).eng
  allEngines.all (fun e => (getE g e).flying.all fun f => detachable e f
    || (f.fin.isNone && (f.hold == .queue || f.hold == .partner || f.hold == .member))) && !holdsCtx s a

/-- EXIT_RETIRE: an EXIT whose waits are over retires the record or ends the stream (R78, R183), unless a trap is to be taken first
(R343); so does a double trap (R347). -/
def execExitRetire (a : AgentId) (s : State) : Host.Outcome State Fault Refusal :=
  let l := (getCtx s a).life
  .next (if l.status = .running ∧ l.drain = .exit ∧ quiet s a ∧ !trapPending (getCtx s a) then retireSpore (leaveAll s a) a
    else if l.status = .halting ∧ (quiet s a ∨ haltStuck s a) then retireHalted s a
    else s)

end Sys2Proof.Machine
end

