-- ==== Sys2Proof/Machine/Streams.lean ====
section
/-! DEFINITION. Stack-engine streams: FORK, the mailbox words, CONT (R180 to R182, R306 to R309), and the stop and the end of
a stream. -/

namespace Sys2Proof.Machine

/-- The handle of a stream (R180). -/
def streamHandle (gen : BitVec 32) (n : Nat) : Word := BitVec.ofNat 64 (gen.toNat * 2 ^ 32 + 2 ^ 15 + n % 32)

/-- The sequencer a handle names. -/
def handleSeq (h : Word) : Nat := wbits h 4 0

/-- A handle is stale (R181): VALID is 0 or GEN differs; a handle of a sequencer that the partition does not hold is taken
as stale too (R355). -/
def staleHandle (s : State) (p : Nat) (h : Word) : Bool :=
  !bit h.toNat 15 || wbits h 63 32 != (getSeq s (handleSeq h)).gen.toNat || !bit (preg s p 0x020).toNat (handleSeq h)

/-- The sequencer holds no stream: a handle that is not stale is then an ended one (R181). -/
def seqFree (s : State) (n : Nat) : Bool := (getCtx s (.seq n)).life.status == .empty

/-- FORK starts a stream (R180, R306, R310): user mode, every register 0 but s9 and s10. What the forking spore did before is before
its first word (R324): its data cache holds nothing old. -/
def startStream (s : State) (n p asid : Nat) (pc arg : Word) (forker : Option Nat) : State :=
  let gen := (getSeq s n).gen + 1
  let h := streamHandle gen n
  let s := setSeq s n { SeqSt.reset with gen := gen, forker := forker }
  let c := { Ctx.reset with
    life := { Life.reset with status := .running, part := p, asid := asid, winUnits := 16 }
    fr := { Front.reset with pc := pc }
    csr := { UCsr.reset with sqid := h } }
  acquire (setCtx s (.seq n) (setS (setS c 9 h) 10 arg)) (.seq n) 3

/-- A stopped stream is ended by CONT or by a disable (R309, R377): words not started are discarded, and it ends as by EXIT
with FORCED. -/
def forceEnd (s : State) (n : Nat) : State :=
  let s := setSeq s n { getSeq s n with forced := true, skip := false }
  updCtx s (.seq n) fun c =>
    { c with eng := dropQueues c.eng, life := { c.life with status := .running, drain := .exit } }

/-- FORK (R180): its checks in order; it never stalls. A stream of a partition that is being disabled ends as the others do
(R377). -/
def execFork (z : Bool) (d a b : BitVec 5) (k : BitVec 3) (q : BitVec 2) (s : State) : Host.Outcome State Fault Refusal :=
  let i := Instr.fork z d a b k q
  control i s fun s g c =>
    let pc := getS c (effReg c 2 a)
    let n := 4 * k.toNat + q.toNat
    if pc.toNat % 4 ≠ 0 then raiseCtl s g 5 pc 0
    else if 2 ^ 48 ≤ pc.toNat then raiseCtl s g 6 pc 0
    else if !bit (preg s c.life.part 0x020).toNat n then raiseCtl s g 6 0 0
    else if !seqFree s n || !(getSeq s n).up.isEmpty then retire (writeS s g (effReg c 1 d) 0) g i
    else
      let s := startStream s n c.life.part c.life.asid pc (getS c (effReg c 3 b)) (some (ctxKey g))
      let s := if partOn s c.life.part then s else forceEnd s n
      retire (writeS s g (effReg c 1 d) (getCtx s (.seq n)).csr.sqid) g i

/-- MSEND (R181): to the downward mailbox of a handle on a core, to its own upward mailbox on a sequencer; it stalls while
the mailbox is full. -/
def execMsend (z : Bool) (a b : BitVec 5) (s : State) : Host.Outcome State Fault Refusal :=
  let i := Instr.msend z a b
  control i s fun s g c =>
    let h := getS c (effReg c 2 a)
    let msg := BitVec.ofNat 64 ((getS c (effReg c 3 b)).toNat % 2 ^ 63)
    match g with
    | .bank _ _ =>
      let n := handleSeq h
      if staleHandle s c.life.part h || seqFree s n then raiseCtl s g 6 0 0
      else
        let q := getSeq s n
        if 8 ≤ q.down.length then stallAt s g .mailbox
        else retire (setSeq s n { q with down := q.down ++ [msg] }) g i
    | .seq n =>
      if h ≠ c.csr.sqid then raiseCtl s g 6 0 0
      else if 8 ≤ (getSeq s n).up.length then stallAt s g .mailbox
      else retire (appendUp s n msg) g i

/-- MRECV (R181): from the upward mailbox of a handle on a core, from its own downward mailbox on a sequencer; it stalls
while the mailbox is empty. Removing a message is an acquire at device scope (R317, R324). -/
def execMrecv (z : Bool) (d a : BitVec 5) (s : State) : Host.Outcome State Fault Refusal :=
  let i := Instr.mrecv z d a
  control i s fun s g c =>
    let h := getS c (effReg c 2 a)
    match g with
    | .bank _ _ =>
      let n := handleSeq h
      if staleHandle s c.life.part h then raiseCtl s g 6 0 0
      else
        match (getSeq s n).up with
        | [] => if seqFree s n then raiseCtl s g 6 0 0 else stallAt s g .mailbox
        | x :: r =>
          let s := deliverUp (setSeq s n { getSeq s n with up := r }) n
          retire (writeS (acquire s g 3) g (effReg c 1 d) x) g i
    | .seq n =>
      if h ≠ c.csr.sqid then raiseCtl s g 6 0 0
      else
        match (getSeq s n).down with
        | [] => stallAt s g .mailbox
        | x :: r => retire (writeS (acquire (setSeq s n { getSeq s n with down := r }) g 3) g (effReg c 1 d) x) g i

/-- Every held word of a context is discarded. -/
def dropHeld (g : Engines) : Engines := { allEngines.foldl (fun g e => setE g e (releaseHeld (getE g e) true)) g with
  barrier := none }

/-- A word as routing captures it now, with the prefixes it was routed with (R23, R309). -/
def captureAgain (c : Ctx) (fronts : List (Nat × Front)) (w : QWord) : QWord :=
  match kfind fronts w.uid with
  | some f => { w with cap := captureOf { c with fr := f } w.ins (rawOf w.ins) }
  | none => w

/-- The word that a stop holds at an engine is routed again, with the registers it reads as they stand (R309): it is back at the head
of its queue, and has back the tokens that its start popped. Words routed after it keep their places, so that none is routed twice
(DEDUCED, log 88). -/
def routeAgain (fronts : List (Nat × Front)) (c : Ctx) (e : Engine) : Ctx :=
  let x := getE c.eng e
  match x.held with
  | none => c
  | some t =>
    let step := fun (w : QWord) (c : Ctx) =>
      if takesStep { c with fr := (kfind fronts w.uid).getD c.fr } (rawOf w.ins) then
        { c with csr := { c.csr with rstep := c.csr.rstep + 1 } }
      else c
    if x.heldFlying then
      match x.flying.find? fun f => f.w.uid == t.uid with
      | some f =>
        let g := (popsOf true e f.w).foldl (fun g k => addTok g k true) c.eng
        step f.w { c with eng := setE g e { clearHead x with
          held := none, heldFlying := false, flying := x.flying.filter fun y => y.w.uid != t.uid
          queue := captureAgain c fronts f.w :: x.queue } }
      | none => c
    else
      match x.queue with
      | w :: r => step w { c with eng := setE c.eng e { clearHead x with held := none, queue := captureAgain c fronts w :: r } }
      | [] => c

/-- A stopped stream resumes (R309): with SKIP 0 the stopped word is routed again with its registers as they stand; with
SKIP 1 it has no effect, nor have the issues of it that are left. An error that an L word has met meanwhile is reported at the next
word boundary (R307); the issuer's accesses are before the words resumed (R324). -/
def resumeStream (s : State) (n : Nat) (skip : Bool) : State :=
  let a := AgentId.seq n
  let q := getSeq s n
  let held := allEngines.filterMap fun e => (getE (getCtx s a).eng e).held
  let s := updCtx (acquire s a 3) a fun c =>
    let c := if skip then c else allEngines.foldl (routeAgain q.fronts) c
    { c with eng := dropHeld c.eng, life := { c.life with status := .running } }
  let fr := (getCtx s a).fr
  setSeq s n { getSeq s n with
    skip := skip && (held.isEmpty || (decide (0 < fr.issue) && held.any fun t => t.pc == curPc (getCtx s a)))
    stopPc := 0, stopCause := 0 }

/-- CONT (R182, R309): resumes or ends a stopped stream; no effect on one that is not stopped. -/
def execCont (z : Bool) (a : BitVec 5) (m : BitVec 11) (s : State) : Host.Outcome State Fault Refusal :=
  let i := Instr.cont z a m
  control i s fun s g c =>
    withRead s g (getS c (effReg c 2 a) + effImm c m) 16 16 fun s bs =>
      let h := BitVec.ofNat 64 (fieldAt bs 0 8)
      let n := handleSeq h
      let flags := fieldAt bs 8 1
      if staleHandle s c.life.part h then raiseCtl s g 6 0 0
      else
        let l := (getCtx s (.seq n)).life
        if l.status ≠ .stopped ∨ l.drain = .exit then retire s g i
        else if bit flags 1 then retire (forceEnd s n) g i
        else retire (resumeStream s n (bit flags 0)) g i

/-- STREAM_STOP: an uncorrectable error of an L word stops the stream at its next word boundary (R307), once the word that a CONT skips
has been passed (R182); a STOP message that
waits for room is delivered (R181). -/
def execStreamStop (n : Nat) (s : State) : Host.Outcome State Fault Refusal :=
  let a := AgentId.seq n
  let c := getCtx s a
  let q := getSeq s n
  .next (match q.uncorr with
    | some (va, pa) =>
      if c.life.status = .running ∧ c.life.drain = .none ∧ !q.skip then
        stopMem (setSeq s n { q with uncorr := none }) n (BitVec.ofNat 64 va) pa
      else s
    | none => deliverUp s n)

/-- STREAM_EXIT: a stream at EXIT whose waits are over ends with its EXIT message (R306), which waits for room (R181). -/
def execStreamExit (n : Nat) (s : State) : Host.Outcome State Fault Refusal :=
  let a := AgentId.seq n
  let l := (getCtx s a).life
  .next (if l.status = .running ∧ l.drain = .exit ∧ quiet s a then endStream s n else deliverUp s n)

end Sys2Proof.Machine
end

