-- ==== Sys2Proof/Machine/System.lean ====
section
/-! DEFINITION. The system words: ECALL, EBREAK and ERET (R188, R190, R345), WFE and SEV (R189), TLBINV (R387), with
TRAP_ENTRY, WFE_TIMEOUT and TLB_INVAL_DONE. -/

namespace Sys2Proof.Machine

/-- ECALL takes its trap with the code in the detail word and returns after the word (R188). -/
def execEcall (z : Bool) (k : BitVec 11) (s : State) : Host.Outcome State Fault Refusal :=
  control (.ecall z k) s fun s g c => raiseCall s g 0x0C (BitVec.ofNat 64 (effNum c k))

/-- EBREAK (R188). -/
def execEbreak (z : Bool) (k : BitVec 11) (s : State) : Host.Outcome State Fault Refusal :=
  control (.ebreak z k) s fun s g c => raiseCall s g 0x0D (BitVec.ofNat 64 (effNum c k))

/-- ERET (R345): the return from a trap; with TRET.EXIT the spore runs EXIT. -/
def execEret (z : Bool) (s : State) : Host.Outcome State Fault Refusal :=
  control (.eret z) s fun s g c =>
    let s := trapReturn s g
    if bit c.trap.tret.toNat 8 then beginDrain s g .exit else s

/-- The event flag of a context, which WFE tests: on a sequencer a message in the downward mailbox (R183, R189). -/
def eventSet (s : State) (a : AgentId) : Bool :=
  match a with
  | .bank _ _ => (getCtx s a).eng.event
  | .seq n => !(getSeq s n).down.isEmpty

/-- Clear the event flag. -/
def clearEvent (s : State) (a : AgentId) : State := updCtx s a fun c => { c with eng := { c.eng with event := false } }

/-- WFE clears a set flag and goes on, otherwise it waits (R189). -/
def execWfe (z : Bool) (s : State) : Host.Outcome State Fault Refusal :=
  control (.wfe z) s fun s g _ =>
    if eventSet s g then retire (clearEvent s g) g (.wfe z) else stallAt s g .wfe

/-- WFE_TIMEOUT: 4,096 clk have passed at a WFE; it clears the flag and goes on (R183, R189). -/
def execWfeTimeout (a : AgentId) (s : State) : Host.Outcome State Fault Refusal :=
  let c := getCtx s a
  .next (if c.life.status = .running ∧ c.fr.stall = .wfe then retire (clearEvent s a) a (.wfe true) else s)

/-- SEV sets the event flag of every bank of the same cluster and partition (R189). -/
def execSev (z : Bool) (s : State) : Host.Outcome State Fault Refusal :=
  control (.sev z) s fun s g c =>
    let cl := coreCluster (agentCore g)
    let s := { s with ctxs := s.ctxs.map fun kc =>
      if kc.1 < 1000 ∧ coreCluster (kc.1 / 2) = cl ∧ kc.2.life.part = c.life.part ∧ kc.2.life.status ≠ .empty then
        (kc.1, { kc.2 with eng := { kc.2.eng with event := true } })
      else kc }
    retire s g (.sev z)

/-- TLBINV (R387): an identifier outside the partition's raises ACCESS; otherwise the invalidation is issued and the word
goes on. -/
def execTlbinv (z : Bool) (d a b : BitVec 5) (n : BitVec 4) (s : State) : Host.Outcome State Fault Refusal :=
  let i := Instr.tlbinv z d a b n
  control i s fun s g c =>
    let id := (getS c (effReg c 1 d)).toNat
    if 512 ≤ id ∨ !asidOk s c.life.part id then raiseCtl s g 6 0 0
    else
      let o : Op := ⟨some (ctxKey g), .q, c.life.part, id, c.life.rcd.tag, .loc n.toNat, 3, 0, true, false, false,
        .inval (getS c (effReg c 2 a)).toNat (getS c (effReg c 3 b)).toNat id false⟩
      retire (addOp s o).2 g i

/-- TLB_INVAL_DONE: every cache drops the entries, the stores translated before are performed, and the counter of TLBINV or TIDONE
takes its add (R387, R388). A host invalidation that waits behind it starts. -/
def execTlbInvalDone (op : Nat) (s : State) : Host.Outcome State Fault Refusal :=
  .next (match kfind s.ops op with
    | some o =>
      match o.body with
      | .inval base len asid host =>
        let s := performAll (dropOp (if asidOk s o.part asid then tlbDrop s asid base len else s) op)
        if host then
          let s := setPreg s o.part 0x258 (BitVec.ofNat 64 (((preg s o.part 0x258).toNat + 1) % 2 ^ 32))
          match (getPart s o.part).invals with
          | [] => s
          | (b, n, i) :: r =>
            (addOp (updPart s o.part fun q => { q with invals := r })
              { o with asid := i, body := .inval b n i true }).2
        else addCtr s o.owner sysTlb o.part o.asid o.ctr 1
      | _ => s
    | none => s)

/-- TRAP_ENTRY: at a user-mode word boundary the control core takes the engine trap that waits, that of the word routed
first (R343, R344, R346). -/
def execTrapEntry (a : AgentId) (s : State) : Host.Outcome State Fault Refusal :=
  let c := getCtx s a
  .next (if c.life.status = .running ∧ !isSeq a ∧ !c.trap.smode ∧ trapPending c then takeEngineTrap s a else s)

end Sys2Proof.Machine
end

