-- ==== Sys2Proof/Machine/EngRun.lean ====
section
/-! DEFINITION. How an engine runs a word (R87, R88, R257 to R260): a word's meaning is a short program over the accesses
below. Each access keeps its result, so that a word held at an access goes on from it and makes none twice (R260,
R397). Checks at the queue head come before `begin`; from there on the word has started (R343). -/

namespace Sys2Proof.Machine

/-- Why a word stands still: it waits; it waits at the queue head for a broadcast read of `n` bytes, which a member would
take from `ring`, with some other member frozen or none (R229, R243); its translation is invalid on some pages (with the
kind of access); it traps. -/
inductive Stop where
  | wait (h : Hold)
  | read (ring n : Nat) (frozen : Bool)
  | fault (pages : List Nat) (acc : Nat)
  | trap (cause : Nat) (va det : Word)
  deriving DecidableEq, Repr

/-- A word being run: who runs it, the results of accesses it made before it was held (`replay`), those of this run
(`log`, latest first), whether it has started, whether its next access is to fail (R394, R430), the lines of device DRAM
it touched before it was held, those of this run, latest first, with the mark and whether they were written, the ring slots
it has reserved, and whether only its queue-head checks are made now (R307): of a word that may start, or of one that may not yet. -/
structure ERun where
  s : State
  a : AgentId
  e : Engine
  w : QWord
  replay : List (List Byte)
  log : List (List Byte)
  begun : Bool
  abort : Option Bool
  lines : List Nat
  touch : List (Nat × Nat × Bool)
  /-- What the word has reserved of its rings since it started (R116). -/
  owes : RingOwe × RingOwe × RingOwe
  head : Option Bool

/-- A program of an engine word. -/
abbrev EM (α : Type) := ExceptT Stop (StateM ERun) α

/-- What a word that has done its effects leaves for its completion: its finish, or what it still waits for, the rings it
owes, and the operation it started. -/
structure EDone where
  fin : Option Finish
  hold : Hold
  r1 : RingOwe
  r2 : RingOwe
  r3 : RingOwe
  op : Option Nat
  deriving DecidableEq, Repr

/-- The finish of a word without flags, reply, or add. -/
def Finish.plain : Finish := ⟨[], 0, false, none, none⟩

/-- A word that leaves nothing but its completion. -/
def EDone.plain : EDone := ⟨some Finish.plain, .none, .none, .none, .none, none⟩

/-- A word that leaves a finish and owes no ring. -/
def EDone.of (f : Finish) : EDone := { EDone.plain with fin := some f }

/-- A word that adds to its counter at its completion (R258). -/
def EDone.adds : EDone := EDone.of { Finish.plain with add := true }

/-- A word that appends one reply entry. -/
def EDone.reply (x : Nat) : EDone := EDone.of { Finish.plain with replies := [BitVec.ofNat 64 x] }

/-! ### The window and the rings -/

/-- Bytes of the window of a context (R72, R111, R306). -/
def winBytes (c : Ctx) : Nat := 16384 * c.life.winUnits

/-- The scratchpad a context uses: the kind of its memory, its unit for error marks, and the place of offset 0 within the
unit. -/
def padOf (s : State) (a : AgentId) : ErrSpace × Nat × Nat :=
  match a with
  | .bank c _ => (.scratch, c, (getCtx s a).life.winBase)
  | .seq n => (.seqScratch, n, 0)

/-- Bytes of the scratchpad at an offset of the window. -/
def padRead (s : State) (a : AgentId) (off n : Nat) : List Byte :=
  match a with
  | .bank c _ => mread s.mem.scratch (2 ^ 20 * c + (getCtx s a).life.winBase + off) n
  | .seq m => mread s.mem.seqScratch (2 ^ 18 * m + off) n

/-- Write bytes of the scratchpad at an offset of the window; whole granules take fresh check bits (R440). -/
def padWrite (s : State) (a : AgentId) (off : Nat) (bs : List Byte) : State :=
  let (sp, u, base) := padOf s a
  let s := if s.mem.errs.isEmpty then s else clearMarks s sp u (base + off) bs.length
  match a with
  | .bank c _ => { s with mem := { s.mem with
      scratch := mwrite s.mem.scratch (2 ^ 20 * c + base + off) bs } }
  | .seq m => { s with mem := { s.mem with seqScratch := mwrite s.mem.seqScratch (2 ^ 18 * m + off) bs } }

/-- Slots of a ring (R114). -/
def ringN (r : Ring) : Nat := wbits r.cfg 59 48 + 1

/-- Bytes of a slot (R114). -/
def ringS (r : Ring) : Nat := 32 * (wbits r.cfg 46 32 + 1)

/-- Offset of slot 0 (R114). -/
def ringBase (r : Ring) : Nat := 32 * wbits r.cfg 19 5

/-- The ring is enabled and lies in the window (R117). -/
def ringUsable (c : Ctx) (n : Nat) : Bool :=
  let r := getRing c n
  wbits r.cfg 63 63 == 1 && decide (ringBase r + ringN r * ringS r ≤ winBytes c)

/-- What a started word owes its rings. -/
def flightOwes (f : Flight) : List RingOwe := [f.ring1, f.ring2, f.ring3]

/-- Slots of a ring that started, uncompleted words have reserved: commits (CR) and pops (PR) of R116. -/
def ringOwed (g : Engines) (n : Nat) : Nat × Nat :=
  let os := ((allEngines.map fun e => (getE g e).flying.map flightOwes).flatten).flatten
  os.foldl (fun x o =>
    match o with
    | .none => x
    | .commit r k => if r = n then (x.1 + k, x.2) else x
    | .pop r k => if r = n then (x.1, x.2 + k) else x) (0, 0)

/-- Committed slots that no started word has reserved: COUNT − PR (R116). -/
def ringFree (c : Ctx) (n : Nat) : Nat := (getRing c n).count - (ringOwed c.eng n).2

/-- The offset runs of `n` bytes of a ring from a slot on (R227): at most as many as the ring is passed. -/
def ringRuns (r : Ring) : Nat → Nat → Nat → List (Nat × Nat)
  | 0, _, _ => []
  | _ + 1, _, 0 => []
  | fuel + 1, b, n =>
    let size := ringN r * ringS r
    let k := min n (size - b % size)
    (ringBase r + b % size, k) :: ringRuns r fuel (b + k) (n - k)

/-! ### Stepping -/

/-- Stop. -/
def halt {α : Type} (x : Stop) : EM α := throw x

/-- An access: its result is taken from the replay, or it is made now. -/
def access (f : ERun → Except Stop (List Byte) × ERun) : EM (List Byte) := ExceptT.mk fun r =>
  match r.replay with
  | x :: rest => (.ok x, { r with replay := rest, log := x :: r.log })
  | [] =>
    match f r with
    | (.ok x, r) => (.ok x, { r with log := x :: r.log })
    | (.error e, r) => (.error e, r)

/-- Look at the machine. -/
def look {α : Type} (f : State → AgentId → Ctx → α) : EM α := do
  let r ← get
  pure (f r.s r.a (getCtx r.s r.a))

/-- The captured values of the word. -/
def capture : EM Capture := do
  let r ← get
  pure r.w.cap

/-- Change the machine, once. -/
def eff (f : State → AgentId → State) : EM Unit := do
  let _ ← access fun r => (.ok [], { r with s := f r.s r.a })

/-- A check at the queue head (R259): it is not made again once the word has started. -/
def check (bad : Bool) (cause : Nat) (va det : Word) : EM Unit := do
  let r ← get
  if bad && !r.begun then halt (.trap cause va det)

/-- FORMAT at the queue head; the detail is the word (R349). -/
def chkFormat (bad : Bool) : EM Unit := do
  let r ← get
  check bad 0x10 0 (r.w.raw.zeroExtend 64)

/-- ILLOP at the queue head (R72, R104). -/
def chkIllop (bad : Bool) : EM Unit := do
  let r ← get
  check bad 1 0 (r.w.raw.zeroExtend 64)

/-- MISALIGN of an address or an offset at the queue head (R259). -/
def chkAlign (x unit : Nat) : EM Unit := check (x % unit != 0) 5 (BitVec.ofNat 64 x) 0

/-- MISALIGN of a scratchpad offset, a length or a count, which names no memory address (R259, R349). -/
def chkMul (x unit : Nat) : EM Unit := check (x % unit != 0) 5 0 0

/-- MISALIGN of a memory counter (R93). -/
def chkCtr : EM Unit := do
  let r ← get
  if hasMc (rawOf r.w.ins) then chkAlign r.w.cap.sm.toNat 8

/-- The first offset of a range that lies outside a window (R349). -/
def outside (win off n : Nat) : Option Nat :=
  if n = 0 ∨ off + n ≤ win then none else some (if off < win then win else off)

/-- SCRATCH of a range at the queue head (R111, R259). -/
def chkScratch (off n : Nat) : EM Unit := do
  let win ← look fun _ _ c => winBytes c
  match outside win off n with
  | some x => check true 8 0 (BitVec.ofNat 64 x)
  | none => pure ()

/-- RING of a ring at the queue head (R117). -/
def chkRing (bad : Bool) (n : Nat) : EM Unit := check bad 0x11 0 (BitVec.ofNat 64 n)

/-- The ring is usable, or RING (R117). -/
def chkUsable (n : Nat) : EM Unit := do
  let ok ← look fun _ _ c => ringUsable c n
  chkRing (!ok) n

/-- A wait before the start: it is over once the word has started. -/
def waitStart (ready : Bool) (h : Hold) : EM Unit := do
  let r ← get
  if !ready && !r.begun then halt (.wait h)

/-- A wait of a started word between its accesses: an access of its own, so that it is over once and for all. -/
def waitHere (ready : State → AgentId → Ctx → Bool) (h : Hold) : EM Unit := do
  let _ ← access fun r => if ready r.s r.a (getCtx r.s r.a) then (.ok [], r) else (.error (.wait h), r)

/-- The word starts; where only the queue-head checks are made, it has passed them. -/
def begin_ : EM Unit := do
  let r ← get
  if r.head.isSome then halt (.wait .none)
  modify fun r => { r with begun := true }

/-- The checks from here on look at what earlier words leave, which the word's tokens order: before the word may start they are not made
(R88, R117; DEDUCED, log 79). -/
def atStart : EM Unit := do
  let r ← get
  if r.head = some false then halt (.wait .accept)

/-- The word reserves slots of its rings, which count from then on though it is held (R116). -/
def reserve (r1 r2 r3 : RingOwe) : EM Unit := modify fun r => { r with owes := (r1, r2, r3) }

/-- What a look at the machine shows, kept like the result of an access: a word that is held sees the same again. -/
def lookOnce (f : State → AgentId → Ctx → Nat) : EM Nat := do
  let bs ← access fun r => (.ok (leList 8 (f r.s r.a (getCtx r.s r.a))), r)
  pure (leVal bs)

/-! ### Scratchpad accesses -/

/-- Report an uncorrectable scratchpad error (R440): logged, and UNCORR with source 3. -/
def badPad (r : ERun) (off n : Nat) : Option ERun :=
  let (sp, u, base) := padOf r.s r.a
  match uncorrIn r.s sp u (base + off) n with
  | none => none
  | some m =>
    let (core, b, unit) := match r.a with
      | .bank c b => (c, b2n b, 0)
      | .seq n => (0, 0, n)
    some { r with s := logUncorr r.s 4 (some (getCtx r.s r.a).life.part) core b unit 0xFF (m.addr * 8) }

/-- Read the scratchpad at an offset of the window. -/
def readPad (off n : Nat) : EM (List Byte) := access fun r =>
  match badPad r off n with
  | some r => (.error (.trap 0x0E 0 (3 * 2 ^ 16)), r)
  | none =>
    let (sp, u, base) := padOf r.s r.a
    (.ok (padRead r.s r.a off n), { r with s := countCorr r.s sp u (base + off) n })

/-- Write the scratchpad at an offset of the window. -/
def writePad (off : Nat) (bs : List Byte) : EM Unit := eff fun s a => padWrite s a off bs

/-- Read a run of a ring from a slot on (R227). -/
def readRing (n slot bytes : Nat) : EM (List Byte) := do
  let r ← look fun _ _ c => getRing c n
  let runs := ringRuns r (bytes / (ringN r * ringS r) + 2) (slot * ringS r) bytes
  let parts ← runs.mapM fun x => readPad x.1 x.2
  pure parts.flatten

/-! ### Memory accesses -/

/-- Translate every piece of a range for an engine word: the places, the invalid pages, whether a page forbids the access,
whether a peer does not answer, and the state the translations leave. A range of two pages has both translated together; a longer one is
reached page by page, up to the first page that fails (R389). -/
def engPieces (s : State) (a : AgentId) (e : Engine) (kind : AccKind) (long : Bool) :
    List (Nat × Nat) → List (Loc × Nat) × List Nat × Bool × Bool × State
  | [] => ([], [], false, false, s)
  | (va, n) :: r =>
    let c := getCtx s a
    let (x, s) := xlate s (engineTlb a (chainPos e)) c.life.part c.life.asid va kind true
    let (ls, bad, forb, sil, s) := match x with
      | .ok _ => engPieces s a e kind long r
      | _ => if long then ([], [], false, false, s) else engPieces s a e kind long r
    match x with
    | .ok l => ((l, n) :: ls, bad, forb, sil, s)
    | .invalid => (ls, va / 4096 :: bad, forb, sil, s)
    | .forbid => (ls, bad, true, sil, s)
    | .silent _ => (ls, bad, forb, true, s)

/-- A line touched by a run: once, and written when one of its accesses wrote it. -/
def addTouch (t : List (Nat × Nat × Bool)) (pa mark : Nat) (write : Bool) : List (Nat × Nat × Bool) :=
  if t.any fun x => x.1 == pa then t.map fun x => if x.1 = pa then (pa, x.2.1, x.2.2 || write) else x
  else (pa, mark, write) :: t

/-- The lines of device DRAM that an access touches: the L2 sees them when the run ends (`settleL2`). -/
def engL2 (mark : Nat) (write : Bool) (ls : List (Loc × Nat)) (t : List (Nat × Nat × Bool)) : List (Nat × Nat × Bool) :=
  ls.foldl (fun t x =>
    if x.1.typ ≠ 0 then t
    else (linesOf x.1.pa x.2).foldl (fun t pa => addTouch t pa (hintMark mark x.1.ef) write) t) t

/-- The L2 side of one line of a word: one access, counted for L, S and T words (R125, R126); a line that the word had
touched before it was held is not accessed again, but a write of it judges its class again (R124). -/
def settleLine (a : AgentId) (e : Engine) (lines : List Nat) (s : State) (x : Nat × Nat × Bool) : State :=
  let part := some (getCtx s a).life.part
  if lines.contains x.1 then
    if x.2.2 && (l2Class s x.1).isSome then l2Hit s part x.1 x.2.1 true else s
  else
    let s := if e = .l ∨ e = .s ∨ e = .t then setCtx s a (countL2 (getCtx s a) (l2Counts s x.1 1)) else s
    l2Access s part x.1 x.2.1 x.2.2 false

/-- The L2 side of a run: every line once, in the order of the first accesses (R126). -/
def settleL2 (r : ERun) : ERun :=
  { r with
    s := r.touch.reverse.foldl (settleLine r.a r.e r.lines) r.s
    lines := r.lines ++ (r.touch.map (·.1)).filter fun pa => !r.lines.contains pa
    touch := [] }

/-- The core's own writes drop the data-cache lines they touch (R122). -/
def engInval (s : State) (a : AgentId) : List (Loc × Nat) → State
  | [] => s
  | (l, n) :: r => engInval (dcInval s a l n) a r

/-- The first place whose bytes hold an uncorrectable error. -/
def firstBad (s : State) (ls : List (Loc × Nat)) : Option (Loc × Nat × ErrMark) :=
  ls.findSome? fun x => (locBad s x.1 x.2).map fun m => (x.1, x.2, m)

/-- Bytes of a read in which every 32-byte unit that holds an uncorrectable error reads as 0 (R307). -/
def zeroBad (s : State) (l : Loc) (bs : List Byte) : List Byte :=
  bs.zipIdx.map fun x => if (locBad s { l with pa := (l.pa + x.2) / 32 * 32 } 32).isSome then 0 else x.1

/-- The bytes of places, with the errors of R307 zeroed. -/
def readsZeroed (s : State) : List (Loc × Nat) → List Byte
  | [] => []
  | (l, n) :: r => zeroBad s l (locRead s l n) ++ readsZeroed s r

/-- The virtual address of the first uncorrectable error in the places of a range at `va`, with its physical address (R308). -/
def firstBadAt (s : State) (va : Nat) : List (Loc × Nat) → Option (Nat × Nat)
  | [] => none
  | (l, n) :: r =>
    match locBad s l n with
    | some m => some (va + ((memErrAt m).2.2 - l.pa), (memErrAt m).2.2)
    | none => firstBadAt s (va + n) r

/-- An access of memory by a started word (R260): `off` is the byte offset reached, which the trap record gives. -/
def memAccess (va n off : Nat) (kind : AccKind) (go : ERun → List (Loc × Nat) → Except Stop (List Byte) × ERun) :
    EM (List Byte) := access fun r =>
  if n = 0 then (.ok [], r)
  else if 2 ^ 48 < va + n then (.error (.trap 6 (BitVec.ofNat 64 va) (BitVec.ofNat 64 off)), r)
  else if r.abort.isSome then
    let s := if r.abort = some true then peerOnly r.s fun s =>
        let x := engPieces s r.a r.e kind false (pagePieces va (pieceFuel n) n)
        (go { r with s := x.2.2.2.2 } x.1).2.s
      else r.s
    (.error (.trap 6 (BitVec.ofNat 64 va) (BitVec.ofNat 64 off)), { r with s := s, abort := none })
  else
    let ps := pagePieces va (pieceFuel n) n
    let (ls, bad, forb, sil, s) := engPieces r.s r.a r.e kind (decide (2 < ps.length)) ps
    let r := { r with s := s }
    if !bad.isEmpty then (.error (.fault bad (accBits kind)), r)
    else if forb then (.error (.trap 6 (BitVec.ofNat 64 va) (BitVec.ofNat 64 off)), r)
    else if sil then (.error (.wait .laben), r)
    else go r ls

/-- Read memory. An uncorrectable error traps the word (R440); in data that an L word of a stream reads it is zeroed and
reported later (R307). Either way the L2 sees the access (R123). -/
def readMem (va n off mark : Nat) : EM (List Byte) := memAccess va n off .read fun r ls =>
  let r := { r with touch := engL2 mark false ls r.touch }
  match firstBad r.s ls with
  | none => (.ok (piecesRead r.s ls), { r with s := tookBytes r.s (some (ctxKey r.a)) ls })
  | some (l, k, _) =>
    let s := logDram r.s r.a l k
    match r.a, r.e with
    | .seq q, .l =>
      let s := setSeq s q { getSeq s q with uncorr := (getSeq s q).uncorr.or (firstBadAt s va ls) }
      (.ok (readsZeroed s ls), { r with s := s })
    | _, _ => (.error (.trap 0x0E (BitVec.ofNat 64 va) (2 * 2 ^ 16)), { r with s := s })

/-- Write memory. -/
def writeMem (va : Nat) (bs : List Byte) (off mark : Nat) : EM Unit := do
  let _ ← memAccess va bs.length off .write fun r ls =>
    (.ok [], { r with s := engInval (piecesWrite r.s ls bs) r.a ls, touch := engL2 mark true ls r.touch })

/-- A probe of every page of a range at the head of a queue (R288, R307): nothing is read or written. -/
def probeMem (va n : Nat) (kind : AccKind) : EM Unit := do
  let _ ← memAccess va n 0 kind fun r _ => (.ok [], r)

/-- A stream probes every page of a word's memory ranges at the queue head (R307); the probe is not made again. -/
def probeSeq (va n : Nat) (kind : AccKind) : EM Unit := do
  let r ← get
  if isSeq r.a then probeMem va n kind

/-- A stream probes the pages of the range of an LPREF, LHINT or SFLUSH too: an invalid translation is reported and waited for (R307);
a page that fails otherwise, or whose fault is answered ABORT, is skipped (R260; DEDUCED, log 79). -/
def probeSkip (va n : Nat) : EM Unit := do
  let r ← get
  if isSeq r.a then
    (pagePieces va (pieceFuel n) n).forM fun x => do
      let _ ← access fun r =>
        if r.abort.isSome then (.ok [], { r with abort := none })
        else
          let c := getCtx r.s r.a
          match xlate r.s (engineTlb r.a (chainPos r.e)) c.life.part c.life.asid x.1 .read true with
          | (.invalid, s) => (.error (.fault [x.1 / 4096] 1), { r with s := s })
          | (_, s) => (.ok [], { r with s := s })
      pure ()

/-- The pieces of a long range that are accessed one after another: none crosses a 4 KiB page; as (offset, length). -/
def pageRuns (va n : Nat) : List (Nat × Nat) := (pagePieces va (pieceFuel n) n).map fun x => (x.1 - va, x.2)

/-- Read a long range page by page. -/
def readLong (va n mark : Nat) (off : Nat := 0) : EM (List Byte) := do
  let parts ← (pageRuns va n).mapM fun x => readMem (va + x.1) x.2 (off + x.1) mark
  pure parts.flatten

/-- Write a long range page by page. -/
def writeLong (va : Nat) (bs : List Byte) (mark : Nat) (off : Nat := 0) : EM Unit :=
  (pageRuns va bs.length).forM fun x => writeMem (va + x.1) ((bs.drop x.1).take x.2) (off + x.1) mark

/-- A number from bytes `lo .. lo + n − 1` of a list. -/
def fld (bs : List Byte) (lo n : Nat) : Nat := fieldAt bs lo n

end Sys2Proof.Machine
end

