-- ==== Sys2Proof/Machine/VectorOps.lean ====
section
/-! DEFINITION. What the vector words compute (R192 to R211, R219): from the registers as they stand when a word starts and
what routing captured, the destination, the flags and the reply entry, or the trap at the queue head. The special
functions are in Transcend.lean, the stream words in StreamOps.lean. -/

namespace Sys2Proof.Machine

/-- Where a vector word writes: a group of `k` registers (31 is qout), a mask, a tile row. -/
inductive VDest where
  | none
  | regs (r k val : Nat)
  | mask (r val : Nat)
  | row (t i val : Nat)
  deriving DecidableEq, Repr

/-- What a vector word does at its completion, with a trap it reports besides (R200). -/
structure VOut where
  dst : VDest
  flags : Nat
  reply : Option Nat
  trap : Option (Nat × Nat)
  deriving DecidableEq, Repr

/-- The result of a vector word: a trap cause at the queue head, or what it does. -/
abbrev VRes := Except Nat VOut

/-- What a vector word reads: its context, its capture, and the entry it took from qin. -/
structure VEnv where
  c : Ctx
  cap : Capture
  qin : Nat
  /-- An uncorrectable error lies in row `i` of tile `t` (R200). -/
  badRow : Nat → Nat → Bool

/-- FORMAT at the queue head (R193). -/
def vFormat : VRes := .error 0x10

/-- A word that only writes its destination. -/
def vWrite (d : VDest) (flags : Nat) : VRes := .ok ⟨d, flags, none, none⟩

/-- A word that only appends a reply entry. -/
def vReply (x : Nat) : VRes := .ok ⟨.none, 0, some x, none⟩

/-- The value of a source field over `k` registers; 30 is the entry taken from qin (R101). -/
def vSrc (e : VEnv) (r k : Nat) : Nat := if r = 30 then e.qin else groupVal e.c r k

/-- The old value of a destination; an outbound entry has none and reads as 0 (R101). -/
def vOld (e : VEnv) (r k : Nat) : Nat := if r = 31 then 0 else groupVal e.c r k

/-- The rounding a word captured (R49, R52). -/
def vRnd (e : VEnv) : Rnd := ⟨e.cap.rnd, e.cap.seed.toNat, e.cap.step.toNat⟩

/-- The format of a format selector (R107). -/
def vFmt (e : VEnv) (f : Nat) : Option Fmt := fmtOfCode (vfmtCode e.cap.vfmt f)

/-- Element `i` of vb, or the captured scalar under XSCA (R147, R195). -/
def vB (e : VEnv) (f : Fmt) (vb i : Nat) : Nat :=
  match e.cap.sv with
  | some x => x.toNat % 2 ^ fmtW f
  | none => elemAt f vb i

/-- The mask of XEXT selects element `i` (R194). -/
def vActive (e : VEnv) (i : Nat) : Bool := e.cap.mask == 0 || bit (getM e.c e.cap.mask).toNat i

/-- The loop of R194 from element `i` on: elements of `w` bits and their flags. -/
def maskLoop (e : VEnv) (w old : Nat) (res : Nat → Nat × Nat) : Nat → Nat → Nat × Nat
  | _, 0 => (0, 0)
  | i, n + 1 =>
    let (x, f) := if vActive e i then res i else if e.cap.zero then (0, 0) else (old / 2 ^ (w * i) % 2 ^ w, 0)
    let (r, g) := maskLoop e w old res (i + 1) n
    (x % 2 ^ w + 2 ^ w * r, f ||| g)

/-- A word with masking D over `n` elements of a format, into `k` registers from `d` (R194). -/
def vElems (e : VEnv) (f : Fmt) (d k n : Nat) (res : Nat → Nat × Nat) : VRes :=
  let (x, g) := maskLoop e (storedW f) (vOld e d k) res 0 n
  vWrite (.regs d k x) g

/-- A word with masking D over the bits of a mask (R194). -/
def vBits (e : VEnv) (d n : Nat) (res : Nat → Nat × Nat) : VRes :=
  let (x, g) := maskLoop e 1 (getM e.c d).toNat res 0 n
  vWrite (.mask d x) g

/-! ### Integer and bitwise words -/

/-- A word of R196 in class I: the exact value of a, b, c and the saturation control. -/
def vInt (e : VEnv) (f d a b : Nat) (sat : Bool) (t : Nat → Int → Int → Int → Int) : VRes :=
  match vFmt e f with
  | some g =>
    if !isInt g then vFormat
    else
      let va := vSrc e a 1
      let vb := vSrc e b 1
      let vd := vOld e d 1
      vElems e g d 1 (elemCount g) fun i =>
        intInto g (t (fmtW g) (intValue g (elemAt g va i)) (intValue g (vB e g vb i)) (intValue g (elemAt g vd i))) sat
  | none => vFormat

/-- The shift amount of VSHL and VSHR: b read unsigned; every amount from w up acts as w (R196). -/
def shiftAmount (w : Nat) (b : Int) : Nat := min w (ofSigned w b)

/-- A bitwise word of R196, on every format. -/
def vBitwise (e : VEnv) (f d a b : Nat) (t : Nat → Nat → Nat) : VRes :=
  match vFmt e f with
  | some g =>
    let va := vSrc e a 1
    let vb := vSrc e b 1
    vElems e g d 1 (elemCount g) fun i => (t (elemAt g va i) (vB e g vb i), 0)
  | none => vFormat

/-! ### Floating words -/

/-- A word of R197 in class F: the result from the values of a, b, c. -/
def vFloat (e : VEnv) (f d a b : Nat) (t : Flt → Nat → FVal → FVal → FVal → Nat × Nat) : VRes :=
  match vFmt e f with
  | some (.flt g) =>
    let va := vSrc e a 1
    let vb := vSrc e b 1
    let vd := vOld e d 1
    let m : Fmt := .flt g
    vElems e m d 1 (elemCount m) fun i =>
      t g i (fltValue g (elemAt m va i)) (fltValue g (vB e m vb i)) (fltValue g (elemAt m vd i))
  | _ => vFormat

/-- round(t) of R195, with the flags the exact operation raised. -/
def vRound (e : VEnv) (g : Flt) (i : Nat) (t : FVal × Nat) : Nat × Nat :=
  let (x, h) := roundToFormat t.1 g (vRnd e) e.cap.sat i
  (x, h ||| t.2)

/-- The mode is RDN: a cancelled sum is −0 (R195). -/
def vRdn (e : VEnv) : Bool := e.cap.rnd == 3

/-- The order of VFMIN and VFMAX: −0 is less than +0 (R197). -/
def fvLtZ (x y : FVal) : Bool := fvLt x y || (fvIsZero x && fvIsZero y && fvNeg x && !fvNeg y)

/-- The code of a value that is exact in its format; a NaN is canonical (R197). -/
def fvCode (g : Flt) (x : FVal) : Nat := (roundToFormat x g rne false 0).1

/-- The lesser or greater of two values, NaN first (R197). -/
def fvPick (greater : Bool) (x y : FVal) : FVal :=
  if fvIsNan x || fvIsNan y then .nan else if fvLtZ x y then (if greater then y else x) else if greater then x else y

/-! ### Conversions -/

/-- A conversion word of R198: VCVT, VWIDEN or VNARROW. -/
def vConvert (e : VEnv) (op f d a : Nat) : VRes :=
  match vFmt e f, vFmt e (f + 1), groupSize op e.cap.vfmt f 1, groupSize op e.cap.vfmt f 2 with
  | some g, some h, some kd, some ka =>
    if op = 0x19 ∧ storedW g ≠ storedW h then vFormat
    else
      let va := vSrc e a ka
      let n := if op = 0x1B then elemCount h else elemCount g
      vElems e h d kd n fun i => convert g h (elemAt g va i) (vRnd e) e.cap.sat i
  | _, _, _, _ => vFormat

/-- VWMUL and VWMAC (R198): the exact product, with the old element added for VWMAC, rounded once. -/
def vWide (e : VEnv) (op f d a b : Nat) (acc : Bool) : VRes :=
  match vFmt e f, vFmt e (f + 1), groupSize op e.cap.vfmt f 1 with
  | some g, some h, some kd =>
    let va := vSrc e a 1
    let vb := vSrc e b 1
    let vd := vOld e d kd
    match g, h with
    | .flt x, .flt y =>
      vElems e h d kd (elemCount g) fun i =>
        let p := fltValue x (elemAt g va i)
        let q := fltValue x (vB e g vb i)
        vRound e y i (if acc then fvFma p q (fltValue y (elemAt h vd i)) (vRdn e) else fvMul p q)
    | _, _ =>
      if isInt g && isInt h then
        vElems e h d kd (elemCount g) fun i =>
          intInto h ((if acc then intValue h (elemAt h vd i) else 0)
            + intValue g (elemAt g va i) * intValue g (vB e g vb i)) e.cap.sat
      else vFormat
  | _, _, _ => vFormat

/-! ### Accumulator rows -/

/-- VACCRD (R199, R200): copies a row of 32-bit elements; a tile beyond the grant raises ILLOP; an uncorrectable error in
the row sets every element of vd to +0 and reports UNCORR. -/
def vAccrd (e : VEnv) (t row d : Nat) : VRes :=
  if e.c.life.tiles ≤ t then .error 1
  else if e.badRow t row then .ok ⟨.regs d 1 0, 0, none, some (0x0E, t + row * 2 ^ 8)⟩
  else
    let r := (getAccRow e.c t row).toNat
    vElems e (.uint 32) d 1 128 fun i => (elemAt (.uint 32) r i, 0)

/-- VACCWR (R199). -/
def vAccwr (e : VEnv) (t row b : Nat) : VRes :=
  if e.c.life.tiles ≤ t then .error 1
  else
    let vb := vSrc e b 1
    let (x, _) := maskLoop e 32 (getAccRow e.c t row).toNat (fun i => (vB e (.uint 32) vb i, 0)) 0 128
    vWrite (.row t row x) 0

/-! ### Compares, selection, masks -/

/-- A compare of R201 from the values of a and b. -/
def vCompare (e : VEnv) (f d a b : Nat) (t : FVal → FVal → Bool × Nat) : VRes :=
  match vFmt e f with
  | some g =>
    let va := vSrc e a 1
    let vb := vSrc e b 1
    vBits e d (elemCount g) fun i =>
      let (x, h) := t (fmtValue g (elemAt g va i)) (fmtValue g (vB e g vb i))
      (b2n x, h)
  | none => vFormat

/-- Some operand is a NaN. -/
def anyNan (x y : FVal) : Bool := fvIsNan x || fvIsNan y

/-- VSEL (R202): the mask is IMM16[2:0]. -/
def vSelect (e : VEnv) (f d a b : Nat) : VRes :=
  match vFmt e f with
  | some g =>
    let va := vSrc e a 1
    let vb := vSrc e b 1
    let m := (getM e.c (e.cap.imm % 8)).toNat
    vElems e g d 1 (elemCount g) fun i => (if bit m i then elemAt g va i else vB e g vb i, 0)
  | none => vFormat

/-- VMLOGIC (R202): a 4-bit table over the bits of two masks. -/
def vMlogic (e : VEnv) (f d a b : Nat) : VRes :=
  match vFmt e f with
  | some g =>
    let ma := (getM e.c a).toNat
    let mb := (getM e.c b).toNat
    vBits e d (elemCount g) fun i => (b2n (bit e.cap.imm (2 * b2n (bit ma i) + b2n (bit mb i))), 0)
  | none => vFormat

/-- The indices below `n` that take part under the mask (mark P). -/
def partIdx (e : VEnv) (n : Nat) : List Nat := (List.range n).filter (vActive e)

/-- VMPOPC (R202). -/
def vMpopc (e : VEnv) (f a : Nat) : VRes :=
  match vFmt e f with
  | some g =>
    let m := (getM e.c a).toNat
    vReply ((partIdx e (elemCount g)).filter fun i => bit m i).length
  | none => vFormat

/-- VMFIRST (R202). -/
def vMfirst (e : VEnv) (f a : Nat) : VRes :=
  match vFmt e f with
  | some g =>
    let m := (getM e.c a).toNat
    vReply (((partIdx e (elemCount g)).find? fun i => bit m i).getD (elemCount g))
  | none => vFormat

/-! ### Permutes -/

/-- VPERM (R203): indices are 16-bit; formats of classes I and F. -/
def vPerm (e : VEnv) (f d a b : Nat) : VRes :=
  match vFmt e f, groupSize 0x28 e.cap.vfmt f 3 with
  | some g, some k =>
    if g = .bin then vFormat
    else
      let va := vSrc e a 1
      let vb := vSrc e b k
      vElems e g d 1 (elemCount g) fun i =>
        let x := vB e (.uint 16) vb i
        (if x < elemCount g then elemAt g va x else 0, 0)
  | _, _ => vFormat

/-- VBCAST (R203). -/
def vBcast (e : VEnv) (f d b : Nat) : VRes :=
  match vFmt e f with
  | some g =>
    let vb := vSrc e b 1
    vElems e g d 1 (elemCount g) fun _ => (vB e g vb (e.cap.imm % elemCount g), 0)
  | none => vFormat

/-- VIOTA (R203): class I. -/
def vIota (e : VEnv) (f d a : Nat) : VRes :=
  match vFmt e f with
  | some g =>
    if !isInt g then vFormat
    else
      let m := (getM e.c a).toNat
      vElems e g d 1 (elemCount g) fun i => (((List.range i).filter fun j => bit m j).length % 2 ^ fmtW g, 0)
  | none => vFormat

/-- VSLIDE (R203): va followed by vb, from element s on. -/
def vSlide (e : VEnv) (f d a b : Nat) : VRes :=
  match vFmt e f with
  | some g =>
    let n := elemCount g
    let va := vSrc e a 1
    let vb := vSrc e b 1
    vElems e g d 1 n fun i =>
      let k := i + e.cap.imm
      (if k < n then elemAt g va k else if k < 2 * n then vB e g vb (k - n) else 0, 0)
  | none => vFormat

/-! ### Reductions -/

/-- One value as a term of an exact sum (R59). -/
def termOf : FVal → Prod
  | .nan => .nan
  | .inf n => .inf n
  | .fin n m e _ => .fin n m e

/-- A reduction of R204: element 0 of vd takes the result, the others 0. -/
def vReduce (e : VEnv) (f d a : Nat) (ti : Fmt → List Int → Nat × Nat) (tf : Flt → List FVal → Nat × Nat) : VRes :=
  match vFmt e f with
  | some g =>
    let va := vSrc e a 1
    let xs := (partIdx e (elemCount g)).map fun i => elemAt g va i
    match g with
    | .bin => vFormat
    | .flt h => let (x, k) := tf h (xs.map (fltValue h)); vWrite (.regs d 1 x) k
    | _ => let (x, k) := ti g (xs.map (intValue g)); vWrite (.regs d 1 x) k
  | none => vFormat

/-- The integer sum of VREDSUM (R204). -/
def redSumI (e : VEnv) (g : Fmt) (xs : List Int) : Nat × Nat := intInto g (xs.foldl (· + ·) 0) e.cap.sat

/-- The floating sum of VREDSUM (R59, R204). -/
def redSumF (e : VEnv) (h : Flt) (xs : List FVal) : Nat × Nat := vRound e h 0 (exactSum (xs.map termOf))

/-- The least or greatest integer, or the limit of the range when none takes part (R204). -/
def redPickI (greater : Bool) (g : Fmt) (xs : List Int) : Nat × Nat :=
  let (lo, hi) := intRange g
  (ofSigned (fmtW g) (xs.foldl (fun x y => if greater then max x y else min x y) (if greater then lo else hi)), 0)

/-- The least or greatest floating value, or ±∞ (±maxFinite) when none takes part (R204). -/
def redPickF (greater : Bool) (h : Flt) (xs : List FVal) : Nat × Nat :=
  match xs with
  | [] => (signed h greater ((fltInf h).getD (fltMax h)), 0)
  | x :: r => (fvCode h (r.foldl (fvPick greater) x), 0)

/-- The rank of VARGMIN: NaN above every number (R205). -/
def argLt (x y : FVal) : Bool := if fvIsNan x then false else if fvIsNan y then true else fvLt x y

/-- VARGMIN (R205). -/
def vArgmin (e : VEnv) (f a : Nat) : VRes :=
  match vFmt e f with
  | some g =>
    if g = .bin then vFormat
    else
      let va := vSrc e a 1
      match partIdx e (elemCount g) with
      | [] => vReply (2 ^ 44)
      | i :: r =>
        let val := fun k => fmtValue g (elemAt g va k)
        let best := r.foldl (fun x k => if argLt (val k) (val x) then k else x) i
        let code := match g with
          | .flt h => if fvIsNan (val best) then (fltNan h).getD 0 else elemAt g va best
          | _ => elemAt g va best
        vReply (code + best * 2 ^ 32)
  | none => vFormat

/-! ### Compression, packing, hashing, lookup -/

/-- The formats of VTOPN and VSPREAD: 8, 16 and 32 bits of classes I and F (R206). -/
def topFmt (g : Fmt) : Bool := (isInt g || isFlt g) && decide (8 ≤ storedW g)

/-- The magnitude order of VTOPN: NaN above ±∞, which are above finite values (R206). -/
def magLt (x y : FVal) : Bool := if fvIsNan x then false else if fvIsNan y then true else fvLt (fvAbs x) (fvAbs y)

/-- Insert an index by magnitude descending, ties to the lower index already there. -/
def insertMag (val : Nat → FVal) (j : Nat) : List Nat → List Nat
  | [] => [j]
  | k :: r => if magLt (val k) (val j) then j :: k :: r else k :: insertMag val j r

/-- The kept indices of one group and the zeros among them (R206). -/
def topKeep (val : Nat → FVal) (len n : Nat) : List Nat × Nat :=
  let idx := List.range len
  let cand := idx.filter fun j => !fvIsZero (val j)
  let keep := (cand.foldl (fun acc j => insertMag val j acc) []).take n
  let zeros := (idx.filter fun j => !keep.contains j).take (n - keep.length)
  (idx.filter fun j => keep.contains j || zeros.contains j, zeros.length)

/-- One group of VTOPN: slots (value code, index byte) and fills (R206). -/
def topGroup (g : Fmt) (va base len n : Nat) : List (Nat × Nat) × Nat :=
  let val := fun j => fmtValue g (elemAt g va (base + j))
  let code := fun j => match g with
    | .flt h => if fvIsNan (val j) then (fltNan h).getD 0 else elemAt g va (base + j)
    | _ => elemAt g va (base + j)
  let (keep, fill) := topKeep val len n
  (keep.map (fun j => (code j, j)) ++ List.replicate (n - keep.length) (0, 127), fill + (n - keep.length))

/-- The groups of VTOPN from group `k` on. -/
def topGroups (g : Fmt) (va lastLen n : Nat) : Nat → Nat → List (Nat × Nat) × Nat
  | _, 0 => ([], 0)
  | k, m + 1 =>
    let (x, f) := topGroup g va (128 * k) (if m = 0 then lastLen else 128) n
    let (y, h) := topGroups g va lastLen n (k + 1) m
    (x ++ y, f + h)

/-- VTOPN (R206). -/
def vTopn (e : VEnv) (f d a : Nat) : VRes :=
  match vFmt e f with
  | some g =>
    if !topFmt g then vFormat
    else
      let n := bits e.cap.imm 7 0
      let len := bits e.cap.imm 15 8
      let (slots, fill) := topGroups g (vSrc e a 1) (if len = 0 then 128 else len) n 0 (elemCount g / 128)
      let x := packE g (slots.map (·.1)) % 2 ^ 4096
      let y := packW 8 (slots.map (·.2))
      .ok ⟨.regs d 2 (x + 2 ^ 4096 * y), 0, some (slots.length + fill * 2 ^ 16 + b2n (len != 0) * 2 ^ 32), none⟩
  | none => vFormat

/-- VSPREAD (R207): a later slot that names an index overwrites an earlier one. -/
def vSpread (e : VEnv) (f d a b : Nat) : VRes :=
  match vFmt e f with
  | some g =>
    if !topFmt g then vFormat
    else
      let n := bits e.cap.imm 7 0
      let va := vSrc e a 1
      let vb := vSrc e b 1
      vElems e g d 1 (elemCount g) fun i =>
        let grp := i / 128
        match (List.range n).reverse.find? fun k => vB e (.uint 8) vb (grp * n + k) % 128 == i % 128 with
        | some k => (elemAt g va (grp * n + k), 0)
        | none => (0, 0)
  | none => vFormat

/-- VPACK (R208): the elements of set bits, in order, and their number. -/
def vPack (e : VEnv) (f d a b : Nat) : VRes :=
  match vFmt e f with
  | some g =>
    let m := (getM e.c b).toNat
    let va := vSrc e a 1
    let idx := (List.range (elemCount g)).filter fun i => bit m i
    .ok ⟨.regs d 1 (packE g (idx.map fun i => elemAt g va i)), 0, some idx.length, none⟩
  | none => vFormat

/-- VUNPACK (R208). -/
def vUnpack (e : VEnv) (f d a b : Nat) : VRes :=
  match vFmt e f with
  | some g =>
    let m := (getM e.c b).toNat
    let va := vSrc e a 1
    vWrite (.regs d 1 (packE g ((List.range (elemCount g)).map fun j =>
      if bit m j then elemAt g va ((List.range j).filter fun i => bit m i).length else 0))) 0
  | none => vFormat

/-- VHASH (R209): I32, U32 and FP32 only. -/
def vHash (e : VEnv) (f d a b : Nat) : VRes :=
  match vFmt e f with
  | some g =>
    if storedW g ≠ 32 then vFormat
    else
      let va := vSrc e a 1
      let vb := vSrc e b 1
      vElems e g d 1 128 fun i =>
        (mix64 ((vB e g vb i * 2 ^ 32 + elemAt g va i) ^^^ (e.cap.imm * 0x9E3779B97F4A7C15 % 2 ^ 64)) % 2 ^ 32, 0)
  | none => vFormat

/-- Number of 1 bits among the low `n`. -/
def popBits : Nat → Nat → Nat
  | 0, _ => 0
  | n + 1, x => x % 2 + popBits n (x / 2)

/-- VPOPCNT and VXORPC (R210): class I. -/
def vPopcnt (e : VEnv) (f d a b : Nat) (xor : Bool) : VRes :=
  match vFmt e f with
  | some g =>
    if !isInt g then vFormat
    else
      let va := vSrc e a 1
      let vb := vSrc e b 1
      vElems e g d 1 (elemCount g) fun i =>
        (popBits (fmtW g) (if xor then elemAt g va i ^^^ vB e g vb i else elemAt g va i), 0)
  | none => vFormat

/-- VLUT (R211): codes of width 4 or 8 into 16-bit values. -/
def vLut (e : VEnv) (f d a b : Nat) : VRes :=
  match vFmt e f, groupSize 0x37 e.cap.vfmt f 1 with
  | some g, some k =>
    let va := vSrc e a 1
    let vb := vSrc e b 1
    vElems e (.uint 16) d k (elemCount g) fun i =>
      (vB e (.uint 16) vb ((bits e.cap.imm 7 0 + elemAt g va i) % 256), 0)
  | _, _ => vFormat

/-- VREPLY (R219): bits 60:0 of a 64-bit word of va. -/
def vReplyWord (e : VEnv) (a : Nat) : VRes := vReply (vSrc e a 1 / 2 ^ (64 * (e.cap.imm % 64)) % 2 ^ 61)

end Sys2Proof.Machine
end

