-- ==== Sys2Proof/Machine/Transcend.lean ====
section
/-! DEFINITION. The special functions (R212 to R214): the exact value 1/x, 1/√x, 2^x or log2 x is cut to a value with a
sticky mark far below its 15 significant bits (log 16), rounded to 15 bits, and rounded to the format. -/

namespace Sys2Proof.Machine

/-- Working precision in bits of the irrational values (log 16). -/
def tPrec : Nat := 192

/-- The integer square root by bits, from bit `k` down: the root found so far is `r`. -/
def isqrtGo (x : Nat) : Nat → Nat → Nat
  | 0, r => r
  | k + 1, r => if (r + 2 ^ k) * (r + 2 ^ k) ≤ x then isqrtGo x k (r + 2 ^ k) else isqrtGo x k r

/-- The integer square root of a number. -/
def isqrt (x : Nat) : Nat := isqrtGo x (Nat.log2 x / 2 + 1) 0

/-- approx15 (R212): round to nearest even at 15 significant bits, with whether that changed the value. -/
def approx15 (x : FVal) : FVal × Bool :=
  match x with
  | .fin neg m e st =>
    if m = 0 then (x, st)
    else
      let d := Nat.log2 m - 14
      let (n, inexact) := roundShift m st d neg rne 0
      (.fin neg n (e + d) false, inexact)
  | y => (y, false)

/-- The value 1 / (m × 2^e). -/
def recipVal (neg : Bool) (m : Nat) (e : Int) : FVal :=
  let n := 2 ^ (tPrec + Nat.log2 m)
  .fin neg (n / m) (-(tPrec + Nat.log2 m : Nat) - e) (n % m != 0)

/-- The value 1 / √(m × 2^e). -/
def rsqrtVal (m : Nat) (e : Int) : FVal :=
  let (m, e) := if e % 2 = 0 then (m, e) else (2 * m, e - 1)
  let k := tPrec + Nat.log2 m
  let q := 2 ^ (2 * k) / m
  let r := isqrt q
  .fin false r (-(k : Int) - e / 2) (r * r * m != 2 ^ (2 * k))

/-- 2^f for a fraction of `tPrec` bits: the product of the roots 2^(1/2), 2^(1/4), … of its set bits, each held to
`tPrec` bits. `root` is the current root. -/
def exp2Frac (frac : Nat) : Nat → Nat → Nat → Nat
  | 0, _, acc => acc
  | k + 1, root, acc =>
    let root := isqrt (root * 2 ^ tPrec)
    exp2Frac frac k root (if bit frac k then acc * root / 2 ^ tPrec else acc)

/-- The value 2^x for x = ± m × 2^e (R212): exact for an integer. The integer part is held within ±1,000, beyond every
format. -/
def exp2Val (neg : Bool) (m : Nat) (e : Int) : FVal :=
  let clampE (n : Int) : Int := max (-1000) (min 1000 n)
  if 0 ≤ e then
    let n : Int := if 10 < e ∧ m ≠ 0 then 1000 else clampE (shiftTo m e 0)
    .fin false 1 (if neg then -n else n) false
  else
    let d := (-e).toNat
    let x : Int := if neg then -(m : Int) else m
    let n := if m % 2 ^ d = 0 then x / (2 ^ d : Nat) else x.fdiv (2 ^ d : Nat)
    let f := (x - n * (2 ^ d : Nat)).toNat
    if f = 0 then .fin false 1 (clampE n) false
    else
      let frac := f * 2 ^ tPrec / 2 ^ d
      .fin false (exp2Frac frac tPrec (2 ^ (tPrec + 1)) (2 ^ tPrec)) (clampE n - tPrec) true

/-- The bits of log2 y for 1 ≤ y < 2 held to `2 × tPrec` bits, highest first: squaring gives one bit a time. -/
def log2Frac : Nat → Nat → Nat → Nat
  | 0, _, acc => acc
  | k + 1, y, acc =>
    let z := y * y / 2 ^ (2 * tPrec)
    if 2 ^ (2 * tPrec + 1) ≤ z then log2Frac k (z / 2) (2 * acc + 1) else log2Frac k z (2 * acc)

/-- The value log2 (m × 2^e) for m > 0 (R212): exact for a power of two; +0 for 1.0 (R213). -/
def log2Val (m : Nat) (e : Int) : FVal :=
  let k := Nat.log2 m
  let n : Int := (k : Int) + e
  if m = 2 ^ k then .fin (decide (n < 0)) n.natAbs 0 false
  else
    let y := m * 2 ^ (2 * tPrec) / 2 ^ k
    let t : Int := n * (2 ^ tPrec : Nat) + (log2Frac tPrec y 0 : Nat)
    if 0 ≤ t then .fin false t.toNat (-(tPrec : Int)) true else .fin true (t.natAbs - 1) (-(tPrec : Int)) true

/-- The final rounding of a special function: NX also when approx15 changed the value (R212). -/
def vApprox (e : VEnv) (g : Flt) (i : Nat) (t : FVal) : Nat × Nat :=
  let (y, x) := approx15 t
  let (r, h) := roundToFormat y g (vRnd e) e.cap.sat i
  (r, if x then h ||| fNX else h)

/-- A stated result of R213, whatever the mode and the saturation control. -/
def vStated (g : Flt) (x : FVal) (flags : Nat) : Nat × Nat := (fvCode g x, flags)

/-- VRCP of one value (R212, R213). -/
def rcpOf (e : VEnv) (g : Flt) (i : Nat) (x : FVal) : Nat × Nat :=
  match x with
  | .nan => vStated g .nan 0
  | .inf n => vStated g (.fin n 0 0 false) 0
  | .fin n m k _ => if m = 0 then vStated g (.inf n) fDZ else vApprox e g i (recipVal n m k)

/-- VRSQ of one value (R212, R213). -/
def rsqOf (e : VEnv) (g : Flt) (i : Nat) (x : FVal) : Nat × Nat :=
  match x with
  | .nan => vStated g .nan 0
  | .inf n => if n then vStated g .nan fNV else vStated g .zero 0
  | .fin n m k _ =>
    if m = 0 then vStated g (.inf n) fDZ else if n then vStated g .nan fNV else vApprox e g i (rsqrtVal m k)

/-- VEXP2 of one value (R212, R213). -/
def exp2Of (e : VEnv) (g : Flt) (i : Nat) (x : FVal) : Nat × Nat :=
  match x with
  | .nan => vStated g .nan 0
  | .inf n => if n then vStated g .zero 0 else vStated g (.inf false) 0
  | .fin n m k _ => if m = 0 then vStated g (.fin false 1 0 false) 0 else vApprox e g i (exp2Val n m k)

/-- VLOG2 of one value (R212, R213). -/
def log2Of (e : VEnv) (g : Flt) (i : Nat) (x : FVal) : Nat × Nat :=
  match x with
  | .nan => vStated g .nan 0
  | .inf n => if n then vStated g .nan fNV else vStated g (.inf false) 0
  | .fin n m k _ =>
    if m = 0 then vStated g (.inf true) fDZ else if n then vStated g .nan fNV else vApprox e g i (log2Val m k)

/-- The formats of R212. -/
def specialFmt (e : VEnv) (f : Nat) : Bool :=
  vFmt e f == some (.flt .fp32) || vFmt e f == some (.flt .fp16) || vFmt e f == some (.flt .bf16)

/-- A special function over the elements of FP32, FP16 or BF16; any other format raises FORMAT (R212). -/
def vSpecial (e : VEnv) (f d a : Nat) (t : Flt → Nat → FVal → Nat × Nat) : VRes :=
  if specialFmt e f then vFloat e f d a 0 fun g i x _ _ => t g i x else vFormat

/-- The refinement words (R214): y passes through when it is ±0 or ±∞; a NaN gives the canonical NaN; otherwise an exact
value rounded once. -/
def refineOf (e : VEnv) (i : Nat) (x y : FVal) (t : FVal → FVal → FVal × Nat) : Nat × Nat :=
  let infY := match y with
    | .inf _ => true
    | _ => false
  if fvIsZero y || infY then vStated .fp32 y 0
  else if anyNan x y then vStated .fp32 .nan 0
  else vRound e .fp32 i (t x y)

/-- y × (2 − x × y) (R214). -/
def rcpStep (rdn : Bool) (x y : FVal) : FVal × Nat :=
  let (p, f) := fvMul x y
  let (q, g) := fvAdd (fvInt 2) (fvNegate p) rdn
  let (r, h) := fvMul y q
  (r, f ||| g ||| h)

/-- y × (3 − x × y × y) / 2 (R214). -/
def rsqStep (rdn : Bool) (x y : FVal) : FVal × Nat :=
  let (p, f) := fvMul x y
  let (p, f') := fvMul p y
  let (q, g) := fvAdd (fvInt 3) (fvNegate p) rdn
  let (r, h) := fvMul y q
  (fvScale r (-1), f ||| f' ||| g ||| h)

/-- VRCPREF and VRSQREF: FP32 only (R214). -/
def vRefine (e : VEnv) (f d a b : Nat) (t : Bool → FVal → FVal → FVal × Nat) : VRes :=
  if vFmt e f == some (.flt .fp32) then
    vFloat e f d a b fun _ i x y _ => refineOf e i x y (t (vRdn e))
  else vFormat

/-! ### Cosine, sine and the exponential, correctly rounded to FP32 (R55, R251, R282) -/

/-- Working precision in bits of the series below (log 16). -/
def sPrec : Nat := 256

/-- ⌊π × 2^256⌋. -/
def piVal : Int :=
  0x3243f6a8885a308d313198a2e03707344a4093822299f31d0082efa98ec4e6c89

/-- ⌊ln 2 × 2^256⌋. -/
def ln2Val : Int :=
  0xb17217f7d1cf79abc9e3b39803f2f6af40f343267298b62d8a0d175b8baafa2b

/-- The terms of a power series from `x` steps of two factors: `t` is the term so far, `k` its index, `num` the factor of
each step in units of 2^−256. -/
def seriesGo (num : Int) (div : Nat → Int) : Nat → Nat → Int → Int
  | 0, _, t => t
  | n + 1, k, t => t + seriesGo num div n (k + 1) (t * num / (2 ^ sPrec : Nat) / div k)

/-- sin θ for an angle θ of 2^−256 units in 0 to π/4. -/
def sinSer (x : Int) : Int :=
  seriesGo (-(x * x / (2 ^ sPrec : Nat))) (fun k => ((2 * k + 2) * (2 * k + 3) : Nat)) 40 0 x

/-- cos θ for an angle θ of 2^−256 units in 0 to π/4. -/
def cosSer (x : Int) : Int :=
  seriesGo (-(x * x / (2 ^ sPrec : Nat))) (fun k => ((2 * k + 1) * (2 * k + 2) : Nat)) 40 0 (2 ^ sPrec : Nat)

/-- A value held in units of 2^−256 whose lower bits are not known, correctly rounded to FP32. -/
def serFp32 (neg : Bool) (x : Int) : Nat :=
  (roundToFormat (.fin neg x.toNat (-(sPrec : Int)) true) .fp32 rne false 0).1

/-- Cosine and sine of `ph` × 2^−32 turns, correctly rounded to FP32 codes (R55, R282). -/
def cosSin (ph : Nat) : Nat × Nat :=
  let q := ph / 2 ^ 30 % 4
  let r := ph % 2 ^ 30
  let one := (roundToFormat (fvInt 1) .fp32 rne false 0).1
  let mone := (roundToFormat (fvInt (-1)) .fp32 rne false 0).1
  if r = 0 then
    if q = 0 then (one, 0) else if q = 1 then (0, one) else if q = 2 then (mone, 0) else (0, mone)
  else
    let low := decide (r ≤ 2 ^ 29)
    let th := piVal * ((if low then r else 2 ^ 30 - r : Nat) : Int) / (2 ^ 31 : Nat)
    let c := if low then cosSer th else sinSer th
    let sn := if low then sinSer th else cosSer th
    if q = 0 then (serFp32 false c, serFp32 false sn)
    else if q = 1 then (serFp32 true sn, serFp32 false c)
    else if q = 2 then (serFp32 true c, serFp32 true sn)
    else (serFp32 false sn, serFp32 true c)

/-- e^x correctly rounded to an FP32 code (R55, R251): expCR(−∞) is +0. -/
def expCR (x : FVal) : Nat :=
  match x with
  | .nan => (fltNan .fp32).getD 0
  | .inf neg => if neg then 0 else (fltInf .fp32).getD 0
  | .fin neg m e _ =>
    if m = 0 then (roundToFormat (fvInt 1) .fp32 rne false 0).1
    else
      let lg : Int := (Nat.log2 m : Int) + e
      if 10 ≤ lg then (roundToFormat (.fin false 1 (if neg then -2000 else 2000) false) .fp32 rne false 0).1
      else
        let k : Int := e + (sPrec : Int)
        let mag : Int := if 0 ≤ k then (m * 2 ^ k.toNat : Nat) else (m / 2 ^ (-k).toNat : Nat)
        let v : Int := if neg then -mag else mag
        let n := v / ln2Val
        let r := v - n * ln2Val
        let y := seriesGo r (fun k => ((k + 1 : Nat) : Int)) 60 0 (2 ^ sPrec : Nat)
        (roundToFormat (.fin false y.toNat (n - (sPrec : Int)) true) .fp32 rne false 0).1

end Sys2Proof.Machine
end

