-- ==== Sys2Proof/Machine/VecWords.lean ====
section
/-! DEFINITION. What each vector word computes (R196 to R219), and how it runs: its waits for qin, qout and the tiles (R101,
R105), its checks (R72, R193), its destination at completion (R101, R194). -/

namespace Sys2Proof.Machine

/-- A compare that is false, or true for NE, on a NaN; LT and LE set NV there (R201). -/
def cmpOf (t : FVal → FVal → Bool) (ne nv : Bool) (x y : FVal) : Bool × Nat :=
  if anyNan x y then (ne, if nv then fNV else 0) else (t x y, 0)

/-- x is at most y, both numbers. -/
def fvLe (x y : FVal) : Bool := fvLt x y || fvEq x y

/-- Divide an integer by a power of two, toward −∞. -/
def floorShift (x : Int) (k : Nat) : Int := x.fdiv (2 ^ k : Nat)

/-- Row number of an accumulator-row word (R199). -/
def accRowNo (hi lo : Nat) : Nat := 32 * (hi % 4) + lo

/-- The result of a vector word from its operands (R196 to R219); other words have none. -/
def vecRes (e : VEnv) (i : Instr) : VRes :=
  let sat := e.cap.sat
  match i with
  | .vadd _ _ f d a b => vInt e f.toNat d.toNat a.toNat b.toNat sat fun _ x y _ => x + y
  | .vsub _ _ f d a b => vInt e f.toNat d.toNat a.toNat b.toNat sat fun _ x y _ => x - y
  | .vaddsat _ _ f d a b => vInt e f.toNat d.toNat a.toNat b.toNat true fun _ x y _ => x + y
  | .vsubsat _ _ f d a b => vInt e f.toNat d.toNat a.toNat b.toNat true fun _ x y _ => x - y
  | .vavg _ _ f d a b => vInt e f.toNat d.toNat a.toNat b.toNat false fun _ x y _ => floorShift (x + y + 1) 1
  | .vmul _ _ f d a b => vInt e f.toNat d.toNat a.toNat b.toNat sat fun _ x y _ => x * y
  | .vmulhi _ _ f d a b => vInt e f.toNat d.toNat a.toNat b.toNat false fun w x y _ => floorShift (x * y) w
  | .vmac _ _ f d a b => vInt e f.toNat d.toNat a.toNat b.toNat sat fun _ x y c => c + x * y
  | .vmin _ _ f d a b => vInt e f.toNat d.toNat a.toNat b.toNat false fun _ x y _ => min x y
  | .vmax _ _ f d a b => vInt e f.toNat d.toNat a.toNat b.toNat false fun _ x y _ => max x y
  | .vabs _ _ f d a => vInt e f.toNat d.toNat a.toNat 0 sat fun _ x _ _ => (x.natAbs : Int)
  | .vand _ _ f d a b => vBitwise e f.toNat d.toNat a.toNat b.toNat fun x y => x &&& y
  | .vor _ _ f d a b => vBitwise e f.toNat d.toNat a.toNat b.toNat fun x y => x ||| y
  | .vxor _ _ f d a b => vBitwise e f.toNat d.toNat a.toNat b.toNat fun x y => x ^^^ y
  | .vshl _ _ f d a b =>
    vInt e f.toNat d.toNat a.toNat b.toNat sat fun w x y _ => x * (2 ^ shiftAmount w y : Nat)
  | .vshr _ _ f d a b => vInt e f.toNat d.toNat a.toNat b.toNat false fun w x y _ => floorShift x (shiftAmount w y)
  | .vfadd _ _ f d a b =>
    vFloat e f.toNat d.toNat a.toNat b.toNat fun g j x y _ => vRound e g j (fvAdd x y (vRdn e))
  | .vfsub _ _ f d a b =>
    vFloat e f.toNat d.toNat a.toNat b.toNat fun g j x y _ => vRound e g j (fvAdd x (fvNegate y) (vRdn e))
  | .vfmul _ _ f d a b => vFloat e f.toNat d.toNat a.toNat b.toNat fun g j x y _ => vRound e g j (fvMul x y)
  | .vfma _ _ f d a b =>
    vFloat e f.toNat d.toNat a.toNat b.toNat fun g j x y c => vRound e g j (fvFma x y c (vRdn e))
  | .vfms _ _ f d a b =>
    vFloat e f.toNat d.toNat a.toNat b.toNat fun g j x y c => vRound e g j (fvFma (fvNegate x) y c (vRdn e))
  | .vfmin _ _ f d a b => vFloat e f.toNat d.toNat a.toNat b.toNat fun g _ x y _ => (fvCode g (fvPick false x y), 0)
  | .vfmax _ _ f d a b => vFloat e f.toNat d.toNat a.toNat b.toNat fun g _ x y _ => (fvCode g (fvPick true x y), 0)
  | .vfabs _ _ f d a => vFloat e f.toNat d.toNat a.toNat 0 fun g _ x _ _ => (fvCode g (fvAbs x), 0)
  | .vfneg _ _ f d a => vFloat e f.toNat d.toNat a.toNat 0 fun g _ x _ _ => (fvCode g (fvNegate x), 0)
  | .vcvt _ _ f d a => vConvert e 0x19 f.toNat d.toNat a.toNat
  | .vwiden _ _ f d a => vConvert e 0x1A f.toNat d.toNat a.toNat
  | .vnarrow _ _ f d a => vConvert e 0x1B f.toNat d.toNat a.toNat
  | .vwmul _ _ f d a b => vWide e 0x1C f.toNat d.toNat a.toNat b.toNat false
  | .vwmac _ _ f d a b => vWide e 0x1D f.toNat d.toNat a.toNat b.toNat true
  | .vaccrd _ _ c d h l => vAccrd e c.toNat (accRowNo h.toNat l.toNat) d.toNat
  | .vaccwr _ _ c l h b => vAccwr e c.toNat (accRowNo h.toNat l.toNat) b.toNat
  | .vcmpeq _ _ f d a b => vCompare e f.toNat d.toNat a.toNat b.toNat (cmpOf fvEq false false)
  | .vcmpne _ _ f d a b => vCompare e f.toNat d.toNat a.toNat b.toNat (cmpOf (fun x y => !fvEq x y) true false)
  | .vcmplt _ _ f d a b => vCompare e f.toNat d.toNat a.toNat b.toNat (cmpOf fvLt false true)
  | .vcmple _ _ f d a b => vCompare e f.toNat d.toNat a.toNat b.toNat (cmpOf fvLe false true)
  | .vsel _ _ f d a b => vSelect e f.toNat d.toNat a.toNat b.toNat
  | .vmlogic _ _ f d a b => vMlogic e f.toNat d.toNat a.toNat b.toNat
  | .vmpopc _ _ f a => vMpopc e f.toNat a.toNat
  | .vmfirst _ _ f a => vMfirst e f.toNat a.toNat
  | .vperm _ _ f d a b => vPerm e f.toNat d.toNat a.toNat b.toNat
  | .vbcast _ _ f d b => vBcast e f.toNat d.toNat b.toNat
  | .viota _ _ f d a => vIota e f.toNat d.toNat a.toNat
  | .vredsum _ _ f d a => vReduce e f.toNat d.toNat a.toNat (redSumI e) (redSumF e)
  | .vredmin _ _ f d a => vReduce e f.toNat d.toNat a.toNat (redPickI false) (redPickF false)
  | .vredmax _ _ f d a => vReduce e f.toNat d.toNat a.toNat (redPickI true) (redPickF true)
  | .vargmin _ _ f a => vArgmin e f.toNat a.toNat
  | .vslide _ _ f d a b => vSlide e f.toNat d.toNat a.toNat b.toNat
  | .vtopn _ _ f d a => vTopn e f.toNat d.toNat a.toNat
  | .vspread _ _ f d a b => vSpread e f.toNat d.toNat a.toNat b.toNat
  | .vpack _ _ f d a b => vPack e f.toNat d.toNat a.toNat b.toNat
  | .vunpack _ _ f d a b => vUnpack e f.toNat d.toNat a.toNat b.toNat
  | .vhash _ _ f d a b => vHash e f.toNat d.toNat a.toNat b.toNat
  | .vpopcnt _ _ f d a => vPopcnt e f.toNat d.toNat a.toNat 0 false
  | .vxorpc _ _ f d a b => vPopcnt e f.toNat d.toNat a.toNat b.toNat true
  | .vlut _ _ f d a b => vLut e f.toNat d.toNat a.toNat b.toNat
  | .vrcp _ _ f d a => vSpecial e f.toNat d.toNat a.toNat (rcpOf e)
  | .vrsq _ _ f d a => vSpecial e f.toNat d.toNat a.toNat (rsqOf e)
  | .vexp2 _ _ f d a => vSpecial e f.toNat d.toNat a.toNat (exp2Of e)
  | .vlog2 _ _ f d a => vSpecial e f.toNat d.toNat a.toNat (log2Of e)
  | .vrcpref _ _ f d a b => vRefine e f.toNat d.toNat a.toNat b.toNat rcpStep
  | .vrsqref _ _ f d a b => vRefine e f.toNat d.toNat a.toNat b.toNat rsqStep
  | .vreply _ _ a => vReplyWord e a.toNat
  | _ => vFormat

/-! ### Running a vector word -/

/-- The word names qin in a source field (R101). -/
def usesQin (w : Nat) (sca : Bool) : Bool :=
  let v := vInfo (op6Of w)
  (v.va == .reg && bits w 9 5 == 30) || (v.vb == .reg && !sca && bits w 4 0 == 30)

/-- The word's destination is qout (R101). -/
def usesQout (w : Nat) : Bool := (vInfo (op6Of w)).vd == .reg && bits w 14 10 == 31

/-- Entries of qout that are filled or reserved by started vector words (R101). -/
def qoutTaken (g : Engines) : Nat := g.qout.length + (g.v.flying.filter fun f => (f.fin.bind (·.qout)).isSome).length

/-- The tile an accumulator-row word names (R199). -/
def vecTile (i : Instr) : Option Nat :=
  match i with
  | .vaccrd _ _ c _ _ _ | .vaccwr _ _ c _ _ _ => some c.toNat
  | _ => none

/-- The tile a matrix word names (R222); the tile of MGO is in its captured parameter. -/
def matTile (w : QWord) : Option Nat :=
  match w.ins with
  | .mma _ _ c _ _ _ _ _ _ _ | .mzero _ _ c | .mdrain _ _ _ _ _ c | .matt _ _ _ _ _ c | .mlat _ _ _ _ _ c =>
    some c.toNat
  | .mgo _ _ _ _ _ => some (wbits w.cap.sa 1 0)
  | _ => none

/-- The words of an engine that have not completed, queued or started. -/
def openWords (x : EngineSt) : List QWord := x.flying.map (·.w) ++ x.queue

/-- A matrix word routed before the word names its tile and has not retired (R105). -/
def tileBusy (g : Engines) (tile uid : Nat) : Bool :=
  (openWords g.m).any fun w => decide (w.uid < uid) && matTile w == some tile

/-- Log an uncorrectable register or accumulator error (R439, R440): the row of R438. -/
def logCore (s : State) (a : AgentId) (row : Nat) : State :=
  let (core, b, unit) := match a with
    | .bank c b => (c, b2n b, 0)
    | .seq n => (0, 0, n)
  logUncorr s row (some (getCtx s a).life.part) core b unit 0xFF 0

/-- The place of an accumulator element among error marks. -/
def accAddr (t row col : Nat) : Nat := (128 * t + row) * 128 + col

/-- Apply the destination of a vector word; a write covers the register's granule (R440). A VACCRD to qout that meets an uncorrectable row
appends no entry (DESIGN CHOICE, log 79). -/
def applyDest (d : VDest) (s : State) (a : AgentId) : State :=
  match d with
  | .none => s
  | .regs r k x =>
    if r = 31 then s
    else
      let s := if s.mem.errs.isEmpty then s else clearMarks s .reg (ctxKey a) (32 + r) k
      updCtx s a fun c => setGroup c r x k
  | .mask r x => updCtx s a fun c => setM c r (BitVec.ofNat 4096 x)
  | .row t i x => updCtx s a fun c => setAccRow c t i (BitVec.ofNat 4096 x)

/-- The entry a destination appends to qout at completion (R101). -/
def destQout (d : VDest) : Option VReg :=
  match d with
  | .regs r _ x => if r = 31 then some (BitVec.ofNat 4096 x) else none
  | _ => none

/-- The environment of a vector word. -/
def vecEnv (s : State) (a : AgentId) (c : Ctx) (cap : Capture) (w : Nat) : VEnv :=
  { c := c, cap := cap
    qin := if usesQin w cap.sv.isSome then (c.eng.qin.headD 0).toNat else 0
    badRow := fun t i => !s.mem.errs.isEmpty && (uncorrIn s .acc (ctxKey a) (accAddr t i 0) 128).isSome }

/-- The accumulator side of an error mark (R200): the corrections a row's read makes are counted, and a write makes fresh check
bits for every element it writes. A read takes in all 128 elements of the row, those that the mask leaves inactive too (DESIGN CHOICE,
log 79). -/
def settleAcc (e : VEnv) (i : Instr) (s : State) (a : AgentId) : State :=
  match i with
  | .vaccrd _ _ t _ h l => countCorr s .acc (ctxKey a) (accAddr t.toNat (accRowNo h.toNat l.toNat) 0) 128
  | .vaccwr _ _ t l h _ =>
    ((List.range 128).filter (vActive e)).foldl
      (fun s k => clearMarks s .acc (ctxKey a) (accAddr t.toNat (accRowNo h.toNat l.toNat) k) 1)
      (if e.cap.zero then clearMarks s .acc (ctxKey a) (accAddr t.toNat (accRowNo h.toNat l.toNat) 0) 128 else s)
  | _ => s

/-- A vector word that is no stream word: its checks, which need no operand value (R43, R193), then its waits for its queues and
tile, then it is computed whole and takes effect. A row whose read takes UNCORR counts none of its corrections (DESIGN CHOICE,
log 79). -/
def vecRun (i : Instr) : EM EDone := do
  let r ← get
  let w := rawOf i
  let c := getCtx r.s r.a
  let qin := usesQin w r.w.cap.sv.isSome
  let e := vecEnv r.s r.a c r.w.cap w
  match vecRes e i with
  | .error cause => do
    check true cause 0 (r.w.raw.zeroExtend 64)
    pure EDone.plain
  | .ok o => do
    waitStart (!qin || !c.eng.qin.isEmpty) .queue
    waitStart (!usesQout w || decide (qoutTaken c.eng < 8)) .queue
    match vecTile i with
    | some t => waitStart (!tileBusy c.eng t r.w.uid) .none
    | none => pure ()
    match o.trap with
    | some (cause, det) => do
      modify fun r => { r with s := applyDest o.dst (logCore r.s r.a 3) r.a }
      check true cause 0 (BitVec.ofNat 64 det)
    | none => pure ()
    begin_
    eff fun s a =>
      let s := if qin then updCtx s a fun c => { c with eng := { c.eng with qin := c.eng.qin.drop 1 } } else s
      let s := if s.mem.errs.isEmpty then s else settleAcc e i s a
      applyDest o.dst s a
    pure (EDone.of { Finish.plain with
      replies := o.reply.toList.map (BitVec.ofNat 64), flags := o.flags, qout := destQout o.dst })

end Sys2Proof.Machine
end

