-- ==== Sys2Proof/Machine/StreamOps.lean ====
section
/-! DEFINITION. The stream words of the vector engine (R215 to R218): record formats (R277), heads and out-of-order records
(R216), the set operations, SBIND, SCOUNT and SRESET. -/

namespace Sys2Proof.Machine

/-- Bytes of a record (R277). -/
def recSize (rfmt : Nat) : Nat := if rfmt = 2 then 4 else 8

/-- Key and value of a record's bytes (R277). -/
def recParts (rfmt vf : Nat) (bs : List Byte) : Nat × Nat :=
  if rfmt = 0 then
    (fld bs 0 4, match fmtOfCode vf with
      | some f => fld bs 4 4 % 2 ^ fmtW f
      | none => 0)
  else if rfmt = 1 then (fld bs 0 5, fld bs 5 3)
  else (fld bs 0 4, 0)

/-- The bytes of a record (R277): bits above the value are written as 0. -/
def recBytes (rfmt key val : Nat) : List Byte :=
  if rfmt = 0 then leList 4 key ++ leList 4 val
  else if rfmt = 1 then leList 5 key ++ leList 3 val
  else leList 4 key

/-- An input stream as a set operation sees it. -/
structure InStream where
  off : Nat
  rfmt : Nat
  vf : Nat
  count : Nat
  pos : Nat
  last : Option Nat
  deriving DecidableEq, Repr

/-- The binding of an input stream. -/
def InStream.bind (x : InStream) : KBind := .input x.off x.rfmt x.vf x.count x.pos x.last

/-- Take a record (R217). -/
def InStream.take (x : InStream) (key : Nat) : InStream := { x with pos := x.pos + 1, last := some key }

/-- The head of an input stream, out-of-order records skipped (R216): the head, the stream there, and the skips. -/
def headOf (x : InStream) : Nat → EM (Option (Nat × Nat) × InStream × Nat)
  | 0 => pure (none, x, 0)
  | n + 1 => do
    if x.count ≤ x.pos then pure (none, x, 0)
    else
      let bs ← readPad (x.off + x.pos * recSize x.rfmt) (recSize x.rfmt)
      let (k, v) := recParts x.rfmt x.vf bs
      match x.last with
      | some l =>
        if k ≤ l then do
          let (h, y, sk) ← headOf { x with pos := x.pos + 1 } n
          pure (h, y, sk + 1)
        else pure (some (k, v), x, 0)
      | none => pure (some (k, v), x, 0)

/-- The sum of SMADD (R217, R277): its value and flags. `slot` is the output slot it goes to (R52). -/
def madd (cap : Capture) (rfmt vf x y slot : Nat) : Nat × Nat :=
  if rfmt = 2 then (0, 0)
  else if rfmt = 1 then intInto (.uint 24) ((x + y : Nat) : Int) cap.sat
  else
    match fmtOfCode vf with
    | some (.flt g) =>
      let (t, h) := fvAdd (fltValue g x) (fltValue g y) (cap.rnd == 3)
      let (z, k) := roundToFormat t g ⟨cap.rnd, cap.seed.toNat, cap.step.toNat⟩ cap.sat slot
      (z, h ||| k)
    | some f => intInto f (intValue f x + intValue f y) cap.sat
    | none => (0, 0)

/-- What a set operation has done so far. -/
structure SetRun where
  a : InStream
  b : InStream
  written : Nat
  emitted : Nat
  skipped : Nat
  flags : Nat
  full : Bool
  deriving DecidableEq, Repr

/-- One step of R217 at the heads: what it emits, with flags, and whether it takes a and b; none when the operation ends.
`op` is 1 SISECT, 2 SUNION, 3 SSUB, 4 SMADD. -/
def setStep (cap : Capture) (op : Nat) (x : InStream) (slot : Nat) (ha hb : Option (Nat × Nat)) :
    Option (Option (Nat × Nat) × Nat × Bool × Bool) :=
  match ha, hb with
  | none, none => none
  | some p, none => if op = 1 then none else some (some p, 0, true, false)
  | none, some q =>
    if op = 1 ∨ op = 3 then none else some (some q, 0, false, true)
  | some p, some q =>
    if p.1 < q.1 then some (if op = 1 then none else some p, 0, true, false)
    else if q.1 < p.1 then some (if op = 2 ∨ op = 4 then some q else none, 0, false, true)
    else if op = 3 then some (none, 0, true, true)
    else if op = 4 then
      let (v, f) := madd cap x.rfmt x.vf p.2 q.2 slot
      some (some (p.1, v), f, true, true)
    else some (some p, 0, true, true)

/-- The steps of a set operation (R217); `off` and `lim` are the output's. Out-of-order heads are skipped and counted before the
step tests whether the operation ends, also those of the input that is not exhausted (DESIGN CHOICE, log 79); a step that would
emit into a full output is not taken, and neither input advances in it. -/
def setLoop (cap : Capture) (op off lim : Nat) : Nat → SetRun → EM SetRun
  | 0, r => pure r
  | n + 1, r => do
    let (ha, a, sa) ← headOf r.a (r.a.count - r.a.pos + 1)
    let (hb, b, sb) ← headOf r.b (r.b.count - r.b.pos + 1)
    let was := r
    let r := { r with a := a, b := b, skipped := r.skipped + sa + sb }
    match setStep cap op a r.written ha hb with
    | none => pure r
    | some (out, f, ta, tb) =>
      if out.isSome ∧ lim ≤ r.written then pure { was with full := true }
      else
        let a := match ta, ha with
          | true, some h => a.take h.1
          | _, _ => a
        let b := match tb, hb with
          | true, some h => b.take h.1
          | _, _ => b
        match out with
        | some (k, v) => do
          writePad (off + r.written * recSize a.rfmt) (recBytes a.rfmt k v)
          setLoop cap op off lim n
            { r with a := a, b := b, written := r.written + 1, emitted := r.emitted + 1, flags := r.flags ||| f }
        | none => setLoop cap op off lim n { r with a := a, b := b }

/-- A set operation (R215 to R217). -/
def setOp (op d a b : Nat) : EM EDone := do
  let cap ← capture
  atStart
  let (kd, ka, kb) ← look fun _ _ c => (getK c d, getK c a, getK c b)
  match kd, ka, kb with
  | .output off rf vf lim wr, .input oa ra va ca pa la, .input ob rb vb cb pb lb =>
    chkIllop (d < 6 || 6 ≤ a || 6 ≤ b)
    chkFormat (rf != ra || rf != rb || vf != va || vf != vb)
    begin_
    let r ← setLoop cap op off lim (ca - pa + (cb - pb) + 1)
      ⟨⟨oa, ra, va, ca, pa, la⟩, ⟨ob, rb, vb, cb, pb, lb⟩, wr, 0, 0, 0, false⟩
    eff fun s g => updCtx s g fun c =>
      setK (setK (setK c a r.a.bind) b r.b.bind) d (.output off rf vf lim r.written)
    pure (EDone.of { Finish.plain with
      replies := [BitVec.ofNat 64 (r.emitted % 2 ^ 32 + min 65535 r.skipped * 2 ^ 32 + b2n r.full * 2 ^ 48)]
      flags := r.flags })
  | _, _, _ => do
    chkIllop true
    pure EDone.plain

/-- SBIND (R218): kD becomes an input over the records kA has written; only the kind of kD is checked. -/
def sbindOp (d a : Nat) : EM EDone := do
  atStart
  let ka ← look fun _ _ c => getK c a
  match ka with
  | .output off rf vf _ wr => do
    chkIllop (6 ≤ d || a < 6)
    begin_
    eff fun s g => updCtx s g fun c => setK c d (.input off rf vf wr 0 none)
    pure EDone.plain
  | _ => do
    chkIllop true
    pure EDone.plain

/-- SCOUNT (R218). -/
def scountOp (a : Nat) : EM EDone := do
  atStart
  let ka ← look fun _ _ c => getK c a
  chkIllop (ka == .unbound)
  begin_
  let x := match ka with
    | .input _ _ _ count pos _ => (count - pos) % 2 ^ 32
    | .output _ _ _ _ wr => wr % 2 ^ 32 + 2 ^ 32
    | .unbound => 0
  pure (EDone.reply x)

/-- SRESET (R218). -/
def sresetOp (d : Nat) : EM EDone := do
  begin_
  eff fun s g => updCtx s g fun c => setK c d .unbound
  pure EDone.plain

/-- What a vector word does. -/
def vecBody (i : Instr) : EM EDone :=
  match i with
  | .sbind _ _ d a => sbindOp d.toNat a.toNat
  | .sisect _ _ d a b => setOp 1 d.toNat a.toNat b.toNat
  | .sunion _ _ d a b => setOp 2 d.toNat a.toNat b.toNat
  | .ssub _ _ d a b => setOp 3 d.toNat a.toNat b.toNat
  | .smadd _ _ d a b => setOp 4 d.toNat a.toNat b.toNat
  | .scount _ _ a => scountOp a.toNat
  | .sreset _ _ d => sresetOp d.toNat
  | i => vecRun i

end Sys2Proof.Machine
end

