-- ==== Sys2Proof/Machine/MoveWords.lean ====
section
/-! DEFINITION. The words of the load and store engines (R255 to R278): copies, GO words over nests (R178, R263), the queue
heads, marks, rings, stream bindings, prefetch, hints, flush and zero, and the head of gather and scatter words. -/

namespace Sys2Proof.Machine

/-! ### Parameters and units -/

/-- A scope code above 4 or hint 3 (R261). -/
def badScope (scope hint : Nat) : Bool := decide (4 < scope) || hint == 3

/-- A skewed region is enabled and lies inside the window (R113). -/
def skewOn (c : Ctx) (x : Word) : Bool :=
  wbits x 63 63 == 1
    && decide (1024 * wbits x 19 10 + (wbits x 57 48 + 1) * (1024 * (wbits x 36 32 + 1)) ≤ winBytes c)

/-- The pitch of the enabled skewed region that holds an offset, the lowest-numbered first (R113, R262). -/
def skewPitch (c : Ctx) (off : Nat) : Option Nat :=
  c.csr.skew.toList.findSome? fun x =>
    let b := 1024 * wbits x 19 10
    let p := 1024 * (wbits x 36 32 + 1)
    if skewOn c x && decide (b ≤ off) && decide (off < b + (wbits x 57 48 + 1) * p) then some p else none

/-- The pitch that a word in column mode takes at an offset, found once at the queue head (R113, R262): SCRATCH there when no region
holds the offset. In row mode units follow one another. -/
def pitchAt (off : Nat) (col : Bool) : EM Nat := do
  if col then do
    let p ← lookOnce fun _ _ c => (skewPitch c off).getD 0
    check (p == 0) 8 0 (BitVec.ofNat 64 off)
    pure p
  else pure 32

/-- The units of a word, each checked against the window: SCRATCH at the queue head where one fails (R262). -/
def chkUnits (off n : Nat) (col : Bool) : EM (List Nat) := do
  let p ← pitchAt off col
  let us := (List.range n).map fun u => off + u * p
  us.forM fun o => chkScratch o 32
  pure us

/-- Copy memory into units of the scratchpad; `off` is the byte offset of the first unit within the word. -/
def loadUnits (va off hint : Nat) (us : List Nat) : EM Unit :=
  us.zipIdx.forM fun x => do
    let bs ← readMem (va + 32 * x.2) 32 (off + 32 * x.2) hint
    writePad x.1 bs

/-- Copy units of the scratchpad to memory. -/
def storeUnits (va off hint : Nat) (us : List Nat) : EM Unit :=
  us.zipIdx.forM fun x => do
    let bs ← readPad x.1 32
    writeMem (va + 32 * x.2) bs (off + 32 * x.2) hint

/-! ### Copies and GO words -/

/-- LCP and SCP (R261, R262). -/
def copyOp (load col : Bool) : EM EDone := do
  let k ← capture
  let len := wbits k.sb 40 20
  let off := wbits k.sb 19 0
  let hint := wbits k.sb 42 41
  chkFormat (wbits k.sb 63 46 != 0 || badScope (wbits k.sb 45 43) hint || decide (1048576 < len))
  chkAlign k.sa.toNat 32
  chkMul len 32
  chkMul off 32
  chkCtr
  let us ← chkUnits off (len / 32) col
  probeSeq k.sa.toNat len (if load then .read else .write)
  begin_
  if load then loadUnits k.sa.toNat 0 hint us else storeUnits k.sa.toNat 0 hint us
  pure EDone.adds

/-- The operations of a nest in emission order (R178): X modulo 2^64, and Y. The rule calls y exact and says of BASEY + y neither that
it is reduced nor that it is not: the sum is kept exact, so that one of 2^64 or more is outside every scratchpad (DESIGN CHOICE,
log 79). -/
def nestOps (d : NestDesc) : List NestLevel → Int → Int → List (Nat × Int)
  | [], x, y => [(ofSigned 64 x, (d.basey : Int) + (if d.wrapy = 0 then y else y % (d.wrapy : Int)))]
  | l :: r, x, y => ((List.range l.count).map fun (i : Nat) =>
      nestOps d r (x + (i : Int) * l.sx) (y + (i : Int) * l.sy)).flatten

/-- Every operation of a captured nest. -/
def nestAll (d : NestDesc) : List (Nat × Int) := nestOps d d.levels d.basex d.offy

/-- SCRATCH of an offset that may be negative (R263). -/
def chkOffset (y : Int) : EM Unit := check (decide (y < 0)) 8 0 (BitVec.ofInt 64 y)

/-- The operations of LGO and SGO one after another (R263); `off` counts the bytes of those before. -/
def goOps (load : Bool) (hint : Nat) : Nat → List (Nat × List Nat) → EM Unit
  | _, [] => pure ()
  | off, (x, us) :: r => do
    if load then loadUnits x off hint us else storeUnits x off hint us
    goOps load hint (off + 32 * us.length) r

/-- LGO and SGO (R263). -/
def goOp (load col : Bool) : EM EDone := do
  let k ← capture
  let hint := wbits k.sb 1 0
  chkFormat (wbits k.sb 63 5 != 0 || badScope (wbits k.sb 4 2) hint || k.nest.levels.isEmpty)
  let ops := nestAll k.nest
  chkMul k.nest.unit 32
  ops.forM fun x => do
    chkAlign x.1 32
    check (x.2 % 32 != 0) 5 0 0
  chkCtr
  let segs ← ops.mapM fun x => do
    chkOffset x.2
    let us ← chkUnits x.2.toNat (k.nest.unit / 32) col
    pure (x.1, us)
  ops.forM fun x => probeSeq x.1 k.nest.unit (if load then .read else .write)
  begin_
  goOps load hint 0 segs
  pure EDone.adds

/-! ### Queue heads -/

/-- Read the units of an entry and append it to qin once there is room (R101, R264). -/
def appendQin (us : List Nat) : EM Unit := do
  waitHere (fun _ _ c => decide (c.eng.qin.length < 8)) .queue
  let parts ← us.mapM fun o => readPad o 32
  let x := BitVec.ofNat 4096 (leVal parts.flatten)
  eff fun s a => updCtx s a fun c => { c with eng := { c.eng with qin := c.eng.qin ++ [x] } }

/-- LQ (R264). -/
def lqOp (col : Bool) : EM EDone := do
  let k ← capture
  let n := k.sb.toNat
  let off := k.sa.toNat
  chkFormat (decide (4096 < n))
  chkMul off 32
  let p ← pitchAt off col
  let units := fun e => (List.range 16).map fun u => off + (if col then 32 else 512) * e + u * p
  (List.range n).forM fun e => (units e).forM fun o => chkScratch o 32
  begin_
  (List.range n).forM fun e => appendQin (units e)
  pure EDone.plain

/-- LQX (R264). FORMAT on its count stands between the MISALIGN and the SCRATCH of its list (DESIGN CHOICE, log 79). -/
def lqxOp : EM EDone := do
  let k ← capture
  let n := k.sb.toNat
  chkMul k.sa.toNat 4
  chkFormat (decide (4096 < n))
  chkScratch k.sa.toNat (64 * n)
  atStart
  let bs ← readPad k.sa.toNat (64 * n)
  let offs := (List.range (16 * n)).map fun i => fld bs (4 * i) 4
  offs.forM fun o => chkMul o 32
  offs.forM fun o => chkScratch o 32
  begin_
  (List.range n).forM fun e => appendQin ((offs.drop (16 * e)).take 16)
  pure EDone.plain

/-- Take the oldest entry of qout, once there is one. -/
def takeQout : EM (List Byte) := do
  waitHere (fun _ _ c => !c.eng.qout.isEmpty) .queue
  access fun r =>
    let c := getCtx r.s r.a
    (.ok (leList 512 (c.eng.qout.headD 0).toNat),
     { r with s := updCtx r.s r.a fun c => { c with eng := { c.eng with qout := c.eng.qout.drop 1 } } })

/-- SQ (R265). -/
def sqOp (sp : Bool) : EM EDone := do
  let k ← capture
  let n := wbits k.sb 15 0
  let hint := wbits k.sb 17 16
  chkFormat (wbits k.sb 63 21 != 0 || badScope (wbits k.sb 20 18) hint || (sp && hint != 0))
  if sp then chkMul k.sa.toNat 32 else chkAlign k.sa.toNat 32
  chkCtr
  if sp then chkScratch k.sa.toNat (512 * n) else probeSeq k.sa.toNat (512 * n) .write
  begin_
  (List.range n).forM fun e => do
    let bs ← takeQout
    if sp then writePad (k.sa.toNat + 512 * e) bs
    else (List.range 16).forM fun u =>
      writeMem (k.sa.toNat + 512 * e + 32 * u) ((bs.drop (32 * u)).take 32) (512 * e + 32 * u) hint
  pure EDone.adds

/-! ### Marks, rings, bindings -/

/-- LMARK and SMARK (R267): a mark word counts itself as started; the pair completes together. -/
def markOp (load : Bool) (m : Nat) : EM EDone := do
  begin_
  eff fun s a => updCtx s a fun c =>
    if h : m < 16 then
      if load then { c with eng := { c.eng with lmarks := c.eng.lmarks.set m (c.eng.lmarks[m] + 1) } }
      else { c with eng := { c.eng with smarks := c.eng.smarks.set m (c.eng.smarks[m] + 1) } }
    else c
  pure EDone.plain

/-- LRING (R116, R117, R268). -/
def lringOp (n : Nat) : EM EDone := do
  let k ← capture
  chkUsable n
  atStart
  let full ← look fun _ _ c =>
    decide (ringN (getRing c n) < (getRing c n).count + (ringOwed c.eng n).1 + k.sa.toNat)
  chkRing full n
  begin_
  pure { EDone.plain with r1 := .commit n k.sa.toNat }

/-- SRING (R116, R117, R268). -/
def sringOp (n : Nat) : EM EDone := do
  let k ← capture
  chkUsable n
  atStart
  let short ← look fun _ _ c => decide (ringFree c n < k.sa.toNat)
  chkRing short n
  begin_
  pure { EDone.plain with r1 := .pop n k.sa.toNat }

/-- The record format of a binding parameter is reserved, or its value format is not one it takes (R277, R278). -/
def badRecord (rfmt vf : Nat) : Bool :=
  if rfmt = 0 then
    match fmtOfCode vf with
    | some f => decide (fmtW f < 6)
    | none => true
  else decide (2 < rfmt) || vf != 0

/-- LSBIND and SSBIND (R277, R278): the binding takes effect at completion. -/
def bindOp (kreg : Nat) (input : Bool) : EM EDone := do
  let k ← capture
  let rfmt := wbits k.sb 35 32
  let vf := wbits k.sb 44 40
  let n := wbits k.sb 31 0
  chkFormat (wbits k.sb 63 45 != 0 || wbits k.sb 39 36 != 0 || badRecord rfmt vf)
  chkMul k.sa.toNat (recSize rfmt)
  chkScratch k.sa.toNat (n * recSize rfmt)
  begin_
  pure (EDone.of { Finish.plain with
    bind := some (kreg, if input then .input k.sa.toNat rfmt vf n 0 none else .output k.sa.toNat rfmt vf n 0) })

/-! ### Prefetch, hints, flush, zero -/

/-- The places in device DRAM of a range, a failing page skipped, and the state after its translations (R260, R269). A page fails as a
page of a read does (DESIGN CHOICE, log 79). -/
def rangePlaces (s : State) (a : AgentId) (e : Engine) (va len : Nat) : List (Loc × Nat) × State :=
  let c := getCtx s a
  (pagePieces va (pieceFuel len) len).foldl (fun x p =>
    match xlate x.2 (engineTlb a (chainPos e)) c.life.part c.life.asid p.1 .read true with
    | (.ok l, s) => (if l.typ = 0 then x.1 ++ [(l, p.2)] else x.1, s)
    | (_, s) => (x.1, s)) ([], s)

/-- Every line of the places of a range, each once. -/
def placeLines (ls : List (Loc × Nat)) : List (Nat × Bool) :=
  (ls.map fun x => (linesOf x.1.pa x.2).map fun a => (a, x.1.ef)).flatten

/-- Change the frame that holds a line. -/
def updFrame (s : State) (pa : Nat) (f : L2Frame → L2Frame) : State :=
  let frames := kget [] s.cache.l2 (l2Key pa)
  match l2Find frames (pa / 512) (pa / 128 % 4) with
  | none => s
  | some (g, _) =>
    { s with cache := { s.cache with
        l2 := kput s.cache.l2 (l2Key pa) (frames.map fun h => if h.way == g.way then f h else h) } }

/-- Each line of the places of a range is treated in turn, after the translations (R269). -/
def eachLine (e : Engine) (va len : Nat) (f : AgentId → State → Nat × Bool → State) : EM Unit := eff fun s a =>
  let x := rangePlaces s a e va len
  (placeLines x.1).foldl (f a) x.2

/-- SFLUSH of one line (R269): a dirty line is written back; with INV it is dropped, except from a reserved way. Reading the line finds
its errors as an access does (R438). -/
def flushLine (inv : Bool) (s : State) (pa : Nat) : State :=
  let s := l2Errors s pa
  let frames := kget [] s.cache.l2 (l2Key pa)
  match l2Find frames (pa / 512) (pa / 128 % 4) with
  | none => s
  | some (g, _) => moveMarks s (
    if inv && !(reservedWays s).contains g.way then
      { s with cache := { s.cache with
          l2 := kput s.cache.l2 (l2Key pa) (dropLine frames (pa / 512) (pa / 128 % 4)) } }
    else updFrame s pa fun h => { h with lines := h.lines.map fun l =>
      if l.pos == pa / 128 % 4 then { l with dirty := false } else l })

/-- The range parameter (R269): it is in order, FORMAT otherwise. -/
def chkRange (sb : Word) (flush : Bool) : EM Unit :=
  chkFormat (wbits sb 63 42 != 0 || wbits sb 41 40 == 3 || (flush && wbits sb 41 40 != 0))

/-- LPREF (R269). -/
def lprefOp : EM EDone := do
  let k ← capture
  chkRange k.sb false
  probeSkip k.sa.toNat (wbits k.sb 39 0)
  begin_
  eachLine .l k.sa.toNat (wbits k.sb 39 0) fun a s x =>
    l2Access s (some (getCtx s a).life.part) x.1 (hintMark (wbits k.sb 41 40) x.2) false true
  pure EDone.plain

/-- LHINT (R269). A hint of 0 leaves the mark that the page's attribute gives an access (R125; DESIGN CHOICE, log 79). -/
def lhintOp : EM EDone := do
  let k ← capture
  chkRange k.sb false
  probeSkip k.sa.toNat (wbits k.sb 39 0)
  begin_
  eachLine .l k.sa.toNat (wbits k.sb 39 0) fun _ s x =>
    updFrame s x.1 fun f => { f with mark := hintMark (wbits k.sb 41 40) x.2 }
  pure EDone.plain

/-- SFLUSH (R269). -/
def sflushOp (inv : Bool) : EM EDone := do
  let k ← capture
  chkRange k.sb true
  chkAlign k.sa.toNat 128
  chkMul (wbits k.sb 39 0) 128
  chkCtr
  probeSkip k.sa.toNat (wbits k.sb 39 0)
  begin_
  eachLine .s k.sa.toNat (wbits k.sb 39 0) fun _ s x => flushLine inv s x.1
  pure EDone.adds

/-- SZERO (R270). -/
def szeroOp : EM EDone := do
  let k ← capture
  chkMul k.sa.toNat 32
  chkMul k.sb.toNat 32
  chkScratch k.sa.toNat k.sb.toNat
  begin_
  writePad k.sa.toNat (List.replicate k.sb.toNat 0)
  pure EDone.plain

/-! ### The head of gather and scatter -/

/-- The element formats a combine accepts (R271). -/
def combineFmt (efmt : Nat) : Bool :=
  efmt == 4 || efmt == 5 || efmt == 6 || efmt == 7 || efmt == 13 || efmt == 14 || efmt == 15

/-- The descriptor of LGATH and SSCAT is out of form (R271). -/
def badGather (bs : List Byte) (scatter : Bool) : Bool :=
  let fl := fld bs 29 1
  let op := bits fl 7 6
  decide (65536 < fld bs 4 4) || decide (fld bs 16 4 < 4) || decide (4096 < fld bs 16 4) || decide (1 < fld bs 28 1)
    || badScope (bits fl 5 3) (bits fl 2 1) || (!scatter && op != 0)
    || (if op = 0 then fld bs 30 1 != 0 else !combineFmt (fld bs 30 1)) || fld bs 31 1 != 0

/-- Bytes of an element of a combine. -/
def combineBytes (efmt : Nat) : Nat :=
  match fmtOfCode efmt with
  | some f => max 1 (storedW f / 8)
  | none => 1

/-- LGATH and SSCAT (R271 to R276): the descriptor is read and checked at the queue head, the indices and source rows when
the word starts, so that no row that an LGATH writes over its own list changes it (DESIGN CHOICE, log 79); the elements go on as an
operation. An SSCAT completes once that operation has them (R258, R276), and with WAIT set once every element is settled, since any of
them may yet be held (R274). -/
def gatherOp (scatter rpl : Bool) : EM EDone := do
  let k ← capture
  let r ← get
  let d := k.sb.toNat
  chkMul d 32
  chkScratch d 32
  atStart
  let bs ← readPad d 32
  chkFormat (badGather bs scatter)
  let idxoff := fld bs 0 4
  let count := fld bs 4 4
  let rowoff := fld bs 8 4
  let stoff := fld bs 12 4
  let rowb := fld bs 16 4
  let stride := fld bs 20 4
  let iw := if fld bs 28 1 = 0 then 4 else 8
  let fl := fld bs 29 1
  let op := bits fl 7 6
  chkAlign k.sa.toNat 4
  chkMul idxoff iw
  chkMul rowoff 4
  chkMul stoff 4
  chkMul rowb 4
  chkMul stride 4
  if op ≠ 0 then chkMul rowb (combineBytes (fld bs 30 1))
  chkCtr
  chkScratch idxoff (iw * count)
  chkScratch rowoff (rowb * count)
  chkScratch stoff (4 * (count + 1))
  begin_
  let idx ← readPad idxoff (iw * count)
  let rows ← if scatter then readPad rowoff (rowb * count) else pure []
  let ctr : Ctr := if hasMc (rawOf r.w.ins) then .mem k.sm else .loc (bits (rawOf r.w.ins) 7 4)
  let g : GatherOp := ⟨scatter, k.sa, rowoff, stoff, rowb, stride, fld bs 24 4, bit fl 0, bits fl 2 1, op,
    fld bs 30 1, rpl, (List.range count).map fun e => fld idx (iw * e) iw, List.replicate count .todo,
    if scatter then (List.range count).map fun e => (rows.drop (rowb * e)).take rowb else List.replicate count []⟩
  let s ← look fun s _ _ => s
  let id := s.sch.uid
  eff fun s a =>
    let l := (getCtx s a).life
    (addOp s ⟨some (ctxKey a), if scatter then .s else .l, l.part, l.asid, l.rcd.tag, if scatter then ctr else .none,
      bits fl 5 3, bits fl 2 1, true, false, false, .gather g⟩).2
  pure (if scatter && !bit fl 0 then { EDone.plain with op := some id }
    else { EDone.plain with fin := none, hold := .elements, op := some id })

/-- What a word of the load engine does. -/
def loadBody (i : Instr) : EM EDone :=
  match i with
  | .lcp _ _ _ _ _ l _ => copyOp true l
  | .lgo _ _ _ _ _ l _ => goOp true l
  | .lgath _ _ _ _ _ _ r => gatherOp false r
  | .lpref _ _ _ _ => lprefOp
  | .lq _ _ _ _ l => lqOp l
  | .lqx _ _ _ _ => lqxOp
  | .lring _ _ _ r => lringOp r.toNat
  | .lmark _ _ m => markOp true m.toNat
  | .lsbind _ _ _ _ k => bindOp k.toNat true
  | .lhint _ _ _ _ => lhintOp
  | _ => pure EDone.plain

/-- What a word of the store engine does. -/
def storeBody (i : Instr) : EM EDone :=
  match i with
  | .scp _ _ _ _ _ l _ => copyOp false l
  | .sgo _ _ _ _ _ l _ => goOp false l
  | .sscat _ _ _ _ _ _ => gatherOp true false
  | .sq _ _ _ _ _ _ p => sqOp p
  | .sring _ _ _ r => sringOp r.toNat
  | .smark _ _ m => markOp false m.toNat
  | .ssbind _ _ _ _ k => bindOp (6 + b2n k) false
  | .sflush _ _ _ _ _ _ i => sflushOp i
  | .szero _ _ _ _ => szeroOp
  | _ => pure EDone.plain

end Sys2Proof.Machine
end

