-- ==== Sys2Proof/Machine/TransWords.lean ====
section
/-! DEFINITION. The words of the transform engine (R279 to R284): copies, fills, checksums, conversions, and the edits of
key-value caches. -/

namespace Sys2Proof.Machine

/-- The descriptor of a T word (R279), read and checked at the queue head; `bad` is what else raises FORMAT. The hint of
its writes comes with it. -/
def transDesc : EM (List Byte) := do
  let k ← capture
  chkAlign k.sa.toNat 32
  readMem k.sa.toNat 32 0 0

/-- CTL is out of form (R279). -/
def badCtl (d : List Byte) : Bool :=
  let ctl := fld d 31 1
  bits ctl 7 5 != 0 || badScope (bits ctl 2 0) (bits ctl 4 3)

/-- The hint of a T word's writes (R279). -/
def ctlHint (d : List Byte) : Nat := bits (fld d 31 1) 4 3

/-- A T word that adds to its counter and appends a reply entry. -/
def EDone.addsReply (x flags : Nat) : EDone :=
  EDone.of { Finish.plain with add := true, replies := [BitVec.ofNat 64 x], flags := flags }

/-- TCOPY (R280): every source byte is read before any byte is written. -/
def tcopyOp : EM EDone := do
  let k ← capture
  let d ← transDesc
  chkFormat (badCtl d || decide (2 ^ 48 < k.sb.toNat))
  chkCtr
  begin_
  let bs ← readLong (fld d 0 8) k.sb.toNat 0
  writeLong (fld d 8 8) bs (ctlHint d)
  pure EDone.adds

/-- TFILL (R280). -/
def tfillOp : EM EDone := do
  let k ← capture
  let d ← transDesc
  chkFormat (badCtl d)
  chkAlign (fld d 0 8) 8
  chkMul (fld d 8 8) 8
  chkCtr
  begin_
  writeLong (fld d 0 8) ((List.range (fld d 8 8 / 8)).map fun _ => leList 8 k.sb.toNat).flatten (ctlHint d)
  pure EDone.adds

/-- One bit of crc32c (R280). -/
def crcBit (c : Nat) : Nat := if c % 2 = 1 then (c / 2) ^^^ 0x82F63B78 else c / 2

/-- One byte of crc32c (R280). -/
def crcByte (c : Nat) (b : Byte) : Nat :=
  crcBit (crcBit (crcBit (crcBit (crcBit (crcBit (crcBit (crcBit (c ^^^ b.toNat))))))))

/-- crc32c (R280). -/
def crc32c (iv : Nat) (bs : List Byte) : Nat := bs.foldl crcByte (iv ^^^ 0xFFFFFFFF) ^^^ 0xFFFFFFFF

/-- TCHK (R280). -/
def tchkOp : EM EDone := do
  let d ← transDesc
  chkFormat (badCtl d)
  chkCtr
  begin_
  let bs ← readLong (fld d 0 8) (fld d 8 8) 0
  pure (EDone.addsReply (crc32c (fld d 16 4) bs) 0)

/-! ### TCVT -/

/-- Bytes of `n` elements of a format, packed (R34). -/
def fmtBytes (f : Fmt) (n : Nat) : Nat := (n * storedW f + 7) / 8

/-- Alignment of an array of a format: the element's byte size (R281). -/
def fmtAlign (f : Fmt) : Nat := max 1 (storedW f / 8)

/-- What COUNT must be a multiple of for a format (R281). -/
def countUnit (f : Fmt) : Nat := if storedW f = 1 then 8 else if storedW f = 4 then 2 else 1

/-- One element of a conversion, with the block scale of SMX (R281). -/
def cvtElem (src dst : Fmt) (smx : Bool) (scales : List Byte) (rnd : Rnd) (sat : Bool) (x i : Nat) : Nat × Nat :=
  if smx then
    match scaleExp (scales.getD (i / 32) 0) with
    | some k => convertVal (fvScale (fmtValue src x) k) dst rnd sat i
    | none => convertVal .nan dst rnd sat i
  else convert src dst x rnd sat i

/-- Blocks of DMX from block `q` on (R45, R281): scales, elements, flags. -/
def cvtBlocks (g : Flt) (rnd : Rnd) : Nat → List (List (FVal × Nat)) → List Byte × List Nat × Nat
  | _, [] => ([], [], 0)
  | q, b :: r =>
    let (sc, es, f) := mxQuantise b g rnd
    let (scs, ess, h) := cvtBlocks g rnd (q + 1) r
    (BitVec.ofNat 8 sc :: scs, es ++ ess, f ||| h)

/-- The conversion of TCVT (R281): destination bytes, scale bytes, flags. -/
def cvtAll (src dst : Fmt) (dmx smx : Bool) (n x : Nat) (scales : List Byte) (rnd : Rnd) (sat : Bool) :
    List Byte × List Byte × Nat :=
  let xs := elems src x n
  if dmx then
    match dst with
    | .flt g =>
      let vs := xs.zipIdx.map fun e => (fmtValue src e.1, e.2)
      let (scs, es, f) := cvtBlocks g rnd 0 (chunks 32 (n + 1) vs)
      (leList (fmtBytes dst n) (packE dst es), scs, f)
    | _ => ([], [], 0)
  else
    let rs := xs.zipIdx.map fun e => cvtElem src dst smx scales rnd sat e.1 e.2
    (leList (fmtBytes dst n) (packE dst (rs.map (·.1))), [], rs.foldl (fun a r => a ||| r.2) 0)

/-- TCVT (R281). The table of MXF names bits 0 and 1 alone; a value above 2 raises FORMAT (DESIGN CHOICE, log 79). -/
def tcvtOp : EM EDone := do
  let k ← capture
  let d ← transDesc
  let n := fld d 24 4
  let mxf := fld d 30 1
  let dmx := bit mxf 0
  let smx := bit mxf 1
  match fmtOfCode (fld d 28 1), fmtOfCode (fld d 29 1) with
  | some src, some dst => do
    chkFormat (badCtl d || decide (2 < mxf) || (dmx && !mxAllowed dst) || (smx && !mxAllowed src))
    chkAlign (fld d 0 8) (fmtAlign src)
    chkAlign (fld d 8 8) (fmtAlign dst)
    chkMul n (countUnit src)
    chkMul n (countUnit dst)
    if dmx || smx then chkMul n 32
    chkCtr
    begin_
    let bs ← readLong (fld d 0 8) (fmtBytes src n) 0
    let sc ← if smx then readLong (fld d 16 8) (n / 32) 0 else pure []
    let (out, scs, f) := cvtAll src dst dmx smx n (leVal bs) sc ⟨k.rnd, k.seed.toNat, k.step.toNat⟩ k.sat
    writeLong (fld d 8 8) out (ctlHint d)
    writeLong (fld d 16 8) scs (ctlHint d)
    pure (EDone.of { Finish.plain with add := true, flags := f })
  | _, _ => do
    chkFormat true
    pure EDone.plain

/-! ### Block tables -/

/-- A block-table entry (R249): valid, block address, first position, token count. -/
structure BEntry where
  valid : Bool
  block : Nat
  first : Nat
  count : Nat
  deriving DecidableEq, Repr

/-- The entry that 16 bytes hold (R249). -/
def entryOf (bs : List Byte) : BEntry :=
  let x := fld bs 0 8
  ⟨bit x 0, x / 64 * 64, fld bs 8 4, fld bs 12 1⟩

/-- A valid entry is skipped as malformed (R249). -/
def entryMalformed (e : BEntry) : Bool :=
  e.count == 0 || decide (64 < e.count) || decide (2 ^ 32 < e.first + e.count)

/-- Entries that are not skipped, and the counts of invalid and malformed ones (R249). -/
def usableEntries (es : List BEntry) : List BEntry × Nat × Nat :=
  (es.filter fun e => e.valid && !entryMalformed e, (es.filter fun e => !e.valid).length,
   (es.filter fun e => e.valid && entryMalformed e).length)

/-- Read `n` entries, each with one 16-byte read (R249). -/
def readEntries (va n mark : Nat) : EM (List BEntry) :=
  (List.range n).mapM fun i => do
    let bs ← readMem (va + 16 * i) 16 (16 * i) mark
    pure (entryOf bs)

/-- Bytes of the latent part of a slot (R249, R282). -/
def latentBytes (dc lfmt : Nat) : Nat := if lfmt = 0 then 2 * dc else dc + dc / 32

/-- One rotated pair (R282): its two codes and their flags. A sum that is exactly zero has the sign that R59 step 5 gives it, in every
rounding mode (DESIGN CHOICE, log 79). -/
def ropePair (cap : Capture) (cs : Nat × Nat) (x y j : Nat) : (Nat × Nat) × Nat :=
  let c := fltValue .fp32 cs.1
  let sn := fltValue .fp32 cs.2
  let vx := fltValue .bf16 x
  let vy := fltValue .bf16 y
  let rnd : Rnd := ⟨cap.rnd, cap.seed.toNat, cap.step.toNat⟩
  let (t, f) := exactSum [prodOf vx c, prodOf vy (fvNegate sn)]
  let (u, g) := exactSum [prodOf vx sn, prodOf vy c]
  let (a, h) := roundToFormat t .bf16 rnd cap.sat j
  let (b, k) := roundToFormat u .bf16 rnd cap.sat (j + 1)
  ((a, b), f ||| g ||| h ||| k)

/-- The rotary part of one slot from pair `i` on (R282): its bytes and flags. -/
def ropeSlot (cap : Capture) (bs : List Byte) : Nat → Nat → List (Nat × Nat) → List Byte × Nat
  | _, _, [] => ([], 0)
  | i, j, c :: r =>
    let ((a, b), f) := ropePair cap c (fld bs (4 * i) 2) (fld bs (4 * i + 2) 2) j
    let (rest, g) := ropeSlot cap bs (i + 1) (j + 2) r
    (leList 2 a ++ leList 2 b ++ rest, f ||| g)

/-- The slots of the entries in order (R282): `j` counts the elements before, of 2 bytes each; the flags of all. -/
def ropeSlots (cap : Capture) (cs : List (Nat × Nat)) (mark lb : Nat) : Nat → List Nat → EM Nat
  | _, [] => pure 0
  | j, r :: rest => do
    let n := 4 * cs.length
    let bs ← readMem (r + lb) n (2 * j) 0
    let (out, f) := ropeSlot cap bs 0 j cs
    writeMem (r + lb) out (2 * j) mark
    let g ← ropeSlots cap cs mark lb (j + 2 * cs.length) rest
    pure (f ||| g)

/-- TROPE (R282). -/
def tropeOp : EM EDone := do
  let k ← capture
  let d ← transDesc
  let n := fld d 16 2
  let dc := fld d 18 2
  let dr := fld d 20 1
  let lfmt := fld d 21 1
  chkFormat (badCtl d || n == 0 || decide (4096 < n) || decide (dc < 32) || decide (1024 < dc) || decide (dr < 2)
    || decide (128 < dr) || decide (1 < lfmt) || fld d 22 9 != 0)
  chkAlign (fld d 0 8) 16
  chkAlign (fld d 8 8) 4
  chkMul dc 32
  chkMul dr 2
  chkCtr
  begin_
  let th ← readLong (fld d 8 8) (2 * dr) 0
  let es ← readEntries (fld d 0 8) n 0
  let (use_, inv, mal) := usableEntries es
  let cs := (List.range (dr / 2)).map fun i => cosSin (k.sb.toNat % 2 ^ 32 * fld th (4 * i) 4 % 2 ^ 32)
  let lb := latentBytes dc lfmt
  let slots := (use_.map fun e => (List.range e.count).map fun s => e.block + s * (lb + 2 * dr)).flatten
  let f ← ropeSlots k cs (ctlHint d) lb 0 slots
  pure (EDone.addsReply (inv + mal * 2 ^ 16) f)

/-- The writes of TSPLICE (R283) in order, as (index, entry bytes): moved entries, inserted ones, then zeros. -/
def spliceWrites (n at_ del nins dpos : Nat) (old ins : List Byte) : List (Nat × List Byte) :=
  let tail := n - at_ - del
  let n' := n - del + nins
  let clean (bs : List Byte) (first : Nat) : List Byte := bs.take 8 ++ leList 4 first ++ leList 1 (fld bs 12 1) ++ leList 3 0
  let moved := (List.range tail).map fun t =>
    let e := (old.drop (16 * t)).take 16
    (at_ + nins + t, clean e ((fld e 8 4 + dpos) % 2 ^ 32))
  let moved := if del < nins then moved.reverse else moved
  let inserted := (List.range nins).map fun k =>
    let e := (ins.drop (16 * k)).take 16
    (at_ + k, clean e (fld e 8 4))
  moved ++ inserted ++ (List.range (n - n')).map fun k => (n' + k, leList 16 0)

/-- TSPLICE (R283). -/
def tspliceOp : EM EDone := do
  let k ← capture
  let d ← transDesc
  let tbl := fld d 0 8
  let n := fld d 16 4
  let at_ := fld d 20 4
  let del := fld d 24 2
  let nins := fld d 26 2
  let cap := fld d 28 3
  chkFormat (badCtl d || decide (4096 < nins) || decide (cap < n) || decide (n < at_) || decide (n - at_ < del)
    || decide (cap < n - del + nins))
  chkAlign tbl 16
  chkAlign (fld d 8 8) 16
  chkCtr
  begin_
  let olds ← (List.range (n - at_ - del)).mapM fun t =>
    readMem (tbl + 16 * (at_ + del + t)) 16 (16 * (at_ + del + t)) 0
  let inss ← (List.range nins).mapM fun i => readMem (fld d 8 8 + 16 * i) 16 (16 * i) 0
  (spliceWrites n at_ del nins (k.sb.toNat % 2 ^ 32) olds.flatten inss.flatten).forM fun x =>
    writeMem (tbl + 16 * x.1) x.2 (16 * x.1) (ctlHint d)
  pure (EDone.addsReply ((n - del + nins) % 2 ^ 32) 0)

/-- Fresh blocks an append takes (R284 step 2). -/
def freshNeed (c ntok : Nat) : Nat := (c + ntok - 64 + 63) / 64

/-- The address of the slot of token `t` (R284 step 4). -/
def appendSlot (b c slotb : Nat) (fresh : List Nat) (t : Nat) : Nat :=
  if c + t < 64 then b + (c + t) * slotb
  else fresh.getD ((c + t - 64) / 64) 0 + (c + t - 64) % 64 * slotb

/-- TKVAPP (R284). -/
def tkvappOp : EM EDone := do
  let k ← capture
  let d ← transDesc
  let slotb := wbits k.sb 15 0
  let cap := wbits k.sb 31 16
  let tbl := fld d 0 8
  let n := fld d 24 4
  let ntok := fld d 28 2
  chkFormat (badCtl d || wbits k.sb 63 32 != 0 || decide (slotb < 2) || decide (4096 < slotb) || cap == 0 || n == 0
    || decide (4096 < ntok) || fld d 30 1 != 0)
  chkAlign tbl 16
  chkAlign (fld d 16 8) 8
  chkMul slotb 2
  chkCtr
  let eb ← readMem (tbl + 16 * (n - 1)) 16 (16 * (n - 1)) 0
  let e := entryOf eb
  chkFormat (!e.valid || e.count == 0 || decide (64 < e.count))
  let need := freshNeed e.count ntok
  let fb ← readLong (fld d 16 8) (8 * need) 0
  let fresh := (List.range need).map fun i => fld fb (8 * i) 8
  chkFormat (fresh.any (fun x => x % 64 != 0) || decide (cap < n + need))
  begin_
  (List.range ntok).forM fun t => do
    let bs ← readLong (fld d 8 8 + t * slotb) slotb 0 (t * slotb)
    writeLong (appendSlot e.block e.count slotb fresh t) bs (ctlHint d) (t * slotb)
  writeMem (tbl + 16 * (n - 1)) (eb.take 12 ++ leList 1 (min 64 (e.count + ntok)) ++ leList 3 0) (16 * (n - 1)) (ctlHint d)
  (List.range need).forM fun i =>
    writeMem (tbl + 16 * (n + i))
      (leList 8 (fresh.getD i 0 + 1) ++ leList 4 (e.first + 64 * (i + 1))
        ++ leList 1 (min 64 (e.count + ntok - 64 * (i + 1))) ++ leList 3 0) (16 * (n + i)) (ctlHint d)
  pure (EDone.addsReply ((n + need) % 2 ^ 32 + need * 2 ^ 32) 0)

/-- What a word of the transform engine does. -/
def transBody (i : Instr) : EM EDone :=
  match i with
  | .tcvt _ _ _ _ _ => tcvtOp
  | .tcopy _ _ _ _ _ _ => tcopyOp
  | .trope _ _ _ _ _ _ => tropeOp
  | .tsplice _ _ _ _ _ _ => tspliceOp
  | .tfill _ _ _ _ _ _ => tfillOp
  | .tkvapp _ _ _ _ _ _ => tkvappOp
  | .tchk _ _ _ _ _ => tchkOp
  | _ => pure EDone.plain

end Sys2Proof.Machine
end

