-- ==== Sys2Proof/Machine/MatCalc.lean ====
section
/-! DEFINITION. What the matrix words compute (R226 to R241, R247 to R251): operand blocks and their sparse forms, the
elements of a tile, drains, projections and attention. -/

namespace Sys2Proof.Machine

/-! ### Format pairs -/

/-- A legal pair of operand formats with their MX flags (R41, R42). -/
structure MPair where
  fa : Fmt
  mxa : Bool
  fb : Fmt
  mxb : Bool
  deriving DecidableEq, Repr

/-- Entry `p` of the format-pair table as captured (R108). -/
def pairCode (k : Capture) (p : Nat) : Nat :=
  if p < 4 then wbits k.mfmt (16 * p + 15) (16 * p) else wbits k.mfmth (16 * (p - 4) + 15) (16 * (p - 4))

/-- The pair an entry names, when it passes R41 and R42. -/
def pairOf (code : Nat) : Option MPair :=
  match matFmtOfCode (bits code 3 0), matFmtOfCode (bits code 11 8) with
  | some fa, some fb =>
    if (bit code 4 && !mxAllowed fa) || (bit code 12 && !mxAllowed fb) || fmtClass fa ≠ fmtClass fb then none
    else some ⟨fa, bit code 4, fb, bit code 12⟩
  | _, _ => none

/-- The depth KS of one MMA (R226). -/
def ksOf (p : MPair) : Nat :=
  if p.fa = .bin then 1024 else if storedW p.fa = 4 ∧ storedW p.fb = 4 then 256 else 128

/-- The group size of fpDot for a pair (R58). -/
def groupOf (p : MPair) : Nat := if storedW p.fa = 16 ∨ storedW p.fb = 16 then 16 else 32

/-- Kept values per group of 128 of a sparse code (R231). -/
def keptOf (spn : Nat) : Nat := if spn = 1 then 64 else if spn = 2 then 32 else 16

/-! ### Operands -/

/-- Codes per k: the values of a row of A or a column of B whose coordinates name each k (R234). -/
abbrev KLine := List (List Nat)

/-- The bytes of `n` packed values (R227). -/
def packBytes (f : Fmt) (n : Nat) : Nat := (n * storedW f + 7) / 8

/-- Line `i` of a dense block of lines of `n` elements (R227). -/
def denseLine (f : Fmt) (bs : List Byte) (n i : Nat) : KLine :=
  let w := n * storedW f / 8
  (elems f (leVal ((bs.drop (w * i)).take w)) n).map fun x => [x]

/-- The 128 lines of a dense block (R227). -/
def denseLines (f : Fmt) (bs : List Byte) (ks : Nat) : List KLine := (List.range 128).map (denseLine f bs ks)

/-- The columns of a block whose line k holds B[k][0 .. 127] (R227). -/
def rowWiseCols (f : Fmt) (bs : List Byte) (ks : Nat) : List KLine :=
  let rows := (List.range ks).map fun k => elems f (leVal ((bs.drop (16 * storedW f * k)).take (16 * storedW f))) 128
  (List.range 128).map fun j => rows.map fun r => [listGet 0 r j]

/-- Coordinate records gathered per k (R234): (line, k, value) of one line. -/
def gatherK (ks : Nat) (l : List (Nat × Nat × Nat)) (i : Nat) : KLine :=
  let mine := l.filter fun x => x.1 == i
  (List.range ks).map fun k => (mine.filter fun x => x.2.1 == k).map fun x => x.2.2

/-- The compressed A lines of IP (R227, R235): N values and N index bytes per group of 128. -/
def ipSparse (f : Fmt) (vals idx : List Byte) (ks n : Nat) : List KLine :=
  let per := ks / 128 * n
  let vs := elems f (leVal vals) (128 * per)
  (List.range 128).map fun i =>
    let l := (List.range per).map fun e =>
      (i, 128 * (e / n) + (listGet 0 idx (per * i + e)).toNat % 128, listGet 0 vs (per * i + e))
    gatherK ks l i

/-- The records of an OP list (R236): (line, k, value), and how many are out of range, the first of them by place. -/
def opRecords (f : Fmt) (recs vals : List Byte) (n ks : Nat) : List (Nat × Nat × Nat) × List (Nat × Nat) :=
  let vs := elems f (leVal vals) n
  let all := (List.range n).map fun r =>
    let x := fieldAt recs (2 * r) 2
    (bits x 14 8, bits x 7 0, listGet 0 vs r)
  (all.filter fun x => decide (x.2.1 < ks), (all.filter fun x => !decide (x.2.1 < ks)).map fun x => (x.1, x.2.1))

/-- Row pointer `i` of RW metadata (R227). -/
def rwPtr (md : List Byte) (i : Nat) : Nat := fieldAt md (2 * i) 2

/-- nnz of RW metadata (R237). -/
def rwNnz (md : List Byte) : Nat := rwPtr md 128 - rwPtr md 0

/-- Row `i` is malformed (R237). -/
def rwBad (md : List Byte) (i : Nat) : Bool :=
  decide (rwPtr md (i + 1) < rwPtr md i) || decide (rwPtr md i < rwPtr md 0) || decide (rwPtr md 128 < rwPtr md (i + 1))

/-- The entries (column, value) of row `i` (R237). -/
def rwEntries (f : Fmt) (md vals : List Byte) (i : Nat) : List (Nat × Nat) :=
  if rwBad md i then []
  else
    let vs := elems f (leVal vals) (rwNnz md)
    (List.range (rwPtr md (i + 1) - rwPtr md i)).map fun j =>
      let e := rwPtr md i - rwPtr md 0 + j
      (fieldAt md (288 + 2 * e) 2, listGet 0 vs e)

/-- The rows of A in RW sparse form (R237). -/
def rwRows (f : Fmt) (md vals : List Byte) (ks : Nat) : List KLine :=
  (List.range 128).map fun i =>
    let es := rwEntries f md vals i
    (List.range ks).map fun k => (es.filter fun x => x.1 == k).map fun x => x.2

/-- Entries of RW metadata with a column out of range (R237, R238): every e below nnz. -/
def rwOut (md : List Byte) (ks : Nat) : Nat :=
  ((List.range (rwNnz md)).filter fun e => decide (ks ≤ fieldAt md (288 + 2 * e) 2)).length

/-- The scales of one line, a block of 32 each (R228); an operand without MX has code 127 in every block (R58). -/
def lineScales (mx : Bool) (scales : List Byte) (ks i : Nat) : List (Option Int) :=
  (List.range (ks / 32)).map fun q => if mx then scaleExp (listGet 0 scales (i * (ks / 32) + q)) else some 0

/-! ### Tiles -/

/-- The products at one k (R234): one that no coordinate names contributes +0 (R61). -/
def kProds (x y : List FVal) : List Prod :=
  if x.isEmpty || y.isEmpty then [.fin false 0 0] else (x.map fun a => y.map fun b => prodOf a b).flatten

/-- The values of a line. -/
def lineVals (f : Fmt) (l : KLine) : List (List FVal) := l.map fun xs => xs.map (fmtValue f)

/-- A floating element of a tile (R58, R234). -/
def fltElem (g : Nat) (a b : List (List FVal)) (sa sb : List (Option Int)) (start : Nat) : Nat × Nat :=
  fpDot (start, 0) ((chunks g (a.length + 1) (a.zip b)).zipIdx.map fun x =>
    ((x.1.map fun p => kProds p.1 p.2).flatten, listGet (some 0) sa (x.2 * g / 32), listGet (some 0) sb (x.2 * g / 32)))

/-- An integer element (R60): a sum modulo 2^32. -/
def intElem (fa fb : Fmt) (a b : KLine) (start : Nat) : Nat :=
  let t := (a.zip b).foldl (fun (acc : Int) p =>
    p.1.foldl (fun acc x => p.2.foldl (fun acc y => acc + intValue fa x * intValue fb y) acc) acc) (start : Int)
  ofSigned 32 t

/-- A binary element (R60): the differing bits, added modulo 2^32. -/
def binElem (a b : KLine) (start : Nat) : Nat :=
  (start + ((a.zip b).filter fun p => p.1 != p.2).length) % 2 ^ 32

/-- A row of elements of 32 bits as a register. -/
def rowReg (l : List Nat) : VReg := BitVec.ofNat 4096 (packW 32 l)

/-- The elements of a row of a tile. -/
def rowElems (x : VReg) : List Nat := elems (.uint 32) x.toNat 128

/-- The tile of an MMA with its flags (R234): `old` holds the rows the elements start from. -/
def mmaTile (p : MPair) (a b : List KLine) (sa sb : Nat → List (Option Int)) (old : List (List Nat)) :
    List (List Nat) × Nat :=
  let vb := if fmtClass p.fb = 0 then b.map (lineVals p.fb) else []
  let rows := (a.zip old).zipIdx.map fun x =>
    let va := if fmtClass p.fa = 0 then lineVals p.fa x.1.1 else []
    let sx := sa x.2
    (b.zip x.1.2).zipIdx.map fun y =>
      if p.fa = .bin then (binElem x.1.1 y.1.1 y.1.2, 0)
      else if isInt p.fa then (intElem p.fa p.fb x.1.1 y.1.1 y.1.2, 0)
      else fltElem (groupOf p) va (listGet [] vb y.2) sx (sb y.2) y.1.2
  (rows.map fun r => r.map (·.1), rows.foldl (fun f r => r.foldl (fun f x => f ||| x.2) f) 0)

/-! ### Drains -/

/-- Element (i, j) of a tile read for a drain (R241): FP32, or I32 with SRC = 1. -/
def drainVal (i32 : Bool) (x : Nat) : FVal := if i32 then fvInt (toSigned 32 x) else fltValue .fp32 x

/-- One converted element of a drain (R241). -/
def drainElem (i32 : Bool) (dst : Fmt) (r : Rnd) (sat : Bool) (x idx : Nat) : Nat × Nat :=
  convert (if i32 then .sint 32 else .flt .fp32) dst x r sat idx

/-- Line `l` of a drain: the tile's elements with their row and column (R241). -/
def drainLine (tile : List (List Nat)) (trans : Bool) (l : Nat) : List (Nat × Nat) :=
  if trans then tile.zipIdx.map fun r => (listGet 0 r.1 l, 128 * r.2 + l)
  else (listGet [] tile l).zipIdx.map fun x => (x.1, 128 * l + x.2)

/-- The codes of a drained line with scales and flags; with MX, runs of 32 are quantised (R45, R241). -/
def drainCodes (i32 mx : Bool) (dst : Fmt) (r : Rnd) (sat : Bool) (l : List (Nat × Nat)) : List Nat × List Nat × Nat :=
  match mx, dst with
  | true, .flt f =>
    let bs := (chunks 32 5 l).map fun c => mxQuantise (c.map fun x => (drainVal i32 x.1, x.2)) f r
    ((bs.map fun b => b.2.1).flatten, bs.map (·.1), bs.foldl (fun a b => a ||| b.2.2) 0)
  | _, _ =>
    let es := l.map fun x => drainElem i32 dst r sat x.1 x.2
    (es.map (·.1), [], es.foldl (fun a x => a ||| x.2) 0)

/-- The bytes of a drained line. -/
def drainBytes (dst : Fmt) (codes : List Nat) : List Byte := leList (16 * storedW dst) (packE dst codes)

/-- The records of a key-value drain (R241): nonzero elements in order, at most `cap`; whether some are left out; their flags. R241
names bit 32 FULL without saying when it is set, and does not say whether an element that is left out raises flags: FULL is set when
a nonzero element was left out, and only records written raise flags (DESIGN CHOICE, log 79). -/
def drainRecords (i32 : Bool) (dst : Fmt) (r : Rnd) (sat : Bool) (tile : List (List Nat)) (trans : Bool) (cap : Nat) :
    List (Nat × Nat) × Bool × Nat :=
  let all := ((List.range 128).map fun l => (drainLine tile trans l).zipIdx.filterMap fun x =>
    if (if i32 then x.1.1 == 0 else x.1.1 % 2 ^ 31 == 0) then none else some (128 * l + x.2, x.1)).flatten
  let kept := (all.take cap).map fun x => (x.1, drainElem i32 dst r sat x.2.1 x.2.2)
  (kept.map fun x => (x.1, x.2.1), decide (cap < all.length), kept.foldl (fun a x => a ||| x.2.2) 0)

/-! ### Projections -/

/-- BF16 values of bytes. -/
def bf16s (bs : List Byte) (n : Nat) : List Nat := elems (.flt .bf16) (leVal bs) n

/-- The BF16 values as numbers. -/
def bfVals (l : List Nat) : List FVal := l.map (fltValue .bf16)

/-- Row `c` of a region (R246). -/
def projRow (p : Proj) (c : Nat) : List FVal := bfVals ((p.vals.drop (p.d * c)).take p.d)

/-- Column `j` of a region. -/
def projCol (p : Proj) (j : Nat) : List FVal := (List.range p.dc).map fun c => fltValue .bf16 (listGet 0 p.vals (p.d * c + j))

/-- The vectors MLAT contracts an input row with, by column (R247). -/
def latCols (p : Proj) (ukt : Bool) (b : Nat) : List (List FVal) :=
  if ukt then (List.range (min 128 (p.dc - 128 * b))).map fun j => projRow p (128 * b + j)
  else (List.range p.d).map (projCol p)

/-- One row of an MLAT (R247): the new elements and the flags. -/
def latRow (cols : List (List FVal)) (acc : Bool) (inp : List FVal) (old : List Nat) : List Nat × Nat :=
  let es := old.zipIdx.map fun x =>
    match cols[x.2]? with
    | some c => plainDot (if acc then x.1 else 0, 0) inp c 16
    | none => (if acc then x.1 else 0, 0)
  (es.map (·.1), es.foldl (fun a x => a ||| x.2) 0)

/-! ### Attention -/

/-- Whether the x of a maximum ranks below y: NaN ranks above every number (R251). -/
def maxPick (x y : FVal) : FVal := if fvIsNan x then x else if fvIsNan y then y else if fvLt x y then y else x

/-- roundF (R251) of a value with its flags. -/
def roundF (x : FVal × Nat) : FVal × Nat :=
  let (v, f) := roundToFormat x.1 .fp32 rne false 0
  (fltValue .fp32 v, x.2 ||| f)

/-- roundToFormat to BF16, to nearest even (R250, R251). -/
def roundB (x : FVal × Nat) : FVal × Nat :=
  let (v, f) := roundToFormat x.1 .bf16 rne false 0
  (fltValue .bf16 v, x.2 ||| f)

/-- The exact quotient of two numbers, close enough to be rounded once (R251). -/
def fvDiv (x y : FVal) : FVal × Nat :=
  match x, y with
  | .nan, _ | _, .nan => (.nan, 0)
  | .inf _, .inf _ => (.nan, fNV)
  | .inf a, .fin b _ _ _ => (.inf (a != b), 0)
  | .fin a _ _ _, .inf b => (.fin (a != b) 0 0 false, 0)
  | .fin a m e s, .fin b n k _ =>
    if n = 0 then if m = 0 then (.nan, fNV) else (.inf (a != b), 0)
    else (.fin (a != b) (m * 2 ^ 128 / n) (e - k - 128) (s || m * 2 ^ 128 % n != 0), 0)

/-- A token of MATT: its position, its key-side values for the score, its value vector (R250). -/
structure MToken where
  pos : Nat
  key : List FVal
  rot : List FVal
  val : List FVal
  deriving DecidableEq, Repr

/-- The score of a row and a token (R250), with flags. -/
def scoreOf (qp qr : List FVal) (scale : FVal) (t : MToken) : FVal × Nat :=
  let a := plainDot (0, 0) qp t.key 16
  let a := plainDot a qr t.rot 16
  let (x, f) := fvMul (fltValue .fp32 a.1) scale
  roundF (x, a.2 ||| f)

/-- The running state of a row of MATT (R251): m, l, U, and the flags. -/
structure MRow where
  m : FVal
  l : FVal
  u : List FVal
  fl : Nat
  deriving DecidableEq, Repr

/-- The update of a row by the tokens of one entry that take part (R251). The rounding inside an exponential raises no flag (DEDUCED,
log 57). -/
def mattEntry (r : MRow) (ps : List (FVal × MToken)) : MRow :=
  if ps.isEmpty then r
  else
    let mn := ps.foldl (fun m p => maxPick m p.1) r.m
    let e (x : FVal) : FVal × Nat :=
      let (d, f) := fvAdd x (fvNegate mn) false
      let (v, g) := roundF (d, f)
      (fltValue .fp32 (expCR v), g)
    let (a, f1) := if r.m = .inf true then (FVal.zero, 0) else e r.m
    let ws := ps.map fun p => e p.1
    let f2 := ws.foldl (fun f w => f ||| w.2) f1
    let (ls, f3) := exactSum (ws.map fun w => prodOf w.1 (fvInt 1))
    let (la, f4) := fvMul r.l a
    let (ln, f5) := fvAdd la ls false
    let (l, f6) := roundF (ln, f3 ||| f4 ||| f5)
    let us := r.u.zipIdx.map fun x =>
      let (sv, g1) := exactSum ((ws.zip ps).map fun p => prodOf p.1.1 (listGet FVal.zero p.2.2.val x.2))
      let (ua, g2) := fvMul x.1 a
      let (un, g3) := fvAdd ua sv false
      roundF (un, g1 ||| g2 ||| g3)
    ⟨mn, l, us.map (·.1), us.foldl (fun f x => f ||| x.2) (r.fl ||| f2 ||| f6)⟩

/-- The output of a row (R251): its 128 elements, whether no token took part, the flags. -/
def mattOut (absorb : Bool) (wv : Proj) (r : MRow) : List Nat × Bool × Nat :=
  if fvIsZero r.l then (List.replicate 128 0, true, r.fl)
  else if absorb then
    let us := r.u.map fun x => roundB (fvDiv x r.l)
    let fl := us.foldl (fun f x => f ||| x.2) r.fl
    let es := (List.range 128).map fun j =>
      if j < wv.d then plainDot (0, 0) (us.map (·.1)) (projCol wv j) 16 else (0, 0)
    (es.map (·.1), false, es.foldl (fun f x => f ||| x.2) fl)
  else
    let es := (List.range 128).map fun j =>
      match r.u[j]? with
      | some x =>
        if j < wv.d then
          let (d, f) := fvDiv x r.l
          let (v, g) := roundToFormat d .fp32 rne false 0
          (v, f ||| g)
        else (0, 0)
      | none => (0, 0)
    (es.map (·.1), false, es.foldl (fun f x => f ||| x.2) r.fl)

/-- A token of expand mode: its key and value vectors (R250), with flags. -/
def expandVec (p : Proj) (lat : List FVal) : List FVal × Nat :=
  let xs := (List.range p.d).map fun j =>
    let (v, f) := plainDot (0, 0) lat (projCol p j) 16
    roundB (fltValue .fp32 v, f)
  (xs.map (·.1), xs.foldl (fun f x => f ||| x.2) 0)

end Sys2Proof.Machine
end

