-- ==== Sys2Proof/Machine/MatWords.lean ====
section
/-! DEFINITION. The words of the matrix engine (R222 to R254): who owns the matrix operand state, blocks taken from rings or
from a broadcast group, loads, MMA, nest-driven issue, drains, groups, projections, attention. -/

namespace Sys2Proof.Machine

/-! ### Ownership -/

/-- Bytes of a matrix save area (R225, R357). -/
def saveBytes : Nat := 335936

/-- The double trap of a bank whose save area cannot be reached (R357). -/
def saveTrap (s : State) (a : AgentId) (cause va : Nat) (det : Word) : State :=
  let c := getCtx s a
  doubleTrap s a ⟨cause, .bank, 0, curPc c, curPc c, BitVec.ofNat 64 va, det, true⟩

/-- The loaded parts of a bank's matrix operand state, as offset in the save area and length (R225): the shadow and the resident block,
each with its scales, the scale-queue bytes present, the loaded regions, the tags. R225 gives the largest length of each part and no
places: each part has room for its largest, in the order in which R225 names them (DESIGN CHOICE, log 26). -/
def saveParts (m : MatState) : List (Nat × Nat) :=
  let block := fun (b : Option BBlock) => match b with
    | some b => b.bytes.length + b.scales.length
    | none => 0
  let region := fun (p : Option Proj) => match p with
    | some p => 2 * p.dc * p.d
    | none => 0
  [(0, block m.shadow), (32768, block m.resident), (65536, m.scaleA.length), (69632, m.scaleB.length), (73728, region m.wk),
    (204800, region m.wv), (335872, 64)].filter fun x => x.2 != 0

/-- Parts of the save area at `base`, as the runs of virtual addresses that lie within one page. -/
def saveRuns (base : Nat) (parts : List (Nat × Nat)) : List (Nat × Nat) :=
  parts.flatMap fun x => pagePieces (base + x.1) (pieceFuel x.2) x.2

/-- The places of runs of a save area, or the cause that halts the bank with the address that fails (R349, R357), and the state after
the translations. -/
def saveArea (s : State) (a : AgentId) (kind : AccKind) :
    List (Nat × Nat) → Except (Nat × Nat) (List (Loc × Nat)) × State
  | [] => (.ok [], s)
  | (va, n) :: r =>
    let p := (getCtx s a).life.part
    match xlate s sysTlb p (asidBase s p) va kind false with
    | (.ok l, s) =>
      match saveArea s a kind r with
      | (.ok ks, s) => (.ok ((l, n) :: ks), s)
      | x => x
    | (.invalid, s) => (.error (7, va), s)
    | (_, s) => (.error (6, va), s)

/-- The virtual address of the first uncorrectable error in the runs of a save area, with the error. -/
def saveBad (s : State) (runs : List (Nat × Nat)) (ls : List (Loc × Nat)) : Option (Nat × ErrMark) :=
  (runs.zip ls).findSome? fun x =>
    (locBad s x.2.1 x.2.2).map fun m => (x.1.1 + ((memErrAt m).2.2 - x.2.1.pa), m)

/-- The saved state of a bank (R225). -/
def savedOf (k : Core) (b : Bool) : Option MatState := if b then k.savedB else k.savedA

/-- Set the saved state of a bank. -/
def setSaved (k : Core) (b : Bool) (m : Option MatState) : Core := if b then { k with savedB := m } else { k with savedA := m }

/-- The bank that owns the state is frozen or waits to run again: the loaded parts of its state are written to its save area, as
bytes that are free values (log 26), by the core's matrix engine (R122, R125); a failing write halts that bank (R225, R357). -/
def saveMatrix (s : State) (core : Nat) (b : Bool) : State :=
  let a := AgentId.bank core b
  let parts := saveParts (getCore s core).mat
  match saveArea s a .write (saveRuns (getCtx s a).trap.msave.toNat parts) with
  | (.error (cause, va), s) =>
    saveTrap (setCore s core { getCore s core with owner := none, mat := MatState.reset }) a cause va 0
  | (.ok ls, s) =>
    let n := s.sch.freeCtr
    let bytes := parts.flatMap fun x => (List.range x.2).map fun i => Config.saveByte n (x.1 + i)
    let s := l2Pieces (dropLines (piecesWrite s ls bytes) (some (ctxKey a)) ls) (some (getCtx s a).life.part) 0 true ls
    let s := { s with sch := { s.sch with freeCtr := n + 1 } }
    let k := getCore s core
    setCore s core { setSaved k b (some k.mat) with owner := none, mat := MatState.reset }

/-- Before a bank's M word starts, the matrix operand state becomes that bank's (R225): the other bank's is saved or
discarded, its own is read back, or it is empty. An uncorrectable error in the bytes read back halts the bank as a translation
failure does, with the address of the error and the source memory (R440; DEDUCED, log 26). -/
def claimMatrix (s : State) (a : AgentId) : State :=
  match a with
  | .seq _ => s
  | .bank core b =>
    if (getCore s core).owner = some b then s
    else
      let s :=
        if (getCore s core).owner = some (!b) then
          let st := (getCtx s (.bank core (!b))).life.status
          if st = .frozen ∨ st = .standby then saveMatrix s core (!b)
          else setCore s core { getCore s core with owner := none, mat := MatState.reset }
        else s
      let k := getCore s core
      match savedOf k b with
      | none => setCore s core { k with owner := some b, mat := MatState.reset }
      | some m =>
        let runs := saveRuns (getCtx s a).trap.msave.toNat (saveParts m)
        match saveArea s a .read runs with
        | (.error (cause, va), s) => saveTrap s a cause va 0
        | (.ok ls, s) =>
          let seen := fun (s : State) => l2Pieces s (some (getCtx s a).life.part) 0 false ls
          match saveBad s runs ls with
          | some (va, e) => saveTrap (seen (logMem s a e)) a 0x0E va (2 * 2 ^ 16)
          | none =>
            let s := tookBytes (seen s) (some (ctxKey a)) ls
            setCore s core { setSaved (getCore s core) b none with owner := some b, mat := m }

/-- The matrix operand state a word sees. -/
def getMat (s : State) (a : AgentId) : MatState := (getCore s (agentCore a)).mat

/-- Change the matrix operand state. -/
def updMat (f : MatState → MatState) : EM Unit := eff fun s a =>
  let k := getCore s (agentCore a)
  setCore s (agentCore a) { k with mat := f k.mat }

/-! ### Broadcast groups -/

/-- The group of one operand that a bank is a member of (R242). -/
def groupOfBank (s : State) (a : AgentId) (opB : Bool) : Option (Nat × BGroup) :=
  match a with
  | .seq _ => none
  | .bank core b => s.groups.find? fun kg =>
      kg.1 / 16 == coreCluster core && (kg.1 / 8 % 2 == 1) == opB && kg.2.members.any fun m => m.core == core && m.b == b

/-- The bank is a member of some group. -/
def inGroup (s : State) (a : AgentId) : Bool := (groupOfBank s a false).isSome || (groupOfBank s a true).isSome

/-- The leader of a group: the member of the lowest core (R242). -/
def leaderCore (g : BGroup) : Nat := g.members.foldl (fun n m => min n m.core) 384

/-- The member of a group that is on a core. -/
def memberOf (g : BGroup) (core : Nat) : Option Member := g.members.find? fun m => m.core == core

/-- Bytes that a delivery has brought a bank (R243). -/
def gotOf (g : BGroup) (core : Nat) : Option (List Byte) := (memberOf g core).bind fun m => m.got

/-- The bank's next broadcast read is of its own ring: a read already delivered is of the ring of the bank that led then, a later one
of the ring of the bank that leads now (R243, R244). -/
def leadsRead (g : BGroup) (core : Nat) : Bool :=
  match memberOf g core with
  | some m => if m.got.isSome then m.own else leaderCore g == core
  | none => leaderCore g == core

/-- A member's bank is frozen: a read that waits for it, whose own words do not start, is no token wait (R229). R229 speaks of
frozen and of unfrozen members; a read that waits for one of each is none either (DESIGN CHOICE, log 28). -/
def memberFrozen (s : State) (g : BGroup) : Bool :=
  g.members.any fun m => (getCtx s (.bank m.core m.b)).life.status == .frozen

/-- Change a member of a group. -/
def updMember (s : State) (key core : Nat) (f : Member → Member) : State :=
  { s with groups := s.groups.map fun kg =>
      if kg.1 = key then (kg.1, { kg.2 with members := kg.2.members.map fun m => if m.core = core then f m else m })
      else kg }

/-! ### Blocks from rings -/

/-- Slots that hold `n` bytes. -/
def slotsFor (c : Ctx) (ring n : Nat) : Nat := (n + ringS (getRing c ring) - 1) / ringS (getRing c ring)

/-- The bank reads this ring for the operand: it is in no group of it, or the read is of its own ring (R243). -/
def readsRing (s : State) (a : AgentId) (cast : Option Bool) : Bool :=
  match cast with
  | none => true
  | some op =>
    match groupOfBank s a op with
    | none => true
    | some kg => leadsRead kg.2 (agentCore a)

/-- The ring a word reads is usable (R117, R233). -/
def chkBlock (cast : Option Bool) (ring : Nat) : EM Unit := do
  let reads ← look fun s a _ => readsRing s a cast
  if reads then chkUsable ring

/-- Wait until a block of `n` bytes is there (R227): in its ring, after `used` slots that the word takes before it, or
from the word's group (R229, R243). -/
def waitBlock (cast : Option Bool) (ring used n : Nat) : EM Unit := do
  let reads ← look fun s a _ => readsRing s a cast
  let room ← look fun _ _ c => decide (used + slotsFor c ring n ≤ ringFree c ring)
  if reads then waitStart room .queue
  match cast with
  | none => pure ()
  | some op => do
    let g ← look fun s a _ => groupOfBank s a op
    match g with
    | none => pure ()
    | some kg => do
      let got ← look fun _ a _ => (gotOf kg.2 (agentCore a)).isSome
      let fz ← look fun s _ _ => memberFrozen s kg.2
      let r ← get
      if !got && !r.begun then halt (.read ring n fz)

/-- The slot H of a block: the first that no started word has reserved, past the `used` slots the word takes before it; taken
when the word starts (R227). -/
def slotHere (ring used : Nat) : EM Nat :=
  lookOnce fun _ _ c => ((getRing c ring).head + (ringOwed c.eng ring).2 + used) % ringN (getRing c ring)

/-- Read a block of `n` bytes from slot `h` of its ring, or take the bytes the word's group has brought (R227, R243). -/
def takeBlock (cast : Option Bool) (ring h n : Nat) : EM (List Byte) := do
  let g ← look fun s a _ => cast.bind (groupOfBank s a)
  match g with
  | none => readRing ring h n
  | some kg => access fun r => (.ok ((gotOf kg.2 (agentCore r.a)).getD []), r)

/-- A started word has taken the bytes of its broadcast read (R243). The bytes brought for a word that traps instead, and that its
handler skips, stay for the member's next broadcast read (DESIGN CHOICE, log 79). -/
def usedBlock (cast : Option Bool) : EM Unit := eff fun s a =>
  match cast.bind (groupOfBank s a) with
  | none => s
  | some kg => updMember s kg.1 (agentCore a) fun m => { m with got := none, own := false }

/-- The slots a word pops for a block it has taken: only those of a ring it read (R243). -/
def owesBlock (cast : Option Bool) (ring n : Nat) : EM RingOwe := do
  let reads ← look fun s a _ => readsRing s a cast
  let k ← look fun _ _ c => slotsFor c ring n
  pure (if reads && decide (0 < k) then .pop ring k else .none)

/-- Slots of a block, when its ring is the one asked for and the word reads it. -/
def usedOn (ring other : Nat) (owe : RingOwe) : Nat :=
  match owe with
  | .pop _ k => if ring = other then k else 0
  | _ => 0

/-! ### Scale queues -/

/-- A scale queue (R225). -/
def scaleQ (m : MatState) (opB : Bool) : List Byte := if opB then m.scaleB else m.scaleA

/-- Replace a scale queue. -/
def setScaleQ (m : MatState) (opB : Bool) (q : List Byte) : MatState :=
  if opB then { m with scaleB := q } else { m with scaleA := q }

/-- Wait until scale bytes are there (R228). -/
def waitScales (opB : Bool) (n : Nat) : EM Unit := do
  let ok ← look fun s a _ => decide (n ≤ (scaleQ (getMat s a) opB).length)
  waitStart ok .queue

/-- Pop scale bytes (R228). -/
def takeScales (opB : Bool) (n : Nat) : EM (List Byte) := access fun r =>
  let k := getCore r.s (agentCore r.a)
  let q := scaleQ k.mat opB
  (.ok (q.take n), { r with s := setCore r.s (agentCore r.a) { k with mat := setScaleQ k.mat opB (q.drop n) } })

/-! ### Tiles -/

/-- ILLOP of a tile beyond the grant (R72). -/
def chkTile (t : Nat) : EM Unit := do
  let n ← look fun _ _ c => c.life.tiles
  chkIllop (decide (n ≤ t))

/-- A vector word routed before the word names its tile and has not completed (R105). -/
def vecBusy (g : Engines) (tile uid : Nat) : Bool :=
  (openWords g.v).any fun w => decide (w.uid < uid) && vecTile w.ins == some tile

/-- A word that writes a tile waits for the vector words before it that name it (R105). -/
def waitTile (t : Nat) : EM Unit := do
  let r ← get
  waitStart (!vecBusy (getCtx r.s r.a).eng t r.w.uid) .none

/-- The rows of a tile as elements. -/
def tileRows (c : Ctx) (t : Nat) : List (List Nat) := (List.range 128).map fun i => rowElems (getAccRow c t i)

/-- A tile of zeros. -/
def zeroTile : List (List Nat) := List.replicate 128 (List.replicate 128 0)

/-- Set the rows of a tile. -/
def setTile (s : State) (a : AgentId) (t : Nat) (rows : List (List Nat)) : State :=
  updCtx s a fun c => rows.zipIdx.foldl (fun c x => setAccRow c t x.2 (rowReg x.1)) c

/-- The first `cols` elements of the first `rows` rows of a tile take fresh check bits (R253). -/
def freshAcc (s : State) (a : AgentId) (t rows cols : Nat) : State :=
  if s.mem.errs.isEmpty then s
  else (List.range rows).foldl (fun s i => clearMarks s .acc (ctxKey a) (accAddr t i 0) cols) s

/-- Write every row of a tile with fresh check bits (R239, R253). -/
def putTile (s : State) (a : AgentId) (t : Nat) (rows : List (List Nat)) : State :=
  setTile (freshAcc s a t 128 128) a t rows

/-- The first row of a tile with an uncorrectable error in its first `cols` elements, among `rows` (R253). -/
def badTileRow (s : State) (a : AgentId) (t rows cols : Nat) : Option Nat :=
  if s.mem.errs.isEmpty then none
  else (List.range rows).find? fun i => (uncorrIn s .acc (ctxKey a) (accAddr t i 0) cols).isSome

/-- A word reads the first `cols` elements of the first `rows` rows of a tile: the corrections are counted, or an uncorrectable error
is logged and sets the tile to +0 when `clear`; the detail of UNCORR then (R253). -/
def readAcc (s : State) (a : AgentId) (t rows cols : Nat) (clear : Bool) : Option Word × State :=
  match badTileRow s a t rows cols with
  | none => (none, (List.range (if s.mem.errs.isEmpty then 0 else rows)).foldl (fun s i =>
      countCorr s .acc (ctxKey a) (accAddr t i 0) cols) s)
  | some i =>
    let s := logCore s a 3
    (some (BitVec.ofNat 64 (t + i * 2 ^ 8)), if clear then putTile s a t zeroTile else s)

/-- The accumulator elements that a word reads at its start (R253). -/
def chkAcc (t rows cols : Nat) (clear : Bool) : EM Unit := do
  let r ← get
  if r.begun then pure ()
  else
    let (bad, s) := readAcc r.s r.a t rows cols clear
    modify fun r => { r with s := s }
    match bad with
    | none => pure ()
    | some det => check true 0x0E 0 det

/-- No element of the tile that the word's first operation reads holds an uncorrectable error as it starts (R253); the operation
itself counts the corrections. -/
def chkAccClean (t : Nat) : EM Unit := do
  let r ← get
  if (badTileRow r.s r.a t 128 128).isSome then chkAcc t 128 128 true

/-- The accumulator elements that a started word reads: an error that has arisen since its start traps it there (R253). -/
def accHere (t : Nat) : EM Unit := do
  let _ ← access fun r =>
    match readAcc r.s r.a t 128 128 true with
    | (none, s) => (.ok [], { r with s := s })
    | (some det, s) => (.error (.trap 0x0E 0 det), { r with s := s })

/-! ### Scales, shadow, resident -/

/-- MSCQ (R230). One of count 0 reads no block: it completes at once, and in a group it is no broadcast read (R243 names MSCQ as one
whatever its count: DESIGN CHOICE, log 79). -/
def mscqOp (opB : Bool) (ring : Nat) : EM EDone := do
  let k ← capture
  let n := k.sa.toNat
  chkRing (decide (4096 < n)) ring
  chkBlock (some opB) ring
  if n = 0 then do
    begin_
    pure EDone.plain
  else do
    let room ← look fun s a _ => decide ((scaleQ (getMat s a) opB).length + n ≤ 4096)
    waitStart room .queue
    waitBlock (some opB) ring 0 n
    begin_
    let owe ← owesBlock (some opB) ring n
    let h ← slotHere ring 0
    reserve owe .none .none
    let bs ← takeBlock (some opB) ring h n
    usedBlock (some opB)
    updMat fun m => setScaleQ m opB (scaleQ m opB ++ bs)
    pure { EDone.plain with r1 := owe }

/-- MLDB (R231). -/
def mldbOp (ring : Nat) : EM EDone := do
  let k ← capture
  let e := wbits k.sa 2 0
  let spn := wbits k.sa 4 3
  chkFormat (wbits k.sa 63 5 != 0)
  match pairOf (pairCode k e) with
  | none => do
    chkFormat true
    pure EDone.plain
  | some p => do
    chkFormat (spn != 0 && (p.fa == .bin || storedW p.fa == 16))
    chkBlock (some true) ring
    let n := 16 * ksOf p * storedW p.fb
    let ns := if p.mxb then 4 * ksOf p else 0
    waitScales true ns
    waitBlock (some true) ring 0 n
    begin_
    let owe ← owesBlock (some true) ring n
    let h ← slotHere ring 0
    reserve owe .none .none
    let bs ← takeBlock (some true) ring h n
    usedBlock (some true)
    let sc ← takeScales true ns
    updMat fun m => { m with shadow := some ⟨bs, sc, e, pairCode k e, spn, ring⟩ }
    pure { EDone.plain with r1 := owe }

/-- MSWAP (R232). An MSWAP names no ring: the detail of its RING is 0, its low bits (DEDUCED, log 27). -/
def mswapOp : EM EDone := do
  let full ← look fun s a _ => (getMat s a).shadow.isSome
  chkRing (!full) 0
  begin_
  updMat fun m => { m with resident := m.shadow, shadow := none }
  pure EDone.plain

/-- MZERO (R239). -/
def mzeroOp (t : Nat) : EM EDone := do
  chkTile t
  waitTile t
  begin_
  eff fun s a => putTile s a t zeroTile
  pure EDone.plain

/-- MPOP (R239). -/
def mpopOp (ring : Nat) : EM EDone := do
  let k ← capture
  let n := k.sa.toNat
  chkUsable ring
  if n = 0 then do
    begin_
    pure EDone.plain
  else do
    let above ← look fun _ _ c => decide (ringN (getRing c ring) < n)
    chkRing above ring
    let ok ← look fun _ _ c => decide (n ≤ ringFree c ring)
    waitStart ok .queue
    begin_
    pure { EDone.plain with r1 := .pop ring n }

/-! ### MMA -/

/-- The bytes a sparse MMA reads of its metadata block before it knows the block's length (R227): the counts of OP, the row
pointers of RW. -/
def peekMeta (ring n : Nat) : EM (List Byte) := do
  waitBlock none ring 0 n
  let h ← slotHere ring 0
  readRing ring h n

/-- The operands of an MMA: lines of A, columns of B, scales of each, the reply, and the strict-mode detail. -/
structure MmaIn where
  a : List KLine
  b : List KLine
  reply : Option Nat
  strict : Option Nat

/-- The reply of a sparse MMA (R238). -/
def sparseReply (rows out : Nat) (first : Option Nat) (rw : Bool) : Nat :=
  rows + min out 65535 * 2 ^ 16 + first.getD 0xFF * 2 ^ 32 + b2n rw * 2 ^ 40

/-- The records of an OP list that are out of range, by line and then by place; the detail of the first (R238). -/
def firstOut (l : List (Nat × Nat)) : Option Nat :=
  match l with
  | [] => none
  | x :: r => some (r.foldl (fun n y => min n y.1) x.1 + 2 ^ 7)

/-- The strict-mode detail of RW (R238): rows in order, a malformed row before its entries. -/
def rwStrict (md : List Byte) (ks : Nat) : Option Nat :=
  (List.range 128).findSome? fun i =>
    if rwBad md i then some i
    else if (List.range (rwPtr md (i + 1) - rwPtr md i)).any fun j =>
        decide (ks ≤ fieldAt md (288 + 2 * (rwPtr md i - rwPtr md 0 + j)) 2) then some (i + 2 ^ 7)
    else none

/-- Bytes of the A, B and metadata blocks of an MMA (R227). -/
def mmaBytes (p : MPair) (df : Nat) (sp : Bool) (spn : Nat) (md : List Byte) : Nat × Nat × Nat :=
  let ks := ksOf p
  let da := 16 * ks * storedW p.fa
  let db := 16 * ks * storedW p.fb
  if !sp then (da, if df = 0 then 0 else db, 0)
  else if df = 0 then (ks * keptOf spn * storedW p.fa / 8, 0, ks * keptOf spn)
  else if df = 1 then
    let na := fieldAt md 0 2
    let nb := fieldAt md 2 2
    (packBytes p.fa na, packBytes p.fb nb, 4 + 2 * (na + nb))
  else (packBytes p.fa (rwNnz md), db, 288 + 2 * rwNnz md)

/-- The operands of an MMA from its blocks (R235 to R238). -/
def mmaIn (p : MPair) (df : Nat) (sp : Bool) (spn : Nat) (ba bb md : List Byte) : MmaIn :=
  let ks := ksOf p
  if df = 0 then
    ⟨if sp then ipSparse p.fa ba md ks (keptOf spn) else denseLines p.fa ba ks, denseLines p.fb bb ks, none, none⟩
  else if df = 1 then
    if !sp then ⟨denseLines p.fa ba ks, denseLines p.fb bb ks, none, none⟩
    else
      let na := fieldAt md 0 2
      let nb := fieldAt md 2 2
      let (ra, oa) := opRecords p.fa (md.drop 4) ba na ks
      let (rb, ob) := opRecords p.fb (md.drop (4 + 2 * na)) bb nb ks
      ⟨(List.range 128).map (gatherK ks ra), (List.range 128).map (gatherK ks rb),
       some (sparseReply 0 (oa.length + ob.length) none false),
       match firstOut oa with
       | some d => some d
       | none => firstOut ob⟩
  else if !sp then ⟨denseLines p.fa ba ks, rowWiseCols p.fb bb ks, none, none⟩
  else
    let badRows := (List.range 128).filter (rwBad md)
    ⟨rwRows p.fa md ba ks, rowWiseCols p.fb bb ks,
     some (sparseReply badRows.length (rwOut md ks) badRows.head? true), rwStrict md ks⟩

/-- The checks of R233 after the tile and the pair. -/
def chkMma (p : MPair) (df e rb : Nat) (sp : Bool) : EM Unit := do
  chkFormat (sp && (p.fa == .bin || p.fb == .bin || (df == 0 && storedW p.fa == 16)))
  let res ← look fun s a _ => (getMat s a).resident
  if df = 0 then
    match res with
    | none => chkRing true rb
    | some r => do
      chkRing (r.ring != rb) rb
      chkFormat (r.entry != e || (r.spn != 0) != sp)

/-- A resident block was loaded as elements other than those its entry now names: another format of B, other scales or another K
depth (R231, R234). The formats of A may have changed meanwhile. -/
def staleB (p : MPair) (loaded : Nat) : Bool :=
  match pairOf loaded with
  | some q => q.fb != p.fb || q.mxb != p.mxb || ksOf q != ksOf p
  | none => true

/-- The tile of an MMA: its products, or free elements where the resident block was loaded under other formats than its entry now
names (R234; DESIGN CHOICE, log 56). -/
def mmaResult (p : MPair) (stale : Bool) (ctr : Nat) (x : MmaIn) (sa sb : Nat → List (Option Int)) (old : List (List Nat)) :
    List (List Nat) × Nat :=
  if stale then
    ((List.range 128).map fun i => (List.range 128).map fun j => (Config.staleTile ctr i j).toNat, (Config.staleFlags ctr).toNat)
  else mmaTile p x.a x.b sa sb old

/-- MMA (R227 to R229, R233 to R238). On a ring that it names more than once, its metadata comes first, then A, then B (DEDUCED,
log 55). In strict mode the operands are judged before the word starts, so that nothing is popped (R238). -/
def mmaOp (t ra rb df e : Nat) (acc sp : Bool) (rm : Nat) : EM EDone := do
  let k ← capture
  chkTile t
  let code := pairCode k e
  match pairOf code with
  | none => do
    chkFormat true
    pure EDone.plain
  | some p => do
    chkMma p df e rb sp
    let ks := ksOf p
    let ca : Option Bool := some false
    let cb : Option Bool := some true
    chkBlock ca ra
    if df ≠ 0 then chkBlock cb rb
    if sp then chkBlock none rm
    waitTile t
    let res ← look fun s a _ => (getMat s a).resident
    let spn := match res with
      | some r => r.spn
      | none => 0
    let stale := df == 0 && (match res with
      | some r => staleB p r.pair
      | none => false)
    let hd ← if sp ∧ df ≠ 0 then peekMeta rm (if df = 1 then 4 else 258) else pure []
    let (na, nb, nm) := mmaBytes p df sp spn hd
    let om ← if sp then owesBlock none rm nm else pure RingOwe.none
    let oa ← owesBlock ca ra na
    let ob ← if df = 0 then pure RingOwe.none else owesBlock cb rb nb
    let ua := usedOn rm ra om
    let ub := usedOn rm rb om + usedOn ra rb oa
    let nsa := if p.mxa then 4 * ks else 0
    let nsb := if p.mxb ∧ df ≠ 0 then 4 * ks else 0
    waitScales false nsa
    waitScales true nsb
    if sp then waitBlock none rm 0 nm
    waitBlock ca ra ua na
    if df ≠ 0 then waitBlock cb rb ub nb
    if acc then chkAcc t 128 128 true
    let r ← get
    let strictRun := r.w.cap.sat && sp && df != 0
    let hm ← slotHere rm 0
    let ha ← slotHere ra ua
    let hb ← slotHere rb ub
    if !strictRun then do
      begin_
      reserve oa ob om
    let md ← if sp then takeBlock none rm hm nm else pure []
    let ba ← takeBlock ca ra ha na
    let bb ← if df = 0 then pure [] else takeBlock cb rb hb nb
    let bb := if df = 0 then (match res with
      | some r => r.bytes
      | none => []) else bb
    let x := mmaIn p df sp spn ba bb md
    match x.strict with
    | some d => if strictRun then check true 0x13 0 (BitVec.ofNat 64 d)
    | none => pure ()
    begin_
    reserve oa ob om
    usedBlock ca
    if df ≠ 0 then usedBlock cb
    let sa ← takeScales false nsa
    let sb ← if df = 0 then pure [] else takeScales true nsb
    let sb := if df = 0 then (match res with
      | some r => r.scales
      | none => []) else sb
    let old ← look fun _ _ c => if acc then tileRows c t else zeroTile
    let ctr ← lookOnce fun s _ _ => s.sch.freeCtr
    let (rows, fl) := mmaResult p stale ctr x (lineScales p.mxa sa ks) (lineScales p.mxb sb ks) old
    eff fun s a => putTile s a t rows
    pure { EDone.of { Finish.plain with flags := fl, replies := x.reply.toList.map (BitVec.ofNat 64) } with
             r1 := oa, r2 := ob, r3 := om }

/-! ### Nest-driven issue -/

/-- The lines of B of an operation of MGO (R240). -/
def mgoLineB (d : NestDesc) (y : Int) (pb j : Nat) : Int :=
  if d.wrapy = 0 then y + (j * pb : Nat)
  else (d.basey : Int) + (y - d.basey + (j * pb : Nat)) % (d.wrapy : Int)

/-- The value of X as an offset: X is reckoned modulo 2^64 (R178). -/
def mgoLineA (x pa i : Nat) : Nat := (x + i * pa) % 2 ^ 64

/-- A line address fails alignment or the window (R240). -/
def chkLine (y : Int) : EM Unit := do
  chkOffset y
  chkScratch y.toNat 32

/-- The operations of MGO one after another (R240): each waits for its own scales, and one that accumulates then reads the tile
(R253). An uncorrectable error that an operation meets pops no scale for it; the scales that the word's earlier operations popped, each
at its own turn, stay popped (R253 says of the word that it pops none: DESIGN CHOICE, log 79). -/
def mgoGo (p : MPair) (t pa pb : Nat) (d : NestDesc) : Bool → List (Nat × Int) → EM Nat
  | _, [] => pure 0
  | acc, (x, y) :: r => do
    let ks := ksOf p
    let nsa := if p.mxa then 4 * ks else 0
    let nsb := if p.mxb then 4 * ks else 0
    waitHere (fun s a _ => decide (nsa ≤ (getMat s a).scaleA.length) && decide (nsb ≤ (getMat s a).scaleB.length)) .queue
    let la ← (List.range 128).mapM fun i => readPad (mgoLineA x pa i) (ks * storedW p.fa / 8)
    let lb ← (List.range 128).mapM fun j => readPad (mgoLineB d y pb j).toNat (ks * storedW p.fb / 8)
    if acc then accHere t
    let sa ← takeScales false nsa
    let sb ← takeScales true nsb
    let old ← access fun r =>
      let c := getCtx r.s r.a
      (.ok (if acc then (tileRows c t).flatten.flatMap fun x => leList 4 x else []), r)
    let rows := if acc then (List.range 128).map fun i => (List.range 128).map fun j => fieldAt old (512 * i + 4 * j) 4
      else zeroTile
    let (rows, fl) := mmaTile p (denseLines p.fa la.flatten ks) (denseLines p.fb lb.flatten ks)
      (lineScales p.mxa sa ks) (lineScales p.mxb sb ks) rows
    eff fun s a => putTile s a t rows
    let g ← mgoGo p t pa pb d true r
    pure (fl ||| g)

/-- MGO (R240). -/
def mgoOp : EM EDone := do
  let k ← capture
  let t := wbits k.sa 1 0
  let code := pairCode k (wbits k.sa 4 2)
  let acc0 := wbits k.sa 5 5 == 1
  let pa := wbits k.sb 19 0
  let pb := wbits k.sb 39 20
  chkTile t
  chkFormat (wbits k.sa 63 6 != 0 || wbits k.sb 63 40 != 0 || k.nest.levels.isEmpty)
  match pairOf code with
  | none => do
    chkFormat true
    pure EDone.plain
  | some p => do
    let d := k.nest
    let ops := nestAll d
    let na := ksOf p * storedW p.fa / 8
    let nb := ksOf p * storedW p.fb / 8
    chkMul pa 32
    chkMul pb 32
    ops.forM fun o => do
      (List.range 128).forM fun i => chkMul (mgoLineA o.1 pa i) 32
      (List.range 128).forM fun j => check (mgoLineB d o.2 pb j % 32 != 0) 5 0 0
    ops.forM fun o => do
      (List.range 128).forM fun i => chkScratch (mgoLineA o.1 pa i) na
      (List.range 128).forM fun j => do
        chkOffset (mgoLineB d o.2 pb j)
        chkScratch (mgoLineB d o.2 pb j).toNat nb
    let grp ← look fun s a _ => inGroup s a
    check grp 9 0 0
    waitTile t
    if acc0 then chkAccClean t
    begin_
    let fl ← mgoGo p t pa pb d acc0 ops
    pure (EDone.of { Finish.plain with flags := fl })

/-! ### Drain -/

/-- MDRAIN (R241). -/
def mdrainOp (kind t : Nat) : EM EDone := do
  let k ← capture
  let pitch := wbits k.sb 31 16
  let trans := wbits k.sb 7 7 == 1
  let mx := wbits k.sb 6 6 == 1
  let i32 := wbits k.sb 5 5 == 1
  let cap := wbits k.sb 63 32
  chkTile t
  match fmtOfCode (wbits k.sb 4 0) with
  | none => do
    chkFormat true
    pure EDone.plain
  | some dst => do
    chkFormat (wbits k.sb 15 8 != 0 || (mx && (!isFlt dst || kind != 0)) || (kind == 1 && pitch != 0)
      || (kind != 2 && cap != 0) || (kind == 1 && wbits k.sa 63 3 != 0))
    let line := 16 * storedW dst
    let pb := if pitch = 0 then (line + 31) / 32 * 32 else 32 * pitch
    let off := k.sa.toNat
    let ring := wbits k.sa 2 0
    if kind = 1 then do
      chkUsable ring
      let full ← look fun _ _ c =>
        decide (ringN (getRing c ring) < (getRing c ring).count + (ringOwed c.eng ring).1 + slotsFor c ring (128 * line))
      chkRing full ring
    else do
      check (off % 32 != 0) 8 0 k.sa
      if kind = 2 then chkScratch off (8 * cap)
      else do
        (List.range 128).forM fun l => chkScratch (off + l * pb) line
        if mx then chkScratch (off + 128 * pb) 512
    chkAcc t 128 128 false
    begin_
    let r : Rnd := ⟨k.rnd, k.seed.toNat, k.step.toNat⟩
    let tile ← look fun _ _ c => tileRows c t
    if kind = 2 then do
      let (recs, full, fl) := drainRecords i32 dst r k.sat tile trans cap
      writePad off (recs.flatMap fun x => leList 4 x.1 ++ leList 4 x.2)
      pure (EDone.of { Finish.plain with flags := fl, replies := [BitVec.ofNat 64 (recs.length + b2n full * 2 ^ 32)] })
    else do
      let lines := (List.range 128).map fun l => drainCodes i32 mx dst r k.sat (drainLine tile trans l)
      let fl := lines.foldl (fun f x => f ||| x.2.2) 0
      if kind = 1 then do
        let g ← look fun _ _ c => getRing c ring
        let cr ← look fun _ _ c => (ringOwed c.eng ring).1
        let n ← look fun _ _ c => slotsFor c ring (128 * line)
        let bs := lines.flatMap fun x => drainBytes dst x.1
        let runs := ringRuns g (128 * line / (ringN g * ringS g) + 2) ((g.tail + cr) * ringS g) (128 * line)
        eff fun s a => (runs.foldl (fun (x : State × List Byte) run =>
          (padWrite x.1 a run.1 (x.2.take run.2), x.2.drop run.2)) (s, bs)).1
        pure { EDone.of { Finish.plain with flags := fl } with r1 := .commit ring n }
      else do
        lines.zipIdx.forM fun x => do
          writePad (off + x.2 * pb) (drainBytes dst x.1.1)
        if mx then lines.zipIdx.forM fun x => writePad (off + 128 * pb + 4 * x.2) (x.1.2.1.map (BitVec.ofNat 8))
        pure (EDone.of { Finish.plain with flags := fl })

/-! ### Groups -/

/-- MBJOIN cannot join (R225, R242). -/
def joinRefused (s : State) (a : AgentId) (opB : Bool) (p : Word) : Bool :=
  match a with
  | .seq _ => true
  | .bank core _ =>
    let need := wbits p 7 4 + 1
    let bad := wbits p 63 8 != 0 || wbits p 3 3 != 0
    let g := kfind s.groups (groupKey (coreCluster core) opB (wbits p 2 0))
    bad || (groupOfBank s a opB).isSome || inGroup s (otherBank a) ||
      (match g with
       | none => false
       | some g => g.need != need || decide (need ≤ g.members.length))

/-- MBJOIN (R242). A member's MQUIETs are counted from its joining, where its count is 0, while the earlier members keep the counts
they have (R245 does not say from when: DESIGN CHOICE, log 79). -/
def mbjoinOp (opB : Bool) : EM EDone := do
  let k ← capture
  let no ← look fun s a _ => joinRefused s a opB k.sa
  check no 9 0 0
  begin_
  eff fun s a =>
    match a with
    | .seq _ => s
    | .bank core b =>
      let key := groupKey (coreCluster core) opB (wbits k.sa 2 0)
      let g := (kfind s.groups key).getD ⟨wbits k.sa 7 4 + 1, false, []⟩
      let ms := g.members ++ [⟨core, b, none, 0, false, false⟩]
      { s with groups := kput s.groups key { g with members := ms, complete := g.complete || decide (ms.length = g.need) } }
  pure EDone.plain

/-- MBLEAVE (R244). -/
def mbleaveOp (opB : Bool) : EM EDone := do
  begin_
  eff fun s a =>
    match a with
    | .seq _ => s
    | .bank core b => leaveGroups s core b (some opB)
  pure EDone.plain

/-- The groups a bank is a member of. -/
def groupsOfBank (s : State) (a : AgentId) : List (Nat × BGroup) :=
  (groupOfBank s a false).toList ++ (groupOfBank s a true).toList

/-- The members of a group that have started fewer MQUIETs than the bank: those its MQUIET waits for (R245). -/
def quietLate (core : Nat) (g : BGroup) : List Member :=
  let mine := ((g.members.find? fun m => m.core == core).map fun m => m.quiets).getD 0
  g.members.filter fun m => decide (m.quiets < mine)

/-- MQUIET (R245). While one of the members it waits for is frozen, the wait is no token wait (R229; DEDUCED where it waits for
others too, log 28). -/
def mquietOp : EM EDone := do
  begin_
  eff fun s a => (groupsOfBank s a).foldl (fun s kg =>
    updMember s kg.1 (agentCore a) fun m => { m with quiets := m.quiets + 1 }) s
  let fz ← look fun s a _ => (groupsOfBank s a).any fun kg => (quietLate (agentCore a) kg.2).any fun m =>
    (getCtx s (.bank m.core m.b)).life.status == .frozen
  waitHere (fun s a _ => (groupsOfBank s a).all fun kg => (quietLate (agentCore a) kg.2).isEmpty) (if fz then .member else .partner)
  pure EDone.plain

/-! ### The latent stage -/

/-- MLATLD (R246): a region whose load is forbidden is left unloaded. -/
def mlatldOp (val : Bool) : EM EDone := do
  let k ← capture
  let dc := wbits k.sb 10 0
  let d := wbits k.sb 23 16
  chkFormat (wbits k.sb 63 24 != 0 || wbits k.sb 15 11 != 0 || decide (dc < 32) || decide (1024 < dc) || dc % 32 != 0
    || decide (d < 1) || decide (128 < d) || decide (65536 < dc * d))
  chkAlign k.sa.toNat 64
  begin_
  updMat fun m => if val then { m with wv := none } else { m with wk := none }
  let bs ← readLong k.sa.toNat (2 * dc * d) 0
  let p : Proj := ⟨dc, d, bf16s bs (dc * d)⟩
  updMat fun m => if val then { m with wv := some p } else { m with wk := some p }
  pure EDone.plain

/-- MLAT (R247). A misaligned input offset takes SCRATCH (DEDUCED, log 28). -/
def mlatOp (kind t : Nat) : EM EDone := do
  let k ← capture
  let rows := wbits k.sb 6 0 + 1
  let acc := wbits k.sb 7 7 == 1
  let b := wbits k.sb 10 8
  chkTile t
  chkFormat (wbits k.sb 63 11 != 0)
  let reg ← look fun s a _ => if kind = 1 then (getMat s a).wv else (getMat s a).wk
  match reg with
  | none => do
    chkFormat true
    pure EDone.plain
  | some p => do
    chkFormat (kind == 2 && decide (p.dc ≤ 128 * b))
    let len := if kind = 2 then p.d else p.dc
    let pitch := (2 * len + 31) / 32 * 32
    let off := k.sa.toNat
    check (off % 32 != 0) 8 0 k.sa
    (List.range rows).forM fun i => chkScratch (off + i * pitch) (2 * len)
    waitTile t
    let cols := latCols p (kind == 2) b
    if acc then chkAcc t rows cols.length true
    begin_
    let ins ← (List.range rows).mapM fun i => readPad (off + i * pitch) (2 * len)
    let old ← look fun _ _ c => tileRows c t
    let new := old.zipIdx.map fun x =>
      match ins[x.2]? with
      | some bs => latRow cols acc (bfVals (bf16s bs len)) x.1
      | none => (if acc then x.1 else List.replicate 128 0, 0)
    let (fr, fc) := if acc then (rows, cols.length) else (128, 128)
    eff fun s a => setTile (freshAcc s a t fr fc) a t (new.map (·.1))
    pure (EDone.of { Finish.plain with flags := new.foldl (fun f x => f ||| x.2) 0 })

/-! ### Attention -/

/-- The descriptor of MATT (R248). -/
structure MDesc where
  qoff : Nat
  statoff : Nat
  p0 : Nat
  scale : FVal
  dc : Nat
  dr : Nat
  rows : Nat
  h : Nat
  lfmt : Nat
  causal : Bool
  win : Nat
  e : Nat

/-- The descriptor that 32 bytes hold (R248). -/
def mattDesc (bs : List Byte) : MDesc :=
  ⟨fld bs 0 4, fld bs 4 4, fld bs 8 4, fltValue .fp32 (fld bs 12 4), fld bs 16 2, fld bs 18 1, fld bs 19 1 + 1,
   fld bs 20 1, fld bs 21 1, bit (fld bs 22 1) 0, fld bs 24 4, fld bs 28 2⟩

/-- A field of the descriptor is out of its range (R248). -/
def badMatt (d : MDesc) : Bool :=
  decide (d.dc < 32) || decide (1024 < d.dc) || d.dc % 32 != 0 || decide (128 < d.dr) || d.dr % 16 != 0
    || decide (128 < d.rows) || d.h == 0 || decide (128 < d.h) || decide (1 < d.lfmt) || d.e == 0 || decide (4096 < d.e)

/-- The latent values of a slot (R249). -/
def latVals (d : MDesc) (bs : List Byte) : List FVal :=
  if d.lfmt = 0 then bfVals (bf16s bs d.dc)
  else (List.range d.dc).map fun c =>
    match scaleExp (listGet 0 bs (d.dc + c / 32)) with
    | some e => fvScale (fltValue .e4m3 (listGet 0 bs c).toNat) e
    | none => .nan

/-- A token of a slot (R250), with the flags of its projections. -/
def tokenOf (absorb : Bool) (wk wv : Proj) (d : MDesc) (pos : Nat) (bs : List Byte) : MToken × Nat :=
  let lat := latVals d bs
  let rot := bfVals (bf16s (bs.drop (latentBytes d.dc d.lfmt)) d.dr)
  if absorb then (⟨pos, lat, rot, lat⟩, 0)
  else
    let (kv, f) := expandVec wk lat
    let (vv, g) := expandVec wv lat
    (⟨pos, kv, rot, vv⟩, f ||| g)

/-- A token takes part in a row (R249). -/
def takesPart (d : MDesc) (pq pos : Nat) : Bool :=
  (!d.causal || decide (pos ≤ pq)) && (d.win == 0 || decide (pq < pos + d.win))

/-- A query row: its position, its query part and its rotary part. -/
structure QRow where
  pq : Nat
  qp : List FVal
  qr : List FVal

/-- The rows after one entry (R251). -/
def mattStep (d : MDesc) (qs : List QRow) (toks : List MToken) (rs : List MRow) : List MRow :=
  (qs.zip rs).map fun x =>
    let part := toks.filter fun t => takesPart d x.1.pq t.pos
    let sc := part.map fun t => (scoreOf x.1.qp x.1.qr d.scale t, t)
    mattEntry { x.2 with fl := sc.foldl (fun f y => f ||| y.1.2) x.2.fl } (sc.map fun y => (y.1.1, y.2))

/-- The entries one after another: the slots of each are read as they stream (R249). The flags of a token's projections are raised
when its slot is read, whether or not a row takes the token (DEDUCED, log 57). -/
def mattGo (absorb : Bool) (wk wv : Proj) (d : MDesc) (qs : List QRow) : List BEntry → List MRow → EM (List MRow)
  | [], rs => pure rs
  | e :: r, rs => do
    let sb := latentBytes d.dc d.lfmt + 2 * d.dr
    let toks ← (List.range e.count).mapM fun i => do
      let runs := pageRuns (e.block + i * sb) sb
      let parts ← runs.mapM fun x => readMem (e.block + i * sb + x.1) x.2 (i * sb + x.1) 0
      pure (tokenOf absorb wk wv d (e.first + i) parts.flatten)
    let fl := toks.foldl (fun f x => f ||| x.2) 0
    let rs := mattStep d qs (toks.map (·.1)) rs
    mattGo absorb wk wv d qs r (rs.map fun x => { x with fl := x.fl ||| fl })

/-- MATT (R248 to R251). R248 lists its checks without an order; where more than one fails the model reports the first of: the tile
(ILLOP), the descriptor's place (SCRATCH), its fields and the projections (FORMAT), the query rows and the statistics (SCRATCH), the
table's alignment (MISALIGN) (DESIGN CHOICE, log 79). -/
def mattOp (absorb : Bool) (t : Nat) : EM EDone := do
  let k ← capture
  let off := k.sb.toNat
  chkTile t
  check (off % 32 != 0) 8 0 k.sb
  chkScratch off 32
  let ds ← readPad off 32
  let d := mattDesc ds
  chkFormat (badMatt d)
  let wk ← look fun s a _ => (getMat s a).wk
  let wv ← look fun s a _ => (getMat s a).wv
  let none_ : Proj := ⟨0, 0, []⟩
  let pk := wk.getD none_
  let pv := wv.getD none_
  chkFormat (wv.isNone || pv.dc != d.dc || (!absorb && (wk.isNone || pk.dc != d.dc)))
  let qlen := (if absorb then d.dc else pk.d) + d.dr
  let qpitch := (2 * qlen + 31) / 32 * 32
  check (d.qoff % 32 != 0) 8 0 (BitVec.ofNat 64 d.qoff)
  (List.range d.rows).forM fun i => chkScratch (d.qoff + i * qpitch) (2 * qlen)
  if d.statoff ≠ 0xFFFFFFFF then chkScratch d.statoff (8 * d.rows)
  chkAlign k.sa.toNat 16
  waitTile t
  begin_
  let es ← readEntries k.sa.toNat d.e 0
  let (use, inv, mal) := usableEntries es
  let qs ← (List.range d.rows).mapM fun i => do
    let bs ← readPad (d.qoff + i * qpitch) (2 * qlen)
    let vs := bfVals (bf16s bs qlen)
    pure (⟨d.p0 + i / d.h, vs.take (qlen - d.dr), vs.drop (qlen - d.dr)⟩ : QRow)
  let nv := if absorb then d.dc else pv.d
  let rs ← mattGo absorb pk pv d qs use (List.replicate d.rows ⟨.inf true, FVal.zero, List.replicate nv FVal.zero, 0⟩)
  let outs := rs.map (mattOut absorb pv)
  eff fun s a => putTile s a t (outs.map (·.1) ++ List.replicate (128 - d.rows) (List.replicate 128 0))
  if d.statoff ≠ 0xFFFFFFFF then
    writePad d.statoff (rs.flatMap fun r =>
      leList 4 (roundToFormat r.m .fp32 rne false 0).1 ++ leList 4 (roundToFormat r.l .fp32 rne false 0).1)
  let noTok := (outs.filter fun x => x.2.1).length
  pure (EDone.of { Finish.plain with
    flags := outs.foldl (fun f x => f ||| x.2.2) 0
    replies := [BitVec.ofNat 64 (inv + mal * 2 ^ 16 + noTok * 2 ^ 32)] })

/-- What a word of the matrix engine does. -/
def matBody (i : Instr) : EM EDone :=
  match i with
  | .mldb _ _ _ r => mldbOp r.toNat
  | .mswap _ _ => mswapOp
  | .mma _ _ c x y f m h sp g => mmaOp c.toNat x.toNat y.toNat f.toNat m.toNat h sp g.toNat
  | .mscq _ _ _ w r => mscqOp w r.toNat
  | .mzero _ _ c => mzeroOp c.toNat
  | .mdrain _ _ _ _ k c => mdrainOp k.toNat c.toNat
  | .mgo _ _ _ _ _ => mgoOp
  | .matt _ _ _ _ m c => mattOp m c.toNat
  | .mlatld _ _ _ _ v => mlatldOp v
  | .mlat _ _ _ _ k c => mlatOp k.toNat c.toNat
  | .mbjoin _ _ _ o => mbjoinOp o
  | .mbleave _ _ o => mbleaveOp o
  | .mpop _ _ _ r => mpopOp r.toNat
  | .mquiet _ _ => mquietOp
  | _ => pure EDone.plain

end Sys2Proof.Machine
end

