-- ==== Sys2Proof/Machine/Fetch.lean ====
section
/-! DEFINITION. Fetching an instruction word (R121, R131, R383, R438, R440): from the body of a macro, from the instruction
cache, or from memory. -/

namespace Sys2Proof.Machine

/-- What a fetch ends in: the word, or the state in which the control core stands still or has taken a trap. -/
inductive Fetched where
  | word (w : IWord) (s : State)
  | stop (s : State)
  deriving DecidableEq

/-- The bytes of the instruction word at a place: a bank takes device DRAM through its core's instruction cache, which no
write updates, when its line is there and the free choice takes it (R121; log 11); a sequencer takes it from the L2. -/
def instrBytes (s : State) (a : AgentId) (l : Loc) : List Byte × State :=
  match a with
  | .seq _ =>
    (locRead s l 4, if l.typ = 0 then
        l2Range s (some (getCtx s a).life.part) l.pa 4 (if l.ef then 1 else 0) false false
      else s)
  | .bank n _ =>
    if l.typ ≠ 0 then (locRead s l 4, s)
    else
      let k := getCore s n
      let miss :=
        let s := l2Range s (some (getCtx s a).life.part) l.pa 4 (if l.ef then 1 else 0) false false
        (locRead s l 4, if lineBad s l then s
          else setCore s n { k with
            icache := fillLine s.sch.freeCtr k.icache (l.pa / 128) (mread s.mem.dram (l.pa / 128 * 128) 128) })
      match kfind k.icache (l.pa / 128) with
      | some line =>
        if Config.cacheHit s.sch.freeCtr (l.pa / 128) then ((line.drop (l.pa % 128)).take 4, s) else miss
      | none => miss

/-- Fetch a word of memory (R160, R383): a failing fetch traps or freezes at the word as a load does; a parity error of the
stored word is gone once the word is fetched anew, and one that persists takes UNCORR with source 1 (R342, R438). -/
def fetchMem (s : State) (a : AgentId) (pc : Word) : Fetched :=
  match ctlCheck s a pc 4 4 .fetch with
  | .ok l s' =>
    match uncorrIn s' .insn (coreTlb a) l.pa 4 with
    | some _ =>
      let c := getCtx s' a
      let (core, b, unit) := match a with
        | .bank n b => (n, b2n b, 0)
        | .seq n => (0, 0, n)
      .stop (raiseCtl (logUncorr s' 0 (some c.life.part) core b unit 0xFF 0) a 0x0E pc (2 ^ 16))
    | none =>
      let s' := clearMarks (countCorr s' .insn (coreTlb a) l.pa 4) .insn (coreTlb a) l.pa 4
      let (bs, s') := instrBytes s' a l
      .word (BitVec.ofNat 32 (leVal bs)) s'
  | _ => .stop (withAccess s a pc 4 4 .fetch fun s _ => s)

/-- The word at the PC of a context, or the body word of the macro it runs, as its entry holds it now: a call under way whose entry
another bank's CSTORE replaces goes on in the new body, and one past its end takes MACRO (DESIGN CHOICE, log 79). A body that is no
longer loaded ends the call. -/
def fetchWord (s : State) (a : AgentId) : Fetched :=
  let c := getCtx s a
  match c.fr.mac with
  | none => fetchMem s a c.fr.pc
  | some m =>
    match (bodyOf s a m.entry)[m.idx]? with
    | some w => .word w s
    | none => .stop (raiseCtl s a 0x0F 0 (BitVec.ofNat 64 m.entry))

/-- The engine field of the word the control core stands at, for a bank condition (R342, R344); 0 when it cannot be
read. -/
def curEngine (s : State) (a : AgentId) : Nat :=
  match fetchWord s a with
  | .word w _ => engOf w.toNat
  | .stop _ => 0

end Sys2Proof.Machine
end

