-- ==== Sys2Proof/Machine/Query.lean ====
section
/-! DEFINITION. The commands of the query engine as their receivers hold them (R288 to R304): forms of descriptors, index
handles, the search procedure, page reads and event records (R400 to R411). -/

namespace Sys2Proof.Machine

/-! ### Handles and nodes -/

/-- A handle is out of form (R289). -/
def badHandle (h : Word) : Bool := wbits h 63 32 != 0 || wbits h 15 12 != 0

/-- The partition holds every unit that an index is placed on (R355, R414). -/
def unitsHeld (s : State) (p : Nat) (x : Index) : Bool := x.place.all fun u => bit (preg s p 0x018).toNat u

/-- The mounted index of a partition that a handle names, when it does (R289); none when it lies on a unit that the partition does not
hold now, which no Q word reaches (R355). -/
def handleIndex (s : State) (p : Nat) (h : Word) : Option Index :=
  match kfind s.store.indexes (wbits h 11 0) with
  | some x => if x.owner = p ∧ x.st = .mounted ∧ x.gen.toNat = wbits h 31 16 ∧ unitsHeld s p x then some x else none
  | none => none

/-- The unit a node lies on (R400). -/
def nodeUnit (x : Index) (id : Nat) : Nat := listGet 0 x.place (id / 2 ^ x.stripe % max 1 x.place.length)

/-- The home unit of an index (R290). -/
def homeUnit (x : Index) : Nat := nodeUnit x x.entry

/-- The current version of an index. -/
def curVersion (x : Index) : Version := x.versions.getLast?.getD ⟨0, 0, []⟩

/-- The home unit of the index that a handle names. -/
def homeOf (s : State) (p : Nat) (h : Word) : Option Nat := (handleIndex s p h).map homeUnit

/-- A node of a version. -/
def findNode (ns : List Node) (id : Nat) : Option Node := ns.find? fun n => n.id == id

/-- Differing bits of two codes (R290). -/
def codeDist (a b : Nat) : Nat := popNat 2048 (a ^^^ b)

/-! ### The search procedure -/

/-- The order of R291 on (distance, node). -/
def nearer (a b : Nat × Nat) : Bool := decide (a.1 < b.1) || (a.1 == b.1 && decide (a.2 < b.2))

/-- Insert into a list in that order. -/
def nearInsert (x : Nat × Nat) : List (Nat × Nat) → List (Nat × Nat)
  | [] => [x]
  | y :: r => if nearer x y then x :: y :: r else y :: nearInsert x r

/-- Sort in that order. -/
def nearSort (l : List (Nat × Nat)) : List (Nat × Nat) := l.foldl (fun acc x => nearInsert x acc) []

/-- C, X, seen and VISITFULL of a search (R291), and the code with which each node entered seen (R402). -/
structure Beam where
  c : List (Nat × Nat)
  x : List Nat
  seen : List Nat
  full : Bool
  codes : List (Nat × Nat)
  deriving DecidableEq, Repr

/-- The neighbours of a node taken in list order (R291): a reference to a node that is not present gives none (R402). -/
def takeRefs (ns : List Node) (q : Nat) : List (Nat × Nat) → Beam → Beam
  | [], b => b
  | (y, code) :: r, b =>
    if b.seen.contains y || (findNode ns y).isNone then takeRefs ns q r b
    else if b.seen.length < 65536 then
      takeRefs ns q r { b with seen := y :: b.seen, c := nearInsert (codeDist q code, y) b.c, codes := (y, code) :: b.codes }
    else takeRefs ns q r { b with full := true }

/-- The nodes of a frontier expanded in order, but for those that cannot be read (R291). -/
def expandAll (ns : List Node) (q : Nat) (unread : List Nat) : List Nat → Beam → Beam
  | [], b => b
  | f :: r, b =>
    let b := { b with x := f :: b.x }
    if unread.contains f then expandAll ns q unread r b
    else
      match findNode ns f with
      | some n => expandAll ns q unread r (takeRefs ns q n.refs b)
      | none => expandAll ns q unread r b

/-- The next frontier: the W first nodes of C that are not in X (R291). -/
def frontier (b : Beam) (w : Nat) : List Nat := ((b.c.filter fun x => !b.x.contains x.2).take w).map (·.2)

/-- The beam before the first round (R291): the entry node with its code. -/
def Beam.start (q ecode entry : Nat) : Beam := ⟨[(codeDist q ecode, entry)], [], [entry], false, [(entry, ecode)]⟩

/-- A whole search over readable nodes, for a merge (R404): at most `hops` rounds. -/
def searchNodes (ns : List Node) (q l w : Nat) : Nat → Beam → Beam
  | 0, b => b
  | n + 1, b =>
    match frontier b w with
    | [] => b
    | f =>
      let b := expandAll ns q [] f b
      searchNodes ns q l w n { b with c := b.c.take l }

/-- The last log record of each identifier between a base and a position (R292). -/
def lastRecords (log : List LogRec) (base p : Nat) : List LogRec :=
  (log.filter fun r => decide (base ≤ r.pos) && decide (r.pos < p)).foldl
    (fun acc r => (acc.filter fun x => x.id != r.id) ++ [r]) []

/-- The results of a search (R292, R293): distance, node, and the LOG and UNREAD flags. -/
def searchResults (ver : Version) (log : List LogRec) (g : SearchOp) : List (Nat × Nat × Nat) :=
  let recs := lastRecords log ver.logbase g.logpos
  let hidden := fun id => recs.any (fun r => r.id == id) || (match findNode ver.nodes id with
    | some n => n.tomb
    | none => false)
  let graph := g.c.filter fun x => !hidden x.2
  let live := recs.filterMap fun r => r.code.map fun k => (codeDist g.qcode k, r.id)
  let all := nearSort (graph ++ live)
  (all.take g.k).map fun x =>
    (x.1, x.2, b2n (live.contains x && !graph.contains x) + 2 * b2n (g.unread.contains x.2 && graph.contains x))

/-! ### Event records and page reads -/

/-- Write an event record into a partition's event ring, or count it lost (R410, R411). TIME counts from bring-up. -/
def storeEvent (s : State) (p what : Nat) (tag : BitVec 32) (page kind loc die attempts slot src : Nat) : State :=
  let tail := (preg s p 0x310).toNat
  let head := (preg s p 0x318).toNat
  let size := 2 ^ wbits (preg s p 0x308) 4 0
  let lost := fun (s : State) => setPreg s p 0x320 (satInc32 (preg s p 0x320))
  if (tail + 2 ^ 32 - head) % 2 ^ 32 = size then lost s
  else
    let rcd := leList 8 ((s.now - s.boot.upAt) / 2) ++ leList 8 what ++ leList 4 tag.toNat ++ leList 4 page ++ leList 1 kind ++ leList 1 loc
      ++ leList 1 die ++ leList 1 attempts ++ leList 2 slot ++ leList 1 src ++ leList 1 0
    match sysWrite s p ((preg s p 0x300).toNat + 32 * (tail % size)) rcd with
    | .error (_, s) => lost s
    | .ok s => raiseIrq (setPreg s p 0x310 (BitVec.ofNat 64 ((tail + 1) % 2 ^ 32))) p 2 2

/-- LOC and DIE of a page (R399, R410). -/
def pageLoc (unit page : Nat) : Nat := unit + page % 8 / 2 * 8

/-- A retrieval unit. -/
def getUnit (s : State) (u : Nat) : IxUnit := if h : u < 8 then s.store.units[u] else IxUnit.reset

/-- Replace a retrieval unit. -/
def setUnit (s : State) (u : Nat) (x : IxUnit) : State :=
  if h : u < 8 then { s with store := { s.store with units := s.store.units.set u x } } else s

/-- A page cannot be read at once: it is marked, or its unit has failed (R409, R410). -/
def pageGone (s : State) (u : Nat) (r : Region) (page : Nat) : Bool :=
  (getUnit s u).failed || (getUnit s u).marks.any fun m => m.1 == r && m.2.1 == page

/-- A read also waited for by a task accepted earlier than those before it names that task (R409 step 4). -/
def earlierAsker (old new : PageRead) : PageRead :=
  if new.since < old.since then { new with attempt := old.attempt } else old

/-- Ask for a page: the read under way, or a new one (R409 step 4). -/
def askPage (s : State) (rd : PageRead) : Nat × State :=
  match s.store.reads.find? fun kr => kr.2.unit == rd.unit && kr.2.region == rd.region && kr.2.page == rd.page with
  | some kr => (kr.1, { s with store := { s.store with reads := kput s.store.reads kr.1 (earlierAsker kr.2 rd) } })
  | none =>
    let (id, s) := freshUid s
    (id, { s with store := { s.store with reads := kput s.store.reads id rd } })

/-- Ask for several pages in order. -/
def askPages (s : State) : List PageRead → List Nat × State
  | [] => ([], s)
  | r :: rest =>
    let (i, s) := askPage s r
    let (is, s) := askPages s rest
    (if is.contains i then is else i :: is, s)

/-! ### Operations -/

/-- Replace the body of an operation. -/
def setBody (s : State) (id : Nat) (b : OpBody) : State :=
  match kfind s.ops id with
  | some o => { s with ops := kput s.ops id { o with body := b } }
  | none => s

/-- The word of an operation is accepted and may complete (R88, R288). -/
def acceptFlight (s : State) (o : Op) (id : Nat) : State :=
  match o.owner with
  | none => s
  | some k => updCtx s (keyAgent k) fun c =>
      let x := getE c.eng o.engine
      let fl := x.flying.map fun f =>
        if f.op == some id && f.fin.isNone then { f with fin := some ⟨[], 0, false, none, none⟩, hold := .none } else f
      { c with eng := setE c.eng o.engine { x with flying := fl } }

/-- An operation's end counts as a finished item of its tag (R301): a search, a fetch, or a walk of a stack stage (R364). -/
def finishes (o : Op) : Bool :=
  o.tagged || (o.owner.isNone && (match o.body with
    | .walk _ _ _ => true
    | _ => false))

/-- An operation ends: its counter takes its add (R94, R95) and it is gone; one that a tag carries counts as finished under
it (R301). -/
def endOp (s : State) (cache : Nat) (id : Nat) : State :=
  match kfind s.ops id with
  | none => s
  | some o =>
    let s := if finishes o then countFinished s o.part o.tag else s
    dropOp (addCtr s o.owner cache o.part o.asid o.ctr 1) id

/-! ### Forms of descriptors -/

/-- What the head checks of a command find (R259, R288): whether its form is wrong, the addresses it names and the lengths, with
the unit each must be a multiple of. -/
structure QForm where
  bad : Bool
  aligns : List (Nat × Nat)
  lens : List (Nat × Nat)
  deriving DecidableEq, Repr

/-- A form fails. -/
def QForm.fails (f : QForm) : Bool := f.bad || (f.aligns ++ f.lens).any fun x => x.1 % x.2 != 0

/-- CTL is out of form (R289). -/
def badCtl63 (bs : List Byte) : Bool :=
  let x := fieldAt bs 63 1
  decide (4 < bits x 2 0) || bits x 4 3 == 3 || bits x 7 5 != 0

/-- SCOPE and HINT of a descriptor (R289). -/
def ctlScope (bs : List Byte) : Nat × Nat := (bits (fieldAt bs 63 1) 2 0, bits (fieldAt bs 63 1) 4 3)

/-- The form of QSEARCH (R290). -/
def searchForm (bs : List Byte) (h : Word) : QForm :=
  let k := fieldAt bs 16 2
  let l := fieldAt bs 18 2
  let w := fieldAt bs 20 1
  ⟨badHandle h || badCtl63 bs || k == 0 || decide (256 < k) || decide (l < k) || decide (512 < l) || w == 0 || decide (16 < w)
    || fieldAt bs 21 1 != 0 || fieldAt bs 22 2 == 0 || fieldAt bs 24 39 != 0,
   [(fieldAt bs 0 8, 32), (fieldAt bs 8 8, 32)], []⟩

/-- The search of a descriptor (R290); `known`: the handle named an index at the head. -/
def searchOf (bs : List Byte) (h : Word) (known : Bool) (q : Nat) : SearchOp :=
  ⟨wbits h 11 0, h, q, BitVec.ofNat 64 (fieldAt bs 8 8), fieldAt bs 16 2, fieldAt bs 18 2, fieldAt bs 20 1, fieldAt bs 22 2,
   known, false, 0, none, 0, 0, [], [], [], [], 0, 0, [], [], none⟩

/-- Bytes at RES that a search may write (R290): its header only, when the handle names no index. -/
def resBytes (bs : List Byte) (known : Bool) : Nat := if known then 32 + 8 * fieldAt bs 16 2 else 32

/-- The form of QFETCH (R296). -/
def fetchForm (bs : List Byte) : QForm :=
  let n := fieldAt bs 28 2
  let sb := fieldAt bs 30 2
  ⟨badCtl63 bs || n == 0 || decide (4096 < n) || decide (sb < 2) || decide (4096 < sb)
    || fieldAt bs 32 31 != 0,
   [(fieldAt bs 0 8, 8), (fieldAt bs 8 8, 8), (fieldAt bs 16 8, 16)], [(sb, 2)]⟩

/-- The fetch of a descriptor and its two lists (R296). -/
def fetchOf (bs objs blks : List Byte) (status : Word) : FetchOp :=
  ⟨BitVec.ofNat 64 (fieldAt bs 16 8), fieldAt bs 24 4, fieldAt bs 30 2, status, false, 0,
   (List.range (fieldAt bs 28 2)).map fun i =>
     ⟨fieldAt objs (8 * i) 8, BitVec.ofNat 64 (fieldAt blks (8 * i) 8), none, none, 64, false, [], false, none⟩⟩

/-- The ranges a fetch names (R296): address and length, all written. -/
def fetchRanges (bs blks : List Byte) (status : Word) : List (Nat × Nat) :=
  let n := fieldAt bs 28 2
  (fieldAt bs 16 8, 16 * n) :: (status.toNat, 8 + n) ::
    (List.range n).map fun i => (fieldAt blks (8 * i) 8, 64 * fieldAt bs 30 2)

/-- Some block address has nonzero low bits (R296). -/
def badBlocks (bs blks : List Byte) : Bool := (List.range (fieldAt bs 28 2)).any fun i => fieldAt blks (8 * i) 8 % 64 != 0

/-- The form of QINSERT and QDELETE (R299). -/
def logForm (bs : List Byte) (h : Word) : QForm :=
  let n := fieldAt bs 16 4
  ⟨badHandle h || badCtl63 bs || n == 0 || decide (65536 < n) || fieldAt bs 20 43 != 0,
   [(fieldAt bs 0 8, 8), (fieldAt bs 8 8, 8)], []⟩

/-- Bytes of a log record in a list (R299). -/
def logStride (x : Index) (del : Bool) : Nat := if del then 8 else 8 + x.cb / 8

/-- The walk parameter of QWALK is out of form (R303). -/
def badWalk (x : Word) : Bool := wbits x 63 21 != 0 || decide (4 < wbits x 18 16) || wbits x 20 19 == 3

/-! ### Searches -/

/-- Operations that a unit is running as searches (R290): accepted, begun, not ended. -/
def searchesOn (s : State) (u : Nat) : Nat :=
  (s.ops.filter fun ko => match ko.2.body with
    | .search g => g.accepted && !g.c.isEmpty && g.status.isNone && (match g.pin with
      | some x => homeUnit x == u
      | none => false)
    | _ => false).length

/-! ### The queues of the receivers -/

/-- The partition's granted units in ascending number (R407). -/
def grantedUnits (s : State) (p : Nat) : List Nat := (List.range 8).filter fun u => bit (preg s p 0x018).toNat u

/-- The unit that an object's rank names (R407). -/
def objectUnit (s : State) (p id : Nat) : Option Nat :=
  let us := grantedUnits s p
  if us.isEmpty then none else us[mix64 id % us.length]?

/-- Commands in a retrieval unit's task queue (R288, R302): those it has accepted and not begun. A search counts in the home unit of the
index it has pinned (R290, R406), a batch and a snapshot in the unit that has accepted them. One that a read retry has queued again does not
count (DESIGN CHOICE, log 79). -/
def tasksQueued (s : State) (u : Nat) : Nat :=
  (s.ops.filter fun ko =>
    match ko.2.body with
    | .search g => g.c.isEmpty && g.status.isNone && g.pin.map homeUnit == some u
    | .fetch g => g.accepted && g.objs.any fun x => !x.begun && x.st.isNone && x.unit == some u
    | .log g => g.home == some u
    | .snap _ _ home => home == some u
    | _ => false).length

/-- QWALK commands in the queue of a stack engine: those with a record that it serves and none begun (R288; log 82). -/
def walksQueued (s : State) (e : Nat) : Nat :=
  (s.ops.filter fun ko => match ko.2.body with
    | .walk _ n done => decide (e < n) && done.isEmpty
    | _ => false).length

/-- The task queue of a receiver of a command is full (R288). -/
def receiverFull (s : State) (p : Nat) (b : OpBody) : Bool :=
  let full := fun u => decide (16384 ≤ tasksQueued s u)
  match b with
  | .search g => (homeOf s p g.handle).any full
  | .log g => g.home.any full
  | .snap _ _ home => home.any full
  | .fetch g => g.objs.any fun x => match objectUnit s p x.id with
      | some u => full u
      | none => false
  | .walk _ n _ => (List.range (min 8 n)).any fun e => decide (1024 ≤ walksQueued s e)
  | _ => false

/-! ### Acceptance of a search -/

/-- SEARCH_ACCEPT: the home unit accepts a search, which pins the version and the log position (R290, R291, R295). A search
withdrawn before never runs (R294); a handle that names no index, at the head or now, ends it with NOINDEX (R289, R290). While the unit's task
queue is full the search is not accepted (R288). -/
def execSearchAccept (op : Nat) (s : State) : Host.Outcome State Fault Refusal :=
  .next (match kfind s.ops op with
    | some o =>
      match o.body with
      | .search g =>
        if g.accepted || (!o.withdrawn && g.known && receiverFull s o.part o.body) then s
        else
          let (n, s) := freshUid (acceptFlight s o op)
          let g := { g with accepted := true, since := n }
          if o.withdrawn then setBody s op (.search { g with status := some 2 })
          else
            match (if g.known then handleIndex s o.part g.handle else none) with
            | none => setBody s op (.search { g with status := some 3 })
            | some x => setBody s op (.search { g with pin := some x, ver := (curVersion x).num, logpos := x.logpos })
      | _ => s
    | none => s)

/-- The version a search pinned. -/
def pinnedVersion (g : SearchOp) : Version :=
  match g.pin with
  | some x => (x.versions.find? fun v => v.num == g.ver).getD ⟨0, 0, []⟩
  | none => ⟨0, 0, []⟩

/-- Start the expansions of a frontier: a node whose page is gone is unread at once, the other pages are asked for
(R409). -/
def startRound (s : State) (o : Op) (x : Index) (g : SearchOp) (f : List Nat) : SearchOp × State :=
  let v := pinnedVersion g
  let gone := f.filter fun n => match findNode v.nodes n with
    | some d => pageGone s (nodeUnit x n) .index d.page
    | none => false
  let rds := (f.filter fun n => !gone.contains n).filterMap fun n => (findNode v.nodes n).map fun d =>
    (⟨nodeUnit x n, .index, d.page, 0, n, o.tag, g.slot, 0, o.part, g.since⟩ : PageRead)
  let (ids, s) := askPages s rds
  ({ g with front := f, unread := g.unread ++ gone, wait := ids }, s)

/-- A search ends with a status: 1 when some node could not be read (R294). -/
def endSearch (g : SearchOp) (flags : Nat) : SearchOp :=
  { g with front := [], flags := g.flags ||| flags, status := some (if g.unread.isEmpty then 0 else 1) }

/-- The head of the loop of R291: withdrawal, the frontier, the round limit. -/
def searchHead (s : State) (o : Op) (x : Index) (g : SearchOp) : SearchOp × State :=
  if o.withdrawn then ({ g with front := [], status := some 2 }, s)
  else
    match frontier ⟨g.c, g.x, g.seen, false, []⟩ g.w with
    | [] => (endSearch g 0, s)
    | f => if g.rounds = g.hops then (endSearch g 1, s) else startRound s o x g f

/-- SEARCH_ROUND: once every expansion of the round has returned, C is trimmed and the next frontier is chosen, or the
search ends (R291); a search begins when its home unit runs fewer than 64 (R290). -/
def execSearchRound (op : Nat) (s : State) : Host.Outcome State Fault Refusal :=
  .next (match kfind s.ops op with
    | some o =>
      match o.body with
      | .search g =>
        match g.pin with
        | none => s
        | some x =>
          if g.status.isSome || !g.wait.isEmpty then s
          else if g.c.isEmpty then
            if 64 ≤ searchesOn s (homeUnit x) then s
            else
              let g := { g with c := [(codeDist g.qcode x.ecode, x.entry)], seen := [x.entry] }
              let (g, s) := searchHead s o x g
              setBody s op (.search g)
          else
            let b := expandAll (pinnedVersion g).nodes g.qcode g.unread g.front ⟨g.c, g.x, g.seen, false, []⟩
            let g := { g with c := b.c.take g.l, x := b.x, seen := b.seen, flags := g.flags ||| 2 * b2n b.full,
                              rounds := g.rounds + 1, front := [] }
            let (g, s) := searchHead s o x g
            setBody s op (.search g)
      | _ => s
    | none => s)

/-- The header of a search (R293). -/
def searchHeader (g : SearchOp) (count status : Nat) : List Byte :=
  if status = 2 ∨ status = 3 then
    leList 4 0 ++ leList 1 status ++ leList 1 0 ++ leList 2 g.rounds ++ leList 16 0 ++ leList 4 g.seen.length ++ leList 4 0
  else
    leList 4 count ++ leList 1 status ++ leList 1 g.flags ++ leList 2 g.rounds ++ leList 4 g.ver
      ++ leList 4 g.unread.length ++ leList 8 g.logpos ++ leList 4 g.seen.length ++ leList 4 0

/-- Write parts for an operation, one after another; none after the first that fails. They count as writes of the context that
issued it (R313). -/
def writeParts (s : State) (cache : Nat) (o : Op) : List (Nat × List Byte) → Bool × State
  | [] => (true, s)
  | (va, bs) :: r =>
    match devWrite s cache o.part o.asid va bs true o.hint o.owner with
    | .ok s => writeParts s cache o r
    | .error (_, s) => (false, s)

/-- SEARCH_END: the home unit writes the records and the header, and adds to the counter (R293). Where no index was pinned, unit 0 writes
(DESIGN CHOICE, log 79). -/
def execSearchEnd (op : Nat) (s : State) : Host.Outcome State Fault Refusal :=
  .next (match kfind s.ops op with
    | some o =>
      match o.body with
      | .search g =>
        match g.status with
        | none => s
        | some st =>
          let u := match g.pin with
            | some x => homeUnit x
            | none => 0
          let cache := unitTlb u
          let res := g.res.toNat
          let wr := writeParts s cache o
          if st = 2 ∨ st = 3 then endOp (wr [(res, searchHeader g 0 st)]).2 cache op
          else
            let rs := searchResults (pinnedVersion g) ((g.pin.map fun x => x.log).getD []) g
            let parts := rs.zipIdx.map fun x =>
              (res + 32 + 8 * x.2, leList 8 (x.1.2.1 + x.1.1 * 2 ^ 40 + x.1.2.2 * 2 ^ 56))
            let (ok, s) := wr (parts ++ [(res, searchHeader g rs.length st)])
            let s := if ok then s else (writeParts s cache o [(res, searchHeader g 0 4)]).2
            endOp s cache op
      | _ => s
    | none => s)

/-! ### Fetches -/

/-- The directory entry of an object (R407). -/
def findObject (s : State) (p id : Nat) : Option KvObj :=
  match objectUnit s p id with
  | none => none
  | some u => s.store.objects.find? fun o => o.part == p && o.unit == u && o.id == id

/-- FETCH_ACCEPT: queued at every unit that holds one of its objects, a fetch reads the directory (R296, R408), once their task queues
have room (R288); withdrawn before, every object ends CANCELLED (R298). -/
def execFetchAccept (op : Nat) (s : State) : Host.Outcome State Fault Refusal :=
  .next (match kfind s.ops op with
    | some o =>
      match o.body with
      | .fetch g =>
        if g.accepted || (!o.withdrawn && receiverFull s o.part o.body) then s
        else
          let (n, s) := freshUid (acceptFlight s o op)
          let objs := g.objs.map fun x =>
            if o.withdrawn then { x with st := some 4 }
            else
              match findObject s o.part x.id with
              | some b => { x with unit := some b.unit, body := some b, cnt := b.cnt }
              | none => x
          setBody s op (.fetch { g with accepted := true, since := n, objs := objs })
      | _ => s
    | none => s)

/-- The pages of an object's body (R407). -/
def bodyPages (b : KvObj) : List Nat := (List.range ((64 + b.cnt * b.slotb + 16383) / 16384)).map fun i => b.page + i

/-- Object `i` of a fetch ends in a state: its entry is written, unless it was cancelled (R297). -/
def endObject (s : State) (o : Op) (op : Nat) (g : FetchOp) (i : Nat) (x : FetchObj) (st : Nat) (flags : Nat) : State :=
  let first := (g.pos + ((g.objs.take i).map fun y => y.cnt).foldl (· + ·) 0) % 2 ^ 32
  let entry := leList 8 (x.block.toNat + flags) ++ leList 4 first ++ leList 1 x.cnt ++ leList 3 0
  let done (st : Nat) := OpBody.fetch { g with objs := listSet g.objs i { x with st := some st, wait := [] } }
  if st = 4 then setBody s op (done 4)
  else
    match devWrite s (unitTlb (x.unit.getD 0)) o.part o.asid (g.ent.toNat + 16 * i) entry true o.hint o.owner with
    | .ok s => setBody s op (done st)
    | .error (_, s) => setBody s op (done 5)

/-- FETCH_OBJECT_END: one object of a fetch goes on (R297, R298): its pages are asked for, or it ends and its slots and its
entry are written. -/
def execFetchObjectEnd (op i : Nat) (s : State) : Host.Outcome State Fault Refusal :=
  .next (match kfind s.ops op with
    | some o =>
      match o.body with
      | .fetch g =>
        match g.objs[i]? with
        | none => s
        | some x =>
          if !g.accepted || x.st.isSome then s
          else if o.withdrawn && !x.begun then endObject s o op g i x 4 0
          else
            match x.unit with
            | none => endObject s o op g i x 2 0
            | some u =>
              match x.body with
              | none => endObject s o op g i x 2 0
              | some b =>
                if x.bad then (if x.wait.isEmpty then endObject s o op g i x 1 0 else s)
                else if b.slotb ≠ g.slotb then endObject s o op g i x 3 0
                else if !x.begun then
                  if (bodyPages b).any (pageGone s u .object) then endObject s o op g i x 1 0
                  else
                    let (ids, s) := askPages s ((bodyPages b).map fun pg =>
                      (⟨u, .object, pg, 0, x.id, o.tag, 0xFFFF, 1, o.part, g.since⟩ : PageRead))
                    setBody s op (.fetch { g with objs := listSet g.objs i { x with begun := true, wait := ids } })
                else if !x.wait.isEmpty then s
                else
                  match devWrite s (unitTlb u) o.part o.asid x.block.toNat ((b.data.drop 64).take (b.cnt * b.slotb)) true o.hint o.owner with
                  | .ok s => endObject s o op g i x 0 3
                  | .error (_, s) => endObject s o op g i x 5 0
      | _ => s
    | none => s)

/-- The header of a fetch (R297). -/
def fetchHeader (sts : List Nat) : List Byte :=
  let n := fun (l : List Nat) => (sts.filter l.contains).length
  let bad := n [1, 2, 3, 5]
  let can := n [4]
  leList 2 (n [0]) ++ leList 2 bad ++ leList 2 can ++ leList 1 (if 0 < can then 2 else if 0 < bad then 1 else 0) ++ leList 1 0

/-- FETCH_END: once every object has ended, the status bytes, the header, the add (R297). They are written by unit 0, as is the entry of
an absent object, which no unit holds; where one of these writes fails, those after it are not made and the counter takes its add all
the same (DESIGN CHOICE, log 79). -/
def execFetchEnd (op : Nat) (s : State) : Host.Outcome State Fault Refusal :=
  .next (match kfind s.ops op with
    | some o =>
      match o.body with
      | .fetch g =>
        let sts := g.objs.filterMap fun x => x.st
        if !g.accepted || sts.length < g.objs.length then s
        else
          let cache := unitTlb 0
          let st := g.status.toNat
          let (_, s) := writeParts s cache o
            [(st + 8, sts.map (BitVec.ofNat 8)), (st, fetchHeader sts)]
          endOp s cache op
      | _ => s
    | none => s)

/-! ### The index log -/

/-- The records of a batch (R299): identifier and code. -/
def batchRecords (bs : List Byte) (del : Bool) (stride : Nat) : Nat → List (Nat × Option Nat)
  | 0 => []
  | n + 1 =>
    (fieldAt bs 0 8, if del then none else some (fieldAt bs 8 (stride - 8))) ::
      batchRecords (bs.drop stride) del stride n

/-- Versions an index retains: the current one and those a search has pinned, since before an UNMOUNT too (R403, R405, R406). -/
def retained (s : State) (slot : Nat) (x : Index) : List Version :=
  x.versions.filter fun v => v.num == (curVersion x).num || s.ops.any fun ko => match ko.2.body with
    | .search g => g.slot == slot && g.ver == v.num && (match g.pin with
        | some y => y.serial == x.serial
        | none => false)
    | _ => false

/-- Log base of the oldest version an index retains (R403). -/
def oldestBase (s : State) (slot : Nat) (x : Index) : Nat := ((retained s slot x).head?.map fun v => v.logbase).getD 0

/-- Records below the oldest retained base are reclaimed (R403). -/
def reclaimLog (s : State) (slot : Nat) (x : Index) : Index :=
  let b := oldestBase s slot x
  { x with log := x.log.filter fun r => decide (b ≤ r.pos) }

/-- The log base of a version stands 7/8 of LOGCAP or more below the log position (R410). -/
def logIsHigh (x : Index) : Bool := decide (7 * x.logcap ≤ 8 * (x.logpos - (curVersion x).logbase))

/-- LOGHIGH is written when the log of the current version first reaches 7/8 of LOGCAP (R410). -/
def noteHigh (s : State) (slot : Nat) (x : Index) : State :=
  if logIsHigh x && !x.logHigh then
    storeEvent { s with store := { s.store with indexes := kput s.store.indexes slot { x with logHigh := true } } } x.owner 0 0 0 5
      (homeUnit x) 0xFF 0 slot 3
  else s

/-- Put an index back into its slot. -/
def putIndex (s : State) (slot : Nat) (x : Index) : State :=
  { s with store := { s.store with indexes := kput s.store.indexes slot x } }

/-- LOG_APPEND: the home unit reads the batch, appends it as one step of the index order or rejects it whole, writes POSOUT
and adds to the counter (R299, R403). A batch that can no longer be read is appended in no part and reported nowhere
(DESIGN CHOICE, log 29). Where the log lacks room and an identifier is bad too, LOGFULL is reported (DESIGN CHOICE, log
79). -/
def execLogAppend (op : Nat) (s : State) : Host.Outcome State Fault Refusal :=
  .next (match kfind s.ops op with
    | some o =>
      match o.body with
      | .log g =>
        let slot := wbits g.handle 11 0
        let idx := handleIndex s o.part g.handle
        let cache := unitTlb (g.home.getD 0)
        let report (s : State) (x : Nat) : State :=
          endOp (if g.posout = 0 then s
            else (writeParts s cache o [(g.posout.toNat, leList 8 x)]).2) cache op
        let reject (s : State) (k : Nat) := report s (0xFFFFFFFFFFFFFF00 + k)
        match idx with
        | none => reject s 1
        | some x =>
          let stride := logStride x g.del
          match devReadS s cache o.part o.asid g.list.toNat (stride * g.count) true o.owner with
          | (.error _, s) => endOp s cache op
          | (.ok bs, s) =>
            let rs := batchRecords bs g.del stride g.count
            if x.logcap < x.logpos + g.count - oldestBase s slot x then reject s 2
            else if rs.any fun r => decide (2 ^ 40 ≤ r.1) then reject s 3
            else
              let recs := rs.zipIdx.map fun r => (⟨x.logpos + r.2, r.1.1, r.1.2⟩ : LogRec)
              let y := reclaimLog s slot { x with log := x.log ++ recs, logpos := x.logpos + g.count }
              let s := noteHigh (putIndex s slot y) slot y
              report s x.logpos
      | _ => s
    | none => s)

/-- QSNAP_READ: version and log position at one step of the index order (R300). -/
def execQsnapRead (op : Nat) (s : State) : Host.Outcome State Fault Refusal :=
  .next (match kfind s.ops op with
    | some o =>
      match o.body with
      | .snap dst h home =>
        let idx := handleIndex s o.part h
        let cache := unitTlb (home.getD 0)
        let bs := match idx with
          | some x => leList 4 (curVersion x).num ++ leList 4 0 ++ leList 8 x.logpos
          | none => leList 4 0xFFFFFFFF ++ leList 12 0
        endOp (writeParts s cache o [(dst.toNat, bs)]).2 cache op
      | _ => s
    | none => s)

/-! ### Page reads -/

/-- A page read no longer runs: those that wait for it go on. `bad` says that the page could not be read; the nodes and
objects on it then end as unread (R294, R297, R409), and a merge that needs it has failed (R405). -/
def settleRead (s : State) (rd : Nat) (r : PageRead) (bad : Bool) : State :=
  let free (l : List Nat) := l.filter fun x => x != rd
  { s with
    ops := s.ops.map fun ko => (ko.1, match ko.2.body with
      | .search g =>
        if g.wait.contains rd then
          let lost := if bad then g.front.filter fun n => (match g.pin, findNode (pinnedVersion g).nodes n with
            | some x, some d => nodeUnit x n == r.unit && d.page == r.page
            | _, _ => false) else []
          { ko.2 with body := .search { g with wait := free g.wait, unread := g.unread ++ lost } }
        else ko.2
      | .fetch g =>
        let objs := g.objs.map fun x =>
          if x.wait.contains rd then { x with wait := free x.wait, bad := x.bad || bad } else x
        { ko.2 with body := .fetch { g with objs := objs } }
      | _ => ko.2)
    store := { s.store with
      reads := kerase s.store.reads rd
      indexes := s.store.indexes.map fun kx => (kx.1, { kx.2 with
        merge := kx.2.merge.map fun m => { m with reads := free m.reads, failed := m.failed || (bad && m.reads.contains rd) } }) } }

/-- Some task or merge still waits for a page read. -/
def readWanted (s : State) (rd : Nat) : Bool :=
  s.ops.any (fun ko => match ko.2.body with
    | .search g => g.wait.contains rd
    | .fetch g => g.objs.any fun x => x.wait.contains rd
    | _ => false)
  || s.store.indexes.any fun kx => match kx.2.merge with
    | some m => m.reads.contains rd
    | none => false

/-- Page reads that nothing waits for any more end with what asked for them (R377). -/
def dropReads (s : State) : State :=
  { s with store := { s.store with reads := s.store.reads.filter fun kr => readWanted s kr.1 } }

/-- PAGE_READ_ATTEMPT: an attempt ends (R409). The ninth failure marks the page. -/
def execPageReadAttempt (rd : Nat) (ok : Bool) (s : State) : Host.Outcome State Fault Refusal :=
  .next (match kfind s.store.reads rd with
    | none => s
    | some r =>
      let gone := pageGone s r.unit r.region r.page
      if ok && !gone then settleRead s rd r false
      else if gone then settleRead s rd r true
      else
        let ev := fun s kind n => storeEvent s r.part r.what r.tag r.page kind (pageLoc r.unit r.page) (r.page % 8) n r.slot r.src
        if r.attempt < 8 then
          let s := if r.attempt = 0 then
            let u := getUnit s r.unit
            ev (setUnit s r.unit { u with retries := u.retries + 1 }) 1 1
            else s
          { s with store := { s.store with reads := kput s.store.reads rd { r with attempt := r.attempt + 1 } } }
        else
          let u := getUnit s r.unit
          let s := setUnit s r.unit { u with marks := u.marks ++ [(r.region, r.page, true)] }
          settleRead (ev s 2 9) rd r true)

/-- UNITFAIL: a unit fails; its tasks end as unreadable (R410). The record goes to every partition the unit is granted to:
one whose grant is in force, enabled or still bringing its work to an end (R354, R407). -/
def execUnitfail (u : Nat) (s : State) : Host.Outcome State Fault Refusal :=
  .next (if (getUnit s u).failed || 8 ≤ u then s
    else
      let s := setUnit s u { getUnit s u with failed := true }
      let s := s.store.reads.foldl (fun s kr => if kr.2.unit = u then settleRead s kr.1 kr.2 true else s) s
      (List.range 8).foldl (fun s p =>
        if bit (preg s p 0x018).toNat u && granted s p then storeEvent s p 0 0 0 7 u 0xFF 0 0xFFFF 3 else s) s)

/-! ### Walks -/

/-- A walker record (R303). -/
structure WalkRec where
  table : Nat
  rowb : Nat
  idx : Nat
  count : Nat
  out : Nat
  mode : Nat
  efmt : Nat
  wgt : Nat
  deriving DecidableEq, Repr

/-- The record that 32 bytes hold (R303). -/
def walkRec (bs : List Byte) : WalkRec :=
  ⟨fieldAt bs 0 6, fieldAt bs 6 2, fieldAt bs 8 6, fieldAt bs 14 2, fieldAt bs 16 6, fieldAt bs 22 1, fieldAt bs 23 1,
   fieldAt bs 24 6⟩

/-- The element formats of a pooled walk (R303). -/
def poolFmt (efmt : Nat) : Option Fmt :=
  if efmt = 13 ∨ efmt = 14 ∨ efmt = 15 ∨ efmt = 6 then fmtOfCode efmt else none

/-- Bytes of an index (R303). -/
def walkIw (w : WalkRec) : Nat := if bit w.mode 2 then 8 else 4

/-- Bytes a record writes at OUT (R304). -/
def walkOutBytes (w : WalkRec) : Nat := if bits w.mode 1 0 = 0 then w.rowb * w.count else w.rowb

/-- A record's fields are out of range (R303). -/
def badWalkRec (w : WalkRec) : Bool :=
  let pool := bits w.mode 1 0
  bits w.mode 7 3 != 0 || w.table % 4 != 0 || decide (w.rowb < 4) || decide (4096 < w.rowb) || w.rowb % 4 != 0
    || w.idx % walkIw w != 0 || w.out % 4 != 0 || w.wgt % 4 != 0
    || (if pool = 0 then w.efmt != 0 else (poolFmt w.efmt).isNone)
    || (w.wgt != 0 && !((pool == 1 || pool == 2) && (match poolFmt w.efmt with
        | some (.flt _) => true
        | _ => false)))

/-- A read by a receiver: its bytes, or nothing where translation fails or an uncorrectable error is met, which is logged (R440). It
counts as a read of the context that issued the command (R313, R315). -/
def unitRead (s : State) (cache : Nat) (o : Op) (va n : Nat) : Option (List Byte) × State :=
  match readSure s cache o.part o.asid va n true o.owner with
  | (.ok bs, s) => (some bs, s)
  | (.error _, s) => (none, s)

/-- The row an index names: its bytes, when it passes the checks of R272 and holds no uncorrectable error (R440). -/
def walkRow (s : State) (cache : Nat) (o : Op) (w : WalkRec) (x : Nat) : Option (List Byte) × State :=
  let a := (w.table + x * w.rowb) % 2 ^ 64
  if 2 ^ 48 ≤ a then (none, s) else unitRead s cache o a w.rowb

/-- The rows of a list of indices, in order. -/
def walkRows (cache : Nat) (o : Op) (w : WalkRec) : List Nat → State → List (Option (List Byte)) × State
  | [], s => ([], s)
  | x :: r, s =>
    let (b, s) := walkRow s cache o w x
    let (bs, s) := walkRows cache o w r s
    (b :: bs, s)

/-- The elements of a row. -/
def rowVals (f : Fmt) (bs : List Byte) : List Nat := elems f (leVal bs) (8 * bs.length / storedW f)

/-- One pooled element over the good rows (R304). -/
def poolElem (pool : Nat) (f : Fmt) (rows : List (List Nat × FVal)) (j : Nat) : Nat :=
  let xs := rows.map fun r => (listGet 0 r.1 j, r.2)
  match f with
  | .flt g =>
    let vals := xs.map fun x => (fltValue g x.1, x.2)
    if pool = 3 then
      match vals with
      | [] => signed g true ((fltInf g).getD (fltMax g))
      | v :: r => (roundToFormat (r.foldl (fun acc y => fvPick true acc y.1) v.1) g rne false 0).1
    else
      let (t, _) := exactSum (vals.map fun v => prodOf v.2 v.1)
      if xs.isEmpty then 0
      else (roundToFormat (if pool = 2 then (fvDiv t (fvInt xs.length)).1 else t) g rne false 0).1
  | _ =>
    let ints := xs.map fun x => toSigned 32 x.1
    if pool = 3 then ofSigned 32 (ints.foldl max (-(2 ^ 31 : Nat)))
    else
      let t := ints.foldl (· + ·) 0
      if xs.isEmpty then 0 else ofSigned 32 (if pool = 2 then Int.tdiv t xs.length else t)

/-- The output of a record (R304) from the rows of its indices, and how many are bad. -/
def walkOut (w : WalkRec) (wts : List FVal) (rows : List (Option (List Byte))) : List Byte × Nat :=
  let pool := bits w.mode 1 0
  let bad := (rows.filter fun r => r.isNone).length
  if pool = 0 then (rows.flatMap fun r => r.getD (List.replicate w.rowb 0), bad)
  else
    match poolFmt w.efmt with
    | none => ([], bad)
    | some f =>
      let good := rows.zipIdx.filterMap fun r => r.1.map fun bs => (rowVals f bs, listGet (fvInt 1) wts r.2)
      let n := 8 * w.rowb / storedW f
      (leList w.rowb (packE f ((List.range n).map (poolElem pool f good))), bad)

/-- What a walker record does once its lists have been read (R304): its output and its BAD count, or 0xFFFF in BAD where it is
malformed. -/
def walkGo (s : State) (cache : Nat) (o : Op) (w : WalkRec) (badAt : Nat) (idx wt : Option (List Byte)) : State :=
  let wr := fun s parts => (writeParts s cache o parts).2
  let out := sysPieces s cache o.part o.asid w.out .write true (pieceFuel (walkOutBytes w)) (walkOutBytes w)
  match badWalkRec w, idx, wt, out.1 with
  | false, some idx, some wt, .ok _ =>
    let (rows, s) := walkRows cache o w ((List.range w.count).map fun e => fieldAt idx (walkIw w * e) (walkIw w)) out.2
    let wts := if w.wgt = 0 then [] else (List.range w.count).map fun e => fltValue .fp32 (fieldAt wt (4 * e) 4)
    let (bytes, bad) := walkOut w wts rows
    wr s [(w.out, bytes), (badAt, leList 2 (min bad 0xFFFE))]
  | _, _, _, _ => wr s [(badAt, leList 2 0xFFFF)]

/-- WALK_RECORD: one record runs, once (R303, R304): its output and its BAD count are written; after the last the counter
takes its add. A record that can no longer be read is passed over with nothing written, and a write of OUT or BAD that fails ends
the record there (DESIGN CHOICE, log 79). -/
def execWalkRecord (op k : Nat) (s : State) : Host.Outcome State Fault Refusal :=
  .next (match kfind s.ops op with
    | some o =>
      match o.body with
      | .walk arr n done =>
        if n ≤ k ∨ done.contains k then s
        else
          let cache := walkerTlb k
          let rcdAt := arr.toNat + 32 * k
          let s := match unitRead s cache o rcdAt 32 with
            | (none, s) => s
            | (some bs, s) =>
              let w := walkRec bs
              let (idx, s) := if badWalkRec w then (none, s) else unitRead s cache o w.idx (walkIw w * w.count)
              let (wt, s) := if badWalkRec w then (none, s) else unitRead s cache o w.wgt (if w.wgt = 0 then 0 else 4 * w.count)
              walkGo s cache o w (rcdAt + 30) idx wt
          let done := k :: done
          if done.length = n then endOp s cache op else setBody s op (.walk arr n done)
      | _ => s
    | none => s)

end Sys2Proof.Machine
end

