-- ==== Sys2Proof/Machine/Store.lean ====
section
/-! DEFINITION. The retrieval store: merges (R404, R405) and provisioning commands (R412 to R414). -/

namespace Sys2Proof.Machine

/-! ### Pages -/

/-- Pages of a unit's index region that hold records of some retained or pinned version (R404 to R406; log 21). -/
def usedIndexPages (s : State) (u : Nat) : List Nat :=
  let of_ (x : Index) (vs : List Version) : List Nat := vs.flatMap fun v => v.nodes.filterMap fun n =>
    if nodeUnit x n.id = u then some n.page else none
  (s.store.indexes.flatMap fun kx => of_ kx.2 (retained s kx.1 kx.2)) ++ s.ops.flatMap fun ko => match ko.2.body with
    | .search g => (g.pin.map fun x => of_ x [pinnedVersion g]).getD []
    | _ => []

/-- Pages of 16 KiB that bytes take. -/
def pagesOf (n : Nat) : Nat := (n + 16383) / 16384

/-- Entries of a version's node map on a unit: one for each rank up to that of its highest identifier there (R402). The rank of an
identifier counts the unit's stripes before its own, of which a round over PLACE holds as many as PLACE names the unit. -/
def mapEntries (x : Index) (ns : List Node) (u : Nat) : Nat :=
  let n := max 1 x.place.length
  let mine := fun k => ((x.place.take k).filter fun v => v == u).length
  let rank := fun id =>
    let b := id / 2 ^ x.stripe
    (b / n * mine n + mine (b % n)) * 2 ^ x.stripe + id % 2 ^ x.stripe
  (ns.filter fun n => nodeUnit x n.id == u).foldl (fun m n => max m (rank n.id + 1)) 0

/-- Pages of the node map of a version on a unit (R402). -/
def mapPages (x : Index) (ns : List Node) (u : Nat) : Nat := pagesOf (8 * mapEntries x ns u)

/-- Pages of the log of an index, whose room is kept from CREATE on (R403; DESIGN CHOICE, log 21). -/
def logPages (x : Index) : Nat := pagesOf (x.logcap * (8 + x.cb / 8))

/-- Pages that one index takes on a unit beside its node records (R399, R400, R402, R403). -/
def indexPages (x : Index) (vs : List Version) (u : Nat) : Nat :=
  (if x.place.contains u then 1 + (vs.map fun v => mapPages x v.nodes u).foldl (· + ·) 0 else 0)
    + (if homeUnit x = u then logPages x else 0)

/-- Pages of the object directory of a unit, at 16 bytes an entry (R399, R407; DESIGN CHOICE, log 21). -/
def directoryPages (s : State) (u : Nat) : Nat := pagesOf (16 * (s.store.objects.filter fun o => o.unit == u).length)

/-- Indexes that have been dropped while searches run on them, with the versions those searches have pinned (R406). -/
def droppedIndexes (s : State) : List (Index × List Version) :=
  let pins := s.ops.filterMap fun ko => match ko.2.body with
    | .search g => g.pin.bind fun x =>
        let gone : Bool := match kfind s.store.indexes g.slot with
          | some y => y.st == .free || y.serial != x.serial
          | none => true
        if gone then some (x, pinnedVersion g) else none
    | _ => none
  (pins.map fun y => y.1.serial).eraseDups.filterMap fun n =>
    (pins.find? fun y => y.1.serial == n).map fun y => (y.1, ((pins.filter fun z => z.1.serial == n).map (·.2)).eraseDups)

/-- Pages at the upper end of a unit's index region that hold headers, node maps, logs and the object directory (R399; log 21); those of
a dropped index are kept until the searches on it have ended (R406). -/
def fixedPages (s : State) (u : Nat) : Nat :=
  (s.store.indexes.map fun kx => if kx.2.st = .free then 0 else indexPages kx.2 (retained s kx.1 kx.2) u).foldl (· + ·) 0
    + ((droppedIndexes s).map fun y => indexPages y.1 y.2 u).foldl (· + ·) 0 + directoryPages s u

/-- Pages of a unit's index region (R399). -/
def regionPages (s : State) (u : Nat) : Nat := (getUnit s u).indexGib * 65536

/-- A unit's index region still has room when the state has come to this. -/
def regionFits (s : State) (u : Nat) : Bool :=
  decide ((usedIndexPages s u).foldl (fun m p => max m (p + 1)) 0 + fixedPages s u ≤ regionPages s u)

/-- Programming the flash of some unit fails (R414). -/
def flashFails (s : State) (us : List Nat) : Bool := us.any fun u => (getUnit s u).failed || (getUnit s u).flashBad

/-- The lowest page outside a list. -/
def freePage (l : List Nat) : Nat := ((List.range (l.length + 1)).find? fun p => !l.contains p).getD 0

/-- Where records go: pages taken, and the page being filled on each unit (log 21). -/
structure Alloc where
  used : KMap (List Nat)
  cur : KMap (Nat × Nat)
  deriving DecidableEq, Repr

/-- Place a record of some bytes wholly within one page of a unit: its page and its offset there (R401). -/
def allocRec (s : State) (a : Alloc) (u size : Nat) : (Nat × Nat) × Alloc :=
  let used := (kfind a.used u).getD (usedIndexPages s u)
  let fresh : (Nat × Nat) × Alloc :=
    let p := freePage used
    ((p, 0), ⟨kput a.used u (p :: used), kput a.cur u (p, size)⟩)
  match kfind a.cur u with
  | some (p, fill) => if fill + size ≤ 16384 then ((p, fill), { a with cur := kput a.cur u (p, fill + size) }) else fresh
  | none => fresh

/-- Bytes of a node record (R401). -/
def nodeBytes (x : Index) (n : Node) : Nat := 8 + n.refs.length * (8 + x.cb / 8)

/-- Place nodes in order (R401, R402). -/
def placeNodes (s : State) (x : Index) : List Node → Alloc → List Node
  | [], _ => []
  | n :: r, a =>
    let (at_, a) := allocRec s a (nodeUnit x n.id) (nodeBytes x n)
    { n with page := at_.1, off := at_.2 / 8 } :: placeNodes s x r a

/-! ### Merges -/

/-- The code with which a node entered the search of a merge (R402, R404). -/
def codeIn (b : Beam) (id : Nat) : Nat := ((b.codes.find? fun c => c.1 == id).map (·.2)).getD 0

/-- Replace or add a node. -/
def putNode (ns : List Node) (n : Node) : List Node :=
  if ns.any fun m => m.id == n.id then ns.map fun m => if m.id = n.id then n else m else ns ++ [n]

/-- Sort references by distance from a code, then by identifier (R291, R404). -/
def sortRefs (code : Nat) (refs : List (Nat × Nat)) : List (Nat × Nat) :=
  (nearSort (refs.map fun r => (codeDist code r.2, r.1))).filterMap fun k =>
    refs.find? fun r => r.1 == k.2 && codeDist code r.2 == k.1

/-- Link a new node from one of its neighbours, of code `cy` (R404). -/
def linkBack (x : Index) (ns : List Node) (id code y cy : Nat) : List Node :=
  match findNode ns y with
  | none => ns
  | some n =>
    if n.refs.length < x.deg then putNode ns { n with refs := n.refs ++ [(id, code)] }
    else
      match n.refs.getLast? with
      | none => ns
      | some last =>
        if nearer (codeDist cy code, id) (codeDist cy last.2, last.1) then
          putNode ns { n with refs := sortRefs cy (n.refs.dropLast ++ [(id, code)]) }
        else ns

/-- Nodes of a version being built, those whose records change, those whose records are read. -/
structure MergeRun where
  ns : List Node
  changed : List Nat
  seen : List Nat
  deriving DecidableEq, Repr

/-- Insert one queued node (R404). -/
def mergeInsert (x : Index) (m : MergeRun) (id code : Nat) : MergeRun :=
  let b := searchNodes m.ns code (max 64 (2 * x.deg)) 4 64 (Beam.start code x.ecode x.entry)
  let nb := (b.c.filter fun y => match findNode m.ns y.2 with
    | some n => !n.tomb
    | none => false).take x.deg
  let refs := nb.map fun y => (y.2, codeIn b y.2)
  let ns := putNode m.ns ⟨id, false, 0, 0, refs⟩
  let ns := nb.foldl (fun ns y => linkBack x ns id code y.2 (codeIn b y.2)) ns
  ⟨ns, id :: nb.map (·.2) ++ m.changed, b.x ++ nb.map (·.2) ++ m.seen⟩

/-- A whole merge from a version and the log records below the merge point (R404). -/
def mergeRun (x : Index) (m : Nat) : MergeRun :=
  let v := curVersion x
  let recs := lastRecords x.log v.logbase m
  let dels := recs.filter fun r => r.code.isNone
  let ns := v.nodes.map fun n => if dels.any fun r => r.id == n.id then { n with tomb := true } else n
  (recs.filterMap fun r => r.code.map fun c => (r.id, c)).foldl (fun m x' => mergeInsert x m x'.1 x'.2) ⟨ns, [], []⟩

/-- The limit of log records that starts a merge (R412). -/
def mergeAt (s : State) (x : Index) : Nat :=
  let n := wbits (preg s x.owner 0x338) 23 0
  if n = 0 then x.logcap / 2 else n

/-- Pages a merge reads: those of V that hold a record it needs. -/
def mergeReads (s : State) (slot : Nat) (x : Index) (m : Nat) : List PageRead :=
  let v := curVersion x
  let run := mergeRun x m
  ((v.nodes.filter fun n => run.seen.contains n.id && !pageGone s (nodeUnit x n.id) .index n.page)).map fun n =>
    ⟨nodeUnit x n.id, .index, n.page, 0, n.id, 0, slot, 2, x.owner, s.sch.uid⟩

/-- MERGE_START: the log has grown to MERGEAT, or a MERGE command named the index; M is the log position at this step
(R404, R405). The pages the merge needs are asked for (DEDUCED, log 30). -/
def execMergeStart (slot : Nat) (s : State) : Host.Outcome State Fault Refusal :=
  .next (match kfind s.store.indexes slot with
    | none => s
    | some x =>
      let go := match x.merge with
        | some m => !m.started
        | none => (x.st == .built || x.st == .mounted) && partOn s x.owner && !x.mergeHold
          && decide (mergeAt s x ≤ x.logpos - (curVersion x).logbase)
      if !go then s
      else
        let (ids, s) := askPages s (mergeReads s slot x x.logpos)
        let run := mergeRun x x.logpos
        let lost := (curVersion x).nodes.any fun n => run.seen.contains n.id && pageGone s (nodeUnit x n.id) .index n.page
        putIndex s slot { x with merge := some ⟨x.logpos, (curVersion x).logbase, true, ids, lost⟩ })

/-- The index with the version a merge publishes: its retained versions and V + 1, whose log base is the merge point (R404). -/
def nextIndex (s : State) (slot : Nat) (x : Index) (m : Nat) (fresh : List Node) : Index :=
  let ns := (mergeRun x m).ns.map fun n => (findNode fresh n.id).getD n
  { x with versions := retained s slot x ++ [⟨(curVersion x).num + 1, m, ns⟩], nodes := ns.length, merge := none
           regionFull := false, logHigh := false }

/-- The regions of the index's units have room for the version beside those retained (R405). -/
def publishFits (s : State) (slot : Nat) (x y : Index) (fresh : List Node) : Bool :=
  x.place.all fun u => regionFits (putIndex s slot y) u && decide (fresh.foldl (fun k n =>
    if nodeUnit x n.id = u then max k (n.page + 1) else k) 0 + fixedPages s u + mapPages x (curVersion y).nodes u ≤ regionPages s u)

/-- MERGE_PUBLISH: version V + 1 and its log base are published as one step of the index order (R404); a fifth version or a
full region waits, reported once; an unreadable page ends the merge (R405). -/
def execMergePublish (slot : Nat) (s : State) : Host.Outcome State Fault Refusal :=
  .next (match kfind s.store.indexes slot with
    | none => s
    | some x =>
      match x.merge with
      | none => s
      | some m =>
        if !m.started || !m.reads.isEmpty then s
        else
          let run := mergeRun x m.m
          let v := curVersion x
          let ev := fun s what kind => storeEvent s x.owner what 0 0 kind (homeUnit x) 0xFF 0 slot 2
          let lost := m.failed || v.nodes.any fun n => run.seen.contains n.id && (getUnit s (nodeUnit x n.id)).failed
          if lost then ev (putIndex s slot { x with merge := none, mergeHold := true, regionFull := false }) 0 4
          else
            let keep := retained s slot x
            let fresh := placeNodes s x (run.ns.filter fun n => run.changed.contains n.id) ⟨[], []⟩
            let y := nextIndex s slot x m.m fresh
            if 4 ≤ keep.length || !publishFits s slot x y fresh then
              if x.regionFull then s else ev (putIndex s slot { x with regionFull := true }) 0 6
            else
              let y := reclaimLog (putIndex s slot y) slot y
              noteHigh (ev (putIndex s slot y) (v.num + 1) 3) slot y)

/-! ### Provisioning -/

/-- RSCMD: a command is queued, or counted as dropped when 16 are (R412); the device wakes (R446). A write before READY is
ignored (R435). -/
def execRscmd (p : Nat) (val : Word) (s : State) : Host.Outcome State Fault Refusal :=
  .next (if !s.boot.ready then s
    else
      let s := wakeDevice s
      if 16 ≤ (getPart s p).cmds.length then
        setPreg s p 0x340 (BitVec.ofNat 64 (min 255 (wbits (preg s p 0x340) 15 8 + 1) * 256))
      else updPart s p fun q => { q with cmds := q.cmds ++ [BitVec.ofNat 64 (wbits val 47 6 * 64)] })

/-- What a command leaves: RESULT, STATUS, the machine. -/
abbrev CmdEnd := Nat × Nat × State

/-- A command that ends with a status and changes nothing. -/
def cmdFail (s : State) (st : Nat) : CmdEnd := (0, st, s)

/-- Run the command at the head of the queue when its OP is one of those given (R412, R413): its block is read, RESULT and
STATUS are written, RSDONE advances. A nonzero reserved byte gives BADCMD. Only an enabled partition holds units and
identifiers, so the commands of another wait (DEDUCED, log 38). -/
def provision (s : State) (p : Nat) (mine : Nat → Bool) (body : State → List Byte → CmdEnd) : State :=
  match (getPart s p).cmds with
  | [] => s
  | w :: rest =>
    let va := w.toNat
    let finish (s : State) : State :=
      setPreg (updPart s p fun q => { q with cmds := rest }) p 0x330
        (BitVec.ofNat 64 (((preg s p 0x330).toNat + 1) % 2 ^ 32))
    match (if partOn s p then some (devReadS s sysTlb p (asidBase s p) va 64 false) else none) with
    | none => s
    | some (.error _, t) => if mine 0 then finish t else s
    | some (.ok bs, t) =>
      if !mine (fieldAt bs 0 1) then s
      else
        let (res, st, s) := if fieldAt bs 4 4 ≠ 0 ∨ fieldAt bs 32 24 ≠ 0 then cmdFail t 1 else body t bs
        let out := leList 4 res ++ leList 1 st ++ leList 3 0
        finish (match sysWrite s p (va + 56) out with
          | .ok s => s
          | .error (_, s) => s)

/-- UNIT, SLOT, ADDR, LEN, ARG of a block (R413). -/
def cmdUnit (bs : List Byte) : Nat := fieldAt bs 1 1
def cmdSlot (bs : List Byte) : Nat := fieldAt bs 2 2
def cmdAddr (bs : List Byte) : Nat := fieldAt bs 8 8
def cmdLen (bs : List Byte) : Nat := fieldAt bs 16 8
def cmdArg (bs : List Byte) : Nat := fieldAt bs 24 8

/-- The image of a command, in the partition's first identifier; none when it fails translation (R414). -/
def cmdImage (s : State) (p : Nat) (bs : List Byte) : Option (List Byte) × State :=
  match devReadS s sysTlb p (asidBase s p) (cmdAddr bs) (cmdLen bs) false with
  | (.ok x, s) => (some x, s)
  | (.error _, s) => (none, s)

/-- A slot that is FREE, of a generation (R414). -/
def freeIndex (gen : BitVec 16) : Index :=
  ⟨0, 0, .free, gen, 0, 0, [], 0, 0, 0, 0, 0, [], [], 0, none, false, false, false⟩

/-- An index slot as a command finds it (R414): a slot never used is FREE. -/
def slotOf (s : State) (slot : Nat) : Index := (kfind s.store.indexes slot).getD (freeIndex 0)

/-- A command on an index of the partition in the state it requires (R414); one that acts on the index's units needs every one of them
granted (DEDUCED, log 85). -/
def onIndex (s : State) (p : Nat) (bs : List Byte) (st : IdxState) (units : Bool) (go : Nat → Index → CmdEnd) : CmdEnd :=
  let slot := cmdSlot bs
  let x := slotOf s slot
  if 4096 ≤ slot then cmdFail s 1
  else if x.st ≠ .free ∧ (x.owner ≠ p ∨ (units && !unitsHeld s p x)) then cmdFail s 2
  else if x.st ≠ st then cmdFail s 3
  else go slot x

/-- An index of another partition, which once had the unit, after the unit has been erased (R399, R414): the nodes that lay there
are not present any more, and a log there is empty (DESIGN CHOICE, log 85). -/
def erasedIndex (u : Nat) (x : Index) : Index :=
  if x.place.contains u then
    { x with versions := x.versions.map fun v => { v with nodes := v.nodes.filter fun n => nodeUnit x n.id != u }
             log := if homeUnit x = u then [] else x.log }
  else x

/-- FORMAT (R399, R414). Blocks whose OP names no command end here with BADCMD. -/
def execFormat (p : Nat) (s : State) : Host.Outcome State Fault Refusal :=
  .next (provision s p (fun op => op == 1 || op == 0 || decide (0x0B < op)) fun s bs =>
    let u := cmdUnit bs
    let gib := cmdArg bs
    if fieldAt bs 0 1 ≠ 1 then cmdFail s 1
    else if 8 ≤ u ∨ gib < 16 ∨ 512 < gib then cmdFail s 1
    else if !bit (preg s p 0x018).toNat u then cmdFail s 2
    else if s.store.indexes.any fun kx => kx.2.owner == p && kx.2.st != .free && kx.2.place.contains u then cmdFail s 5
    else if flashFails s [u] then cmdFail s 6
    else
      let s := setUnit s u { getUnit s u with indexGib := gib }
      (0, 0, { s with store := { s.store with
        objects := s.store.objects.filter fun o => o.unit != u
        indexes := s.store.indexes.map fun kx => (kx.1, erasedIndex u kx.2) } }))

/-- The index of a header image (R400), when the image is in form. -/
def headerIndex (p serial : Nat) (gen : BitVec 16) (bs : List Byte) : Option Index :=
  let cb := fieldAt bs 8 2
  let npl := fieldAt bs 11 1
  let place := (List.range npl).map fun i => fieldAt bs (12 + i) 1
  let magic : List Byte := [0x49, 0x56, 0x4B, 0x45, 0x41, 0x4E, 0x44, 0x01]
  let ok := bs.take 8 == magic && (cb == 256 || cb == 512 || cb == 1024 || cb == 2048)
    && decide (1 ≤ fieldAt bs 10 1) && decide (fieldAt bs 10 1 ≤ 32) && decide (1 ≤ npl) && decide (npl ≤ 8)
    && place.all (fun u => decide (u < 8)) && fieldAt bs (12 + npl) (8 - npl) == 0
    && decide (fieldAt bs 20 1 ≤ 20) && fieldAt bs 21 3 == 0 && decide (fieldAt bs 24 8 < 2 ^ 40) && fieldAt bs 32 4 == 0
    && fieldAt bs 36 4 == 0 && fieldAt bs 40 8 == 0 && decide (1024 ≤ fieldAt bs 56 8)
    && decide (fieldAt bs 56 8 ≤ 2 ^ 24) && decide (64 + cb / 8 ≤ bs.length)
  if ok then
    some ⟨p, serial, .building, gen, cb, fieldAt bs 10 1, place, fieldAt bs 20 1, fieldAt bs 24 8, fieldAt bs 64 (cb / 8), 0,
      fieldAt bs 56 8, [⟨0, 0, []⟩], [], 0, none, false, false, false⟩
  else none

/-- CREATE (R400, R414). -/
def execCreate (p : Nat) (s : State) : Host.Outcome State Fault Refusal :=
  .next (provision s p (· == 2) fun s bs =>
    onIndex s p bs .free false fun slot x =>
      match cmdImage s p bs with
      | (none, s) => cmdFail s 7
      | (some img, s) =>
        match headerIndex p s.sch.uid x.gen img with
        | none => cmdFail s 1
        | some y =>
          let t := putIndex s slot y
          if !unitsHeld s p y then cmdFail s 2
          else if flashFails s y.place then cmdFail s 6
          else if !y.place.all (regionFits t) then cmdFail s 4
          else (0, 0, (freshUid t).2))

/-- The node records that packed bytes hold (R401), when they are in form. -/
def parseNodes (x : Index) : Nat → List Byte → Option (List Node)
  | _, [] => some []
  | 0, _ => none
  | fuel + 1, bs =>
    let h := fieldAt bs 0 8
    let d := bits h 47 40
    let stride := 8 + x.cb / 8
    let refs := (List.range d).map fun i => (fieldAt bs (8 + stride * i) 8, fieldAt bs (16 + stride * i) (x.cb / 8))
    if bs.length < 8 + d * stride ∨ 2 ^ 48 ≤ h ∨ x.deg < d ∨ (refs.any fun r => decide (2 ^ 40 ≤ r.1)) then none
    else (parseNodes x fuel (bs.drop (8 + d * stride))).map fun r => ⟨bits h 39 0, false, 0, 0, refs⟩ :: r

/-- PUTNODES (R401, R414): a duplicate identifier or a record out of form keeps nothing of the command. -/
def execPutnodes (p : Nat) (s : State) : Host.Outcome State Fault Refusal :=
  .next (provision s p (· == 3) fun s bs =>
    onIndex s p bs .building true fun slot x =>
      match cmdImage s p bs with
      | (none, s) => cmdFail s 7
      | (some img, s) =>
        match parseNodes x (img.length / 8 + 1) img with
        | none => cmdFail s 1
        | some ns =>
          let v := curVersion x
          let ids := ns.map (·.id) ++ v.nodes.map (·.id)
          if ids.eraseDups.length ≠ ids.length then cmdFail s 1
          else if flashFails s (ns.map fun n => nodeUnit x n.id) then cmdFail s 6
          else
            let t := putIndex s slot { x with versions := [{ v with nodes := v.nodes ++ placeNodes s x ns ⟨[], []⟩ }] }
            if !x.place.all (regionFits t) then cmdFail s 4 else (0, 0, t))

/-- SEAL (R414): the node maps, whose room PUTNODES has kept, are written. -/
def execSeal (p : Nat) (s : State) : Host.Outcome State Fault Refusal :=
  .next (provision s p (· == 4) fun s bs =>
    onIndex s p bs .building true fun slot x =>
      if flashFails s x.place then cmdFail s 6
      else (0, 0, putIndex s slot { x with st := .built, nodes := (curVersion x).nodes.length }))

/-- MOUNT (R414): the generation advances and RESULT is the handle. -/
def execMount (p : Nat) (s : State) : Host.Outcome State Fault Refusal :=
  .next (provision s p (· == 5) fun s bs =>
    onIndex s p bs .built true fun slot x =>
      let gen := x.gen + 1
      (slot + gen.toNat * 2 ^ 16, 0, putIndex s slot { x with st := .mounted, gen := gen }))

/-- UNMOUNT (R406, R414). -/
def execUnmount (p : Nat) (s : State) : Host.Outcome State Fault Refusal :=
  .next (provision s p (· == 6) fun s bs =>
    onIndex s p bs .mounted false fun slot x => (0, 0, putIndex s slot { x with st := .built }))

/-- DROP (R406, R414): the slot is FREE; searches keep the version they pinned. -/
def execDrop (p : Nat) (s : State) : Host.Outcome State Fault Refusal :=
  .next (provision s p (· == 7) fun s bs =>
    onIndex s p bs .built true fun slot x => (0, 0, putIndex s slot (freeIndex x.gen)))

/-- MERGE (R404, R414): BUSY while a merge of the index runs. -/
def execMerge (p : Nat) (s : State) : Host.Outcome State Fault Refusal :=
  .next (provision s p (· == 8) fun s bs =>
    onIndex s p bs .mounted true fun slot x =>
      if x.merge.isSome then cmdFail s 5
      else (0, 0, putIndex s slot { x with merge := some ⟨0, 0, false, [], false⟩, mergeHold := false }))

/-- Bodies on a unit's flash: those of directory entries, and those that a fetch not yet ended has looked up (R408). -/
def bodiesOn (s : State) (u : Nat) : List KvObj :=
  (s.store.objects.filter fun o => o.unit == u) ++ s.ops.flatMap fun ko => match ko.2.body with
    | .fetch g => g.objs.filterMap fun x => if x.unit == some u then x.body else none
    | _ => []

/-- The first page of a free run of pages of a unit's object region (R407, R408; log 21). -/
def objectRun (s : State) (u n : Nat) : Nat :=
  let busy := (bodiesOn s u).map fun o => (o.page, o.page + (bodyPages o).length)
  let free (a : Nat) : Bool := busy.all fun b => decide (a + n ≤ b.1) || decide (b.2 ≤ a)
  ((0 :: busy.map (·.2)).filter free).foldl min (busy.foldl (fun m b => max m b.2) 0)

/-- The body of an object: its header and its slot bytes (R407). -/
def objectBody (id slotb cnt : Nat) (slots : List Byte) : List Byte :=
  leList 8 id ++ leList 2 slotb ++ leList 1 cnt ++ leList 1 0 ++ leList 4 (crc32c 0 slots) ++ leList 48 0 ++ slots

/-- Pages of a unit's object region (R399). -/
def objectPages (s : State) (u : Nat) : Nat := (1792 - 3 * (getUnit s u).indexGib) * 65536

/-- PUTOBJ (R407, R414). -/
def execPutobj (p : Nat) (s : State) : Host.Outcome State Fault Refusal :=
  .next (provision s p (· == 9) fun s bs =>
    let cnt := cmdUnit bs
    let slotb := cmdSlot bs
    let id := cmdArg bs
    if cnt = 0 ∨ 64 < cnt ∨ slotb % 2 ≠ 0 ∨ slotb < 2 ∨ 4096 < slotb ∨ cmdLen bs ≠ cnt * slotb then cmdFail s 1
    else
      match objectUnit s p id with
      | none => cmdFail s 2
      | some u =>
        match cmdImage s p bs with
        | (none, s) => cmdFail s 7
        | (some img, s) =>
          let o : KvObj := ⟨p, u, id, slotb, cnt, 0, objectBody id slotb cnt img⟩
          let n := (bodyPages o).length
          let pg := objectRun s u n
          let rest := s.store.objects.filter fun y => !(y.part == p && y.unit == u && y.id == id)
          let t := { s with store := { s.store with objects := rest ++ [{ o with page := pg }] } }
          if flashFails s [u] then cmdFail s 6
          else if objectPages s u < pg + n || !regionFits t u then cmdFail s 4
          else (0, 0, t))

/-- A unit has come to a partition whose EN is 1 now: the directory entries of other partitions on it are removed, and their bodies
freed (R407). -/
def takeUnits (s : State) (p : Nat) : State :=
  { s with store := { s.store with
      objects := s.store.objects.filter fun o => o.part == p || !bit (preg s p 0x018).toNat o.unit } }

/-- DELOBJ (R407, R414). -/
def execDelobj (p : Nat) (s : State) : Host.Outcome State Fault Refusal :=
  .next (provision s p (· == 10) fun s bs =>
    match objectUnit s p (cmdArg bs) with
    | none => cmdFail s 2
    | some u =>
      if flashFails s [u] then cmdFail s 6
      else (0, 0, { s with store := { s.store with
        objects := s.store.objects.filter fun y => !(y.part == p && y.unit == u && y.id == cmdArg bs) } }))

/-- CLEARBAD (R409, R414). -/
def execClearbad (p : Nat) (s : State) : Host.Outcome State Fault Refusal :=
  .next (provision s p (· == 11) fun s bs =>
    let u := cmdUnit bs
    if 8 ≤ u then cmdFail s 1
    else if !bit (preg s p 0x018).toNat u then cmdFail s 2
    else (0, 0, setUnit s u { getUnit s u with marks := [] }))

end Sys2Proof.Machine
end

