-- ==== Sys2Proof/Machine/Sched.lean ====
section
/-! DEFINITION. The scheduler of a partition: launch records (R359 to R363, R83 to R85), items and gates (R364 to R367),
pickup (R70, R72, R372), aging (R371), withdrawal (R30, R370), yield requests and the watchdog (R373, R374), the end of a
partition's work (R376, R377). -/

namespace Sys2Proof.Machine

/-! ### Launch records -/

/-- A stage descriptor from its 128 bytes (R361). -/
def stageOf (d : List Byte) : StageDesc where
  entry := fieldAt d 0 8
  kind := fieldAt d 8 1
  window := fieldAt d 9 1
  tiles := fieldAt d 10 1
  prio := fieldAt d 11 1
  carry := fieldAt d 12 2
  watchdog := fieldAt d 14 2
  qbase := fieldAt d 16 8
  bound := fieldAt d 24 4
  items := fieldAt d 28 4
  handler := fieldAt d 32 8
  v40 := fieldAt d 40 8
  v48 := fieldAt d 48 8
  v56 := fieldAt d 56 8
  next := fieldAt d 64 2
  donectr := fieldAt d 80 8
  gate0 := fieldAt d 96 8
  thr0 := fieldAt d 104 8
  gate1 := fieldAt d 112 8
  thr1 := fieldAt d 120 8

/-- OP, SEQ and ASTRIDE of a descriptor of another kind (R361). -/
def stageCmd (d : StageDesc) : Nat := bits d.v56 7 0

/-- The sequencer of a FORK stage, 4 × stack + sequencer. -/
def stageSeq (d : StageDesc) : Nat := bits d.v56 12 8

/-- ASTRIDE. -/
def stageStride (d : StageDesc) : Nat := bits d.v56 63 32

/-- A PC field is out of form: bits 1:0 and 63:48 must be 0 (R361). -/
def badPc (x : Nat) : Bool := x % 4 != 0 || decide (2 ^ 48 ≤ x)

/-- A descriptor's own fields fail R361 to R363; `d` are its bytes and `nstg` the stage count. -/
def badStage (nstg : Nat) (d : List Byte) : Bool :=
  let x := stageOf d
  let compute := x.kind == 0
  decide (3 < x.kind) || decide (7 < x.prio) || decide (1000 < x.watchdog) || x.bound == 0 || decide (65536 < x.bound)
    || x.qbase % 64 != 0 || decide (2 ^ nstg ≤ x.next) || fieldAt d 66 14 != 0 || fieldAt d 88 8 != 0
    || decide (256 < x.carry) || decide (16 * x.window < x.carry)
    || x.donectr % 8 != 0 || x.gate0 % 8 != 0 || x.gate1 % 8 != 0
    || (if compute then
          badPc x.entry || x.window == 0 || decide (64 < x.window) || decide (4 < x.tiles) || badPc x.handler
        else
          x.window != 0 || x.tiles != 0 || x.handler != 0 || x.v48 % 8 != 0 || bits x.v56 15 13 != 0 || bits x.v56 31 16 != 0
            || (match x.kind with
                | 1 => stageCmd x != 1
                | 2 => stageCmd x != 2
                | _ => stageCmd x != 5 && stageCmd x != 0)
            || (!(x.kind == 3 && stageCmd x == 0) && stageSeq x != 0))

/-- Two stages share a queue range (R363). -/
def sharesQueue (x y : StageDesc) : Bool :=
  decide (x.qbase < y.qbase + 64 * y.bound) && decide (y.qbase < x.qbase + 64 * x.bound)

/-- The first stage that fails (R363). -/
def firstBadStage (nstg : Nat) (ds : List (List Byte)) : Option Nat :=
  (List.range ds.length).find? fun i =>
    let d := listGet [] ds i
    badStage nstg d || (ds.take i).any fun e => sharesQueue (stageOf e) (stageOf d)

/-- The entries of a loop table (R83): KIND, COUNT and whether a reserved bit is set. -/
def loopEntries (bs : List Byte) : List (Nat × Nat × Bool) :=
  (List.range 6).map fun i =>
    let x := fieldAt bs (8 * i) 8
    (bits x 1 0, bits x 63 32, bits x 31 2 != 0)

/-- The product of the spatial counts (R84). -/
def spatial (ls : List (Nat × Nat)) : Nat := (ls.map fun l => if 2 ≤ l.1 then l.2 else 1).foldl (· * ·) 1

/-- A loop table's used levels, when it passes R85. -/
def loopTable (bs : List Byte) : Option (List (Nat × Nat)) :=
  let es := loopEntries bs
  let used := es.takeWhile fun e => e.1 != 0
  let ls := used.map fun e => (e.1, e.2.1)
  let ds := ls.filter fun l => l.1 == 3
  if es.any (fun e => e.2.2) || (es.drop used.length).any (fun e => e.1 != 0) || ls.any (fun l => l.2 == 0)
    || decide (1 < ds.length) || ds.any (fun l => decide (2 < l.2)) || decide (2 ^ 40 < spatial ls) then none
  else some ls

/-- The D coordinate of a task index (R84, R85), from the innermost level out. -/
def dieCoord : List (Nat × Nat) → Nat → Option Nat
  | [], _ => none
  | (k, c) :: r, t => if k = 3 then some (t % c) else if k = 2 then dieCoord r (t / c) else dieCoord r t

/-- The physical pages of 4 KiB that a stage queue takes in an identifier (R361; log 74). -/
def queuePages (s : State) (p asid : Nat) (d : StageDesc) : List Nat :=
  let first := d.qbase / 4096
  (List.range ((d.qbase + 64 * d.bound - 1) / 4096 - first + 1)).filterMap fun k =>
    match (xlate s sysTlb p asid ((first + k) * 4096) .read false).1 with
    | .ok l => if l.typ = 0 then some (l.pa / 4096) else none
    | _ => none

/-- Instantiate a launch (R360, R364): nothing is created yet; a stage without gates is open. -/
def instantiate (s : State) (p ring : Nat) (rcd : List Byte) (ds : List StageDesc) (ls : List (Nat × Nat)) :
    Nat × State :=
  let (id, s) := freshUid s
  let stages := ds.zipIdx.map fun x =>
    (⟨if x.2 = 0 then spatial ls else x.1.items, 0, x.1.gate0 == 0 && x.1.gate1 == 0, false⟩ : StageSt)
  let asid := fieldAt rcd 22 2
  let inst : Instance := ⟨id, BitVec.ofNat 32 (fieldAt rcd 16 4), asid,
    (List.range 4).map fun i => BitVec.ofNat 64 (fieldAt rcd (32 + 8 * i) 8), fieldAt rcd 0 8, ds, ls, stages, ring,
    ds.flatMap (queuePages s p asid)⟩
  (id, updPart s p fun q => { q with insts := q.insts ++ [inst] })

/-- The checks of a launch record in their order, and its instantiation (R359, R360): status, detail, and the instance of
one that is OK. -/
def launchRecord (s : State) (p ring : Nat) (rcd : List Byte) : (Nat × Nat × Option Nat) × State :=
  let asid := fieldAt rcd 22 2
  let nstg := bits (fieldAt rcd 20 1) 4 0
  let graph := fieldAt rcd 0 8
  let loop := fieldAt rcd 8 8
  if !asidOk s p (asid % 512) then ((3, 0, none), s)
  else
    let (g, s) := devReadS s sysTlb p (asid % 512) graph (128 * nstg) true
    let (l, s) := devReadS s sysTlb p (asid % 512) loop 48 true
    match g, l with
    | .ok g, .ok l =>
      let ds := (List.range nstg).map fun i => (g.drop (128 * i)).take 128
      if fieldAt rcd 20 1 / 32 ≠ 0 ∨ fieldAt rcd 21 1 ≠ 0 ∨ asid / 512 ≠ 0 ∨ fieldAt rcd 24 8 ≠ 0 ∨ nstg = 0 ∨ 16 < nstg
          ∨ graph % 128 ≠ 0 ∨ loop % 8 ≠ 0 then ((2, 0, none), s)
      else
        match firstBadStage nstg ds with
        | some i => ((2, i, none), s)
        | none =>
          match loopTable l with
          | none => ((1, 0, none), s)
          | some ls =>
            let (id, s) := instantiate s p ring rcd (ds.map stageOf) ls
            ((0, 0, some id), s)
    | _, _ => ((3, 0, none), s)

/-! ### Items and gates -/

/-- Change a stage of an instance. -/
def updStage (s : State) (p inst stage : Nat) (f : StageSt → StageSt) : State :=
  updPart s p fun q => { q with insts := q.insts.map fun x =>
    if x.id == inst then
      { x with stages := x.stages.zipIdx.map fun y => if y.2 = stage then f y.1 else y.1 }
    else x }

/-- The state of a stage of an instance. -/
def findStageSt (q : Part) (inst stage : Nat) : Option StageSt := (findInst q inst).bind fun x => x.stages[stage]?

/-- The record of a compute item (R364). -/
def itemRecord (x : Instance) (stage : Nat) (d : StageDesc) (task : Nat) : Spore :=
  { Spore.reset with
    resume := BitVec.ofNat 64 d.entry, stage := BitVec.ofNat 16 stage, prio := BitVec.ofNat 3 d.prio, tag := x.tag
    task := BitVec.ofNat 64 task, arg0 := x.args.getD 0 0, arg1 := x.args.getD 1 0, arg2 := x.args.getD 2 0
    arg3 := x.args.getD 3 0 }

/-- ITEM_CREATE: the scheduler creates the next item of a stage once its queue has room (R81, R364). -/
def execItemCreate (p inst stage : Nat) (s : State) : Host.Outcome State Fault Refusal :=
  let q := getPart s p
  .next (match findInst q inst, findStage q inst stage, findStageSt q inst stage with
    | some x, some d, some st =>
      if !partOn s p || st.ended || decide (st.total ≤ st.made) || !queueRoom q inst stage then s
      else
        let s := updStage s p inst stage fun y => { y with made := y.made + 1 }
        let rcd := itemRecord x stage d st.made
        let die := if stage = 0 then dieCoord x.levels.reverse st.made else none
        addItem s p inst stage rcd (if d.kind = 0 then .queued else .command) die
    | _, _, _ => s)

/-- A gate holds: its address is 0, or its counter is at least the threshold, read in the instance's identifier (R82, R367). One whose
page fails translation does not hold, and is tested again (R367 and R389 give no case for it: DESIGN CHOICE, log 79). -/
def gateHolds (s : State) (p asid gate thr : Nat) : Bool × State :=
  if gate = 0 then (true, s)
  else
    match devReadS s sysTlb p asid gate 8 true with
    | (.ok bs, s) => (decide (thr ≤ leVal bs), s)
    | (.error _, s) => (false, s)

/-- GATE_TEST: once both gates of a stage hold, its waiting items are READY (R367, R369). -/
def execGateTest (p inst stage : Nat) (s : State) : Host.Outcome State Fault Refusal :=
  let q := getPart s p
  .next (match findInst q inst, findStage q inst stage with
    | some x, some d =>
      if stageOpen q inst stage then s
      else
        let (h0, s) := gateHolds s p x.asid d.gate0 d.thr0
        let (h1, s) := gateHolds s p x.asid d.gate1 d.thr1
        if !h0 || !h1 then s
        else
          let s := updStage s p inst stage fun y => { y with open_ := true }
          updPart s p fun q => { q with items := q.items.map fun y =>
            if y.inst == inst && y.stage == stage && y.st == .queued then { y with st := .ready s.now y.id, aged := s.now }
            else y }
    | _, _ => s)

/-- A record becomes READY after a wait: its PRIO is the stage's (R369). -/
def makeReady (s : State) (p id : Nat) : State :=
  updRecord s p id fun x =>
    let prio := match findStage (getPart s p) x.inst x.stage with
      | some d => BitVec.ofNat 3 d.prio
      | none => x.rcd.prio
    { x with st := .ready s.now x.id, rcd := { x.rcd with prio := prio }, aged := s.now }

/-- WAIT_ENTRY_TEST: the counter of a wait entry is tested; once it is large enough the spore is READY (R76, R367). One whose page
fails translation is not large enough, and is tested again (DESIGN CHOICE, log 79). -/
def execWaitEntryTest (p item : Nat) (s : State) : Host.Outcome State Fault Refusal :=
  let q := getPart s p
  .next (match findItem q item with
    | some x =>
      match x.st, findInst q x.inst with
      | .waiting va _ val, some i =>
        match devReadS s sysTlb p i.asid va.toNat 8 true with
        | (.ok bs, s) => if val.toNat ≤ leVal bs then makeReady s p item else s
        | (.error _, s) => s
      | _, _ => s
    | none => s)

/-- SPAWN_IMAGE_ENQUEUE: when the queue of a held SPAWN image has room, the image is read and enqueued, and the parent is
READY (R76). While the bytes read name no stage it may spawn into, or cannot be read, the parent waits (DESIGN CHOICE, log
31). -/
def execSpawnImageEnqueue (p item : Nat) (s : State) : Host.Outcome State Fault Refusal :=
  let q := getPart s p
  .next (match findItem q item with
    | some x =>
      match x.st, findInst q x.inst with
      | .spawnwait va, some i =>
        match devReadS s sysTlb p i.asid va.toNat 64 true with
        | (.ok bs, s) =>
          let dst := fieldAt bs 8 2
          match spawnTarget q x.inst x.stage dst with
          | some d =>
            if queueRoom q x.inst dst then
              makeReady (addItem s p x.inst dst (imageSpore bs x.rcd.tag d.prio) .queued none) p item
            else s
          | none => s
        | (.error _, s) => s
      | _, _ => s
    | none => s)

/-! ### Other items -/

/-- sA of a command item (R364). -/
def itemSa (d : StageDesc) (task : Word) : Nat := (d.entry + task.toNat * stageStride d) % 2 ^ 64

/-- An item leaves its queue without being a finished item of its tag (R370). -/
def dropItem (s : State) (p id : Nat) : State :=
  updPart s p fun q => { q with items := q.items.filter fun y => y.id != id }

/-- Write for an item in its identifier; a write that fails is dropped (log 32). -/
def itemWrite (s : State) (p asid va : Nat) (bs : List Byte) : State :=
  match devWrite s sysTlb p asid va bs true 0 with
  | .ok s => s
  | .error (_, s) => s

/-- The header or status of a command item that will not run (R366, R370): for a search `st` in the header at RES; for a
fetch `obj` in every status byte and the header. Nothing where the descriptor cannot be read. -/
def reportItem (s : State) (p asid : Nat) (d : StageDesc) (sa st obj : Nat) : State :=
  match devReadS s sysTlb p asid sa 64 true with
  | (.error _, s) => s
  | (.ok bs, s) =>
    if d.kind = 1 then
      let res := fieldAt bs 8 8
      if res % 32 = 0 then itemWrite s p asid res (leList 4 0 ++ leList 1 st ++ leList 27 0) else s
    else if d.kind = 2 then
      let n := min 4096 (fieldAt bs 28 2)
      if d.v40 % 8 = 0 then
        itemWrite (itemWrite s p asid (d.v40 + 8) (List.replicate n (BitVec.ofNat 8 obj))) p asid d.v40
          (fetchHeader (List.replicate n obj))
      else s
    else s

/-- A command item that fails a check at issue is complete: its report, its add (R95, R366); it has finished (R301). -/
def failItem (s : State) (p : Nat) (x : Item) (i : Instance) (d : StageDesc) : State :=
  let s := reportItem (dropItem s p x.id) p i.asid d (itemSa d x.rcd.task) 4 5
  countFinished (devAdd s sysTlb p i.asid d.v48 1) p i.tag

/-- The operation of a command item: it acts for no context and adds to CTRADDR (R364, R366). -/
def itemOp (p : Nat) (i : Instance) (d : StageDesc) (scope hint : Nat) (tagged : Bool) (b : OpBody) : Op :=
  ⟨none, .q, p, i.asid, i.tag, .mem (BitVec.ofNat 64 d.v48), scope, hint, false, tagged, false, b⟩

/-- Every page of some ranges admits an access for an item (R288). -/
def probesOk (p asid : Nat) (kind : AccKind) : List (Nat × Nat) → State → Bool × State
  | [], s => (true, s)
  | r :: rs, s =>
    match sysPieces s sysTlb p asid r.1 kind true (pieceFuel r.2) r.2 with
    | (.ok _, s) => probesOk p asid kind rs s
    | (.error _, s) => (false, s)

/-- The operation that a search item starts, when it passes the checks of R288. -/
def searchItem (s : State) (p : Nat) (i : Instance) (d : StageDesc) (sa : Nat) : Option Op × State :=
  if sa % 64 ≠ 0 then (none, s)
  else
    match devReadS s sysTlb p i.asid sa 64 true with
    | (.error _, s) => (none, s)
    | (.ok bs, s) =>
      let h := BitVec.ofNat 64 d.v40
      if (searchForm bs h).fails then (none, s)
      else
        let known := handleIndex s p h
        let (code, s) := match known with
          | some x => devReadS s sysTlb p i.asid (fieldAt bs 0 8) (x.cb / 8) true
          | none => (.ok [], s)
        match code with
        | .error _ => (none, s)
        | .ok q =>
          match probesOk p i.asid .write [(fieldAt bs 8 8, resBytes bs known.isSome)] s with
          | (true, s) =>
            let (sc, hint) := ctlScope bs
            (some (itemOp p i d sc hint true (.search (searchOf bs h known.isSome (leVal q)))), s)
          | (false, s) => (none, s)

/-- The operation that a fetch item starts, when it passes the checks of R288. -/
def fetchItem (s : State) (p : Nat) (i : Instance) (d : StageDesc) (sa : Nat) : Option Op × State :=
  if sa % 64 ≠ 0 ∨ d.v40 % 8 ≠ 0 then (none, s)
  else
    match devReadS s sysTlb p i.asid sa 64 true with
    | (.error _, s) => (none, s)
    | (.ok bs, s) =>
      if (fetchForm bs).fails then (none, s)
      else
        let n := fieldAt bs 28 2
        let (objs, s) := devReadS s sysTlb p i.asid (fieldAt bs 0 8) (8 * n) true
        let (blks, s) := devReadS s sysTlb p i.asid (fieldAt bs 8 8) (8 * n) true
        match objs, blks with
        | .ok objs, .ok blks =>
          let st := BitVec.ofNat 64 d.v40
          if badBlocks bs blks then (none, s)
          else
            match probesOk p i.asid .write (fetchRanges bs blks st) s with
            | (true, s) =>
              let (sc, hint) := ctlScope bs
              (some (itemOp p i d sc hint true (.fetch (fetchOf bs objs blks st))), s)
            | (false, s) => (none, s)
        | _, _ => (none, s)

/-- The operation that a walk item starts, when it passes the checks of R288 and R303. -/
def walkItem (s : State) (p : Nat) (i : Instance) (d : StageDesc) (sa : Nat) : Option Op × State :=
  let w := BitVec.ofNat 64 d.v40
  let n := wbits w 15 0 + 1
  if sa % 32 ≠ 0 ∨ badWalk w then (none, s)
  else
    match probesOk p i.asid .both [(sa, 32 * n)] s with
    | (true, s) => (some (itemOp p i d (wbits w 18 16) (wbits w 20 19) false (.walk (BitVec.ofNat 64 sa) n [])), s)
    | (false, s) => (none, s)

/-- A FORK item: it waits while its sequencer runs a stream; else the stream starts and its handle is written at CTRADDR
(R180, R366). -/
def forkItem (s : State) (p : Nat) (x : Item) (i : Instance) (d : StageDesc) (pc : Nat) : State :=
  let n := stageSeq d
  if badPc pc || !bit (preg s p 0x020).toNat n then failItem s p x i d
  else if !seqFree s n || !(getSeq s n).up.isEmpty then s
  else
    let s := startStream (dropItem s p x.id) n p i.asid (BitVec.ofNat 64 pc) (BitVec.ofNat 64 d.v40) none
    countFinished (itemWrite s p i.asid d.v48 (leList 8 (getCtx s (.seq n)).csr.sqid.toNat)) p i.tag

/-- Issue a command item (R366); it waits at its stage's head while a receiver's task queue is full (R288). -/
def issueItem (s : State) (p : Nat) (x : Item) (i : Instance) (d : StageDesc) : State :=
  let sa := itemSa d x.rcd.task
  if d.kind = 3 ∧ stageCmd d = 0 then forkItem s p x i d sa
  else
    match (if d.kind = 1 then searchItem s p i d sa else if d.kind = 2 then fetchItem s p i d sa else walkItem s p i d sa) with
    | (some o, s) => if receiverFull s p o.body then s else (addOp (dropItem s p x.id) o).2
    | (none, s) => failItem s p x i d

/-- STAGE_ITEM_ISSUE: once the gates of a stage hold, the first of its command items is issued (R366). -/
def execStageItemIssue (p inst stage : Nat) (s : State) : Host.Outcome State Fault Refusal :=
  let q := getPart s p
  .next (match q.items.find? fun x => x.inst == inst && x.stage == stage && x.st == .command with
    | some x =>
      match findInst q inst, findStage q inst stage with
      | some i, some d => if stageOpen q inst stage && partOn s p then issueItem s p x i d else s
      | _, _ => s
    | none => s)

/-! ### Pickup -/

/-- The partition holds clusters on both dies (R85). -/
def bothDies (s : State) (p : Nat) : Bool := wbits (preg s p 0x008) 11 0 != 0 && wbits (preg s p 0x008) 23 12 != 0

/-- A core is one of the partition's, on the die a D coordinate asks for (R72, R85, R355). -/
def coreAllowed (s : State) (p core : Nat) (die : Option Nat) : Bool :=
  bit (preg s p 0x008).toNat (coreCluster core)
    && (match die with
        | some d => !bothDies s p || coreDie core == d
        | none => true)

/-- A spore's window and tiles fit beside those of the other bank (R72). -/
def fitsBeside (l : Life) (d : StageDesc) : Bool := decide (l.winUnits + d.window ≤ 64) && decide (l.tiles + d.tiles ≤ 4)

/-- The power state of a cluster (R445): a cluster of no enabled partition is held in A2. -/
def clusterState (s : State) (cl : Nat) : Nat :=
  if (clusterPart s cl).isNone then 2 else kget 0 s.power.clusters cl

/-- A cluster runs: it is in A0 and so is the device (R445). -/
def clusterUp (s : State) (cl : Nat) : Bool := clusterState s cl == 0 && s.power.device == 0

/-- The bank of a core is empty. -/
def bankEmpty (s : State) (core : Nat) (b : Bool) : Bool := (getCtx s (.bank core b)).life.status == .empty

/-- The bank of a core that would take a spore: bank A first (log 14). -/
def freeBankOf (s : State) (core : Nat) : Option Bool :=
  if bankEmpty s core false then some false else if bankEmpty s core true then some true else none

/-- A spore fits a free bank of a core; `up` asks for a cluster in A0 too. -/
def fitsCore (s : State) (p : Nat) (x : Item) (d : StageDesc) (up : Bool) (core : Nat) : Bool :=
  coreAllowed s p core x.die && (!up || clusterUp s (coreCluster core)) &&
    (match freeBankOf s core with
     | some b => fitsBeside (getCtx s (.bank core (!b))).life d
     | none => false)

/-- The core whose bank a spore takes (R372): first one whose other bank is empty too, then the lowest number. -/
def pickCore (s : State) (p : Nat) (x : Item) (d : StageDesc) (up : Bool) : Option Nat :=
  let fit := fitsCore s p x d up
  match (List.range 384).find? fun c => bankEmpty s c false && bankEmpty s c true && fit c with
  | some c => some c
  | none => (List.range 384).find? fit

/-- A stage is back-pressured (R372). -/
def backPressured (q : Part) (inst : Nat) (d : StageDesc) : Bool :=
  (List.range 16).any fun n => bit d.next n && (match findStage q inst n with
    | some e => decide (3 * e.bound ≤ 4 * queueLen q inst n)
    | none => false)

/-- READY time of an item. -/
def readySince (x : Item) : Option Nat :=
  match x.st with
  | .ready t _ => some t
  | _ => none

/-- The order of R372 on two READY spores: the first one is chosen before the second. -/
def chosenBefore (q : Part) (x y : Item) (dx dy : StageDesc) : Bool :=
  let bx := backPressured q x.inst dx
  let by' := backPressured q y.inst dy
  let ox := queueLen q x.inst x.stage * dy.bound
  let oy := queueLen q y.inst y.stage * dx.bound
  let tx := (readySince x).getD 0
  let ty := (readySince y).getD 0
  if x.rcd.prio ≠ y.rcd.prio then decide (y.rcd.prio.toNat < x.rcd.prio.toNat)
  else if bx != by' then !bx
  else if ox ≠ oy then decide (oy < ox)
  else if tx ≠ ty then decide (tx < ty)
  else if x.stage ≠ y.stage then decide (x.stage < y.stage)
  else decide (x.rcd.task.toNat < y.rcd.task.toNat)

/-- READY spores with their stages. -/
def readyItems (q : Part) : List (Item × StageDesc) :=
  q.items.filterMap fun x =>
    if (readySince x).isSome then (findStage q x.inst x.stage).map fun d => (x, d) else none

/-- The first of some spores by R372. -/
def firstChosen (q : Part) : List (Item × StageDesc) → Option (Item × StageDesc)
  | [] => none
  | x :: r =>
    match firstChosen q r with
    | none => some x
    | some y => if chosenBefore q y.1 x.1 y.2 x.2 then some y else some x

/-- SPSTAT at a pickup (R71). -/
def spstatOf (r : Spore) : Word :=
  BitVec.ofNat 64 (r.tag.toNat * 2 ^ 32 + r.stage.toNat * 2 ^ 16 + b2n r.cancel * 2 ^ 10 + b2n r.hpend * 2 ^ 9
    + b2n r.cvalid * 2 ^ 8 + r.reason.toNat * 2 ^ 6 + r.prio.toNat)

/-- The position of a core among those of its partition (R357). -/
def corePlace (s : State) (p core : Nat) : Nat :=
  ((List.range core).filter fun c => bit (preg s p 0x008).toNat (coreCluster c)).length

/-- The bits of VFMT, and of MFMT and MFMTH, that hold a value; the others read 0, whatever a stage descriptor holds there (R107,
R108). -/
def fmtMask : Word := 0x1F1F1F1F1F1F1F1F

/-- The bits of CARRY that hold a value: LEN and OFF; the others read 0, whatever a record holds there (R10, R68). -/
def carryMask : Nat := 0x1FF03FF

/-- The context of a bank that has picked a spore up (R70, R71, R92, R340). -/
def pickedCtx (s : State) (p core : Nat) (b : Bool) (x : Item) (i : Instance) (d : StageDesc) (order : Nat) (old : Ctx) : Ctx :=
  let r := x.rcd
  let base := if b then 2 ^ 20 - 16384 * d.window else 0
  let carry := if r.reason = 0 then d.carry * 2 ^ 16 else r.carry.toNat &&& carryMask
  let handler := r.hpend && d.handler != 0
  let c := { Ctx.reset with
    life := { Life.reset with part := p, asid := i.asid, inst := x.inst, stage := x.stage, item := x.id
                              rcd := { r with hpend := false }, winBase := base, winUnits := d.window, tiles := d.tiles
                              pickOrder := order }
    fr := { Front.reset with pc := if handler then BitVec.ofNat 64 d.handler else BitVec.ofNat 64 (r.resume.toNat / 4 * 4) }
    csr := { UCsr.reset with carry := BitVec.ofNat 64 carry, spstat := spstatOf r, vfmt := BitVec.ofNat 64 d.v40 &&& fmtMask
                             mfmt := BitVec.ofNat 64 d.v48 &&& fmtMask, mfmth := BitVec.ofNat 64 d.v56 &&& fmtMask }
    trap := { TrapCsr.reset with
      sscr := old.trap.sscr, stvec := preg s p 0x048
      self := BitVec.ofNat 64 (i.asid * 2 ^ 16 + p * 2 ^ 12 + b2n b * 2 ^ 9 + core)
      msave := BitVec.ofNat 64 ((preg s p 0x050).toNat + 393216 * (2 * corePlace s p core + b2n b))
      ywd := BitVec.ofNat 64 (if d.watchdog = 0 then 25 else d.watchdog) } }
  let c := setS (setS (setS (setS (setS c 9 r.task) 10 r.arg0) 11 r.arg1) 12 r.arg2) 13 r.arg3
  if handler then setS c 1 (BitVec.ofNat 64 (r.resume.toNat / 4 * 4)) else c

/-- Zero a window and load the saved carry at OFF (R70). -/
def loadWindow (s : State) (core : Nat) (c : Ctx) (carry : List Byte) : State :=
  let base := 2 ^ 20 * core + c.life.winBase
  let len := winBytes c
  let s := if s.mem.errs.isEmpty then s else clearMarks s .scratch core c.life.winBase len
  let m := s.mem.scratch.filter fun e => !(decide (base ≤ e.1) && decide (e.1 < base + len))
  { s with mem := { s.mem with scratch := mwrite m (base + 1024 * wbits c.csr.carry 9 0) carry } }

/-- A record or a carry that the scheduler keeps by slot number, unless its page has no valid translation (R389) or it holds an
uncorrectable error (R440; its place is not given: log 74). -/
def keptRead (s : State) (p slot : Nat) (sp : ErrSpace) (bs : List Byte) : Except Nat (List Byte) × State :=
  if (getPart s p).lost.contains slot then (.error 7, s)
  else if (uncorrIn s sp p slot 1).isSome then (.error 0x0E, logUncorr s 6 (some p) 0 0 0 0xFF 0) else (.ok bs, countCorr s sp p slot 1)

/-- The record of an item, as a pickup reads it: from its slot of the stage queue, in the identifier of its launch with supervisor
access (R361; log 74), or from beside its carry. -/
def readRecord (s : State) (p asid : Nat) (x : Item) : Except Nat (List Byte) × State :=
  match x.place with
  | some va => readSure s sysTlb p asid va 64 false
  | none => keptRead s p x.rcd.slot.toNat .record (kget (recordBytes x.rcd) (getPart s p).records x.rcd.slot.toNat)

/-- The record and the carry that a pickup loads (R70), or the cause of the double trap that halts the spore (R389, R440). -/
def loadSpore (s : State) (p asid : Nat) (x : Item) : Except Nat (Spore × List Byte) × State :=
  match readRecord s p asid x with
  | (.error n, s) => (.error n, s)
  | (.ok bs, s) =>
    let r := { recordOf bs with slot := x.rcd.slot }
    if !r.cvalid then (.ok (r, []), s)
    else
      match keptRead s p r.slot.toNat .carry (kget [] (getPart s p).carries r.slot.toNat) with
      | (.error n, s) => (.error n, s)
      | (.ok bs, s) => (.ok (r, bs), s)

/-- A bank picks up a spore (R70): an acquire at device scope (R324); it stands by while the core's other bank runs (R369). -/
def pickUp (s : State) (p core : Nat) (b : Bool) (x : Item) (i : Instance) (d : StageDesc) : State :=
  let a := AgentId.bank core b
  match loadSpore s p i.asid x with
  | (.error n, s) => haltItem s p x.id n (x.place.getD 0) a
  | (.ok (r, carry), s) =>
    let (order, s) := freshUid s
    let c := pickedCtx s p core b { x with rcd := r } i d order (getCtx s a)
    let other := (getCtx s (otherBank a)).life.status
    let st := if other = .running ∨ other = .halting then Status.standby else Status.running
    let s := setCtx s a { c with life := { c.life with status := st } }
    let s := acquire (loadWindow s core c carry) a 3
    let s := updItem s p x.id fun y => { y with st := .onCore core b, rcd := { r with hpend := false }, place := none }
    if (getPart s p).lost.contains r.slot.toNat then s else storeRecord s p x.id

/-- PICKUP: among the READY spores that fit a free bank, the one R372 chooses takes it (R70, R72, R79). -/
def execPickup (p : Nat) (s : State) : Host.Outcome State Fault Refusal :=
  let q := getPart s p
  .next (if !partOn s p then s
    else
      match firstChosen q ((readyItems q).filter fun x => (pickCore s p x.1 x.2 true).isSome) with
      | none => s
      | some (x, d) =>
        match pickCore s p x d true, findInst q x.inst with
        | some core, some i =>
          match freeBankOf s core with
          | some b => pickUp s p core b x i d
          | none => s
        | _, _ => s)

/-! ### Aging -/

/-- clk of an aging level (R371, R378). -/
def ageClk (s : State) (p : Nat) : Nat :=
  let x := wbits (preg s p 0x100) 31 16
  2000 * (if x = 0 then 500 else x)

/-- AGELIM (R371, R378). -/
def ageLimit (s : State) (p : Nat) : Nat :=
  let x := wbits (preg s p 0x100) 2 0
  if x = 0 then 6 else x

/-- An item that has aged once more (R371). -/
def older (s : State) (p : Nat) (y : Item) : Item :=
  { y with aged := y.aged + ageClk s p, rcd := { y.rcd with prio := y.rcd.prio + 1 } }

/-- AGING: AGEUS µs in READY add 1 to a spore's PRIO, up to AGELIM (R371). -/
def execAging (p item : Nat) (s : State) : Host.Outcome State Fault Refusal :=
  .next (match findItem (getPart s p) item with
    | some x =>
      if (readySince x).isSome && decide (x.aged + ageClk s p ≤ s.now) && decide (x.rcd.prio.toNat < ageLimit s p) then
        updRecord s p item (older s p)
      else s
    | none => s)

/-! ### Yield requests -/

/-- A yield request is posted to a bank that has none pending, and sets its event flag (R189, R373, R378 POSTED). -/
def postYield (s : State) (a : AgentId) (for_ : Option Nat) : State :=
  let l := (getCtx s a).life
  if l.yieldReq then s
  else
    let s := updCtx s a fun c =>
      { c with life := { c.life with yieldReq := true, yieldFor := for_ }, eng := { c.eng with event := true } }
    let x := preg s l.part 0x110
    setPreg s l.part 0x110 (BitVec.ofNat 64 (setBits x.toNat 31 0 (wbits x 31 0 + 1)))

/-- A request is pending for a READY item (R373). -/
def yieldAsked (s : State) (item : Nat) : Bool := s.ctxs.any fun kc => kc.2.life.yieldReq && kc.2.life.yieldFor == some item

/-- The victims of R373 for a READY spore. -/
def victims (s : State) (p : Nat) (x : Item) (d : StageDesc) : List (Nat × Life) :=
  (s.ctxs.filter fun kc =>
    let l := kc.2.life
    decide (kc.1 < 768) && l.status == .running && l.part == p && (l.drain == .none || l.drain == .exit) && !l.yieldReq
      && decide (l.rcd.prio.toNat < x.rcd.prio.toNat) && coreAllowed s p (kc.1 / 2) x.die
      && fitsBeside (getCtx s (otherBank (keyAgent kc.1))).life d).map fun kc => (kc.1, kc.2.life)

/-- One victim is taken before another (R373): lower running priority, later pickup, higher core. -/
def victimBefore (x y : Nat × Life) : Bool :=
  if x.2.rcd.prio ≠ y.2.rcd.prio then decide (x.2.rcd.prio.toNat < y.2.rcd.prio.toNat)
  else if x.2.pickOrder ≠ y.2.pickOrder then decide (y.2.pickOrder < x.2.pickOrder)
  else decide (y.1 < x.1)

/-- The victim R373 takes. -/
def firstVictim : List (Nat × Life) → Option Nat
  | [] => none
  | x :: r => some (r.foldl (fun v y => if victimBefore y v then y else v) x).1

/-- YIELD_REQUEST: for the READY spore that R372 puts first among those no bank fits and no request is pending for, a request
is posted to its victim (R373). -/
def execYieldRequest (p : Nat) (s : State) : Host.Outcome State Fault Refusal :=
  let q := getPart s p
  let hs := (readyItems q).filter fun x =>
    (pickCore s p x.1 x.2 false).isNone && !yieldAsked s x.1.id && !(victims s p x.1 x.2).isEmpty
  .next (if !partOn s p then s
    else
      match firstChosen q hs with
      | none => s
      | some (x, d) =>
        match firstVictim (victims s p x d) with
        | some k => postYield s (keyAgent k) (some x.id)
        | none => s)

/-- A bank condition (R342, R343): its trap at the control core's current word; words routed from here on do not start. -/
def bankTrap (s : State) (a : AgentId) (cause : Nat) (det : Word) : State :=
  let c := getCtx s a
  let s := takeTrap s a ⟨cause, .bank, curEngine s a, curPc c, curPc c, 0, det, true⟩
  updCtx s a fun c => { c with eng := { c.eng with barrier := lowBarrier c.eng.barrier s.sch.uid } }

/-- YIELDLATE: the watchdog of a spore with a pending request, which counts while its bank runs in user mode and not at a
suspension word, reaches YWD (R374, log 33). -/
def execYieldlate (a : AgentId) (s : State) : Host.Outcome State Fault Refusal :=
  let c := getCtx s a
  .next (if isSeq a || c.life.status != .running || !c.life.yieldReq || c.trap.smode || trapPending c
      || !(c.life.drain == .none || c.life.drain == .exit) then s
    else
      let x := preg s c.life.part 0x110
      let s := setPreg s c.life.part 0x110 (BitVec.ofNat 64 (setBits x.toNat 63 32 (wbits x 63 32 + 1)))
      bankTrap s a 0x0B c.trap.ywd)

/-! ### Withdrawal -/

/-- A suspended spore of a withdrawn tag: CANCEL, and HPEND when its stage has a handler (R67, R370); its PRIO stays. -/
def cancelSuspended (s : State) (p id : Nat) (st : ItemState → ItemState) : State :=
  updRecord s p id fun x =>
    let h := match findStage (getPart s p) x.inst x.stage with
      | some d => d.handler != 0
      | none => false
    { x with st := st x.st, rcd := { x.rcd with cancel := true, hpend := x.rcd.hpend || h } }

/-- A compute item that has not started is removed, with the add of its CANCELLED completion (R30, R370). -/
def removeItem (s : State) (p : Nat) (x : Item) : State :=
  let s := addDone s p x.inst x.stage
  updPart s p fun q => { q with items := q.items.filter fun y => y.id != x.id, carries := kerase q.carries x.rcd.slot.toNat
                                records := kerase q.records x.rcd.slot.toNat }

/-- A command item that has not been issued is removed: its header or status is written CANCELLED, its counter takes its
add (R370). -/
def removeCommand (s : State) (p : Nat) (x : Item) : State :=
  let q := getPart s p
  match findInst q x.inst, findStage q x.inst x.stage with
  | some i, some d =>
    devAdd (reportItem (dropItem s p x.id) p i.asid d (itemSa d x.rcd.task) 2 4) sysTlb p i.asid d.v48 1
  | _, _ => dropItem s p x.id

/-- One item of a withdrawn tag (R370): 1 in the first place when it is withdrawn, in the second when it is cancelled while
running. -/
def withdrawItem (s : State) (p : Nat) (x : Item) : (Nat × Nat) × State :=
  match x.st with
  | .queued => ((1, 0), removeItem s p x)
  | .ready _ _ => if x.rcd.reason = 0 then ((1, 0), removeItem s p x) else ((0, 1), cancelSuspended s p x.id id)
  | .onCore core b => ((0, 1), updLife s (.bank core b) fun l => { l with withdrawn := true })
  | .waiting _ _ _ => ((0, 1), cancelSuspended (updItem s p x.id fun y => { y with aged := s.now }) p x.id fun _ => .ready s.now x.id)
  | .spawnwait _ => ((0, 1), cancelSuspended s p x.id id)
  | .command => ((1, 0), removeCommand s p x)

/-- Every item of a list. -/
def withdrawItems (p : Nat) : List Item → (Nat × Nat) × State → (Nat × Nat) × State
  | [], r => r
  | x :: l, (n, s) =>
    let (k, s) := withdrawItem s p x
    withdrawItems p l ((n.1 + k.1, n.2 + k.2), s)

/-- A search or fetch is under way: a fetch accepted, a search that its home unit runs or has ended (R290, R294, R298). One
that waits in the task queue of its home unit has not been issued (R370). -/
def opIssued (o : Op) : Bool :=
  match o.body with
  | .search g => g.accepted && (!g.c.isEmpty || g.status.isSome)
  | .fetch g => g.accepted
  | _ => true

/-- The searches and fetches of a tag (R294, R298): one not under way is removed, the others stop as their rules say. -/
def withdrawOps (s : State) (hit : Op → Bool) : (Nat × Nat) × State :=
  let mine := s.ops.filter fun ko => ko.2.tagged && hit ko.2
  let w := (mine.filter fun ko => !opIssued ko.2).length
  ((w, mine.length - w),
   { s with ops := s.ops.map fun ko =>
      if ko.2.tagged && hit ko.2 then (ko.1, { ko.2 with withdrawn := true, tagged := opIssued ko.2 }) else ko })

/-- The launch expansions of a tag end (R30, R370): the items never created are counted. -/
def endExpansions (s : State) (p : Nat) (hit : Instance → Bool) : Nat × State :=
  let left := fun (x : StageSt) => if x.ended then 0 else x.total - x.made
  let n := ((getPart s p).insts.map fun i => if hit i then (i.stages.map left).foldl (· + ·) 0 else 0).foldl (· + ·) 0
  let stop := fun (i : Instance) =>
    if hit i then { i with stages := i.stages.map fun x => { x with ended := true } } else i
  (n, updPart s p fun q => { q with insts := q.insts.map stop })

/-- A withdrawal (R30, R301, R370): withdrawn, cancelled while running, already finished; one step of the scheduler
order. -/
def withdrawTag (s : State) (p : Nat) (tag : BitVec 32) : (Nat × Nat × Nat) × State :=
  let fin := kget 0 (getPart s p).finished tag.toNat
  let (a, s) := withdrawItems p ((getPart s p).items.filter fun x => x.rcd.tag == tag) ((0, 0), s)
  let (n, s) := endExpansions s p fun i => i.tag == tag
  let (b, s) := withdrawOps s fun o => o.part == p && o.tag == tag
  ((a.1 + n + b.1, a.2 + b.2, fin), s)

/-! ### The end of a partition's work -/

/-- One item of a partition that is being disabled (R369, R376). -/
def endItem (s : State) (p : Nat) (x : Item) : State :=
  match x.st with
  | .queued => removeItem s p x
  | .ready _ _ => if x.rcd.reason = 0 then removeItem s p x else retireItem s p x.id
  | .waiting _ _ _ | .spawnwait _ => retireItem s p x.id
  | .command => removeCommand s p x
  | .onCore core b =>
    let l := (getCtx s (.bank core b)).life
    if l.status = .running ∨ l.status = .standby then postYield s (.bank core b) none else s

/-- A stream of the partition ends, unless it waits on a fault answer or has ended already (R377); one at its EXIT is ended as the
others are. -/
def endStreamOf (s : State) (p n : Nat) : State :=
  let l := (getCtx s (.seq n)).life
  if l.part = p ∧ (l.status = .running ∨ (l.status = .stopped ∧ l.drain ≠ .exit)) then forceEnd s n else s

/-- What a partition's disable does at once to its work (R376, R377). -/
def endWork (s : State) (p : Nat) : State :=
  let s := (getPart s p).items.foldl (fun s x => endItem s p x) s
  let s := (endExpansions s p fun _ => true).2
  let s := { s with ops := s.ops.map fun ko =>
    match ko.2.body with
    | .search _ | .fetch _ =>
      if ko.2.part = p then (ko.1, { ko.2 with withdrawn := true, tagged := ko.2.tagged && opIssued ko.2 }) else ko
    | _ => ko }
  let s := (List.range 32).foldl (fun s n => endStreamOf s p n) s
  let s := { s with store := { s.store with indexes := s.store.indexes.map fun kx =>
    if kx.2.owner = p then (kx.1, { kx.2 with merge := none, regionFull := false }) else kx } }
  let s := dropReads s
  let n := (getPart s p).cmds.length
  let x := preg s p 0x340
  updPart (setPreg s p 0x340 (BitVec.ofNat 64 (setBits x.toNat 15 8 (min 255 (wbits x 15 8 + n))))) p
    fun q => { q with cmds := [] }

/-- A host invalidation (R388), which is no work of R377. -/
def hostInvalOp (o : Op) : Bool :=
  match o.body with
  | .inval _ _ _ h => h
  | _ => false

/-- Work of the partition is still going on: STATUS stays 3 (R354, R376, R377); so are completions still owed (R424), which a
function-level reset drops (R419). -/
def workLeft (s : State) (p : Nat) : Bool :=
  s.ctxs.any (fun kc => kc.2.life.status != .empty && kc.2.life.part == p)
    || s.ops.any (fun ko => ko.2.part == p && !hostInvalOp ko.2) || !(getPart s p).items.isEmpty
    || (getPart s p).rings.toList.any fun r => !r.owed.isEmpty

end Sys2Proof.Machine
end

