-- ==== Sys2Proof/Machine/QueryWords.lean ====
section
/-! DEFINITION. The words of the query engine (R287 to R303): their checks at the queue head, the commands they forward,
withdrawal and status. -/

namespace Sys2Proof.Machine

/-- An operation holds its spore's suspensions when its counter is a local one (R74, R288). -/
def localCtr : Ctr → Bool
  | .loc _ => true
  | _ => false

/-- Forward a command (R288): the word waits at the head while the task queue of a receiver is full; then it starts. The command
carries the spore's tag and identifier. Searches and fetches are what a tag withdraws (R30). The word waits until it is accepted when
`wait` is set, else it completes (R88). -/
def forward (scope hint : Nat) (tagged wait : Bool) (b : OpBody) : EM EDone := do
  let full ← look fun s _ c => receiverFull s c.life.part b
  waitStart (!full) .accept
  begin_
  let r ← get
  let id := r.s.sch.uid
  eff fun s a =>
    let l := (getCtx s a).life
    let ctr := ctrOf r.w
    (addOp s ⟨some (ctxKey a), .q, l.part, l.asid, l.rcd.tag, ctr, scope, hint, localCtr ctr, tagged, false, b⟩).2
  pure (if wait then { EDone.plain with fin := none, hold := .accept, op := some id } else EDone.plain)

/-- The alignment checks of addresses that a descriptor names. -/
def chkAligns (l : List (Nat × Nat)) : EM Unit := l.forM fun x => chkAlign x.1 x.2

/-- QSEARCH (R290): the handle is looked up once, at the head. -/
def qsearchOp : EM EDone := do
  let k ← capture
  chkAlign k.sa.toNat 64
  chkCtr
  let bs ← readMem k.sa.toNat 64 0 0
  let f := searchForm bs k.sb
  chkFormat f.bad
  chkAligns f.aligns
  f.lens.forM fun x => chkMul x.1 x.2
  let cb ← lookOnce fun s _ c => ((handleIndex s c.life.part k.sb).map fun x => x.cb).getD 0
  let code ← readMem (fieldAt bs 0 8) (cb / 8) 0 0
  probeMem (fieldAt bs 8 8) (resBytes bs (cb != 0)) .write
  let (sc, hint) := ctlScope bs
  forward sc hint true true (.search (searchOf bs k.sb (cb != 0) (leVal code)))

/-- QFETCH (R296). -/
def qfetchOp : EM EDone := do
  let k ← capture
  chkAlign k.sa.toNat 64
  chkAlign k.sb.toNat 8
  chkCtr
  let bs ← readMem k.sa.toNat 64 0 0
  let f := fetchForm bs
  chkFormat f.bad
  chkAligns f.aligns
  f.lens.forM fun x => chkMul x.1 x.2
  let n := fieldAt bs 28 2
  let objs ← readLong (fieldAt bs 0 8) (8 * n) 0
  let blks ← readLong (fieldAt bs 8 8) (8 * n) 0
  chkFormat (badBlocks bs blks)
  (fetchRanges bs blks k.sb).forM fun x => probeMem x.1 x.2 .write
  let (sc, hint) := ctlScope bs
  forward sc hint true true (.fetch (fetchOf bs objs blks k.sb))

/-- QINSERT and QDELETE (R299). The length of an insert's list is known when the handle names an index. -/
def qlogOp (del : Bool) : EM EDone := do
  let k ← capture
  chkAlign k.sa.toNat 64
  chkCtr
  let bs ← readMem k.sa.toNat 64 0 0
  let f := logForm bs k.sb
  chkFormat f.bad
  chkAligns f.aligns
  f.lens.forM fun x => chkMul x.1 x.2
  let n := fieldAt bs 16 4
  let idx ← look fun s _ c => handleIndex s c.life.part k.sb
  match idx with
  | some x => probeMem (fieldAt bs 0 8) (logStride x del * n) .read
  | none => if del then probeMem (fieldAt bs 0 8) (8 * n) .read else pure ()
  if fieldAt bs 8 8 ≠ 0 then probeMem (fieldAt bs 8 8) 8 .write
  let (sc, hint) := ctlScope bs
  let home ← look fun s _ c => homeOf s c.life.part k.sb
  forward sc hint false false
    (.log ⟨k.sb, del, BitVec.ofNat 64 (fieldAt bs 0 8), BitVec.ofNat 64 (fieldAt bs 8 8), n, home⟩)

/-- QSNAP (R300): it has no descriptor; its scope is the device and its hint normal (DEDUCED, log 34). -/
def qsnapOp : EM EDone := do
  let k ← capture
  chkAlign k.sa.toNat 16
  chkCtr
  chkFormat (badHandle k.sb)
  probeMem k.sa.toNat 16 .write
  let home ← look fun s _ c => homeOf s c.life.part k.sb
  forward 3 0 false false (.snap k.sa k.sb home)

/-- QWALK (R303). -/
def qwalkOp : EM EDone := do
  let k ← capture
  chkAlign k.sa.toNat 32
  chkCtr
  chkFormat (badWalk k.sb)
  let n := wbits k.sb 15 0 + 1
  probeMem k.sa.toNat (32 * n) .both
  forward (wbits k.sb 18 16) (wbits k.sb 20 19) false false (.walk k.sa n [])

/-- A count of the reply of QCANCEL (R301). -/
def satCount (n : Nat) : Nat := min n (2 ^ 20 - 1)

/-- QCANCEL (R301): one step of the scheduler order. -/
def qcancelOp : EM EDone := do
  let k ← capture
  chkFormat (wbits k.sa 63 32 != 0)
  begin_
  let bs ← access fun r =>
    let (n, s) := withdrawTag r.s (getCtx r.s r.a).life.part (BitVec.ofNat 32 k.sa.toNat)
    (.ok (leList 8 (satCount n.1 + satCount n.2.1 * 2 ^ 20 + satCount n.2.2 * 2 ^ 40)), { r with s := s })
  pure (EDone.reply (leVal bs))

/-- The state of a unit for a partition (R302). -/
def unitState (s : State) (p u : Nat) : Nat :=
  if s.boot.form = .p08 ∧ 4 ≤ u then 3
  else if !bit (preg s p 0x018).toNat u then 4
  else if (getUnit s u).failed then 5
  else if (getUnit s u).mounting then 1
  else if (getUnit s u).marks.any fun m => m.2.2 then 2
  else 0

/-- The entry of QSTAT (R302). -/
def unitReply (s : State) (p u : Nat) : Nat :=
  let st := unitState s p u
  u + st * 8 + (if st = 3 ∨ st = 4 then 0
    else min 64 (searchesOn s u) * 2 ^ 6 + min 65535 (tasksQueued s u) * 2 ^ 13 + min 65535 (getUnit s u).retries * 2 ^ 29)

/-- QSTAT (R302). -/
def qstatOp : EM EDone := do
  let k ← capture
  chkFormat (wbits k.sa 63 3 != 0)
  begin_
  let x ← look fun s _ c => unitReply s c.life.part (wbits k.sa 2 0)
  pure (EDone.reply x)

/-- What a word of the query engine does. -/
def queryBody (i : Instr) : EM EDone :=
  match i with
  | .qsearch _ _ _ _ _ _ => qsearchOp
  | .qfetch _ _ _ _ _ _ => qfetchOp
  | .qinsert _ _ _ _ _ _ => qlogOp false
  | .qdelete _ _ _ _ _ _ => qlogOp true
  | .qwalk _ _ _ _ _ _ => qwalkOp
  | .qcancel _ _ _ => qcancelOp
  | .qstat _ _ _ => qstatOp
  | .qsnap _ _ _ _ _ _ => qsnapOp
  | _ => pure EDone.plain

end Sys2Proof.Machine
end

