-- ==== Sys2Proof/Machine/Engine.lean ====
section
/-! DEFINITION. The engines of a context: tokens (R86 to R90), the start of a word, its progress after a hold, its
completion (R87, R88, R94, R96, R116, R267), the token watchdog (R91, R92, R102, R229) and broadcast delivery (R243). -/

namespace Sys2Proof.Machine

/-! ### Tokens -/

/-- Pushes to a counter that started words of an engine have reserved (R87). -/
def reservedTok (seq : Bool) (e : Engine) (x : EngineSt) (n : Nat) : Nat :=
  (x.flying.filter fun f => (pushesOf seq e f.w).contains n).length

/-- The token conditions of a word (R87). -/
def tokensOk (seq : Bool) (g : Engines) (e : Engine) (w : QWord) : Bool :=
  (popsOf seq e w).all (fun n => decide (1 ≤ getTok g n))
    && (pushesOf seq e w).all fun n => decide (getTok g n + reservedTok seq e (getE g e) n ≤ 14)

/-! ### Running a word -/

/-- What a word does, by its engine. -/
def wordBody (e : Engine) (i : Instr) : EM EDone :=
  match e with
  | .q => queryBody i
  | .l => loadBody i
  | .m => matBody i
  | .v => vecBody i
  | .s => storeBody i
  | .t => transBody i

/-- The address of a vector register among the protected registers of a context: scalar r at r, vector r at 32 + r. -/
def vregAddr (r : Nat) : Nat := 32 + r

/-- The address of a mask register among them. -/
def maskAddr (r : Nat) : Nat := 64 + r

/-- The address of the k-th oldest entry of the reply queue among them. -/
def replyAddr (k : Nat) : Nat := 80 + k

/-- The mask registers a vector word reads and writes (R137, R194). -/
def maskUse (w : QWord) : List Nat × List Nat :=
  let r := rawOf w.ins
  let op := op6Of r
  let v := vInfo op
  if engOf r ≠ 1 ∨ op = 0x3E then ([], [])
  else
    let d := if v.vd == .mask then [bits r 14 10] else []
    ((if v.va == .mask then [bits r 9 5] else []) ++ (if v.vb == .mask then [bits r 4 0] else [])
      ++ (if w.cap.mask != 0 then w.cap.mask :: (if w.cap.zero then [] else d) else []), d)

/-- The prefixes by which a captured vector word's registers are found. -/
def capPrefixes (w : QWord) : Prefixes :=
  { Prefixes.reset with ext := some ⟨BitVec.ofNat 3 w.cap.mask, w.cap.zero, 7, false, 0⟩
                        sca := if w.cap.sv.isSome then some 0 else none }

/-- The protected registers that a vector word reads: vector registers and masks (R195, R438). -/
def vecReads (w : QWord) : List Nat :=
  ((regUse (capPrefixes w) w.cap.vfmt (rawOf w.ins)).rv.map vregAddr) ++ (maskUse w).1.map maskAddr

/-- Those it writes. -/
def vecWrites (w : QWord) : List Nat :=
  ((regUse (capPrefixes w) w.cap.vfmt (rawOf w.ins)).wv.map vregAddr) ++ (maskUse w).2.map maskAddr

/-- A register that a word reads holds an uncorrectable error (R438, R440). -/
def badOperand (s : State) (a : AgentId) (w : QWord) : Bool :=
  (vecReads w).any fun r => (uncorrIn s .reg (ctxKey a) r 1).isSome

/-- The registers a word has written have fresh check bits; the corrections of those it read are counted (R438, R440). -/
def settleRegs (s : State) (a : AgentId) (w : QWord) : State :=
  let s := (vecReads w).foldl (fun s r => countCorr s .reg (ctxKey a) r 1) s
  (vecWrites w).foldl (fun s r => clearMarks s .reg (ctxKey a) r 1) s

/-- The body of a word, and the L2 side of its accesses. -/
def runBody (r : ERun) : Except Stop EDone × ERun :=
  match (wordBody r.e r.w.ins).run r with
  | (x, r) => (x, settleL2 r)

/-- Run a word's body; a vector word whose operand holds an uncorrectable error takes UNCORR of source 4 at its head, once it may
start. -/
def runWord (s : State) (a : AgentId) (e : Engine) (w : QWord) (replay : List (List Byte)) (begun : Bool)
    (abort : Option Bool) (lines : List Nat) (owes : RingOwe × RingOwe × RingOwe) (head : Option Bool := none) :
    Except Stop EDone × ERun :=
  let r : ERun := ⟨s, a, e, w, replay, [], begun, abort, lines, [], owes, head⟩
  if s.mem.errs.isEmpty || e != .v then runBody r
  else if head = some false then (.error (.wait .accept), r)
  else if !begun && badOperand s a w then (.error (.trap 0x0E 0 (4 * 2 ^ 16)), { r with s := logReg s a })
  else
    match runBody r with
    | (.ok d, r) => (.ok d, { r with s := settleRegs r.s a w })
    | x => x

/-- A started word goes on from its held access: its log, its lines, the ring slots it has reserved (R116, R260). -/
def rerun (s : State) (a : AgentId) (e : Engine) (f : Flight) : Except Stop EDone × ERun :=
  runWord s a e f.w f.log true f.abort f.lines (f.ring1, f.ring2, f.ring3)

/-- The head word of an engine runs; the accesses it made before it met a fault are not made again (R397). -/
def runHead (s : State) (a : AgentId) (e : Engine) (w : QWord) : Except Stop EDone × ERun :=
  let x := getE (getCtx s a).eng e
  runWord s a e w x.headLog false x.headAbort x.headLines (.none, .none, .none)

/-- The checks of the head word of an engine at the queue head, and no more (R259, R307); `may` says that it may start. -/
def headRun (s : State) (a : AgentId) (e : Engine) (w : QWord) (may : Bool) : Except Stop EDone × ERun :=
  let x := getE (getCtx s a).eng e
  runWord s a e w x.headLog false x.headAbort x.headLines (.none, .none, .none) (some may)

/-- Change an engine of an agent. -/
def updEng (s : State) (a : AgentId) (e : Engine) (f : EngineSt → EngineSt) : State :=
  updCtx s a fun c => { c with eng := setE c.eng e (f (getE c.eng e)) }

/-- The reply queue has room for what a word appends (R97). -/
def replyRoom (c : Ctx) (f : Finish) : Bool := decide (c.eng.reply.length + f.replies.length ≤ 16)

/-- A started MGO that waits for the scales of its next operation: the MSCQ words behind it feed it (R240). -/
def waitsScales (f : Flight) : Bool :=
  match f.w.ins with
  | .mgo _ _ _ _ _ => f.fin.isNone && f.hold == .queue
  | _ => false

/-- An MSCQ word. -/
def feedsScales (w : QWord) : Bool :=
  match w.ins with
  | .mscq _ _ _ _ _ => true
  | _ => false

/-- The earlier words of an engine let its head start: their effects are finished, the oldest is not waiting for reply
space, no mark is open, and a mark starts alone (R87, R97, R267); an MSCQ starts behind an MGO that waits for scales
(R240). -/
def queueClear (c : Ctx) (x : EngineSt) (w : QWord) : Bool :=
  let open_ := if feedsScales w then x.flying.filter fun f => !waitsScales f else x.flying
  open_.all (fun f => f.fin.isSome && !isMark f.w)
    && (match open_ with
        | [] => true
        | f :: _ => !isMark w && (match f.fin with
            | some n => replyRoom c n
            | none => false))

/-- The words a context has routed may start: it runs, or it is a stream that has stopped, whose earlier words complete (R307,
R396). -/
def startsWords (l : Life) (a : AgentId) : Bool := l.status == .running || (isSeq a && l.status == .stopped)

/-- A word may start: nothing holds its context or its engine, no barrier stands before the word, and the token conditions hold
(R87, R307, R343, R389, R396). -/
def mayStart (c : Ctx) (a : AgentId) (e : Engine) (w : QWord) : Bool :=
  let x := getE c.eng e
  startsWords c.life a && x.held.isNone && !x.headWait
    && (match c.eng.barrier with
        | some b => decide (w.uid < b)
        | none => true)
    && queueClear c x w && tokensOk (isSeq a) c.eng e w

/-- The flight a started word becomes (R87). -/
def flightOf (w : QWord) (r : ERun) (d : EDone) : Flight :=
  ⟨w, r.log.reverse, d.hold, none, d.r1, d.r2, d.r3, d.op, d.fin, r.lines⟩

/-- A word that stands still after its start, with the ring slots it has reserved (R116). -/
def heldFlight (w : QWord) (r : ERun) (h : Hold) : Flight :=
  ⟨w, r.log.reverse, h, none, r.owes.1, r.owes.2.1, r.owes.2.2, none, none, r.lines⟩

/-- A word leaves the queue head and pops its tokens. -/
def popHead (s : State) (a : AgentId) (e : Engine) (w : QWord) (f : Flight) : State :=
  updCtx s a fun c =>
    let g := (popsOf (isSeq a) e w).foldl (fun g n => addTok g n false) c.eng
    let x := getE g e
    { c with eng := setE g e { clearHead x with queue := x.queue.drop 1, flying := x.flying ++ [f] } }

/-- Every page of a stop makes its fault event (R389). -/
def faultPages (s : State) (a : AgentId) (acc : Nat) (pages : List Nat) : State :=
  pages.foldl (fun s pg => faultWord s a pg acc) s

/-- Replace the flight of a word. -/
def setFlight (s : State) (a : AgentId) (e : Engine) (uid : Nat) (f : Flight) : State :=
  updEng s a e fun x => { x with flying := x.flying.map fun y => if y.w.uid = uid then f else y }

/-- Discard the flight of a word. -/
def dropFlight (s : State) (a : AgentId) (e : Engine) (uid : Nat) : State :=
  updEng s a e fun x => { x with flying := x.flying.filter fun y => y.w.uid != uid }

/-- A trap of a started word: it is held with its engine (R260, R343). In a bank that a double trap is halting no handler
runs any more: the word ends there, and the accesses it made stay (R347; DESIGN CHOICE, log 80). -/
def trapFlight (s : State) (a : AgentId) (e : Engine) (w : QWord) (cause : Nat) (va det : Word) : State :=
  if (getCtx s a).life.status = .halting then dropFlight s a e w.uid else holdWord s a e w true cause va det

/-- The head word of an engine meets an invalid translation before it starts: it stays there for the answer, and keeps what it has
read (R389, R397). -/
def faultHead (s : State) (a : AgentId) (e : Engine) (r : ERun) (pages : List Nat) (acc : Nat) : State :=
  faultPages (updEng s a e fun x =>
    { x with headWait := true, headAbort := none, headLog := r.log.reverse, headLines := r.lines }) a acc pages

/-- A word at the queue head runs: it starts, or it stays at the head for its wait, its fault or its trap (R87, R259, R260,
R288, R343). -/
def startWord (s : State) (a : AgentId) (e : Engine) (w : QWord) : State :=
  match runHead s a e w with
  | (.ok d, r) => popHead r.s a e w (flightOf w r d)
  | (.error stop, r) =>
    if r.begun then
      match stop with
      | .wait h => popHead r.s a e w (heldFlight w r h)
      | .read _ _ _ => popHead r.s a e w (heldFlight w r .partner)
      | .fault pages acc => faultPages (popHead r.s a e w (heldFlight w r .fault)) a acc pages
      | .trap cause va det => trapFlight (popHead r.s a e w (heldFlight w r .trapped)) a e w cause va det
    else
      match stop with
      | .wait _ | .read _ _ _ => s
      | .fault pages acc => faultHead r.s a e r pages acc
      | .trap cause va det => holdWord (updEng r.s a e clearHead) a e w false cause va det

/-- A started word that may go on: it is not waiting for an answer, a trap, elements or an acceptance. -/
def mayResume (f : Flight) : Bool :=
  f.fin.isNone && (f.hold == .none || f.hold == .queue || f.hold == .partner || f.hold == .member || f.hold == .laben)

/-- A started word goes on from its held access (R260, R397). -/
def resumeWord (s : State) (a : AgentId) (e : Engine) (f : Flight) : State :=
  match rerun s a e f with
  | (.ok d, r) => setFlight r.s a e f.w.uid (flightOf f.w r d)
  | (.error stop, r) =>
    match stop with
    | .wait h => setFlight r.s a e f.w.uid (heldFlight f.w r h)
    | .read _ _ _ => setFlight r.s a e f.w.uid (heldFlight f.w r .partner)
    | .fault pages acc => faultPages (setFlight r.s a e f.w.uid (heldFlight f.w r .fault)) a acc pages
    | .trap cause va det => trapFlight (setFlight r.s a e f.w.uid (heldFlight f.w r .trapped)) a e f.w cause va det

/-- The oldest unfinished word of an engine. -/
def oldestOpen (x : EngineSt) : Option Flight := x.flying.find? fun f => f.fin.isNone

/-- A stop is a wait. -/
def stopWaits (x : Except Stop EDone) : Bool :=
  match x with
  | .error (.wait _) | .error (.read _ _ _) => true
  | _ => false

/-- A context whose started words go on (R343, R347, R396). -/
def wordsGoOn (l : Life) : Bool :=
  l.status == .running || l.status == .frozen || l.status == .halting || l.status == .stopped

/-- The other word of a pair of marks, when both have started (R267). -/
def markPair (c : Ctx) (f : Flight) : Option (Engine × Flight) :=
  let both := fun (m : BitVec 4) => c.eng.lmarks[m.toNat] == c.eng.smarks[m.toNat]
  match f.w.ins with
  | .lmark _ _ m => if both m then c.eng.s.flying.head?.map fun g => (.s, g) else none
  | .smark _ _ m => if both m then c.eng.l.flying.head?.map fun g => (.l, g) else none
  | _ => none

/-- The word of an engine that completes next: its oldest (R88, R223). -/
def nextDone (x : EngineSt) : Option Flight := x.flying.head?

/-- A finished word finds room for its replies; in a bank that is halting no program reads them (R97, R347). -/
def hasRoom (c : Ctx) (n : Finish) : Bool := c.life.status == .halting || replyRoom c n

/-- A started word of an engine can finish or complete now. -/
def canGo (s : State) (a : AgentId) (e : Engine) : Bool :=
  let c := getCtx s a
  let x := getE c.eng e
  (match nextDone x with
   | some f => match f.fin with
     | some n => hasRoom c n && (!isMark f.w || (markPair c f).isSome)
     | none => false
   | none => false)
  || (match oldestOpen x with
      | some f => mayResume f && !stopWaits (rerun s a e f).1
      | none => false)

/-- The order in which the engines of a frozen bank finish the words they have started (R396). -/
def freezeOrder : List Engine := [.v, .m, .l, .s, .t, .q]

/-- An engine's started words have their turn: in a frozen bank, no engine before it has one that can go on (R396). -/
def engineTurn (s : State) (a : AgentId) (e : Engine) : Bool :=
  isSeq a || (getCtx s a).life.status != .frozen || (freezeOrder.takeWhile fun x => x != e).all fun x => !canGo s a x

/-- A started word uses the operand state; an MQUIET that goes on does not (R245). -/
def usesMatrix (w : QWord) : Bool :=
  match w.ins with
  | .mquiet _ _ => false
  | _ => true

/-- A bank may take the matrix operand state (R225, R396): it has it, or the bank that has it does not run and has finished
every M word it had started. -/
def mayClaim (s : State) (a : AgentId) : Bool :=
  match a with
  | .seq _ => true
  | .bank core b =>
    let o := otherBank a
    let st := (getCtx s o).life.status
    (getCore s core).owner != some (!b) || (st != .running && st != .halting && !canGo s o .m)

/-- Before an M word starts, and before one that uses it goes on, the matrix operand state becomes its bank's (R225); whether the
word may go on. -/
def claimFor (s : State) (a : AgentId) (e : Engine) (uses : Bool) : State × Bool :=
  if e = .m ∧ uses then
    if mayClaim s a then
      let st := (getCtx s a).life.status
      let s := claimMatrix s a
      (s, (getCtx s a).life.status == st)
    else (s, false)
  else (s, true)

/-- The parity of a queue word (R438): an error is fetched anew and counts as a re-fetch; one that persists is logged, and the word
takes UNCORR of source 1 at its head. Whether it does, and the state. -/
def queueParity (s : State) (a : AgentId) (w : QWord) : Bool × State :=
  if s.mem.errs.isEmpty then (false, s)
  else if (uncorrIn s .queue (ctxKey a) w.uid 1).isSome then
    let p := some (getCtx s a).life.part
    (true, match a with
      | .bank c b => logUncorr s 0 p c (b2n b) 0 0xFF 0
      | .seq n => logUncorr s 0 p 0 0 n 0xFF 0)
  else (false, clearMarks (countCorr s .queue (ctxKey a) w.uid 1) .queue (ctxKey a) w.uid 1)

/-- The head word of an engine starts, when it may (R87). -/
def startHead (s : State) (a : AgentId) (e : Engine) : State :=
  let c := getCtx s a
  match (getE c.eng e).queue with
  | [] => s
  | w :: _ =>
    if mayStart c a e w then
      match queueParity s a w with
      | (true, s) => holdWord s a e w false 0x0E 0 (2 ^ 16)
      | (false, s) =>
        let (s, ok) := claimFor s a e true
        if ok then startWord s a e w else s
    else s

/-- The checks of an engine's head word are still to be made: it has not passed them, and neither a trap nor an answer holds it. -/
def headDue (x : EngineSt) : Bool := !x.headOk && x.held.isNone && !x.headWait

/-- The head word of a sequencer's engine makes its queue-head checks (R307): it passes them, and keeps what it has read for its start; or
it waits for the answer to an invalid translation; or the stream stops; or it cannot be judged yet, and the splitter waits. -/
def checkHead (s : State) (a : AgentId) (e : Engine) (w : QWord) : State :=
  match queueParity s a w with
  | (true, s) => holdWord s a e w false 0x0E 0 (2 ^ 16)
  | (false, s) =>
    let passed := fun (r : ERun) => updEng r.s a e fun x =>
      { x with headOk := true, headAbort := none, headLog := r.log.reverse, headLines := r.lines }
    match headRun s a e w (mayStart (getCtx s a) a e w) with
    | (.ok _, r) | (.error (.wait .none), r) | (.error (.wait .queue), r) => passed r
    | (.error (.fault pages acc), r) => faultHead r.s a e r pages acc
    | (.error (.trap cause va det), r) => holdWord (updEng r.s a e clearHead) a e w false cause va det
    | _ => stallAt s a .queueFull

/-- An engine does its next thing: a started word goes on, or the head word starts (R87). -/
def engineStep (s : State) (a : AgentId) (e : Engine) : State :=
  let c := getCtx s a
  match oldestOpen (getE c.eng e) with
  | some f =>
    if wordsGoOn c.life && mayResume f && engineTurn s a e then
      let (t, ok) := claimFor s a e (usesMatrix f.w)
      if !ok then t
      else if waitsScales f && stopWaits (rerun t a e f).1 then startHead s a e
      else resumeWord t a e f
    else s
  | none => startHead s a e

/-- WORD_START (R87): the head word of an engine starts; a word that was held goes on. -/
def execWordStart (a : AgentId) (e : Engine) (s : State) : Host.Outcome State Fault Refusal := .next (engineStep s a e)

/-! ### Completion -/

/-- What a word owes a ring takes effect (R116). -/
def settleRing (c : Ctx) (o : RingOwe) : Ctx :=
  match o with
  | .none => c
  | .commit n k =>
    let r := getRing c n
    setRing c n { r with tail := (r.tail + k) % ringN r, count := r.count + k }
  | .pop n k =>
    let r := getRing c n
    setRing c n { r with head := (r.head + k) % ringN r, count := r.count - k }

/-- The effects of a completion but for its counter: flags, replies, queue entry, binding, rings, tokens (R64, R87, R96,
R116, R278). -/
def finishCtx (a : AgentId) (e : Engine) (f : Flight) (n : Finish) (c : Ctx) : Ctx :=
  let c := orFlags c n.flags
  let c := n.replies.foldl (fun c x => pushReply c e x.toNat) c
  let c := match n.qout with
    | some x => { c with eng := { c.eng with qout := c.eng.qout ++ [x] } }
    | none => c
  let c := match n.bind with
    | some (k, b) => setK c k b
    | none => c
  let c := settleRing (settleRing (settleRing c f.ring1) f.ring2) f.ring3
  let x := getE c.eng e
  let g := setE c.eng e { x with flying := x.flying.filter fun y => y.w.uid != f.w.uid }
  { c with eng := (pushesOf (isSeq a) e f.w).foldl (fun g n => addTok g n true) g }

/-- A word completes (R88): its effects, then the add of its counter (R94). -/
def finishWord (s : State) (a : AgentId) (e : Engine) (f : Flight) (n : Finish) : State :=
  let s := clearMarks s .reg (ctxKey a) (replyAddr (getCtx s a).eng.reply.length) n.replies.length
  let s := updCtx s a (finishCtx a e f n)
  let l := (getCtx s a).life
  if n.add then addCtr s (some (ctxKey a)) (engineTlb a (chainPos e)) l.part l.asid (ctrOf f.w) 1 else s

/-- The oldest word of an engine completes when it has finished and its replies have room (R88, R97); two marks complete
together (R267). -/
def completeWord (s : State) (a : AgentId) (e : Engine) : State :=
  let c := getCtx s a
  match nextDone (getE c.eng e) with
  | none => s
  | some f =>
    match f.fin with
    | none => s
    | some n =>
      if !hasRoom c n || !engineTurn s a e then s
      else if isMark f.w then
        match markPair c f with
        | some (e2, g) => finishWord (finishWord s a e f n) a e2 g (g.fin.getD Finish.plain)
        | none => s
      else finishWord s a e f n

/-- WORD_COMPLETE (R88). -/
def execWordComplete (a : AgentId) (e : Engine) (s : State) : Host.Outcome State Fault Refusal := .next (completeWord s a e)

/-! ### The token watchdog -/

/-- How an engine stands for R91: idle, waiting on a token condition or what R102, R229 and R266 take as one, waiting on reply
space, or otherwise. -/
inductive EngWait where
  | idle | token | reply | other
  deriving DecidableEq, Repr

/-- A stop counts as waiting on a token condition: of a vector or matrix word, on a data queue, ring slots, scale bytes, or
an unfrozen member (R102, R229); of an L word, on room in the inbound queue; of an S word, on an outbound entry (R266). -/
def tokenStop (e : Engine) (x : Except Stop EDone) : Bool :=
  match x with
  | .error (.wait .queue) => e != .t && e != .q
  | .error (.wait .partner) | .error (.read _ _ false) => e == .v || e == .m
  | _ => false

/-- How an engine of a context stands; a started mark waits on a token condition until its partner has started (R266). -/
def engineWait (s : State) (a : AgentId) (e : Engine) : EngWait :=
  let c := getCtx s a
  let x := getE c.eng e
  match x.flying with
  | f :: _ =>
    match f.fin with
    | some n =>
      if !replyRoom c n then .reply
      else if isMark f.w && (markPair c f).isNone then .token
      else .other
    | none => if mayResume f && tokenStop e (rerun s a e f).1 then .token else .other
  | [] =>
    match x.queue with
    | [] => .idle
    | w :: _ =>
      if x.held.isSome || x.headWait then .other
      else if !tokensOk (isSeq a) c.eng e w then .token
      else if mayStart c a e w && tokenStop e (runHead s a e w).1 then .token
      else .other

/-- The control core stands at one of the stalls of R91. -/
def stallCounts (c : Ctx) : Bool :=
  match c.fr.stall with
  | .queueFull | .popr | .fence | .waitgeLocal | .drain => true
  | _ => false

/-- The bank is token-stalled (R91). -/
def tokenStalled (s : State) (a : AgentId) : Bool :=
  let c := getCtx s a
  let ws := allEngines.map (engineWait s a)
  c.life.status == .running && !c.trap.smode && !trapPending c && stallCounts c && ws.all (fun w => w != .other)
    && ws.any (fun w => w != .idle) && !s.ops.any fun ko => ko.2.owner == some (ctxKey a)

/-- The detail word of TOKDEAD on a core (R91). -/
def tokDetail (s : State) (a : AgentId) : Word :=
  let g := (getCtx s a).eng
  let of := fun (k : EngWait) (lo : Nat) => (allEngines.map fun e =>
    if engineWait s a e = k then 2 ^ (lo + chainPos e) else 0).foldl (· + ·) 0
  let toks := ((List.range 10).map fun n => getTok g n * 2 ^ (4 * n)).foldl (· + ·) 0
  BitVec.ofNat 64 (of .reply 46 + of .token 40 + toks)

/-- The detail of TOKDEAD in a stop record (R308). -/
def tokDetailSeq (s : State) (n : Nat) : Word :=
  let a := AgentId.seq n
  let g := (getCtx s a).eng
  let of := fun (k : EngWait) (lo : Nat) => ([Engine.l, .v, .s].zipIdx.map fun x =>
    if engineWait s a x.1 = k then 2 ^ (lo + x.2) else 0).foldl (· + ·) 0
  BitVec.ofNat 64 (getTok g 4 + getTok g 5 * 2 ^ 4 + getTok g 6 * 2 ^ 8 + getTok g 7 * 2 ^ 12 + of .token 16 + of .reply 19)

/-- TOKDEAD: a token-stalled bank takes the trap at the control core's current word, its queues, counters and reservations
kept (R91, R342); a stream stops (R307). The event says that TOKWD clk have passed (log 33). -/
def execTokdead (a : AgentId) (s : State) : Host.Outcome State Fault Refusal :=
  .next (if !tokenStalled s a then s
    else
      match a with
      | .bank _ _ => bankTrap s a 0x0A (tokDetail s a)
      | .seq n => stopStream s n 0x0A (curPc (getCtx s a)) 0 (tokDetailSeq s n) 0xFF 0xFF 0xFFFFFFFF)

/-! ### Broadcast delivery -/

/-- The read that a member's head word waits for, once a read for its other operand has come: its ring and byte count
(R243). -/
def memberRead (s : State) (opB : Bool) (m : Member) : Option (Nat × Nat) :=
  let a := AgentId.bank m.core m.b
  let c := getCtx s a
  match c.eng.m.queue with
  | [] => none
  | w :: _ =>
    if oldestOpen c.eng.m = none ∧ mayStart c a .m w then
      let (s, ok) := claimFor s a .m true
      let s := match groupOfBank s a (!opB) with
        | some (k, g) => if (gotOf g m.core).isSome then s else updMember s k m.core fun x =>
            { x with got := some [], own := leaderCore g == m.core }
        | none => s
      match ok, (runHead s a .m w).1 with
      | true, .error (.read ring n _) => some (ring, n)
      | _, _ => none
    else none

/-- The runs of a read of the leader's ring, at its first slot not yet reserved (R116, R227). -/
def leaderRuns (s : State) (a : AgentId) (ring n : Nat) : List (Nat × Nat) :=
  let c := getCtx s a
  let r := getRing c ring
  ringRuns r (n / (ringN r * ringS r) + 2) ((r.head + (ringOwed c.eng ring).2) * ringS r) n

/-- The bytes of that read. -/
def leaderBytes (s : State) (a : AgentId) (ring n : Nat) : List Byte :=
  ((leaderRuns s a ring n).map fun x => padRead s a x.1 x.2).flatten

/-- Its first uncorrectable error (R440). -/
def leaderBad (s : State) (a : AgentId) (ring n : Nat) : Option ErrMark :=
  let (sp, u, base) := padOf s a
  (leaderRuns s a ring n).findSome? fun x => uncorrIn s sp u (base + x.1) x.2

/-- Its corrections are counted (R439). -/
def leaderCorr (s : State) (a : AgentId) (ring n : Nat) : State :=
  let (sp, u, base) := padOf s a
  (leaderRuns s a ring n).foldl (fun s x => countCorr s sp u (base + x.1) x.2) s

/-- The head M word of a bank takes a trap. -/
def holdHead (s : State) (a : AgentId) (cause : Nat) (det : Word) : State :=
  match (getCtx s a).eng.m.queue with
  | w :: _ => holdWord s a .m w false cause 0 det
  | [] => s

/-- The leader reads its ring once and every member takes the bytes (R243), which only the leader's word pops, whoever leads the group
when it starts (R244); an uncorrectable error stops the leader's word, and
nothing is delivered (R440). -/
def deliver (s : State) (key : Nat) (g : BGroup) (lead : Member) (ring n : Nat) : State :=
  let a := AgentId.bank lead.core lead.b
  match leaderBad s a ring n with
  | some e =>
    holdHead (logUncorr s 4 (some (getCtx s a).life.part) lead.core (b2n lead.b) 0 0xFF (e.addr * 8)) a 0x0E (3 * 2 ^ 16)
  | none =>
    let bs := leaderBytes s a ring n
    g.members.foldl (fun s m => updMember s key m.core fun x =>
      { x with got := some bs, own := m.core == lead.core }) (leaderCorr s a ring n)

/-- BROADCAST_DELIVERY: once the group is complete and every member has its read at the head of its queue, the leader's bytes
reach every member (R243). A member that needs another byte count traps instead, and from then on nothing is delivered until it has
left the group (log 28). -/
def execBroadcastDelivery (cluster : Nat) (opB : Bool) (group : Nat) (s : State) : Host.Outcome State Fault Refusal :=
  let key := groupKey cluster opB group
  .next (match kfind s.groups key with
    | none => s
    | some g =>
      let reads := g.members.filterMap fun m => (memberRead s opB m).map fun r => (m, r)
      if !g.complete || reads.length < g.members.length || g.members.any (fun m => m.got.isSome) then s
      else
        match reads.find? fun x => x.1.core == leaderCore g with
        | none => s
        | some (lead, ring, n) =>
          match reads.filter fun x => x.2.2 != n with
          | [] => if g.members.any fun m => m.odd then s else deliver s key g lead ring n
          | bad => bad.foldl (fun s x =>
              holdHead (updMember s key x.1.core fun m => { m with odd := true }) (.bank x.1.core x.1.b) 0x11
                (BitVec.ofNat 64 x.2.1)) s)

end Sys2Proof.Machine
end

