-- ==== Sys2Proof/Machine/Gather.lean ====
section
/-! DEFINITION. The elements of gathers and scatters, as the coalescers of the stack engines serve them (R271 to R276, R389,
R440). -/

namespace Sys2Proof.Machine

/-- The address of the row an element names (R272). -/
def rowAddr (g : GatherOp) (k : Nat) : Nat := (g.base.toNat + listGet 0 g.idx k * g.stride) % 2 ^ 64

/-- What the checks of R272 find for an element: a status code other than OK, an invalid page, or its places. -/
inductive RowFind where
  | code (n : Nat)
  | invalid (pages : List Nat)
  | ok (ls : List (Loc × Nat))
  deriving DecidableEq

/-- Translate the pieces of a row for an element. -/
def rowPieces (cache : Nat) (o : Op) (kind : AccKind) : List (Nat × Nat) → State → List ((Nat × Nat) × Xlat) × State
  | [], s => ([], s)
  | x :: r, s =>
    let (y, s) := xlate s cache o.part o.asid x.1 kind true
    let (ys, s) := rowPieces cache o kind r s
    ((x, y) :: ys, s)

/-- The checks of R272 on element `k`, in the coalescer that serves it. A peer that does not answer counts as forbidding (R430). -/
def findRow (s : State) (o : Op) (g : GatherOp) (k : Nat) : RowFind × State :=
  let a := rowAddr g k
  if g.limit ≠ 0 ∧ g.limit ≤ listGet 0 g.idx k then (.code 3, s)
  else if 2 ^ 48 ≤ a then (.code 2, s)
  else
    let (xs, s) := rowPieces (coalTlb k) o (if g.scatter then .write else .read) (pagePieces a (pieceFuel g.rowb) g.rowb) s
    let oks := xs.filterMap fun x => match x.2 with
      | .ok l => some (l, x.1.2)
      | _ => none
    let bad := xs.filterMap fun x => match x.2 with
      | .invalid => some (x.1.1 / 4096)
      | _ => none
    (if oks.length + bad.length < xs.length then .code 2
     else if bad.isEmpty then .ok oks
     else .invalid bad, s)

/-- The state of element `k`. -/
def elemSt (g : GatherOp) (k : Nat) : ElemSt := listGet (.done 0) g.st k

/-- Is an element settled? -/
def settled : ElemSt → Bool
  | .done _ => true
  | _ => false

/-- The rows of two elements share a byte (R275). -/
def shareByte (g : GatherOp) (j k : Nat) : Bool :=
  decide (rowAddr g j < rowAddr g k + g.rowb) && decide (rowAddr g k < rowAddr g j + g.rowb)

/-- An element may be served now: it is not settled and not held, and for a scatter no earlier element that shares a byte with
it is unsettled (R275). -/
def servable (g : GatherOp) (k : Nat) : Bool :=
  !settled (elemSt g k) && elemSt g k != .held && elemSt g k != .doomed
    && (!g.scatter || (List.range k).all fun j => settled (elemSt g j) || !shareByte g j k)

/-- One element of a combine (R275). -/
def combineElem (sop : Nat) (f : Fmt) (t x : Nat) : Nat :=
  match f with
  | .flt h =>
    let a := fltValue h t
    let b := fltValue h x
    let v := if sop = 1 then (fvAdd a b false).1 else fvPick (sop == 3) a b
    (roundToFormat v h rne false 0).1
  | _ =>
    let w := storedW f
    let a := intValue f t
    let b := intValue f x
    ofSigned w (if sop = 1 then a + b else if sop = 2 then min a b else max a b)

/-- The bytes a scatter leaves in a table row (R275). -/
def combineRow (g : GatherOp) (old new : List Byte) : List Byte :=
  if g.sop = 0 then new
  else
    match fmtOfCode g.efmt with
    | none => new
    | some f =>
      let n := 8 * g.rowb / storedW f
      let xs := (elems f (leVal old) n).zip (elems f (leVal new) n)
      leList g.rowb (packE f (xs.map fun x => combineElem g.sop f x.1 x.2))

/-- A combine is an RMW: the release sequences of the words it touches go on (R275, R311, R316). -/
def combineWrite (s : State) (ls : List (Loc × Nat)) (bs : List Byte) : State :=
  let on := s.mem.promo.filter fun x => ls.any fun l =>
    x.1 == l.1.typ && decide (x.2 < locPlace l.1 + l.2) && decide (locPlace l.1 < x.2 + 8)
  let s := piecesWrite s ls bs
  if on.isEmpty then s else { s with mem := { s.mem with promo := on ++ s.mem.promo } }

/-- The effect of an element that passes (R272, R275): its row is read, or its source row written or combined, on behalf of its word's
context (R313); a combine reads its row too. An uncorrectable error makes it PROTECTION (R440), on a stream too, where R307 would zero the units
and stop after the word (DESIGN CHOICE, log 79). Its status, the bytes of a gathered row, and the state. -/
def serveRow (s : State) (o : Op) (g : GatherOp) (k : Nat) (ls : List (Loc × Nat)) : (Nat × List Byte) × State :=
  let a := keyAgent (o.owner.getD 0)
  let reads := !g.scatter || g.sop != 0
  let l2 := fun (s : State) (write : Bool) => ls.foldl (fun s x =>
    if x.1.typ = 0 then l2Range s (some o.part) x.1.pa x.2 (hintMark g.hint x.1.ef) write false else s) s
  match (if reads then firstBad s ls else none) with
  | some (l, n, _) => ((2, []), l2 (logDram s a l n) false)
  | none =>
    let s := if reads then tookBytes s o.owner ls else s
    if g.scatter then
      let bs := combineRow g (piecesRead s ls) (listGet [] g.rows k)
      let s := if g.sop = 0 then piecesWrite s ls bs else combineWrite s ls bs
      ((0, []), engInval (l2 s true) a ls)
    else ((0, piecesRead s ls), l2 s false)

/-- Replace the state of an element. -/
def setElem (s : State) (op : Nat) (g : GatherOp) (k : Nat) (x : ElemSt) : State :=
  setBody s op (.gather { g with st := listSet g.st k x })

/-! ### The rows of a gather in the window -/

/-- The part of a 32-byte unit that the rows of a gather cover, as its first offset and its end. -/
def unitSpan (g : GatherOp) (u : Nat) : Nat × Nat :=
  (max g.rowoff (32 * u), min (g.rowoff + g.st.length * g.rowb) (32 * u + 32))

/-- The byte of the gathered rows at an offset of the window. -/
def rowByte (g : GatherOp) (o : Nat) : Byte := listGet 0 (listGet [] g.rows ((o - g.rowoff) / g.rowb)) ((o - g.rowoff) % g.rowb)

/-- Write what a gather has of a unit. -/
def writeUnit (a : AgentId) (g : GatherOp) (s : State) (u : Nat) : State :=
  let (lo, hi) := unitSpan g u
  padWrite s a lo ((List.range (hi - lo)).map fun i => rowByte g (lo + i))

/-- Every element with bytes in a unit is settled. -/
def unitReady (g : GatherOp) (u : Nat) : Bool :=
  (List.range g.st.length).all fun k =>
    settled (elemSt g k) || decide (g.rowoff + (k + 1) * g.rowb ≤ 32 * u) || decide (32 * u + 32 ≤ g.rowoff + k * g.rowb)

/-- A unit holds bytes of the status area too. -/
def statusUnit (g : GatherOp) (u : Nat) : Bool :=
  decide (32 * u < g.stoff + 4 * (g.st.length + 1)) && decide (g.stoff < 32 * u + 32)

/-- The units that `n` bytes at an offset touch. -/
def unitsOf (off n : Nat) : List Nat := (List.range ((off + n - 1) / 32 - off / 32 + 1)).map fun i => off / 32 + i

/-- An element is settled with a status code and, for a gather, the bytes of its row (R272): all that the word writes of a 32-byte unit
appears together (R112), so a unit is written when its last element is settled, and one that the status area shares with that area. -/
def settleRow (s : State) (o : Op) (op : Nat) (g : GatherOp) (k code : Nat) (bs : List Byte) : State :=
  let g := { g with st := listSet g.st k (.done code), rows := if g.scatter then g.rows else listSet g.rows k bs }
  let s := setBody s op (.gather g)
  if g.scatter then s
  else
    ((unitsOf (g.rowoff + k * g.rowb) g.rowb).filter fun u => unitReady g u && !statusUnit g u).foldl
      (writeUnit (keyAgent (o.owner.getD 0)) g) s

/-- An element ends with a status that is not OK: a gather's row is zero-filled (R272). -/
def failElem (s : State) (o : Op) (op : Nat) (g : GatherOp) (k code : Nat) : State :=
  settleRow s o op g k code (List.replicate g.rowb 0)

/-- The waiter of an element (R392). -/
def elemWaiter (o : Op) (op k : Nat) : Waiter :=
  match keyAgent (o.owner.getD 0) with
  | .bank core b => .element core b op k
  | .seq n => .element n false op k

/-- Serve an element (R272 to R275): its translation is judged now; on an invalid page it waits for the host, when WAIT asks for
it and it has not been answered yet. -/
def serveElem (s : State) (o : Op) (op : Nat) (g : GatherOp) (k : Nat) : State :=
  if elemSt g k = .abort then failElem s o op g k 1
  else
    match findRow s o g k with
    | (.code n, s) => failElem s o op g k n
    | (.ok ls, s) =>
      match serveRow s o g k ls with
      | ((0, bs), s) => settleRow s o op g k 0 bs
      | ((n, _), s) => failElem s o op g k n
    | (.invalid pages, s) =>
      if g.wait && elemSt g k == .todo then
        pages.foldl (fun s pg => faultEvent s o.part ⟨elemWaiter o op k, o.asid, pg, if g.scatter then 2 else 1⟩)
          (setElem s op g k .held)
      else failElem s o op g k 1

/-- The status area (R273). -/
def statusBytes (g : GatherOp) : Nat × List Byte :=
  let bad := g.st.zipIdx.filterMap fun x => match x.1 with
    | .done n => if n = 0 then none else some (x.2 + n * 2 ^ 30)
    | _ => none
  (bad.length, leList 4 bad.length ++ bad.flatMap (leList 4))

/-- Once every element is settled, the status area is written; the word may complete, when it has not done so yet, and a scatter adds to
its counter (R273 to R276). -/
def endGather (s : State) (op : Nat) : State :=
  match kfind s.ops op with
  | some o =>
    match o.body with
    | .gather g =>
      if !g.st.all settled then s
      else
        let a := keyAgent (o.owner.getD 0)
        let (n, bs) := statusBytes g
        let s := if g.scatter then s
          else ((unitsOf g.rowoff (g.st.length * g.rowb)).filter (statusUnit g)).foldl (writeUnit a g) s
        let s := padWrite s a g.stoff bs
        let fin : Finish := if g.scatter then Finish.plain
          else { Finish.plain with add := true, replies := if g.rpl then [BitVec.ofNat 64 n] else [] }
        let end_ := fun (f : Flight) => if f.op = some op ∧ f.fin = none then { f with fin := some fin, hold := .none } else f
        let s := updEng s a (if g.scatter then .s else .l) fun x => { x with flying := x.flying.map end_ }
        dropOp (if g.scatter then addCtr s o.owner (coalTlb 0) o.part o.asid o.ctr 1 else s) op
    | _ => s
  | none => s

/-- GATHER_ELEMENT_READ: element `k` is served when it may be (R272, R274); for a scatter this is where an element that fails
or is held is judged, and one that passes is left to SCATTER_ELEMENT. -/
def execGatherElementRead (op k : Nat) (s : State) : Host.Outcome State Fault Refusal :=
  .next (match kfind s.ops op with
    | some o =>
      match o.body with
      | .gather g =>
        if servable g k && decide (k < g.st.length) then
          match g.scatter, findRow s o g k with
          | true, (.ok _, _) => s
          | _, _ => endGather (serveElem s o op g k) op
        else endGather s op
      | _ => s
    | none => s)

/-- SCATTER_ELEMENT: the lowest element that may be served takes effect (R275). -/
def execScatterElement (op : Nat) (s : State) : Host.Outcome State Fault Refusal :=
  .next (match kfind s.ops op with
    | some o =>
      match o.body with
      | .gather g =>
        if !g.scatter then s
        else
          match (List.range g.st.length).find? fun k => servable g k with
          | some k => endGather (serveElem s o op g k) op
          | none => endGather s op
      | _ => s
    | none => s)

end Sys2Proof.Machine
end

