-- ==== Sys2Proof/Machine/Faults.lean ====
section
/-! DEFINITION. Translation faults at the partition: closing a batch and writing its records (R390 to R393), the host's
answers (R394, R397), and the invalidation a host asks for (R388). -/

namespace Sys2Proof.Machine

/-! ### Closing a batch -/

/-- Events that close a batch (R395 FBATCH.MAXEV). -/
def maxEvents (s : State) (p : Nat) : Nat :=
  let n := wbits (preg s p 0x230) 22 16
  if n = 0 then 64 else min 64 n

/-- One event before another: by identifier, then by page (R390). -/
def eventLe (x y : FaultEvent) : Bool := decide (x.asid < y.asid) || (x.asid == y.asid && decide (x.page ≤ y.page))

/-- Put an event into its place of a sorted list, after those equal to it. -/
def insertEvent (x : FaultEvent) : List FaultEvent → List FaultEvent
  | [] => [x]
  | y :: r => if eventLe y x then y :: insertEvent x r else x :: y :: r

/-- Sort the events of a batch (R390). -/
def sortEvents (l : List FaultEvent) : List FaultEvent := l.foldl (fun acc x => insertEvent x acc) []

/-- The range of one event; its FID comes later. -/
def eventRange (x : FaultEvent) : FaultRec := ⟨0, x.asid, x.page, 1, x.acc, [x.who], false⟩

/-- Union of access kinds (R390, R391). -/
def accUnion (a b : Nat) : Nat := a ||| b

/-- Merge sorted events into ranges: pages equal or consecutive under one identifier (R390). The range being built comes
first. -/
def mergeEvents : FaultRec → List FaultEvent → List FaultRec
  | r, [] => [r]
  | r, x :: l =>
    if x.asid = r.asid ∧ x.page ≤ r.page + r.pages then
      mergeEvents { r with pages := max r.pages (x.page + 1 - r.page), acc := accUnion r.acc x.acc
                           who := if r.who.contains x.who then r.who else r.who ++ [x.who] } l
    else r :: mergeEvents (eventRange x) l

/-- The ranges of a closed batch (R390). -/
def batchRanges (l : List FaultEvent) : List FaultRec :=
  match sortEvents l with
  | [] => []
  | x :: r => mergeEvents (eventRange x) r

/-- An agent id (R392); an element of a stream would name the stream (DESIGN CHOICE, log 35). A word that its spore has left behind has
the id of the bank or stream that issued it (DESIGN CHOICE, log 86). -/
def agentId : Waiter → Nat
  | .bank core b => core + 2 ^ 9 * b2n b
  | .stream n => 2 ^ 29 + n
  | .element core b _ _ => 2 * 2 ^ 29 + 2 ^ 9 * b2n b + core
  | .left (.bank core b) _ => core + 2 ^ 9 * b2n b
  | .left (.seq n) _ => 2 ^ 29 + n

/-- Insert a number into a rising list, once. -/
def insertNat (x : Nat) : List Nat → List Nat
  | [] => [x]
  | y :: r => if x < y then x :: y :: r else if x = y then y :: r else y :: insertNat x r

/-- The agent ids of a record, ascending, each once (R390, R391). -/
def recordAgents (r : FaultRec) : List Nat := r.who.foldl (fun l w => insertNat (agentId w) l) []

/-- NENT of a record of `n` agents (R391). -/
def recordEntries (n : Nat) : Nat := 1 + (n - 10 + 15) / 16

/-- A list of ids cut into runs of 16, each padded with zeros to 64 bytes. -/
def agentBlocks : Nat → List Nat → List (List Byte)
  | 0, _ => []
  | k + 1, l => (((l.take 16) ++ List.replicate (16 - (l.take 16).length) 0).flatMap (leList 4)) :: agentBlocks k (l.drop 16)

/-- The 64-byte entries of a record (R391). -/
def recordBlocks (r : FaultRec) : List (List Byte) :=
  let ids := recordAgents r
  let nent := recordEntries ids.length
  let head := (ids.take 10) ++ List.replicate (10 - (ids.take 10).length) 0
  (leList 8 (r.page * 4096) ++ leList 4 r.pages ++ leList 2 r.asid ++ leList 1 r.acc ++ leList 1 nent
    ++ leList 4 r.fid.toNat ++ leList 4 ids.length ++ head.flatMap (leList 4)) :: agentBlocks (nent - 1) (ids.drop 10)

/-- Write entries to the fault ring, FRTAIL advancing with each (R393). -/
def writeEntries (s : State) (p : Nat) : List (List Byte) → Except (Xlat × State) State
  | [] => .ok s
  | b :: r =>
    let tail := (preg s p 0x218).toNat
    match sysWrite s p ((preg s p 0x208).toNat + 64 * (tail % 2 ^ wbits (preg s p 0x210) 4 0)) b with
    | .error x => .error x
    | .ok s => writeEntries (setPreg s p 0x218 (BitVec.ofNat 64 ((tail + 1) % 2 ^ 32))) p r

/-- FSTAT.OUTST is the number of records outstanding (R395). -/
def setRecs (s : State) (p : Nat) (f : List FaultRec → List FaultRec) : State :=
  let s := updPart s p fun q => { q with recs := f q.recs }
  setPreg s p 0x260 (BitVec.ofNat 64 (setBits (preg s p 0x260).toNat 31 16 (min 65535 (getPart s p).recs.length)))

/-- The record formed last stands in the fault ring now (R390). -/
def markWritten (s : State) (p : Nat) (fid : BitVec 32) : State :=
  setRecs s p fun l => l.map fun r => if r.fid = fid then { r with written := true } else r

/-- A record takes its FID and is outstanding; it is written when it fits whole, else counted in FRLOST (R391, R393). The
first component says that it was written. -/
def formRecord (s : State) (p : Nat) (r : FaultRec) : Bool × State :=
  let x := preg s p 0x260
  let fid := (wbits x 63 32 + 1) % 2 ^ 32
  let r := { r with fid := BitVec.ofNat 32 fid }
  let s := setPreg s p 0x260 (BitVec.ofNat 64 (setBits x.toNat 63 32 fid))
  let s := setRecs s p fun l => l ++ [r]
  let bs := recordBlocks r
  let used := ((preg s p 0x218).toNat + 2 ^ 32 - (preg s p 0x220).toNat) % 2 ^ 32
  let lost := fun (t : State) => (false, setPreg t p 0x228 (satInc32 (preg s p 0x228)))
  if 2 ^ wbits (preg s p 0x210) 4 0 < used + bs.length then lost s
  else
    match writeEntries s p bs with
    | .ok s => (true, markWritten s p r.fid)
    | .error (_, t) => lost (setPreg t p 0x218 (preg s p 0x218))

/-- Form every record of a batch in order. -/
def formRecords (p : Nat) : List FaultRec → Bool × State → Bool × State
  | [], x => x
  | r :: l, (any, s) =>
    let (w, s) := formRecord s p r
    formRecords p l (any || w, s)

/-- The open batch closes with its first MAXEV events; later ones open the next batch or attach to the records just formed
(R390, R393). -/
def closeBatch (s : State) (p : Nat) : State :=
  match (getPart s p).batch with
  | none => s
  | some evs =>
    let n := maxEvents s p
    let s := updPart s p fun q => { q with batch := none }
    let (any, s) := formRecords p (batchRanges (evs.take n)) (false, s)
    let s := if any then raiseIrq s p 1 1 else s
    (evs.drop n).foldl (fun s e => faultEvent s p e) s

/-- FAULT_BATCH_CLOSE (R390, R391, R393). -/
def execFaultBatchClose (p : Nat) (s : State) : Host.Outcome State Fault Refusal := .next (closeBatch s p)

/-! ### Answers -/

/-- Some word of a context that waits for an answer has been answered ABORT. -/
def hasAbort (c : Ctx) : Bool :=
  (c.fr.stall == .fault && c.fr.abort.isSome) || allEngines.any fun e =>
    let x := getE c.eng e
    (x.headWait && x.headAbort.isSome) || x.flying.any fun f => f.hold == .fault && f.abort.isSome

/-- ABORT reaches every word of a context that waits for an answer (R394). -/
def abortWords (c : Ctx) : Ctx :=
  let mark := fun (f : Flight) => if f.hold = .fault then { f with abort := some false } else f
  let one := fun (x : EngineSt) =>
    { x with flying := x.flying.map mark, headAbort := if x.headWait then some false else x.headAbort }
  let fr := if c.fr.stall = .fault then { c.fr with abort := some false } else c.fr
  { c with fr := fr, eng := allEngines.foldl (fun g e => setE g e (one (getE g e))) c.eng }

/-- Every answer is in: the words that waited go on, with the failure when one answer was ABORT (R394, R397). -/
def releaseWords (c : Ctx) : Ctx :=
  let c := if hasAbort c then abortWords c else c
  let free := fun (f : Flight) => if f.hold = .fault then { f with hold := .none } else f
  let one := fun (x : EngineSt) => { x with flying := x.flying.map free, headWait := false }
  let fr := if c.fr.stall = .fault then { c.fr with stall := .none } else c.fr
  { c with fr := fr, eng := allEngines.foldl (fun g e => setE g e (one (getE g e))) c.eng
           trap := { c.trap with fpend := false } }

/-- A word whose fault was answered ABORT while a trap was pending, or its bank in supervisor mode, takes its ACCESS at once; its
engine holds it as one that arose in supervisor mode, and it is not checked again (R346). -/
def abortHeld (s : State) (a : AgentId) : State :=
  let late := fun (x : EngineSt) => { x with held := x.held.map fun t => { t with late := true, sure := true } }
  allEngines.foldl (fun s e =>
    let x := getE (getCtx s a).eng e
    if x.held.isSome then s
    else
      match x.flying.find? fun f => f.hold == .none && f.abort.isSome with
      | some f => updEng (resumeWord s a e f) a e late
      | none =>
        match x.queue, x.headAbort with
        | w :: _, some _ => updEng (startWord s a e w) a e late
        | _, _ => s) s

/-- What a bank does once every answer is in (R346, R394, R397). -/
def releaseBank (s : State) (a : AgentId) : State :=
  let s := updCtx s a releaseWords
  let c := getCtx s a
  if c.trap.smode || trapPending c then abortHeld s a else s

/-- A frozen bank whose fault is answered is STANDBY; the core runs it, or asks the running spore to yield (R79, R369,
R397). In a disabled partition it then yields (R376). -/
def unfreezeBank (s : State) (core : Nat) (b : Bool) : State :=
  let a := AgentId.bank core b
  let l := (getCtx s a).life
  if l.status = .frozen then
    let s := switchBank (updLife s a fun l => { l with status := .standby }) core
    let o := (getCtx s (otherBank a)).life
    let s := if (getCtx s a).life.status = .standby ∧ o.status = .running then postYield s (otherBank a) none else s
    if partOn s l.part then s else postYield s a none
  else s

/-- A stream whose fault is answered goes on; one of a disabled partition ends (R377, R389). -/
def unfreezeStream (s : State) (n : Nat) : State :=
  let l := (getCtx s (.seq n)).life
  if l.status = .frozen then
    let s := updLife s (.seq n) fun l => { l with status := .running }
    if partOn s l.part then s else endStreamOf s l.part n
  else s

/-- Change the state of an element of an operation. -/
def updElem (s : State) (op k : Nat) (f : ElemSt → ElemSt) : State :=
  match kfind s.ops op with
  | some o =>
    match o.body with
    | .gather g => setElem s op g k (f (elemSt g k))
    | _ => s
  | none => s

/-- Change the registers of a word that its spore has left behind. -/
def updLeft (s : State) (op : Nat) (f : Ctx → Ctx) : State :=
  match kfind s.ops op with
  | some o =>
    match o.body with
    | .word a c e => { s with ops := kput s.ops op { o with body := .word a (f c) e } }
    | _ => s
  | none => s

/-- ABORT reaches a waiter (R394). -/
def abortWaiter (s : State) (w : Waiter) : State :=
  match w with
  | .bank core b => updCtx s (.bank core b) abortWords
  | .stream n => updCtx s (.seq n) abortWords
  | .element _ _ op k => updElem s op k fun x => if x = .held then .doomed else x
  | .left _ op => updLeft s op abortWords

/-- A waiter that no event and no record names any more acts on its answers (R394, R397). -/
def releaseWaiter (s : State) (p : Nat) (w : Waiter) : State :=
  if stillWaits (getPart s p) w then s
  else
    match w with
    | .bank core b => unfreezeBank (releaseBank s (.bank core b)) core b
    | .stream n => unfreezeStream (updCtx s (.seq n) releaseWords) n
    | .element _ _ op k =>
      updElem s op k fun x => if x = .held then .retry else if x = .doomed then .abort else x
    | .left _ op => updLeft s op releaseWords

/-- An answer that is ignored is counted in BADANS (R394). -/
def badAnswer (s : State) (p : Nat) : State :=
  let x := preg s p 0x260
  setPreg s p 0x260 (BitVec.ofNat 64 (setBits x.toNat 15 0 (min 65535 (wbits x 15 0 + 1))))

/-- The host's answer (R394): RETRY, or ABORT when `ab`. -/
def answer (s : State) (p : Nat) (all : Bool) (fid : BitVec 32) (ab : Bool) : State :=
  let hit := fun (r : FaultRec) => all || r.fid == fid
  let rs := (getPart s p).recs.filter hit
  if rs.isEmpty then if all then s else badAnswer s p
  else
    let who := (rs.flatMap fun r => r.who).eraseDups
    let s := setRecs s p fun l => l.filter fun r => !hit r
    let s := if ab then who.foldl abortWaiter s else s
    who.foldl (fun s w => releaseWaiter s p w) s

/-- FANS_RETRY (R394, R397). A write before READY is ignored (R435). -/
def execFansRetry (p : Nat) (all : Bool) (fid : BitVec 32) (s : State) : Host.Outcome State Fault Refusal :=
  .next (if s.boot.ready then answer (wakeDevice s) p all fid false else s)

/-- FANS_ABORT (R394). -/
def execFansAbort (p : Nat) (all : Bool) (fid : BitVec 32) (s : State) : Host.Outcome State Fault Refusal :=
  .next (if s.boot.ready then answer (wakeDevice s) p all fid true else s)

/-! ### Host invalidations -/

/-- A host invalidation of the partition is in progress. -/
def hostInval (s : State) (p : Nat) : Bool := s.ops.any fun ko => ko.2.part == p && hostInvalOp ko.2

/-- TICMD: the invalidation of TIBASE and TILEN starts, or is queued behind the one in progress (R388). -/
def execTicmd (p : Nat) (val : Word) (s : State) : Host.Outcome State Fault Refusal :=
  let base := (preg s p 0x240).toNat
  let len := (preg s p 0x248).toNat
  let id := wbits val 8 0
  .next (if !s.boot.ready then s
    else if hostInval s p then updPart s p fun q => { q with invals := q.invals ++ [(base, len, id)] }
    else (addOp s ⟨none, .q, p, id, 0, .none, 3, 0, false, false, false, .inval base len id true⟩).2)

end Sys2Proof.Machine
end

