-- ==== Sys2Proof/Machine/Rings.lean ====
section
/-! DEFINITION. The host rings of a partition: doorbells and consumption (R420 to R422), the entries LAUNCH, WITHDRAW and NOP
with their completions (R421, R423), enabling, disabling and re-basing (R424), and the interrupts (R427). -/

namespace Sys2Proof.Machine

/-! ### The registers of a ring -/

/-- The offset of a register of ring `n` (R420). -/
def ringOff (n k : Nat) : Nat := 0x400 + 0x80 * n + k

/-- A register of ring `n`. -/
def ringReg (s : State) (p n k : Nat) : Nat := (preg s p (ringOff n k)).toNat

/-- Write a register of ring `n`. -/
def setRingReg (s : State) (p n k x : Nat) : State := setPreg s p (ringOff n k) (BitVec.ofNat 64 x)

/-- A ring beside its registers; one above 3 does not exist and reads as reset. -/
def getHRing (s : State) (p n : Nat) : HostRing :=
  if h : n < 4 then (getPart s p).rings[n] else HostRing.reset

/-- Change a ring beside its registers. -/
def updHRing (s : State) (p n : Nat) (f : HostRing → HostRing) : State :=
  updPart s p fun q => if h : n < 4 then { q with rings := q.rings.set n (f q.rings[n]) } else q

/-- SQLAST.SEQ. -/
def sqLast (s : State) (p n : Nat) : Nat := bits (ringReg s p n 0x18) 31 0

/-- SQLAST.STOP and SQLAST.OVERRUN. -/
def sqStop (s : State) (p n : Nat) : Bool := bit (ringReg s p n 0x18) 33
def sqOverrun (s : State) (p n : Nat) : Bool := bit (ringReg s p n 0x18) 32

/-- RCTL.EN. -/
def ringOn (s : State) (p n : Nat) : Bool := bit (ringReg s p n 0x40) 0

/-- Write SQLAST. -/
def setSqlast (s : State) (p n : Nat) (stop ovr : Bool) (seq : Nat) : State :=
  setRingReg s p n 0x18 (b2n stop * 2 ^ 33 + b2n ovr * 2 ^ 32 + seq % 2 ^ 32)

/-- The completion ring has a free slot (R422). -/
def cqFree (s : State) (p n : Nat) : Bool :=
  decide ((bits (ringReg s p n 0x38) 31 0 + 1 + 2 ^ 32 - bits (ringReg s p n 0x30) 31 0) % 2 ^ 32
    ≤ 2 ^ (getHRing s p n).cqLog)

/-! ### Interrupts -/

/-- The vector of a bit of IRQST (R427). -/
def irqVector (k : Nat) : Nat := if k < 4 then k else if k < 8 then k else k - 4

/-- The completion message of a ring is sent, or delayed until MODNS ns have passed since its previous one (R427): one clk is
0.5 ns (R7). -/
def sendCompletion (s : State) (p n : Nat) : State :=
  let ns := bits (ringReg s p n 0x40) 31 16
  let late := match (getHRing s p n).lastMsg with
    | some t => decide (s.now < t + 2 * ns)
    | none => false
  if late then updHRing s p n fun r => { r with modPend := true }
  else sendMsg (updHRing s p n fun r => { r with lastMsg := some s.now, modPend := false }) p (4 + n)

/-- The message of a bit of IRQST (R427). -/
def sendSource (s : State) (p k : Nat) : State :=
  if 4 ≤ k ∧ k < 8 then sendCompletion s p (k - 4) else sendMsg s p (irqVector k)

/-- A completion was written to ring `n`: IRQST.CQ, and its message when the bit was clear and is not masked (R427). -/
def raiseCq (s : State) (p n : Nat) : State :=
  let st := (preg s p 0x600).toNat
  let k := 4 + n
  if bit st k then s
  else
    let s := setPreg s p 0x600 (BitVec.ofNat 64 (st + 2 ^ k))
    if bit (preg s p 0x608).toNat k then s else sendCompletion s p n

/-! ### Completions -/

/-- The expansion of a launch has created every item, or has been ended (R423). -/
def expanded (q : Part) (inst : Option Nat) : Bool :=
  match inst.bind (findInst q) with
  | some i => i.stages.all fun x => x.ended || decide (x.total ≤ x.made)
  | none => true

/-- The 32 bytes of a completion entry (R421). -/
def complBytes (cseq : Nat) (x : Compl) : List Byte :=
  leList 4 cseq ++ leList 4 x.seq.toNat ++ leList 8 x.cookie.toNat ++ leList 1 x.status ++ leList 1 x.kind
    ++ leList 2 x.detail ++ leList 8 x.counts.toNat ++ leList 4 0

/-- Write the completions that may be written, in order (R423): each needs a free slot of the completion ring. -/
def flushCompl (p n : Nat) : Nat → State → State
  | 0, s => s
  | fuel + 1, s =>
    match (getHRing s p n).owed with
    | [] => s
    | x :: r =>
      if !expanded (getPart s p) x.inst || !cqFree s p n then s
      else
        let q := getHRing s p n
        let cseq := (bits (ringReg s p n 0x38) 31 0 + 1) % 2 ^ 32
        let s := { s with mem := { s.mem with
          host := mwrite s.mem.host (q.cqBase + 32 * (cseq % 2 ^ q.cqLog)) (complBytes cseq x) } }
        let s := setRingReg s p n 0x38 (x.seq.toNat * 2 ^ 32 + cseq)
        let s := updHRing s p n fun q => { q with owed := r }
        flushCompl p n fuel (raiseCq s p n)

/-- A re-base that waits is made once every consumed entry has its completion (R424): its checks, the rings as their
registers now stand, the sequence from START. -/
def tryRebase (s : State) (p n : Nat) : State :=
  let q := getHRing s p n
  if q.act ≠ .rebase ∨ !q.owed.isEmpty then s
  else
    let sql := bits (ringReg s p n 0x08) 4 0
    let cql := bits (ringReg s p n 0x28) 4 0
    let sqb := ringReg s p n 0x00
    let cqb := ringReg s p n 0x20
    let ctl := setBits (ringReg s p n 0x40) 2 2 0
    let s := updHRing s p n fun q => { q with act := .none }
    if sql < 4 ∨ 16 < sql ∨ cql < 4 ∨ 16 < cql ∨ sqb = 0 ∨ cqb = 0 then
      setRingReg s p n 0x40 (setBits (setBits ctl 0 0 0) 2 2 1)
    else
      let last := (bits (ringReg s p n 0x08) 63 32 + 2 ^ 32 - 1) % 2 ^ 32
      let s := setSqlast (setRingReg s p n 0x40 (setBits ctl 0 0 1)) p n false false last
      updHRing s p n fun q => { q with d := BitVec.ofNat 32 last, left := false, sqBase := sqb, sqLog := sql, cqBase := cqb
                                       cqLog := cql }

/-- Completions, and then a re-base that waited for them. -/
def settleRingCq (s : State) (p n : Nat) : State :=
  tryRebase (flushCompl p n (getHRing s p n).owed.length s) p n

/-! ### Consumption -/

/-- The ring may read its next entry (R420, R422, R424). -/
def mayConsume (s : State) (p n : Nat) : Bool :=
  let q := getHRing s p n
  s.boot.ready && partOn s p && ringOn s p n && q.act == .none && !sqStop s p n && !q.left
    && q.d.toNat != sqLast s p n

/-- Look at the next entry (R422): its 128 bytes when it is to be performed, or what stops the ring at it. -/
def lookRing (s : State) (p n : Nat) : Option (List Byte) × State :=
  if !mayConsume s p n then (none, s)
  else
    let q := getHRing s p n
    let x := (sqLast s p n + 1) % 2 ^ 32
    let e := mread s.mem.host (q.sqBase + 128 * (x % 2 ^ q.sqLog)) 128
    let d := (fieldAt e 0 4 + 2 ^ 32 - x) % 2 ^ 32
    if 2 ^ 31 ≤ d then (none, updHRing s p n fun q => { q with left := true })
    else if d ≠ 0 then (none, raiseIrq (setSqlast s p n true true (sqLast s p n)) p (8 + n) (4 + n))
    else if !cqFree s p n then (none, setSqlast s p n true false (sqLast s p n))
    else (some e, s)

/-- A reserved field of an entry is not 0, or its KIND is reserved (R421). -/
def badEntry (e : List Byte) : Bool :=
  let k := fieldAt e 4 1
  decide (2 < k) || fieldAt e 5 3 != 0 || fieldAt e 16 48 != 0
    || (k == 0 && fieldAt e 64 64 != 0) || (k == 2 && fieldAt e 68 60 != 0)

/-- The next entry of a ring, when its KIND is one of those given, is performed and owes its completion (R421 to R423). What
it does gives its status, detail, counts and the instance its completion waits for. -/
def consume (s : State) (p n : Nat) (mine : Nat → Bool)
    (perform : State → List Byte → (Nat × Nat × Word × Option Nat) × State) : State :=
  match lookRing s p n with
  | (none, s) => s
  | (some e, s) =>
    let k := fieldAt e 4 1
    if !mine k then s
    else
      let ((st, det, cnt, inst), s) := if badEntry e then ((4, 0, 0, none), s) else perform s e
      let x := (sqLast s p n + 1) % 2 ^ 32
      let c : Compl := ⟨BitVec.ofNat 32 x, BitVec.ofNat 64 (fieldAt e 8 8), st, k, det, cnt, inst⟩
      let s := setSqlast s p n (sqStop s p n) (sqOverrun s p n) x
      settleRingCq (updHRing s p n fun q => { q with owed := q.owed ++ [c] }) p n

/-- LAUNCH: the launch record of the entry is checked and instantiated (R359, R360). -/
def execLaunch (p ring : Nat) (s : State) : Host.Outcome State Fault Refusal :=
  .next (consume s p ring (· == 1) fun s e =>
    let ((st, det, inst), s) := launchRecord s p ring (e.drop 64)
    ((st, det, 0, inst), s))

/-- WITHDRAW: one step of the scheduler order (R30, R370, R423); its counts have the layout of R301. -/
def execWithdraw (p ring : Nat) (s : State) : Host.Outcome State Fault Refusal :=
  .next (consume s p ring (· == 2) fun s e =>
    let (n, s) := withdrawTag s p (BitVec.ofNat 32 (fieldAt e 64 4))
    ((0, 0, BitVec.ofNat 64 (satCount n.1 + satCount n.2.1 * 2 ^ 20 + satCount n.2.2 * 2 ^ 40), none), s))

/-- NOP_ENTRY: a NOP is consumed and completed; so is an entry of a reserved KIND, with BADENTRY (R421). -/
def execNopEntry (p ring : Nat) (s : State) : Host.Outcome State Fault Refusal :=
  .next (consume s p ring (fun k => k == 0 || decide (2 < k)) fun s _ => ((0, 0, 0, none), s))

/-- LAUNCH_COMPLETION: completions whose launches have created their items are written, and a re-base that waited for them is
made (R423, R424). -/
def execLaunchCompletion (p ring : Nat) (s : State) : Host.Outcome State Fault Refusal := .next (settleRingCq s p ring)

/-! ### Doorbells and heads -/

/-- Count a doorbell in the HSTAT of the block and of the physical function (R425; DEDUCED, log 39). -/
def countDoorbell (s : State) (p : Nat) : State :=
  let up := fun (x : Word) => BitVec.ofNat 64 (setBits x.toNat 63 32 (wbits x 63 32 + 1))
  setDreg (setPreg s p 0x618 (up (preg s p 0x618))) 0x1010 (up (dreg s 0x1010))

/-- D after a doorbell: the largest value compared modulo 2^32 against SQLAST.SEQ; none when the doorbell lies behind D
(R422). -/
def doorbellLimit (last d seq : Nat) : Option Nat :=
  let a := (seq + 2 ^ 32 - last) % 2 ^ 32
  let b := (d + 2 ^ 32 - last) % 2 ^ 32
  if a < 2 ^ 31 ∧ b ≤ a then some seq else none

/-- SQDB: a doorbell raises D, and the ring looks at its next entry (R422). -/
def execSqdb (p ring : Nat) (seq : BitVec 32) (s : State) : Host.Outcome State Fault Refusal :=
  .next (if !s.boot.ready then s
    else
      let s := countDoorbell (wakeDevice s) p
      match doorbellLimit (sqLast s p ring) (getHRing s p ring).d.toNat seq.toNat with
      | none => s
      | some d => (lookRing (updHRing s p ring fun q => { q with d := BitVec.ofNat 32 d, left := false }) p ring).2)

/-- CQHEAD: the host has consumed completions; completions that waited for room are written, and a ring that stopped on a full
completion ring goes on (R422). -/
def execCqhead (p ring : Nat) (seq : BitVec 32) (s : State) : Host.Outcome State Fault Refusal :=
  .next (if !s.boot.ready then s
    else
      let s := settleRingCq (setRingReg s p ring 0x30 seq.toNat) p ring
      let s := if sqStop s p ring && !sqOverrun s p ring && cqFree s p ring then
          setSqlast s p ring false false (sqLast s p ring)
        else s
      (lookRing s p ring).2)

/-! ### Enabling and re-basing -/

/-- A write of RCTL (R420, R424): MODNS is set; EN = 0 stops consumption; EN = 1, with or without REBASE, re-bases the ring
once its completions are written. -/
def writeRctl (s : State) (p n : Nat) (val : Word) : State :=
  if !s.boot.ready then s
  else
    let ctl := setBits (ringReg s p n 0x40) 31 16 (wbits val 31 16)
    if bit val.toNat 0 then
      tryRebase (updHRing (setRingReg s p n 0x40 ctl) p n fun q => { q with act := .rebase }) p n
    else updHRing (setRingReg s p n 0x40 (setBits ctl 0 0 0)) p n fun q => { q with act := .none }

/-- RING_ENABLE: a write of RCTL with EN = 1 and REBASE = 0. -/
def execRingEnable (p ring : Nat) (val : Word) (s : State) : Host.Outcome State Fault Refusal :=
  .next (if bit val.toNat 0 && !bit val.toNat 1 then writeRctl s p ring val else s)

/-- RING_DISABLE: a write of RCTL with EN = 0. -/
def execRingDisable (p ring : Nat) (val : Word) (s : State) : Host.Outcome State Fault Refusal :=
  .next (if !bit val.toNat 0 then writeRctl s p ring val else s)

/-- REBASE: a write of RCTL with EN = 1 and REBASE = 1. -/
def execRebase (p ring : Nat) (val : Word) (s : State) : Host.Outcome State Fault Refusal :=
  .next (if bit val.toNat 0 && bit val.toNat 1 then writeRctl s p ring val else s)

/-! ### The interrupt registers -/

/-- IRQST: each 1 written clears its bit, and the next cause sends again (R427). -/
def execIrqst (p : Nat) (val : Word) (s : State) : Host.Outcome State Fault Refusal :=
  .next (if s.boot.ready then setPreg s p 0x600 (preg s p 0x600 &&& ~~~val) else s)

/-- IRQMASK: the mask is set, and each source unmasked with its status bit 1 sends its message (R427). -/
def execIrqmask (p : Nat) (val : Word) (s : State) : Host.Outcome State Fault Refusal :=
  let old := (preg s p 0x608).toNat
  let st := (preg s p 0x600).toNat
  let ks := (List.range 12).filter fun k => bit old k && !bit val.toNat k && bit st k
  .next (if s.boot.ready then
      ks.foldl (fun s k => sendSource s p k) (setPreg s p 0x608 (BitVec.ofNat 64 (wbits val 11 0)))
    else s)

/-- IRQ_MODERATION: MODNS ns have passed since the ring's previous message, and the delayed one is sent (R427). -/
def execIrqModeration (p ring : Nat) (s : State) : Host.Outcome State Fault Refusal :=
  .next (if (getHRing s p ring).modPend then sendCompletion s p ring else s)

end Sys2Proof.Machine
end

