-- ==== Sys2Proof/Machine/HostIf.lean ====
section
/-! DEFINITION. What the host reaches beside its rings: VFBIND (R416), BAR 2 (R417, R418), the registers of the partition block
and of the device (R9, R353, R378, R395, R412, R420, R425 to R444), and the partitions: enabling, disabling, function-level
reset (R354, R376, R377, R419). -/

namespace Sys2Proof.Machine

/-! ### Functions -/

/-- The partition a virtual function is bound to (R416). -/
def vfPart (s : State) (fn : Nat) : Option Nat :=
  let x := bits (dreg s 0x1000).toNat (4 * fn - 1) (4 * fn - 4)
  if 1 ≤ fn ∧ fn ≤ 8 ∧ 8 ≤ x then some (x - 8) else none

/-- Field n of a VFBIND value (R416). -/
def vfField (x n : Nat) : Nat := bits x (4 * n - 1) (4 * n - 4)

/-- A VFBIND value binds two virtual functions to one partition (R416). -/
def bindsTwice (x : Nat) : Bool :=
  (List.range 8).any fun i => (List.range i).any fun j =>
    decide (8 ≤ vfField x (i + 1)) && vfField x (i + 1) == vfField x (j + 1)

/-- A VFBIND value changes the binding of a function whose partition is enabled (R416). -/
def bindsBusy (s : State) (x : Nat) : Bool :=
  (List.range 8).any fun i => vfField x (i + 1) != vfField (dreg s 0x1000).toNat (i + 1)
    && (match vfPart s (i + 1) with
        | some p => partOn s p
        | none => false)

/-- VFBIND: the write is taken, or ignored whole when it is illegal (R416). -/
def execVfbind (val : BitVec 32) (s : State) : Host.Outcome State Fault Refusal :=
  .next (if !s.boot.ready || bindsTwice val.toNat || bindsBusy s val.toNat then s
    else setDreg s 0x1000 (BitVec.ofNat 64 val.toNat))

/-! ### BAR 2 -/

/-- What an access through BAR 2 reaches (R417, R418). -/
inductive HostTarget where
  | dram (pa : Nat)
  | scratch (core off : Nat)
  | seqScratch (n off : Nat)
  | nothing
  | refused
  deriving DecidableEq, Repr

/-- DWBASE of a function (R417). -/
def dwbase (s : State) (fn : Nat) : Nat :=
  match vfPart s fn with
  | some p => (preg s p 0x610).toNat
  | none => (dreg s 0x1008).toNat

/-- Where `n` bytes at a BAR 2 offset of a function lie (R417, R418). -/
def hostTarget (s : State) (fn off n : Nat) : HostTarget :=
  let own := fun (ok : Nat → Bool) => fn == 0 || (match vfPart s fn with
    | some p => granted s p && ok p
    | none => false)
  if fn ≠ 0 ∧ vfPart s fn = none then .nothing
  else if off < 0x80000000 then
    let pa := dwbase s fn + off
    if decide (pa + n ≤ 2 ^ 39) && own (fun p => inDram s p pa n) then .dram pa else .refused
  else if off < 0x80000000 + 384 * 2 ^ 20 then
    let c := (off - 0x80000000) / 2 ^ 20
    if own fun p => bit (preg s p 0x008).toNat (coreCluster c) then .scratch c (off % 2 ^ 20) else .refused
  else if 0x98000000 ≤ off ∧ off < 0x98000000 + 32 * 2 ^ 18 then
    let q := (off - 0x98000000) / 2 ^ 18
    if own fun p => bit (preg s p 0x020).toNat q then .seqScratch q (off % 2 ^ 18) else .refused
  else .nothing

/-- BADACC of the function's HSTAT counts a refused access (R418, R425). -/
def badAccess (s : State) (fn : Nat) : State :=
  let up := fun (x : Word) => BitVec.ofNat 64 (setBits x.toNat 15 0 (min 65535 (wbits x 15 0 + 1)))
  match vfPart s fn with
  | some p => setPreg s p 0x618 (up (preg s p 0x618))
  | none => setDreg s 0x1010 (up (dreg s 0x1010))

/-- The partition whose DRAM holds an address, when one is enabled (R352). -/
def dramOwner (s : State) (pa : Nat) : Option Nat := (List.range 8).find? fun p => partOn s p && inDram1 s p pa

/-- The enabled partition that holds a sequencer (R353). -/
def seqPart (s : State) (q : Nat) : Option Nat := (List.range 8).find? fun p => partOn s p && bit (preg s p 0x020).toNat q

/-- A host read of one place (R418, R440): its bytes, or none for a Completer Abort. -/
def hostReadAt (s : State) (fn n : Nat) (t : HostTarget) : Option (List Byte) × State :=
  match t with
  | .nothing => (some (List.replicate n 0), s)
  | .refused => (some (List.replicate n 0), badAccess s fn)
  | .dram pa =>
    let l : Loc := ⟨0, 0, pa, false⟩
    match locBad s l n with
    | some e => (none, l2Range (logMemErr s (dramOwner s pa) 0 0 e) (vfPart s fn) pa n 0 false false)
    | none => (some (locRead s l n), l2Range s (vfPart s fn) pa n 0 false false)
  | .scratch c off =>
    match uncorrIn s .scratch c off n with
    | some e => (none, logUncorr s 4 (clusterPart s (coreCluster c)) c 0 0 0xFF (e.addr * 8))
    | none => (some (mread s.mem.scratch (2 ^ 20 * c + off) n), countCorr s .scratch c off n)
  | .seqScratch q off =>
    match uncorrIn s .seqScratch q off n with
    | some e => (none, logUncorr s 4 (seqPart s q) 0 0 q 0xFF (e.addr * 8))
    | none => (some (mread s.mem.seqScratch (2 ^ 18 * q + off) n), countCorr s .seqScratch q off n)

/-- A host write of one place (R418). -/
def hostWriteAt (s : State) (fn : Nat) (bs : List Byte) (t : HostTarget) : State :=
  match t with
  | .nothing => s
  | .refused => badAccess s fn
  | .dram pa => l2Range (locWrite s ⟨0, 0, pa, false⟩ bs) (vfPart s fn) pa bs.length 0 true false
  | .scratch c off =>
    let s := if s.mem.errs.isEmpty then s else clearMarks s .scratch c off bs.length
    { s with mem := { s.mem with scratch := mwrite s.mem.scratch (2 ^ 20 * c + off) bs } }
  | .seqScratch q off =>
    let s := if s.mem.errs.isEmpty then s else clearMarks s .seqScratch q off bs.length
    { s with mem := { s.mem with seqScratch := mwrite s.mem.seqScratch (2 ^ 18 * q + off) bs } }

/-- A host read in pieces that stay within 4 KiB, as PCI Express requests do. -/
def hostRead (fn : Nat) : Nat → Nat → Nat → State → Option (List Byte) × State
  | 0, _, _, s => (some [], s)
  | fuel + 1, off, n, s =>
    if n = 0 then (some [], s)
    else
      let k := min n (4096 - off % 4096)
      match hostReadAt s fn k (hostTarget s fn off k) with
      | (none, s) => (none, s)
      | (some bs, s) =>
        match hostRead fn fuel (off + k) (n - k) s with
        | (some r, s) => (some (bs ++ r), s)
        | (none, s) => (none, s)

/-- A host write in pieces that stay within 4 KiB. -/
def hostWrite (fn : Nat) : Nat → Nat → List Byte → State → State
  | 0, _, _, s => s
  | fuel + 1, off, bs, s =>
    if bs.isEmpty then s
    else
      let k := min bs.length (4096 - off % 4096)
      hostWrite fn fuel (off + k) (bs.drop k) (hostWriteAt s fn (bs.take k) (hostTarget s fn off k))

/-- The host is answered. -/
def answered (s : State) (x : Reply) : State := { s with reply := x }

/-- BAR2_READ (R417, R418, R440); before READY it reads 0 (R435). -/
def execBar2Read (fn off n : Nat) (s : State) : Host.Outcome State Fault Refusal :=
  .next (if !s.boot.ready then answered s (.data (List.replicate n 0))
    else
      match hostRead fn (n / 4096 + 2) off n (wakeDevice s) with
      | (some bs, s) => answered s (.data bs)
      | (none, s) => answered s .abort)

/-- BAR2_WRITE (R417, R418); before READY it is ignored (R435). -/
def execBar2Write (fn off : Nat) (data : List Byte) (s : State) : Host.Outcome State Fault Refusal :=
  .next (if !s.boot.ready then s else hostWrite fn (data.length / 4096 + 2) off data (wakeDevice s))

/-! ### Register reads -/

/-- A read of a register before READY gives 0 and clears nothing (R435); after it, the value is returned and `clr` done
(R9). -/
def readClear (s : State) (val : Word) (clr : State → State) : State :=
  if s.boot.ready then answered (clr s) (.data (leList 8 val.toNat)) else answered s (.data (leList 8 0))

/-- A read of a register that the read clears whole. -/
def readWhole (s : State) (p off : Nat) : State := readClear s (preg s p off) fun s => setPreg s p off 0

/-- A read of the register at an offset of a partition block (R9, R353): the RC registers TRLOST, FRLOST, ERLOST, RSSTAT
(DROPPED; PEND is the commands queued) and HSTAT (BADACC) are cleared; write-only registers and offsets without a register read
0, as nothing is kept there. -/
def readBlock (s : State) (p off : Nat) : State :=
  match off with
  | 0x078 => readWhole s p 0x078
  | 0x228 => readWhole s p 0x228
  | 0x320 => readWhole s p 0x320
  | 0x340 => readClear s (BitVec.ofNat 64 (wbits (preg s p 0x340) 15 8 * 256 + (getPart s p).cmds.length)) fun s =>
      setPreg s p 0x340 (BitVec.ofNat 64 (setBits (preg s p 0x340).toNat 15 8 0))
  | 0x618 => readClear s (preg s p 0x618) fun s => setPreg s p 0x618 (BitVec.ofNat 64 (setBits (preg s p 0x618).toNat 15 0 0))
  | _ => readClear s (preg s p off) id

/-- The form code (R3). -/
def Form.code : Form → Nat
  | .p16 => 0
  | .p08 => 1
  | .m16 => 2

/-- DEVID (R432). -/
def devid (b : Boot) : Nat := 0x5371 * 2 ^ 16 + b.stepping % 256 * 2 ^ 8 + b.form.code

/-- PSTATE (R433): 0 while any cluster is in A0, A1 or A2, else the device's state. -/
def pstate (s : State) : Nat := if s.power.device < 3 then 0 else s.power.device

/-- DEVSTAT (R433). -/
def devstat (s : State) : Nat :=
  pstate s * 2 ^ 16 + s.boot.fail % 256 * 2 ^ 8 + s.boot.phase % 8 * 2 + b2n s.boot.ready

/-- A read of the device register at an offset (R9): DEVID and DEVSTAT respond before READY too (R435); HSTAT, ECNT and LBPORT are
cleared as they say (R425, R428, R439). -/
def readDevice (s : State) (off : Nat) : State :=
  if off = 0 then answered s (.data (leList 8 (devid s.boot)))
  else if off = 8 then answered s (.data (leList 8 (devstat s)))
  else if off = 0x1010 ∨ (0x2100 ≤ off ∧ off < 0x2180 ∧ off % 8 = 0) then
    readClear s (dreg s off) fun s => setDreg s off (BitVec.ofNat 64 (setBits (dreg s off).toNat 15 0 0))
  else if 0x3000 ≤ off ∧ off < 0x3080 ∧ off % 8 = 0 then readClear s (dreg s off) fun s => setDreg s off 0
  else readClear s (dreg s off) id

/-- A host read of the register at a BAR 0 offset of a function (R417). -/
def readBar0 (s : State) (fn off : Nat) : State :=
  let nothing := readClear s 0 id
  if fn = 0 then
    if off < 0x100000 then readDevice s off
    else if off < 0x108000 then readBlock s ((off - 0x100000) / 0x1000) (off % 0x1000)
    else nothing
  else
    match vfPart s fn with
    | some p => if off < 0x1000 then readBlock s p off else nothing
    | none => nothing

/-- TRLOST (R354). -/
def execTrlost (p : Nat) (s : State) : Host.Outcome State Fault Refusal := .next (readBlock s p 0x078)

/-- FRLOST (R395). -/
def execFrlost (p : Nat) (s : State) : Host.Outcome State Fault Refusal := .next (readBlock s p 0x228)

/-- ERLOST (R412). -/
def execErlost (p : Nat) (s : State) : Host.Outcome State Fault Refusal := .next (readBlock s p 0x320)

/-- RSSTAT: DROPPED is cleared; PEND is the commands queued (R412). -/
def execRsstat (p : Nat) (s : State) : Host.Outcome State Fault Refusal := .next (readBlock s p 0x340)

/-- HSTAT: BADACC is cleared (R425). The physical function reads its own and, as 16 + p, that of block p (R353); a virtual
function that of its block; an unbound one reads 0 (R417). -/
def execHstat (fn : Nat) (s : State) : Host.Outcome State Fault Refusal :=
  .next (if fn = 0 then readBar0 s 0 0x1010 else if 16 ≤ fn then readBlock s (fn - 16) 0x618 else readBar0 s fn 0x618)

/-- ECNT (R439): classes 11 to 15 read 0. -/
def execEcnt (i : Nat) (s : State) : Host.Outcome State Fault Refusal :=
  .next (if i < 16 then readDevice s (0x3000 + 8 * i) else readClear s 0 id)

/-- LBPORT: REPLAYS is cleared (R428). -/
def execLbport (i : Nat) (s : State) : Host.Outcome State Fault Refusal := .next (readDevice s (0x2100 + 8 * i))

/-! ### Register writes -/

/-- The RW bits of a register of the partition block that has no step of its own, and whether it is a configuration register,
which is locked while EN is 1 (R353, R354, R395, R412, R417, R429). -/
def blockField : Nat → Option (Nat × Bool)
  | 0x008 => some (0xFFFFFF, true)
  | 0x010 => some (0x1FFF, true)
  | 0x018 => some (0xFF, true)
  | 0x020 => some (0xFFFFFFFF, true)
  | 0x028 => some (0x01FF01FF, true)
  | 0x030 => some (0xFFFF000F, true)
  | 0x038 => some (0xFFFF, true)
  | 0x040 => some (0xFFFFFFFF, true)
  | 0x048 => some (0xFFFFFFFFFFFC, true)
  | 0x050 => some (0xFFFFFFFF0000, true)
  | 0x058 => some (0xFFFFFFFFF000, true)
  | 0x060 => some (0x1F, true)
  | 0x070 => some (0xFFFFFFFF, false)
  | 0x108 => some (0xFFFFFFFF, false)
  | 0x200 => some (0xFFFFFFFFFF000, true)
  | 0x208 => some (0xFFFFFFFFF000, true)
  | 0x210 => some (0x1F, true)
  | 0x220 => some (0xFFFFFFFF, false)
  | 0x230 => some (0x7FFFFF, false)
  | 0x240 => some (0xFFFFFFFFF000, false)
  | 0x248 => some (0xFFFFFFFFFFFFFFFF, false)
  | 0x300 => some (0xFFFFFFFFF000, true)
  | 0x308 => some (0x1F, true)
  | 0x318 => some (0xFFFFFFFF, false)
  | 0x338 => some (0xFFFFFF, false)
  | 0x610 => some (0xFFFFF80000000, false)
  | 0x620 => some (0xFFFFFFFE00000, true)
  | 0x628 => some (0xFFFFFFFE00000, true)
  | 0x630 => some (0x1FFFF, true)
  | _ => none

/-- A write of a ring register (R420): while RCTL.EN is 1 only SQCFG.START is taken. -/
def ringWrite (s : State) (p n k : Nat) (val : Word) : State :=
  let on := ringOn s p n
  if k = 0x08 then
    setRingReg s p n k (wbits val 63 32 * 2 ^ 32 + (if on then bits (ringReg s p n k) 4 0 else wbits val 4 0))
  else if on then s
  else if k = 0x00 ∨ k = 0x20 then setRingReg s p n k (wbits val 63 12 * 2 ^ 12)
  else if k = 0x28 then setRingReg s p n k (wbits val 4 0)
  else s

/-- A write of a register of a partition block (R353, R354). SCHAGE keeps AGELIM when 7 is written (R378); FANS with a reserved
ACT is counted in BADANS (R394). -/
def blockWrite (s : State) (p off : Nat) (val : Word) : State :=
  if off = 0x100 then
    let lim := if wbits val 2 0 = 7 then wbits (preg s p off) 2 0 else wbits val 2 0
    setPreg s p off (BitVec.ofNat 64 (wbits val 31 16 * 2 ^ 16 + lim))
  else if off = 0x238 then if 2 ≤ wbits val 33 32 then badAnswer (wakeDevice s) p else s
  else if 0x400 ≤ off ∧ off < 0x600 ∧ off % 8 = 0 then ringWrite s p ((off - 0x400) / 0x80) (off % 0x80) val
  else
    match blockField off with
    | none => s
    | some (mask, cfg) => if cfg && partOn s p then s else setPreg s p off (val &&& BitVec.ofNat 64 mask)

/-- A write of a device register (R417, R428, R440). -/
def deviceWrite (s : State) (off : Nat) (val : Word) : State :=
  if off = 0x1008 then setDreg s off (BitVec.ofNat 64 (wbits val 51 31 * 2 ^ 31))
  else if off = 0x2000 then
    if (List.range 8).any (partOn s) then s else setDreg s off (BitVec.ofNat 64 (wbits val 7 0))
  else if off = 0x2008 then setDreg s off (BitVec.ofNat 64 (wbits val 15 0))
  else if 0x2800 ≤ off ∧ off < 0x3000 ∧ off % 8 = 0 then setDreg s off (BitVec.ofNat 64 (wbits val 15 0))
  else if off = 0x3100 then setDreg s off (dreg s off &&& ~~~(BitVec.ofNat 64 (wbits val 63 62 * 2 ^ 62)))
  else s

/-- REGISTER_WRITE: a write at a BAR 0 offset of a function (R9, R353, R417); before READY it is ignored (R435), as is one by an
unbound virtual function. -/
def execRegisterWrite (fn off : Nat) (val : Word) (s : State) : Host.Outcome State Fault Refusal :=
  .next (if !s.boot.ready then s
    else if fn = 0 then
      if off < 0x100000 then deviceWrite s off val
      else if off < 0x108000 then blockWrite s ((off - 0x100000) / 0x1000) (off % 0x1000) val
      else s
    else
      match vfPart s fn with
      | some p => if off < 0x1000 then blockWrite s p off val else s
      | none => s)

/-! ### Enabling a partition -/

/-- A range of physical addresses lies in a partition's DRAM: in each stack it meets, both ends do (R352). -/
def rangeInDram (s : State) (p base len : Nat) : Bool :=
  decide (base + len ≤ 2 ^ 39) && (List.range 8).all fun n =>
    let lo := max base (n * 2 ^ 36)
    let hi := min (base + len) ((n + 1) * 2 ^ 36)
    decide (hi ≤ lo) || (inDram1 s p lo && inDram1 s p (hi - 1))

/-- A LOG2 field lies in a range. -/
def logIn (s : State) (p off lo hi : Nat) : Bool := decide (lo ≤ wbits (preg s p off) 4 0) && decide (wbits (preg s p off) 4 0 ≤ hi)

/-- The peer window of a partition (R429): base and length in bytes. -/
def peerWindow (s : State) (p : Nat) : Nat × Nat := ((preg s p 0x620).toNat, (preg s p 0x628).toNat)

/-- The block fails the first row of R354. -/
def badValue (s : State) (p : Nat) : Bool :=
  let m := (preg s p 0x010).toNat
  let (base, len) := peerWindow s p
  preg s p 0x008 == 0 || decide (12 < wbits (preg s p 0x030) 3 0) || wbits (preg s p 0x030) 31 16 == 0
    || decide (shareK (bits m 9 8) ≤ bits m 12 10) || decide (511 < asidBase s p + wbits (preg s p 0x028) 24 16)
    || !logIn s p 0x060 6 16 || !logIn s p 0x210 6 16 || !logIn s p 0x308 7 16 || preg s p 0x048 == 0
    || (len != 0 && !rangeInDram s p base len) || (s.boot.form == .p08 && wbits (preg s p 0x018) 7 4 != 0)

/-- Two registers of two partitions have a bit in common. -/
def overlap (s : State) (p q off : Nat) : Bool := preg s p off &&& preg s q off != 0

/-- Two partitions' DRAM conflicts (R354). -/
def dramConflict (s : State) (p q : Nat) : Bool :=
  let a := (preg s p 0x010).toNat
  let b := (preg s q 0x010).toNat
  bits a 7 0 &&& bits b 7 0 != 0
    && !(bits a 7 0 == bits b 7 0 && bits a 9 8 == bits b 9 8 && bits a 9 8 != 0 && bits a 12 10 != bits b 12 10)

/-- Two partitions' identifiers overlap (R354). -/
def asidConflict (s : State) (p q : Nat) : Bool :=
  decide (asidBase s p ≤ asidBase s q + wbits (preg s q 0x028) 24 16)
    && decide (asidBase s q ≤ asidBase s p + wbits (preg s p 0x028) 24 16)

/-- The block fails the second row of R354 against the partitions that hold resources: those enabled, and those still draining
(R354: resources may be granted again once STATUS is 0). -/
def conflict (s : State) (p : Nat) : Bool :=
  let others := (List.range 8).filter fun q => q != p && granted s q
  others.any (fun q => overlap s p q 0x008 || overlap s p q 0x018 || overlap s p q 0x020 || overlap s p q 0x038
      || asidConflict s p q || dramConflict s p q)
    || decide (12 < (others.map fun q => wbits (preg s q 0x030) 3 0).foldl (· + ·) (wbits (preg s p 0x030) 3 0))

/-- A PCTL value. -/
def pctl (status trlog en : Nat) : Word := BitVec.ofNat 64 (status * 2 ^ 12 + trlog * 2 ^ 8 + en)

/-- The clusters of a partition are found in A2, where those of no enabled partition are held (R445). -/
def clustersHeld (s : State) (p : Nat) : State :=
  { s with power := { s.power with clusters :=
      ((List.range 24).filter fun c => bit (preg s p 0x008).toNat c).foldl (fun m c => kput m c 2) s.power.clusters } }

/-- PARTITION_ENABLE: a write of PCTL with EN = 1 checks the block (R354); what others left on its units goes (R407). TRLOG is
set; a partition that is enabled already stays so, one that is draining stays so (DESIGN CHOICE, log 36). Where cases of both codes hold,
BADVALUE is reported (DESIGN CHOICE, log 79). -/
def execPartitionEnable (p : Nat) (val : Word) (s : State) : Host.Outcome State Fault Refusal :=
  let log := wbits val 8 8
  .next (if !s.boot.ready || !bit val.toNat 0 then s
    else if partOn s p then setPreg s p 0x000 (pctl 0 log 1)
    else if partStatus s p = 3 then setPreg s p 0x000 (pctl 3 log 0)
    else if badValue s p then setPreg s p 0x000 (pctl 2 log 0)
    else if conflict s p then setPreg s p 0x000 (pctl 1 log 0)
    else takeUnits (clustersHeld (setPreg s p 0x000 (pctl 0 log 1)) p) p)

/-! ### Disabling a partition -/

/-- PCTL.EN becomes 0 and the work of the partition is brought to an end (R354, R376, R377); nothing happens to one that is not
enabled. -/
def disable (s : State) (p : Nat) : State :=
  if partOn s p then endWork (setPreg s p 0x000 (pctl 3 (wbits (preg s p 0x000) 8 8) 0)) p else s

/-- PARTITION_DISABLE: a write of PCTL with EN = 0 (R354, R376, R377). -/
def execPartitionDisable (p : Nat) (val : Word) (s : State) : Host.Outcome State Fault Refusal :=
  .next (if !s.boot.ready || bit val.toNat 0 then s
    else disable (setPreg s p 0x000 (BitVec.ofNat 64 (setBits (preg s p 0x000).toNat 8 8 (wbits val 8 8)))) p)

/-- SSCR0 to SSCR3 of both banks of a partition's cores become 0 (R340, R354). -/
def clearSscr (s : State) (p : Nat) : State :=
  { s with ctxs := s.ctxs.map fun kc =>
      if kc.1 < 768 ∧ bit (preg s p 0x008).toNat (coreCluster (kc.1 / 2)) = true then
        (kc.1, { kc.2 with trap := { kc.2.trap with sscr := Vector.replicate 4 0 } })
      else kc }

/-- The loaded flags of the control stores of a partition's cores are cleared (R149, R354). -/
def clearCstore (s : State) (p : Nat) : State :=
  { s with cores := s.cores.map fun kc =>
      if bit (preg s p 0x008).toNat (coreCluster kc.1) then (kc.1, { kc.2 with cstore := [] }) else kc }

/-- The step that ends a disable (R354): pins, control stores and SSCR; STATUS becomes 0. -/
def finishDisable (s : State) (p : Nat) : State :=
  let s := (List.range 16).foldl (fun s i => if bit (preg s p 0x038).toNat i then unpin s i else s) s
  let s := clearSscr (clearCstore s p) p
  setPreg s p 0x000 (pctl 0 (wbits (preg s p 0x000) 8 8) 0)

/-- DISABLE_COMPLETE (R354). -/
def execDisableComplete (p : Nat) (s : State) : Host.Outcome State Fault Refusal :=
  .next (if !partOn s p && partStatus s p == 3 && !workLeft s p then finishDisable s p else s)

/-- A function-level reset acts on a partition as a write of EN = 0, and waits while a bank holds a spore (R419). -/
def flrBegin (s : State) (fn p : Nat) : State :=
  let s := disable s p
  if !banksEmpty s p then updPart s p fun q => { q with flr := fn :: q.flr.filter fun x => x != fn } else s

/-- The registers reset at once when every bank is empty (R419). -/
def flrEnd (s : State) (fn p : Nat) : State := if (getPart s p).flr.contains fn then s else flrReset s p fn

/-- A function-level reset of a function that reaches some partitions. -/
def flrParts (s : State) (fn : Nat) (ps : List Nat) : State :=
  ps.foldl (fun s p => flrEnd s fn p) (ps.foldl (fun s p => flrBegin s fn p) s)

/-- FUNCTION_LEVEL_RESET: of a bound virtual function, or of the physical function, which reaches every partition (R419). -/
def execFunctionLevelReset (fn : Nat) (s : State) : Host.Outcome State Fault Refusal :=
  .next (if !s.boot.ready then s
    else if fn = 0 then flrParts s 0 (List.range 8)
    else
      match vfPart s fn with
      | some p => flrParts s fn [p]
      | none => s)

end Sys2Proof.Machine
end

