-- ==== Sys2Proof/Machine/Issue.lean ====
section
/-! DEFINITION. Routing an engine word (R22, R23, R49, R52, R131): its checks, what is captured, its place in its queue; a
word of an idle engine starts and completes in the same step when nothing makes it wait (log 3, 4). -/

namespace Sys2Proof.Machine

/-- The engine a word goes to. -/
def engineOfField (n : Nat) : Engine :=
  match n with
  | 1 => .v
  | 2 => .m
  | 3 => .l
  | 4 => .s
  | 5 => .t
  | _ => .q

/-- Append a word to its queue; a rounding word under RST takes its value of RSTEP. An engine whose queue was empty keeps
nothing of a head word. -/
def enqueue (s : State) (a : AgentId) (e : Engine) (i : Instr) (raw : Nat) : State :=
  let (uid, s) := freshUid s
  updCtx s a fun c =>
    let w : QWord := ⟨i, BitVec.ofNat 32 raw, curPc c, uid, captureOf c i (rawOf i)⟩
    let x := if (getE c.eng e).queue.isEmpty then clearHead (getE c.eng e) else getE c.eng e
    { c with
      eng := setE c.eng e { x with queue := x.queue ++ [w] }
      csr := if takesStep c (rawOf i) then { c.csr with rstep := c.csr.rstep + 1 } else c.csr }

/-- An engine still has the word of a number. -/
def wordThere (g : Engines) (uid : Nat) : Bool :=
  allEngines.any fun e => (getE g e).queue.any (fun w => w.uid == uid) || (getE g e).flying.any fun f => f.w.uid == uid

/-- A sequencer keeps the front end as it stood before the word, to route it again (R309). -/
def keepFront (s : State) (a : AgentId) : State :=
  match a with
  | .bank _ _ => s
  | .seq n =>
    let c := getCtx s a
    let old := (getSeq s n).fronts.filter fun x => wordThere c.eng x.1
    setSeq s n { getSeq s n with fronts := (s.sch.uid, c.fr) :: old }

/-- Entries of an engine queue (R20). -/
def queueDepth : Nat := 64

/-- Route an engine word on the context of `sch.cur`: a full queue holds the splitter (R23). -/
def issue (i : Instr) (s : State) : Host.Outcome State Fault Refusal :=
  let a := s.sch.cur
  let c := getCtx s a
  if c.life.status ≠ .running then .fault .noRunningContext
  else
    match routeCheck (isSeq a) c i with
    | some (cause, det) => .next (raiseAt s a .routing (engOf (rawOf i)) cause 0 det)
    | none =>
      match effInstr c.fr i with
      | none => .next s
      | some j =>
        let e := engineOfField (engOf (rawOf j))
        let x := getE c.eng e
        if queueDepth ≤ x.queue.length then .next (stallAt s a .queueFull)
        else
          let s := retire (enqueue (keepFront s a) a e j (rawOf i)) a i
          .next (if s.sch.eager && x.queue.isEmpty && x.flying.isEmpty then completeWord (engineStep s a e) a e else s)

end Sys2Proof.Machine
end

