-- ==== Sys2Proof/Machine/MatrixIssue.lean ====
section
/-! DEFINITION. The words of the matrix engine (R222 to R249), routed to their queues: what each does there is its body. -/

namespace Sys2Proof.Machine

/-- MLDB (R231). -/
def execMldb (z : Bool) (t : BitVec 4) (a : BitVec 5) (r : BitVec 3) (s : State) : Host.Outcome State Fault Refusal :=
  issue (.mldb z t a r) s

/-- MSWAP (R232). -/
def execMswap (z : Bool) (t : BitVec 4) (s : State) : Host.Outcome State Fault Refusal :=
  issue (.mswap z t) s

/-- MMA (R233). -/
def execMma (z : Bool) (t : BitVec 4) (c : BitVec 2) (x y : BitVec 3) (f : BitVec 2) (m : BitVec 3) (h s_ : Bool) (g : BitVec 3) (s : State) :
    Host.Outcome State Fault Refusal :=
  issue (.mma z t c x y f m h s_ g) s

/-- MSCQ (R230). -/
def execMscq (z : Bool) (t : BitVec 4) (a : BitVec 5) (w : Bool) (r : BitVec 3) (s : State) :
    Host.Outcome State Fault Refusal :=
  issue (.mscq z t a w r) s

/-- MZERO (R239). -/
def execMzero (z : Bool) (t : BitVec 4) (c : BitVec 2) (s : State) : Host.Outcome State Fault Refusal :=
  issue (.mzero z t c) s

/-- MDRAIN (R241). -/
def execMdrain (z : Bool) (t : BitVec 4) (a b : BitVec 5) (k c : BitVec 2) (s : State) :
    Host.Outcome State Fault Refusal :=
  issue (.mdrain z t a b k c) s

/-- MGO (R240). -/
def execMgo (z : Bool) (t : BitVec 4) (a b : BitVec 5) (n : BitVec 3) (s : State) :
    Host.Outcome State Fault Refusal :=
  issue (.mgo z t a b n) s

/-- MATT (R248). -/
def execMatt (z : Bool) (t : BitVec 4) (a b : BitVec 5) (m : Bool) (c : BitVec 2) (s : State) :
    Host.Outcome State Fault Refusal :=
  issue (.matt z t a b m c) s

/-- MLATLD (R246). -/
def execMlatld (z : Bool) (t : BitVec 4) (a b : BitVec 5) (v : Bool) (s : State) : Host.Outcome State Fault Refusal :=
  issue (.mlatld z t a b v) s

/-- MLAT (R247). -/
def execMlat (z : Bool) (t : BitVec 4) (a b : BitVec 5) (k c : BitVec 2) (s : State) :
    Host.Outcome State Fault Refusal :=
  issue (.mlat z t a b k c) s

/-- MBJOIN (R242). -/
def execMbjoin (z : Bool) (t : BitVec 4) (a : BitVec 5) (o : Bool) (s : State) : Host.Outcome State Fault Refusal :=
  issue (.mbjoin z t a o) s

/-- MBLEAVE (R244). -/
def execMbleave (z : Bool) (t : BitVec 4) (o : Bool) (s : State) : Host.Outcome State Fault Refusal :=
  issue (.mbleave z t o) s

/-- MPOP (R239). -/
def execMpop (z : Bool) (t : BitVec 4) (a : BitVec 5) (r : BitVec 3) (s : State) : Host.Outcome State Fault Refusal :=
  issue (.mpop z t a r) s

/-- MQUIET (R245). -/
def execMquiet (z : Bool) (t : BitVec 4) (s : State) : Host.Outcome State Fault Refusal :=
  issue (.mquiet z t) s

end Sys2Proof.Machine
end

