-- ==== Sys2Proof/Machine/MoveIssue.lean ====
section
/-! DEFINITION. The words of the load and store engines (R255 to R278), routed to their queues: what each does there is its body. -/

namespace Sys2Proof.Machine

/-- LCP (R262). -/
def execLcp (z : Bool) (t : BitVec 4) (a b : BitVec 5) (c : BitVec 4) (l m : Bool) (s : State) :
    Host.Outcome State Fault Refusal :=
  issue (.lcp z t a b c l m) s

/-- LGO (R263). -/
def execLgo (z : Bool) (t : BitVec 4) (n b : BitVec 5) (c : BitVec 4) (l m : Bool) (s : State) :
    Host.Outcome State Fault Refusal :=
  issue (.lgo z t n b c l m) s

/-- LGATH (R271). -/
def execLgath (z : Bool) (t : BitVec 4) (a b : BitVec 5) (c : BitVec 4) (m r : Bool) (s : State) :
    Host.Outcome State Fault Refusal :=
  issue (.lgath z t a b c m r) s

/-- LPREF (R269). -/
def execLpref (z : Bool) (t : BitVec 4) (a b : BitVec 5) (s : State) : Host.Outcome State Fault Refusal :=
  issue (.lpref z t a b) s

/-- LQ (R264). -/
def execLq (z : Bool) (t : BitVec 4) (a b : BitVec 5) (l : Bool) (s : State) : Host.Outcome State Fault Refusal :=
  issue (.lq z t a b l) s

/-- LQX (R264). -/
def execLqx (z : Bool) (t : BitVec 4) (a b : BitVec 5) (s : State) : Host.Outcome State Fault Refusal :=
  issue (.lqx z t a b) s

/-- LRING (R268). -/
def execLring (z : Bool) (t : BitVec 4) (a : BitVec 5) (r : BitVec 3) (s : State) :
    Host.Outcome State Fault Refusal :=
  issue (.lring z t a r) s

/-- LMARK (R267). -/
def execLmark (z : Bool) (t m : BitVec 4) (s : State) : Host.Outcome State Fault Refusal :=
  issue (.lmark z t m) s

/-- LSBIND (R278). -/
def execLsbind (z : Bool) (t : BitVec 4) (a b : BitVec 5) (k : BitVec 4) (s : State) :
    Host.Outcome State Fault Refusal :=
  issue (.lsbind z t a b k) s

/-- LHINT (R269). -/
def execLhint (z : Bool) (t : BitVec 4) (a b : BitVec 5) (s : State) : Host.Outcome State Fault Refusal :=
  issue (.lhint z t a b) s

/-- SCP (R262). -/
def execScp (z : Bool) (t : BitVec 4) (a b : BitVec 5) (c : BitVec 4) (l m : Bool) (s : State) :
    Host.Outcome State Fault Refusal :=
  issue (.scp z t a b c l m) s

/-- SGO (R263). -/
def execSgo (z : Bool) (t : BitVec 4) (n b : BitVec 5) (c : BitVec 4) (l m : Bool) (s : State) :
    Host.Outcome State Fault Refusal :=
  issue (.sgo z t n b c l m) s

/-- SSCAT (R275). -/
def execSscat (z : Bool) (t : BitVec 4) (a b : BitVec 5) (c : BitVec 4) (m : Bool) (s : State) :
    Host.Outcome State Fault Refusal :=
  issue (.sscat z t a b c m) s

/-- SQ (R265). -/
def execSq (z : Bool) (t : BitVec 4) (a b : BitVec 5) (c : BitVec 4) (m p : Bool) (s : State) :
    Host.Outcome State Fault Refusal :=
  issue (.sq z t a b c m p) s

/-- SRING (R268). -/
def execSring (z : Bool) (t : BitVec 4) (a : BitVec 5) (r : BitVec 3) (s : State) :
    Host.Outcome State Fault Refusal :=
  issue (.sring z t a r) s

/-- SMARK (R267). -/
def execSmark (z : Bool) (t m : BitVec 4) (s : State) : Host.Outcome State Fault Refusal :=
  issue (.smark z t m) s

/-- SSBIND (R278). -/
def execSsbind (z : Bool) (t : BitVec 4) (a b : BitVec 5) (k : Bool) (s : State) : Host.Outcome State Fault Refusal :=
  issue (.ssbind z t a b k) s

/-- SFLUSH (R269). -/
def execSflush (z : Bool) (t : BitVec 4) (a b : BitVec 5) (c : BitVec 4) (m i : Bool) (s : State) :
    Host.Outcome State Fault Refusal :=
  issue (.sflush z t a b c m i) s

/-- SZERO (R270). -/
def execSzero (z : Bool) (t : BitVec 4) (a b : BitVec 5) (s : State) : Host.Outcome State Fault Refusal :=
  issue (.szero z t a b) s

end Sys2Proof.Machine
end

