-- ==== Sys2Proof/Machine/Peers.lean ====
section
/-! DEFINITION. The peer links: inbound requests (R429, R431), requests that get no answer (R430), lanes (R428). -/

namespace Sys2Proof.Machine

/-- Bytes an inbound request reaches. -/
def peerBytes : PeerAccess → Nat
  | .read n => n
  | .write d => d.length
  | .amo _ _ _ => 8
  | .cas _ _ _ => 8

/-- An address in each 4 KiB page a request reaches. -/
def reachedPages (r : PeerReq) : List Nat :=
  (List.range ((r.pa + peerBytes r.acc + 4095) / 4096 - r.pa / 4096)).map fun k => 4096 * (r.pa / 4096 + k)

/-- A physical address lies in the trap, fault or event ring of a partition (R350, R393, R411), whose places its first identifier
gives. -/
def ringPage (s : State) (p pa : Nat) : Bool :=
  [(0x058, 0x060, 64), (0x208, 0x210, 64), (0x300, 0x308, 32)].any fun r =>
    let base := (preg s p r.1).toNat
    let bytes := r.2.2 * 2 ^ wbits (preg s p r.2.1) 4 0
    (List.range ((base % 4096 + bytes + 4095) / 4096)).any fun k =>
      match (xlate s sysTlb p (asidBase s p) (base / 4096 * 4096 + 4096 * k) .write false).1 with
      | .ok l => l.typ == 0 && l.pa / 4096 == pa / 4096
      | _ => false

/-- The partition whose inbound window accepts a request (R429); scheduler memory and the rings are out of a peer's reach
(R431). -/
def inboundPart (s : State) (r : PeerReq) : Option Nat :=
  (List.range 8).find? fun p =>
    let src := preg s p 0x630
    let (base, len) := peerWindow s p
    partOn s p && wbits src 16 16 == 1 && decide (wbits src 7 0 ≤ r.src) && decide (r.src ≤ wbits src 15 8)
      && decide (base ≤ r.pa) && decide (r.pa < base + len) && decide (r.pa + peerBytes r.acc ≤ base + len)
      && (reachedPages r).all fun pa => !schedPage s p pa && !ringPage s p pa

/-- A read of a peer at the home slice, by way of the L2 (R123); an uncorrectable error gives it no data (R440). -/
def inboundRead (s : State) (p pa n : Nat) (go : State → List Byte → State) : State :=
  let l : Loc := ⟨0, 0, pa, false⟩
  match locBad s l n with
  | some e => answered (l2Range (logMemErr s (some p) 0 0 e) (some p) pa n 0 false false) .abort
  | none => go s (locRead s l n)

/-- A write of a peer at the home slice. -/
def inboundWrite (s : State) (p pa : Nat) (bs : List Byte) : State :=
  l2Range (locWrite s ⟨0, 0, pa, false⟩ bs) (some p) pa bs.length 0 true false

/-- An accepted request is performed at the home slice (R431); a promoting atomic begins a release sequence of an AMOP (R321). -/
def inbound (s : State) (p : Nat) (r : PeerReq) : State :=
  match r.acc with
  | .read n => inboundRead s p r.pa n fun s bs => answered (l2Range s (some p) r.pa n 0 false false) (.data bs)
  | .write d => answered (inboundWrite s p r.pa d) (.data [])
  | .amo op x pr => inboundRead s p r.pa 8 fun s bs =>
      answered (keepPromo s ⟨0, 0, r.pa, false⟩ pr fun s =>
        inboundWrite s p r.pa (leList 8 (amoNew op.toNat (BitVec.ofNat 64 (leVal bs)) x).toNat)) (.data bs)
  | .cas e x pr => inboundRead s p r.pa 8 fun s bs =>
      if leVal bs = e.toNat then
        answered (keepPromo s ⟨0, 0, r.pa, false⟩ pr fun s => inboundWrite s p r.pa (leList 8 x.toNat)) (.data bs)
      else answered (l2Range s (some p) r.pa 8 0 false false) (.data bs)

/-- LABEN_INBOUND_REQUEST: accepted in the window of an enabled partition from a number of its source range, refused otherwise
(R429, R431); it wakes the device (R446). -/
def execLabenInboundRequest (r : PeerReq) (s : State) : Host.Outcome State Fault Refusal :=
  .next (if !s.boot.ready then answered s .refused
    else
      let s := wakeDevice s
      match inboundPart s r with
      | some p => inbound s p r
      | none => answered s .refused)

/-- A started word of an engine waits for a peer. -/
def labenFlight (x : EngineSt) : Bool :=
  match oldestOpen x with
  | some f => f.hold == .laben
  | none => false

/-- A word waits for a peer that does not answer. -/
def atLaben (x : Except Stop EDone × ERun) : Bool :=
  match x.1 with
  | .error (.wait .laben) => true
  | _ => false

/-- The head word of an engine would start, or a sequencer's pass its checks, but for a peer that does not answer. -/
def labenHead (s : State) (a : AgentId) (e : Engine) : Bool :=
  let c := getCtx s a
  let x := getE c.eng e
  match x.queue with
  | w :: _ => oldestOpen x == none && mayStart c a e w && atLaben (runHead s a e w)
      || isSeq a && headDue x && atLaben (headRun s a e w (mayStart c a e w))
  | [] => false

/-- The peer access of an engine's started word fails (R430). -/
def failLaben (performed : Bool) (x : EngineSt) : EngineSt :=
  { x with flying := x.flying.map fun f => if f.hold = .laben then { f with hold := .none, abort := some performed } else f }

/-- An operation is a word that a context's spore has left behind, and waits for a peer. -/
def labenDetached (a : AgentId) (o : Op) : Bool :=
  match o.body with
  | .word b c e => b == a && labenFlight (getE c.eng e)
  | _ => false

/-- The peer access of such a word fails. -/
def failDetached (performed : Bool) (o : Op) : Op :=
  match o.body with
  | .word b c e => { o with body := .word b { c with eng := setE c.eng e (failLaben performed (getE c.eng e)) } e }
  | _ => o

/-- LABEN_TIMEOUT: an access that has waited LBTMO for a peer fails as a forbidden one (R430); `performed` says that the peer
has performed it all the same. The control core's access goes first, then the engines in chain order, then the words that a
spore has left behind (log 86). -/
def execLabenTimeout (a : AgentId) (performed : Bool) (s : State) : Host.Outcome State Fault Refusal :=
  let c := getCtx s a
  .next (if c.fr.stall = .laben then updFr s a fun f => { f with stall := .none, abort := some performed }
    else
      match allEngines.find? fun e => labenFlight (getE c.eng e) with
      | some e => updEng s a e (failLaben performed)
      | none =>
        match allEngines.find? fun e => labenHead s a e with
        | some e => updEng s a e fun x => { x with headAbort := some performed }
        | none =>
          match s.ops.find? fun ko => labenDetached a ko.2 with
          | some ko => { s with ops := kput s.ops ko.1 (failDetached performed ko.2) }
          | none => s)

/-- A flit is replayed on a port: REPLAYS counts it, and saturates (R428). -/
def replayFlit (s : State) (port : Nat) : State :=
  let x := dreg s (0x2100 + 8 * port)
  if port < 16 then setDreg s (0x2100 + 8 * port) (BitVec.ofNat 64 (setBits x.toNat 15 0 (min 65535 (wbits x 15 0 + 1)))) else s

/-- A port trains at one, two or four lanes with the device at its far end, which announces its number (R428). -/
def trainPort (s : State) (port lanes peer : Nat) : State :=
  let x := (dreg s (0x2100 + 8 * port)).toNat
  if port < 16 ∧ (lanes = 1 ∨ lanes = 2 ∨ lanes = 4) then
    setDreg s (0x2100 + 8 * port) (BitVec.ofNat 64 (setBits (setBits x 18 16 lanes) 31 24 (peer % 256)))
  else s

/-- LANE_FAIL: a port retrains at two lanes, at one, or is lost (R428, R430). -/
def execLaneFail (port lanes : Nat) (s : State) : Host.Outcome State Fault Refusal :=
  let off := 0x2100 + 8 * port
  let w := wbits (dreg s off) 18 16
  .next (if (lanes = 0 ∨ lanes = 1 ∨ lanes = 2) ∧ lanes < w ∧ port < 16 then
      setDreg s off (BitVec.ofNat 64 (setBits (dreg s off).toNat 18 16 lanes))
    else s)

end Sys2Proof.Machine
end

