-- ==== Sys2Proof/Machine/Sha.lean ====
section
/-! DEFINITION. SHA-256, which the attestation report of R443 names: the hash of FIPS 180-4 (PRESUMED, log 19). -/

namespace Sys2Proof.Machine

/-- The 64 round constants. -/
def shaK : List Nat :=
  [0x428A2F98, 0x71374491, 0xB5C0FBCF, 0xE9B5DBA5, 0x3956C25B, 0x59F111F1, 0x923F82A4, 0xAB1C5ED5,
   0xD807AA98, 0x12835B01, 0x243185BE, 0x550C7DC3, 0x72BE5D74, 0x80DEB1FE, 0x9BDC06A7, 0xC19BF174] ++
  [0xE49B69C1, 0xEFBE4786, 0x0FC19DC6, 0x240CA1CC, 0x2DE92C6F, 0x4A7484AA, 0x5CB0A9DC, 0x76F988DA,
   0x983E5152, 0xA831C66D, 0xB00327C8, 0xBF597FC7, 0xC6E00BF3, 0xD5A79147, 0x06CA6351, 0x14292967] ++
  [0x27B70A85, 0x2E1B2138, 0x4D2C6DFC, 0x53380D13, 0x650A7354, 0x766A0ABB, 0x81C2C92E, 0x92722C85,
   0xA2BFE8A1, 0xA81A664B, 0xC24B8B70, 0xC76C51A3, 0xD192E819, 0xD6990624, 0xF40E3585, 0x106AA070] ++
  [0x19A4C116, 0x1E376C08, 0x2748774C, 0x34B0BCB5, 0x391C0CB3, 0x4ED8AA4A, 0x5B9CCA4F, 0x682E6FF3,
   0x748F82EE, 0x78A5636F, 0x84C87814, 0x8CC70208, 0x90BEFFFA, 0xA4506CEB, 0xBEF9A3F7, 0xC67178F2]

/-- The initial hash value. -/
def shaInit : List (BitVec 32) :=
  [0x6A09E667, 0xBB67AE85, 0x3C6EF372, 0xA54FF53A, 0x510E527F, 0x9B05688C, 0x1F83D9AB, 0x5BE0CD19].map (BitVec.ofNat 32)

/-- The functions of the message schedule. -/
def shaSmall (x : BitVec 32) (a b n : Nat) : BitVec 32 := x.rotateRight a ^^^ x.rotateRight b ^^^ (x >>> n)

/-- The functions of the rounds. -/
def shaBig (x : BitVec 32) (a b c : Nat) : BitVec 32 := x.rotateRight a ^^^ x.rotateRight b ^^^ x.rotateRight c

/-- Extend the message schedule; the newest word comes first. -/
def shaExtend : Nat → List (BitVec 32) → List (BitVec 32)
  | 0, l => l
  | n + 1, l =>
    let w := shaSmall (listGet 0 l 1) 17 19 10 + listGet 0 l 6 + shaSmall (listGet 0 l 14) 7 18 3 + listGet 0 l 15
    shaExtend n (w :: l)

/-- One round on the eight working words. -/
def shaRound (h : List (BitVec 32)) (kw : Nat × BitVec 32) : List (BitVec 32) :=
  match h with
  | [a, b, c, d, e, f, g, x] =>
    let t1 := x + shaBig e 6 11 25 + ((e &&& f) ^^^ (~~~e &&& g)) + BitVec.ofNat 32 kw.1 + kw.2
    let t2 := shaBig a 2 13 22 + ((a &&& b) ^^^ (a &&& c) ^^^ (b &&& c))
    [t1 + t2, a, b, c, d + t1, e, f, g]
  | l => l

/-- The value of big-endian bytes. -/
def beVal (l : List Byte) : Nat := l.foldl (fun n b => n * 256 + b.toNat) 0

/-- The 16 words of a 64-byte block, the last one first. -/
def shaWords : Nat → List Byte → List (BitVec 32) → List (BitVec 32)
  | 0, _, acc => acc
  | n + 1, bs, acc => shaWords n (bs.drop 4) (BitVec.ofNat 32 (beVal (bs.take 4)) :: acc)

/-- The hash value after one block. -/
def shaBlock (h : List (BitVec 32)) (block : List Byte) : List (BitVec 32) :=
  let w := (shaExtend 48 (shaWords 16 block [])).reverse
  (h.zip ((shaK.zip w).foldl shaRound h)).map fun x => x.1 + x.2

/-- Every block of a padded message. -/
def shaBlocks : Nat → List Byte → List (BitVec 32) → List (BitVec 32)
  | 0, _, h => h
  | n + 1, bs, h => shaBlocks n (bs.drop 64) (shaBlock h (bs.take 64))

/-- The padding of a message of `n` bytes. -/
def shaPad (n : Nat) : List Byte := 0x80 :: List.replicate ((119 - n % 64) % 64) 0 ++ (leList 8 (8 * n)).reverse

/-- SHA-256 of some bytes. -/
def sha256 (m : List Byte) : List Byte :=
  let p := m ++ shaPad m.length
  (shaBlocks (p.length / 64) p shaInit).flatMap fun w => (leList 4 w.toNat).reverse

end Sys2Proof.Machine
end

