-- ==== Sys2Proof/Machine/Lms.lean ====
section
/-! DEFINITION. The Leighton-Micali scheme of RFC 8554 over SHA-256: the verification of a firmware signature (R441), of one or two
levels, with the tree heights and the one-time parameter sets that R441 names, and the two-level identity key with its signatures
(R442). Its byte layout, type codes and hash inputs are those of RFC 8554 (PRESUMED, log 18, 19). -/

namespace Sys2Proof.Machine

/-- A number of `n` bytes, most significant byte first. -/
def beBytes (n x : Nat) : List Byte := (leList n x).reverse

/-- Some bytes of a string. -/
def bytesAt (bs : List Byte) (lo n : Nat) : List Byte := (bs.drop lo).take n

/-- The tree height of a type code: LMS_SHA256_M32_H10, H15 or H20. -/
def lmsHeight (typ : Nat) : Option Nat :=
  if typ = 6 then some 10 else if typ = 7 then some 15 else if typ = 8 then some 20 else none

/-- Width of a digit, number of chains and checksum shift of a type code: LMOTS_SHA256_N32_W4 or W8. -/
def otsParams (typ : Nat) : Option (Nat × Nat × Nat) :=
  if typ = 3 then some (4, 67, 4) else if typ = 4 then some (8, 34, 0) else none

/-- Digit `i` of width 4 or 8 of a string. -/
def otsDigit (bs : List Byte) (w i : Nat) : Nat :=
  let b := (listGet 0 bs (i * w / 8)).toNat
  if w = 8 then b else if i % 2 = 0 then b / 16 else b % 16

/-- The message hash with its checksum. -/
def otsString (w shift : Nat) (q : List Byte) : List Byte :=
  let sum := ((List.range (256 / w)).map fun i => 2 ^ w - 1 - otsDigit q w i).foldl (· + ·) 0
  q ++ beBytes 2 (sum * 2 ^ shift % 2 ^ 16)

/-- The end of a chain from its place `j` on, `n` steps. -/
def otsChain (pre : List Byte) : Nat → Nat → List Byte → List Byte
  | 0, _, x => x
  | n + 1, j, x => otsChain pre n (j + 1) (sha256 (pre ++ beBytes 1 j ++ x))

/-- The key that a one-time signature gives for a message, from the key identifier and the leaf number. -/
def otsKey (id : List Byte) (leaf w p shift : Nat) (sig msg : List Byte) : List Byte :=
  let pre := id ++ beBytes 4 leaf
  let s := otsString w shift (sha256 (pre ++ beBytes 2 0x8181 ++ bytesAt sig 4 32 ++ msg))
  let z := (List.range p).flatMap fun i =>
    let a := otsDigit s w i
    otsChain (pre ++ beBytes 2 i) (2 ^ w - 1 - a) a (bytesAt sig (36 + 32 * i) 32)
  sha256 (pre ++ beBytes 2 0x8080 ++ z)

/-- The root that a path leads to from a node. -/
def lmsRoot (id : List Byte) : Nat → Nat → List Byte → List Byte → List Byte
  | 0, _, _, x => x
  | n + 1, node, path, x =>
    let y := path.take 32
    lmsRoot id n (node / 2) (path.drop 32)
      (sha256 (id ++ beBytes 4 (node / 2) ++ beBytes 2 0x8383 ++ (if node % 2 = 1 then y ++ x else x ++ y)))

/-- Bytes of a signature of one level under a public key; none where the key names a parameter set that R441 does not. -/
def lmsLength (key : List Byte) : Option Nat :=
  match lmsHeight (beVal (bytesAt key 0 4)), otsParams (beVal (bytesAt key 4 4)) with
  | some h, some (_, p, _) => some (12 + 32 * (p + 1) + 32 * h)
  | _, _ => none

/-- A signature of one level verifies under a public key of 56 bytes. -/
def lmsVerify (key msg sig : List Byte) : Bool :=
  match lmsHeight (beVal (bytesAt key 0 4)), otsParams (beVal (bytesAt key 4 4)) with
  | some h, some (w, p, shift) =>
    let leaf := beVal (bytesAt sig 0 4)
    let ots := bytesAt sig 4 (4 + 32 * (p + 1))
    let id := bytesAt key 8 16
    let at_ := 8 + 32 * (p + 1)
    let k := sha256 (id ++ beBytes 4 (2 ^ h + leaf) ++ beBytes 2 0x8282 ++ otsKey id leaf w p shift ots msg)
    key.length == 56 && sig.length == at_ + 4 + 32 * h && decide (leaf < 2 ^ h) && bytesAt ots 0 4 == bytesAt key 4 4
      && bytesAt sig at_ 4 == bytesAt key 0 4 && lmsRoot id h (2 ^ h + leaf) (sig.drop (at_ + 4)) k == bytesAt key 24 32
  | _, _ => false

/-- A signature verifies under a verification key of one or two levels: the key is the level count with the top public key, the
signature holds the signed public keys of the levels below it. -/
def hssVerify (key msg sig : List Byte) : Bool :=
  let top := key.drop 4
  let spk := beVal (bytesAt sig 0 4)
  let body := sig.drop 4
  key.length == 60 && beVal (key.take 4) == spk + 1 &&
    (if spk = 0 then lmsVerify top msg body
     else if spk = 1 then
       match lmsLength top with
       | some n => lmsVerify top (bytesAt body n 56) (body.take n) && lmsVerify (bytesAt body n 56) msg (body.drop (n + 56))
       | none => false
     else false)

/-! ### The identity key -/

/-- The bytes of a free source. -/
def bytesOf (n : Nat) (f : Nat → Byte) : List Byte := (List.range n).map f

/-- Type codes of LMS_SHA256_M32_H10 and of LMOTS_SHA256_N32_W4 (R442). -/
def lmsType : List Byte := beBytes 4 6
def lmotsType : List Byte := beBytes 4 3

/-- The identifier of a key tree. -/
def treeId (tree : Nat) : List Byte := bytesOf 16 (Config.lmsIdByte tree)

/-- A chain of a leaf's one-time key, `n` steps from its private start. -/
def leafChain (tree leaf i n : Nat) : List Byte :=
  otsChain (treeId tree ++ beBytes 4 leaf ++ beBytes 2 i) n 0 (bytesOf 32 fun k => Config.lmsSecretByte tree leaf (32 * i + k))

/-- The one-time public key of a leaf: the ends of its 67 chains, hashed. -/
def leafKey (tree leaf : Nat) : List Byte :=
  sha256 (treeId tree ++ beBytes 4 leaf ++ beBytes 2 0x8080 ++ (List.range 67).flatMap fun i => leafChain tree leaf i 15)

/-- Node `r` of a key tree of height 10, `n` levels above the leaves; node 1 is the root. -/
def treeNode (tree : Nat) : Nat → Nat → List Byte
  | 0, r => sha256 (treeId tree ++ beBytes 4 r ++ beBytes 2 0x8282 ++ leafKey tree (r - 1024))
  | n + 1, r =>
    sha256 (treeId tree ++ beBytes 4 r ++ beBytes 2 0x8383 ++ treeNode tree n (2 * r) ++ treeNode tree n (2 * r + 1))

/-- The public key of a key tree, 56 bytes. -/
def lmsPublic (tree : Nat) : List Byte := lmsType ++ lmotsType ++ treeId tree ++ treeNode tree 10 1

/-- The one-time signature of a leaf over a message, 2,180 bytes. -/
def leafSignature (tree leaf : Nat) (msg : List Byte) : List Byte :=
  let c := bytesOf 32 (Config.lmsRandomByte tree leaf msg)
  let s := otsString 4 4 (sha256 (treeId tree ++ beBytes 4 leaf ++ beBytes 2 0x8181 ++ c ++ msg))
  lmotsType ++ c ++ (List.range 67).flatMap fun i => leafChain tree leaf i (otsDigit s 4 i)

/-- The signature of a level, 2,508 bytes: leaf number, one-time signature, type code, path from the leaf to the root. -/
def lmsSignature (tree leaf : Nat) (msg : List Byte) : List Byte :=
  beBytes 4 leaf ++ leafSignature tree leaf msg ++ lmsType
    ++ (List.range 10).flatMap fun n => treeNode tree n (((1024 + leaf) / 2 ^ n) ^^^ 1)

/-- Top and bottom leaf of a leaf index (R442). -/
def topLeaf (i : Nat) : Nat := i / 1024
def bottomLeaf (i : Nat) : Nat := i % 1024

/-- The signature of 5,076 bytes with a leaf over a message (R442): one signed public key, which is that of the bottom tree below the
top leaf under the signature of that leaf, then the bottom leaf's signature of the message. -/
def signature (leaf : Nat) (msg : List Byte) : List Byte :=
  let bottom := 1 + topLeaf leaf
  beBytes 4 1 ++ lmsSignature 0 (topLeaf leaf) (lmsPublic bottom) ++ lmsPublic bottom
    ++ lmsSignature bottom (bottomLeaf leaf) msg

/-- The identity public key of 60 bytes (R442): two levels, and the key of the top tree. -/
def publicKey : List Byte := beBytes 4 2 ++ lmsPublic 0

end Sys2Proof.Machine
end

