-- ==== Sys2Proof/Machine/Power.lean ====
section
/-! DEFINITION. Bring-up and the loss of power (R434 to R437, R441, R442), attestation (R442, R443), power states (R444 to
R447), and the patrol scrub (R438). -/

namespace Sys2Proof.Machine

/-! ### Bring-up -/

/-- Change the bring-up state. -/
def updBoot (s : State) (f : Boot → Boot) : State := { s with boot := f s.boot }

/-- POWER_GOOD: bring-up starts at phase 1 (R434). -/
def execPowerGood (s : State) : Host.Outcome State Fault Refusal :=
  .next (if s.boot.powered then s
    else updBoot s fun b => { b with powered := true, phase := 1, fail := 0, ready := false })

/-- The digest of an image's key matches a slot of the fuses that is not revoked (R441). -/
def keyOk (b : Boot) (i : Image) : Bool :=
  b.keySlots.zipIdx.any fun x => x.1 == sha256 i.key && !bit b.revoked.toNat x.2

/-- The signature of an image verifies under its key, over all that the image carries beside it (R441). -/
def sigOk (i : Image) : Bool := hssVerify i.key (Config.signedBytes i.key i.version i.digests i.comps) i.sig

/-- Each of the three components of an image matches its digest (R441). -/
def digestsOk (i : Image) : Bool := i.comps.length == 3 && i.comps.map sha256 == i.digests

/-- An image passes every check of R441 but that of its version. -/
def imageSound (b : Boot) (i : Image) : Bool := keyOk b i && sigOk i && digestsOk i

/-- An image is accepted (R441). -/
def imageAccepted (b : Boot) (i : Image) : Bool := imageSound b i && decide (b.fusedVer ≤ i.version)

/-- The images of the two slots, the higher version first (R441). -/
def imageOrder (b : Boot) : List Image :=
  match b.image0, b.image1 with
  | some x, some y => if x.version < y.version then [y, x] else [x, y]
  | some x, none => [x]
  | none, some y => [y]
  | none, none => []

/-- Firmware verification (R441): the first accepted image runs; else FAIL is ROLLBACK when only versions spoke against the
images, NOIMAGE otherwise. -/
def verifyFirmware (b : Boot) : Boot :=
  let l := imageOrder b
  match l.find? (imageAccepted b) with
  | some i => { b with running := some i, phase := 4 }
  | none => { b with running := none, fail := if !l.isEmpty && l.all (imageSound b) then 3 else 2 }

/-- A retrieval unit is present (R2). -/
def unitPresent (s : State) (u : Nat) : Bool := decide (u < 8) && !(s.boot.form == .p08 && decide (4 ≤ u))

/-- Units of a mask that are present enter state FAILED (R434). -/
def failUnits (s : State) (bad : Nat) : State :=
  (List.range 8).foldl (fun s u => if bit bad u && unitPresent s u then setUnit s u { getUnit s u with failed := true }
    else s) s

/-- Phase 5: every DRAM byte is 0 with fresh check bits, the L2 is empty, and the registers that reset "at bring-up" are reset:
retention registers, SSCR, control-store flags, FSTAT.RECORDS (R129, R149, R340, R391, R434). -/
def zeroMemory (s : State) : State :=
  let s := { s with
    mem := { s.mem with dram := [], promo := s.mem.promo.filter (fun x => x.1 != 0)
                        errs := s.mem.errs.filter fun e => e.space != .dram && e.space != .l2 && e.space != .l2tag }
    cache := { s.cache with l2 := [], pins := Vector.replicate 16 Pin.reset }
    ctxs := s.ctxs.map fun kc => (kc.1, { kc.2 with trap := { kc.2.trap with sscr := Vector.replicate 4 0 } })
    cores := s.cores.map fun kc => (kc.1, { kc.2 with cstore := [] }) }
  (List.range 8).foldl (fun s p => setPreg s p 0x260 (BitVec.ofNat 64 (bits (preg s p 0x260).toNat 31 0))) s

/-- An index after the mount (R436): BUILT with its last published version, no merge; one that was never sealed has no
published version and its slot is free (DESIGN CHOICE, log 21). -/
def mountIndex (x : Index) : Index :=
  match x.st with
  | .built | .mounted => { x with st := .built, versions := [curVersion x], merge := none, regionFull := false }
  | .building | .free => freeIndex x.gen

/-- Phase 6: flash mount and index recovery (R436); marks made before the mount no longer make a unit DEGRADED (R302). -/
def mountStore (s : State) (bad : Nat) : State :=
  let s := failUnits s bad
  let s := (List.range 8).foldl (fun s u =>
    let x := getUnit s u
    setUnit s u { x with mounting := false, marks := x.marks.map fun m => (m.1, m.2.1, false) }) s
  { s with store := { s.store with indexes := s.store.indexes.map fun kx => (kx.1, mountIndex kx.2) } }

/-- The identity key's next leaf at bring-up (R442): from N when it lies in the highest reserved block, otherwise the first leaf
of a newly burnt one, while bits are left. -/
def resumeLeaf (b : Boot) : Boot :=
  if b.burnt ≠ 0 ∧ b.nextLeaf / 1024 = b.burnt - 1 then b
  else if b.burnt < 1024 then { b with burnt := b.burnt + 1, nextLeaf := 1024 * b.burnt }
  else b

/-- READY (R434): the fused version, a thermometer code of 64 bits, advances to the running image's (R441); TIME of event records
counts from here (R410). -/
def becomeReady (now : Nat) (b : Boot) : Boot :=
  let v := match b.running with
    | some i => min 64 (max b.fusedVer i.version)
    | none => b.fusedVer
  resumeLeaf { b with ready := true, fusedVer := v, upAt := now }

/-- FAIL codes a phase may end with, 0 for none (R434). -/
def phaseFails : Nat → List Nat
  | 2 => [0, 1]
  | 4 => [0, 4, 5]
  | 5 => [0, 5]
  | _ => [0]

/-- The end of a phase that has not failed fatally (R434). -/
def nextPhase (s : State) (bad : Nat) : State :=
  let go := fun (s : State) (n : Nat) => updBoot s fun b => { b with phase := n }
  match s.boot.phase with
  | 1 => go s 2
  | 2 => go s 3
  | 3 => updBoot s verifyFirmware
  | 4 => go (failUnits s bad) 5
  | 5 =>
    let s := zeroMemory s
    go ((List.range 8).foldl (fun s u =>
      if unitPresent s u then setUnit s u { getUnit s u with mounting := true } else s) s) 6
  | 6 => go (mountStore s bad) 7
  | _ => updBoot s (becomeReady s.now)

/-- BRINGUP_PHASE_COMPLETE (R434): the phase in progress ends with a FAIL code of its own or without one, and with the units
whose channel or mount failed. -/
def execBringupPhaseComplete (fail badUnits : BitVec 8) (s : State) : Host.Outcome State Fault Refusal :=
  .next (if !s.boot.powered || s.boot.ready || s.boot.fail != 0 || !(phaseFails s.boot.phase).contains fail.toNat then s
    else if fail = 0 then nextPhase s badUnits.toNat
    else updBoot s fun b => { b with fail := fail.toNat })

/-- The slot a recovery image takes: the empty or the older one (R437). -/
def storeImage (b : Boot) (i : Image) : Boot :=
  match b.image0, b.image1 with
  | none, _ => { b with image0 := some i }
  | _, none => { b with image1 := some i }
  | some x, some y => if x.version ≤ y.version then { b with image0 := some i } else { b with image1 := some i }

/-- The image at an address of host memory (R437, R441; its layout is free, log 18). -/
def imageAt (s : State) (addr : Nat) : Image :=
  let bs := fun n => mget s.mem.host (addr + n)
  ⟨Config.imageKey bs, Config.imageVersion bs, (List.range 3).map (Config.imageDigest bs), (List.range 3).map (Config.imageComponent bs),
   Config.imageSignature bs⟩

/-- RCVIMG (R437), which the physical function alone reaches (R417): taken only while FAIL is NOIMAGE or ROLLBACK; the image is read
from host memory at ADDR, one that passes verification is stored, and bring-up restarts at phase 3. -/
def execRcvimg (val : Word) (fn : Nat) (s : State) : Host.Outcome State Fault Refusal :=
  let i := imageAt s (wbits val 63 12 * 2 ^ 12)
  .next (if fn = 0 ∧ (s.boot.fail = 2 ∨ s.boot.fail = 3) ∧ imageAccepted s.boot i = true then
      updBoot s fun b => { storeImage b i with phase := 3, fail := 0 }
    else s)

/-- What the fuses, flash and one-time-programmable store keep (R432, R436, R441, R442). -/
def keptBoot (b : Boot) : Boot :=
  { Boot.reset with form := b.form, stepping := b.stepping, fusedVer := b.fusedVer, keySlots := b.keySlots
                    revoked := b.revoked, image0 := b.image0, image1 := b.image1, burnt := b.burnt
                    nextLeaf := b.nextLeaf }

/-- What flash, fuses and the world outside hold is left; everything else is as before power good. Merges and page reads under way
are gone, log batches and directory entries are whole (R436, R442); no merge waits for room any more (R405). -/
def powerGone (s : State) : State :=
  { State.reset with
    sch := { s.sch with cur := State.reset.sch.cur }
    now := s.now
    mem := { State.reset.mem with host := s.mem.host, peer := s.mem.peer }
    store := { units := s.store.units.map fun u => { u with failed := false, mounting := false, retries := 0 }
               indexes := s.store.indexes.map fun kx => (kx.1, { kx.2 with merge := none, regionFull := false })
               objects := s.store.objects, reads := [] }
    boot := keptBoot s.boot
    peers := s.peers }

/-- POWER_LOSS (R436, R442). -/
def execPowerLoss (s : State) : Host.Outcome State Fault Refusal := .next (powerGone s)

/-- The die-to-die link cannot retrain, which is fatal (R438): as a bring-up that ends with D2D (R434), all that the loss of power
takes is gone and FAIL is 0x04 (DESIGN CHOICE, log 17). -/
def loseD2d (s : State) : State :=
  { powerGone s with boot := { keptBoot s.boot with powered := true, phase := 4, fail := 4 } }

/-! ### Attestation -/

/-- Set STATUS of ATSTAT (R443). -/
def setAtStatus (s : State) (st : Nat) : State :=
  setDreg s 0x48 (BitVec.ofNat 64 (setBits (dreg s 0x48).toNat 43 40 st))

/-- The bytes of VFBIND and of offsets 0x000 to 0x060 of the eight partition blocks (R443). -/
def configBytes (s : State) : List Byte :=
  leList 4 (dreg s 0x1000).toNat
    ++ (List.range 8).flatMap fun p => (List.range 13).flatMap fun i => leList 8 (preg s p (8 * i)).toNat

/-- Every leaf of the identity key is spent (R442). -/
def exhausted (b : Boot) : Bool := decide (2 ^ 20 ≤ b.nextLeaf)

/-- ATCMD (R443): a request starts, and takes its snapshot of the configuration; while another runs it gives BUSY, once
every leaf is spent EXHAUSTED, and ACCESS where the buffer runs past the bus addresses (DESIGN CHOICE, log 87). -/
def execAtcmd (val : Word) (s : State) : Host.Outcome State Fault Refusal :=
  .next (if !s.boot.ready then s
    else if s.boot.atBuf.isSome then setAtStatus s 1
    else if exhausted s.boot then setAtStatus s 2
    else if 2 ^ 64 < wbits val 63 12 * 2 ^ 12 + 8192 then setAtStatus s 3
    else updBoot s fun b => { b with atBuf := some (wbits val 63 12 * 2 ^ 12), atSnap := configBytes s })

/-- Use a leaf (R442): the bit of its block is burnt first, and N + 1 written. -/
def useLeaf (b : Boot) : Boot :=
  { b with burnt := max b.burnt (b.nextLeaf / 1024 + 1), nextLeaf := b.nextLeaf + 1 }

/-- The 268 bytes that a report's signature covers (R443). -/
def reportBody (b : Boot) (leaf : Nat) (nonce snap : List Byte) : List Byte :=
  let digests := match b.running with
    | some i => (i.digests.flatten ++ List.replicate 96 0).take 96
    | none => List.replicate 96 0
  [0x53, 0x54, 0x48, 0x41, 0x54, 0x54, 0x45, 0x53] ++ leList 4 leaf ++ leList 4 (devid b) ++ nonce ++ digests
    ++ sha256 (Config.fuseBytes b.form.code b.stepping b.fusedVer b.keySlots b.revoked) ++ sha256 snap ++ publicKey

/-- The report of R443 for a leaf, a nonce and a snapshot, from buffer offset 64 on. -/
def report (b : Boot) (leaf : Nat) (nonce snap : List Byte) : List Byte :=
  let m := reportBody b leaf nonce snap
  m ++ signature leaf m

/-- ATTEST_DONE (R443): the report is written to the buffer, and DONE advances. -/
def execAttestDone (s : State) : Host.Outcome State Fault Refusal :=
  .next (match s.boot.atBuf with
    | none => s
    | some buf =>
      let leaf := s.boot.nextLeaf
      let rep := report s.boot leaf (mread s.mem.host buf 32) s.boot.atSnap
      let done := (bits (dreg s 0x48).toNat 31 0 + 1) % 2 ^ 32
      let s := { s with mem := { s.mem with host := mwrite s.mem.host (buf + 64) rep } }
      setDreg (updBoot s fun b => { useLeaf b with atBuf := none, atSnap := [] }) 0x48
        (BitVec.ofNat 64 (leaf % 2 ^ 20 * 2 ^ 44 + done)))

/-! ### Power states -/

/-- TOLUS of a partition (R444). -/
def tolus (s : State) (p : Nat) : Nat := wbits (preg s p 0x640) 15 0

/-- The deepest cluster state a tolerance allows (R445). -/
def clusterDeepest (tol : Nat) : Nat := if 40 ≤ tol then 2 else if 2 ≤ tol then 1 else 0

/-- The least TOLUS over the enabled partitions (R445). -/
def leastTol (s : State) : Option Nat :=
  ((List.range 8).filter (partOn s)).foldl (fun m p => match m with
    | none => some (tolus s p)
    | some t => some (min t (tolus s p))) none

/-- No search, fetch, merge, walk or provisioning command is running (R445). -/
def storeIdle (s : State) : Bool :=
  !(s.ops.any fun ko => match ko.2.body with
    | .search _ | .fetch _ | .walk _ _ _ => true
    | _ => false)
    && !(s.store.indexes.any fun kx => kx.2.merge.isSome) && (List.range 8).all fun p => (getPart s p).cmds.isEmpty

/-- The deepest device state a least tolerance allows (R445). -/
def deviceDeepest (s : State) : Nat :=
  match leastTol s with
  | none => if storeIdle s then 4 else 3
  | some t => if 20000 ≤ t ∧ storeIdle s = true then 4 else if 3000 ≤ t then 3 else 0

/-- A READY spore of the partition of a cluster fits a core of it (R445, R446). -/
def clusterWanted (s : State) (cl : Nat) : Bool :=
  match clusterPart s cl with
  | none => false
  | some p => (readyItems (getPart s p)).any fun x =>
      (List.range 16).any fun i => fitsCore s p x.1 x.2 false (16 * cl + i)

/-- A cluster is idle (R445). -/
def clusterIdle (s : State) (cl : Nat) : Bool :=
  !(s.ctxs.any fun kc => decide (kc.1 < 768) && coreCluster (kc.1 / 2) == cl && kc.2.life.status != .empty)
    && !clusterWanted s cl

/-- Every ring is consumed (R445). -/
def ringsConsumed (s : State) : Bool :=
  (List.range 8).all fun p => !partOn s p || (List.range 4).all fun n =>
    !ringOn s p n || (getHRing s p n).d.toNat == sqLast s p n

/-- The unit has an exit in progress. -/
def exiting (s : State) (u : PowerUnit) : Bool := s.power.exits.any fun e => e.1 == u

/-- Start the exit of a unit to a state (R446); one in progress to a shallower state goes on. -/
def startExit (s : State) (u : PowerUnit) (st : Nat) : State :=
  let tgt := (s.power.exits.filter fun e => e.1 == u).foldl (fun m e => min m e.2) st
  { s with power := { s.power with exits := s.power.exits.filter (fun e => e.1 != u) ++ [(u, tgt)] } }

/-- The state of a unit. -/
def unitPower (s : State) : PowerUnit → Nat
  | .cluster n => clusterState s n
  | .device => s.power.device

/-- Put a unit into a state; compute dies that go off lose the L2's copies, which have been written back (R447). -/
def enterPower (s : State) (u : PowerUnit) (st : Nat) : State :=
  match u with
  | .cluster n => { s with power := { s.power with clusters := kput s.power.clusters n st } }
  | .device =>
    moveMarks s { s with power := { s.power with device := st }
                         cache := { s.cache with l2 := if 3 ≤ st then [] else s.cache.l2 } }

/-- The state a unit would enter now (R445): none when it may enter none. -/
def entryTarget (s : State) (u : PowerUnit) : Nat :=
  match u with
  | .cluster n =>
    match clusterPart s n with
    | some p => if clusterIdle s n then clusterDeepest (tolus s p) else 0
    | none => 0
  | .device => if (List.range 24).all (clusterIdle s) && ringsConsumed s then deviceDeepest s else 0

/-- POWER_STATE_ENTRY (R445): an idle unit enters the deepest state its tolerance allows, when it is deeper than its own; how
long it has been idle is left to when the step comes (log 40). -/
def execPowerStateEntry (u : PowerUnit) (s : State) : Host.Outcome State Fault Refusal :=
  .next (if s.boot.ready && !exiting s u && decide (unitPower s u < entryTarget s u) then enterPower s u (entryTarget s u)
    else s)

/-- A READY spore asks for the unit (R446). -/
def unitWanted (s : State) : PowerUnit → Bool
  | .cluster n => clusterWanted s n
  | .device => (List.range 24).any (clusterWanted s)

/-- POWER_STATE_EXIT (R446): the trigger that no other step brings, a READY spore that fits. A doorbell, a BAR 2 access, RSCMD,
FANS and a peer's request start the exit of the device in their own steps. An exit to a deeper state than A0 that is in progress becomes
one to A0. -/
def execPowerStateExit (u : PowerUnit) (s : State) : Host.Outcome State Fault Refusal :=
  .next (if unitPower s u ≠ 0 ∧ s.power.exits.contains (u, 0) = false ∧ unitWanted s u = true then startExit s u 0 else s)

/-- POWER_EXIT_COMPLETE (R446): the unit reaches the state its exit leads to. -/
def execPowerExitComplete (u : PowerUnit) (s : State) : Host.Outcome State Fault Refusal :=
  .next (match s.power.exits.find? fun e => e.1 == u with
    | none => s
    | some e =>
      enterPower { s with power := { s.power with exits := s.power.exits.filter fun x => x.1 != u } } u e.2)

/-- Exits of the clusters of a partition whose states its tolerance no longer allows (R446). -/
def tolClusters (s : State) (p : Nat) : State :=
  ((List.range 24).filter fun c => clusterPart s c == some p).foldl (fun s c =>
    if clusterDeepest (tolus s p) < clusterState s c then startExit s (.cluster c) (clusterDeepest (tolus s p)) else s) s

/-- The least tolerance no longer allows the device's state (R446): the deepest state it does allow. -/
def tolDevice (s : State) : State :=
  match leastTol s with
  | none => s
  | some t =>
    let st := if 20000 ≤ t then 4 else if 3000 ≤ t then 3 else 0
    if st < s.power.device then startExit s .device st else s

/-- LATTOL: TOLUS and HOLDUS are set; a tolerance below the exit latency of a current state starts an exit (R444, R446). -/
def execLattol (p : Nat) (val : Word) (s : State) : Host.Outcome State Fault Refusal :=
  .next (if !s.boot.ready then s
    else
      let s := setPreg s p 0x640 (BitVec.ofNat 64 (wbits val 31 0))
      if partOn s p then tolDevice (tolClusters s p) else s)

/-! ### The patrol scrub -/

/-- PATROL_SCRUB of the 128-byte line of a number (R438 to R440): corrected granules are rewritten and counted in class 7; an
uncorrectable one is logged (DEDUCED, log 41). -/
def execPatrolScrub (line : Nat) (s : State) : Host.Outcome State Fault Refusal :=
  let hit := fun (e : ErrMark) => markHit .dram 0 (128 * line) 128 e
  let n := (s.mem.errs.filter fun e => hit e && e.correctable).length
  let bad := s.mem.errs.filter fun e => hit e && !e.correctable
  let s1 := { s with mem := { s.mem with errs := s.mem.errs.filter fun e => !(hit e && e.correctable) } }
  let s2 := countClass s1 7 n
  .next (bad.foldl (fun s e => logMemErr s (dramOwner s (e.addr * 32)) 0 0 e) s2)

end Sys2Proof.Machine
end

