-- ==== Sys2Proof/Machine/TransQueryIssue.lean ====
section
/-! DEFINITION. The words of the transform and query engines (R279 to R304), routed to their queues: what each does there is its body. -/

namespace Sys2Proof.Machine

/-- TCVT (R281). -/
def execTcvt (z : Bool) (t : BitVec 4) (a : BitVec 5) (c : BitVec 4) (m : Bool) (s : State) :
    Host.Outcome State Fault Refusal :=
  issue (.tcvt z t a c m) s

/-- TCOPY (R280). -/
def execTcopy (z : Bool) (t : BitVec 4) (a b : BitVec 5) (c : BitVec 4) (m : Bool) (s : State) :
    Host.Outcome State Fault Refusal :=
  issue (.tcopy z t a b c m) s

/-- TROPE (R282). -/
def execTrope (z : Bool) (t : BitVec 4) (a b : BitVec 5) (c : BitVec 4) (m : Bool) (s : State) :
    Host.Outcome State Fault Refusal :=
  issue (.trope z t a b c m) s

/-- TSPLICE (R283). -/
def execTsplice (z : Bool) (t : BitVec 4) (a b : BitVec 5) (c : BitVec 4) (m : Bool) (s : State) :
    Host.Outcome State Fault Refusal :=
  issue (.tsplice z t a b c m) s

/-- TFILL (R280). -/
def execTfill (z : Bool) (t : BitVec 4) (a b : BitVec 5) (c : BitVec 4) (m : Bool) (s : State) :
    Host.Outcome State Fault Refusal :=
  issue (.tfill z t a b c m) s

/-- TKVAPP (R284). -/
def execTkvapp (z : Bool) (t : BitVec 4) (a b : BitVec 5) (c : BitVec 4) (m : Bool) (s : State) :
    Host.Outcome State Fault Refusal :=
  issue (.tkvapp z t a b c m) s

/-- TCHK (R280). -/
def execTchk (z : Bool) (t : BitVec 4) (a : BitVec 5) (c : BitVec 4) (m : Bool) (s : State) :
    Host.Outcome State Fault Refusal :=
  issue (.tchk z t a c m) s

/-- QSEARCH (R290). -/
def execQsearch (z : Bool) (t : BitVec 4) (a b : BitVec 5) (c : BitVec 4) (m : Bool) (s : State) :
    Host.Outcome State Fault Refusal :=
  issue (.qsearch z t a b c m) s

/-- QFETCH (R296). -/
def execQfetch (z : Bool) (t : BitVec 4) (a b : BitVec 5) (c : BitVec 4) (m : Bool) (s : State) :
    Host.Outcome State Fault Refusal :=
  issue (.qfetch z t a b c m) s

/-- QINSERT (R299). -/
def execQinsert (z : Bool) (t : BitVec 4) (a b : BitVec 5) (c : BitVec 4) (m : Bool) (s : State) :
    Host.Outcome State Fault Refusal :=
  issue (.qinsert z t a b c m) s

/-- QDELETE (R299). -/
def execQdelete (z : Bool) (t : BitVec 4) (a b : BitVec 5) (c : BitVec 4) (m : Bool) (s : State) :
    Host.Outcome State Fault Refusal :=
  issue (.qdelete z t a b c m) s

/-- QWALK (R303). -/
def execQwalk (z : Bool) (t : BitVec 4) (a b : BitVec 5) (c : BitVec 4) (m : Bool) (s : State) :
    Host.Outcome State Fault Refusal :=
  issue (.qwalk z t a b c m) s

/-- QCANCEL (R301). -/
def execQcancel (z : Bool) (t : BitVec 4) (a : BitVec 5) (s : State) : Host.Outcome State Fault Refusal :=
  issue (.qcancel z t a) s

/-- QSTAT (R302). -/
def execQstat (z : Bool) (t : BitVec 4) (a : BitVec 5) (s : State) : Host.Outcome State Fault Refusal :=
  issue (.qstat z t a) s

/-- QSNAP (R300). -/
def execQsnap (z : Bool) (t : BitVec 4) (a b : BitVec 5) (c : BitVec 4) (m : Bool) (s : State) :
    Host.Outcome State Fault Refusal :=
  issue (.qsnap z t a b c m) s

end Sys2Proof.Machine
end

