-- ==== Sys2Proof/Machine/VectorIssue.lean ====
section
/-! DEFINITION. The words of the vector engine: packed arithmetic, conversions, masks, reductions, special functions, streams (R191 to R219), routed to their queues: what each does there is its body. -/

namespace Sys2Proof.Machine

/-- VADD (R196). -/
def execVadd (z : Bool) (t : BitVec 4) (f : BitVec 3) (d a b : BitVec 5) (s : State) :
    Host.Outcome State Fault Refusal :=
  issue (.vadd z t f d a b) s

/-- VSUB (R196). -/
def execVsub (z : Bool) (t : BitVec 4) (f : BitVec 3) (d a b : BitVec 5) (s : State) :
    Host.Outcome State Fault Refusal :=
  issue (.vsub z t f d a b) s

/-- VADDSAT (R196). -/
def execVaddsat (z : Bool) (t : BitVec 4) (f : BitVec 3) (d a b : BitVec 5) (s : State) :
    Host.Outcome State Fault Refusal :=
  issue (.vaddsat z t f d a b) s

/-- VSUBSAT (R196). -/
def execVsubsat (z : Bool) (t : BitVec 4) (f : BitVec 3) (d a b : BitVec 5) (s : State) :
    Host.Outcome State Fault Refusal :=
  issue (.vsubsat z t f d a b) s

/-- VAVG (R196). -/
def execVavg (z : Bool) (t : BitVec 4) (f : BitVec 3) (d a b : BitVec 5) (s : State) :
    Host.Outcome State Fault Refusal :=
  issue (.vavg z t f d a b) s

/-- VMUL (R196). -/
def execVmul (z : Bool) (t : BitVec 4) (f : BitVec 3) (d a b : BitVec 5) (s : State) :
    Host.Outcome State Fault Refusal :=
  issue (.vmul z t f d a b) s

/-- VMULHI (R196). -/
def execVmulhi (z : Bool) (t : BitVec 4) (f : BitVec 3) (d a b : BitVec 5) (s : State) :
    Host.Outcome State Fault Refusal :=
  issue (.vmulhi z t f d a b) s

/-- VMAC (R196). -/
def execVmac (z : Bool) (t : BitVec 4) (f : BitVec 3) (d a b : BitVec 5) (s : State) :
    Host.Outcome State Fault Refusal :=
  issue (.vmac z t f d a b) s

/-- VMIN (R196). -/
def execVmin (z : Bool) (t : BitVec 4) (f : BitVec 3) (d a b : BitVec 5) (s : State) :
    Host.Outcome State Fault Refusal :=
  issue (.vmin z t f d a b) s

/-- VMAX (R196). -/
def execVmax (z : Bool) (t : BitVec 4) (f : BitVec 3) (d a b : BitVec 5) (s : State) :
    Host.Outcome State Fault Refusal :=
  issue (.vmax z t f d a b) s

/-- VABS (R196). -/
def execVabs (z : Bool) (t : BitVec 4) (f : BitVec 3) (d a : BitVec 5) (s : State) :
    Host.Outcome State Fault Refusal :=
  issue (.vabs z t f d a) s

/-- VAND (R196). -/
def execVand (z : Bool) (t : BitVec 4) (f : BitVec 3) (d a b : BitVec 5) (s : State) :
    Host.Outcome State Fault Refusal :=
  issue (.vand z t f d a b) s

/-- VOR (R196). -/
def execVor (z : Bool) (t : BitVec 4) (f : BitVec 3) (d a b : BitVec 5) (s : State) :
    Host.Outcome State Fault Refusal :=
  issue (.vor z t f d a b) s

/-- VXOR (R196). -/
def execVxor (z : Bool) (t : BitVec 4) (f : BitVec 3) (d a b : BitVec 5) (s : State) :
    Host.Outcome State Fault Refusal :=
  issue (.vxor z t f d a b) s

/-- VSHL (R196). -/
def execVshl (z : Bool) (t : BitVec 4) (f : BitVec 3) (d a b : BitVec 5) (s : State) :
    Host.Outcome State Fault Refusal :=
  issue (.vshl z t f d a b) s

/-- VSHR (R196). -/
def execVshr (z : Bool) (t : BitVec 4) (f : BitVec 3) (d a b : BitVec 5) (s : State) :
    Host.Outcome State Fault Refusal :=
  issue (.vshr z t f d a b) s

/-- VFADD (R197). -/
def execVfadd (z : Bool) (t : BitVec 4) (f : BitVec 3) (d a b : BitVec 5) (s : State) :
    Host.Outcome State Fault Refusal :=
  issue (.vfadd z t f d a b) s

/-- VFSUB (R197). -/
def execVfsub (z : Bool) (t : BitVec 4) (f : BitVec 3) (d a b : BitVec 5) (s : State) :
    Host.Outcome State Fault Refusal :=
  issue (.vfsub z t f d a b) s

/-- VFMUL (R197). -/
def execVfmul (z : Bool) (t : BitVec 4) (f : BitVec 3) (d a b : BitVec 5) (s : State) :
    Host.Outcome State Fault Refusal :=
  issue (.vfmul z t f d a b) s

/-- VFMA (R197). -/
def execVfma (z : Bool) (t : BitVec 4) (f : BitVec 3) (d a b : BitVec 5) (s : State) :
    Host.Outcome State Fault Refusal :=
  issue (.vfma z t f d a b) s

/-- VFMS (R197). -/
def execVfms (z : Bool) (t : BitVec 4) (f : BitVec 3) (d a b : BitVec 5) (s : State) :
    Host.Outcome State Fault Refusal :=
  issue (.vfms z t f d a b) s

/-- VFMIN (R197). -/
def execVfmin (z : Bool) (t : BitVec 4) (f : BitVec 3) (d a b : BitVec 5) (s : State) :
    Host.Outcome State Fault Refusal :=
  issue (.vfmin z t f d a b) s

/-- VFMAX (R197). -/
def execVfmax (z : Bool) (t : BitVec 4) (f : BitVec 3) (d a b : BitVec 5) (s : State) :
    Host.Outcome State Fault Refusal :=
  issue (.vfmax z t f d a b) s

/-- VFABS (R197). -/
def execVfabs (z : Bool) (t : BitVec 4) (f : BitVec 3) (d a : BitVec 5) (s : State) :
    Host.Outcome State Fault Refusal :=
  issue (.vfabs z t f d a) s

/-- VFNEG (R197). -/
def execVfneg (z : Bool) (t : BitVec 4) (f : BitVec 3) (d a : BitVec 5) (s : State) :
    Host.Outcome State Fault Refusal :=
  issue (.vfneg z t f d a) s

/-- VCVT (R198). -/
def execVcvt (z : Bool) (t : BitVec 4) (f : BitVec 3) (d a : BitVec 5) (s : State) :
    Host.Outcome State Fault Refusal :=
  issue (.vcvt z t f d a) s

/-- VWIDEN (R198). -/
def execVwiden (z : Bool) (t : BitVec 4) (f : BitVec 3) (d a : BitVec 5) (s : State) :
    Host.Outcome State Fault Refusal :=
  issue (.vwiden z t f d a) s

/-- VNARROW (R198). -/
def execVnarrow (z : Bool) (t : BitVec 4) (f : BitVec 3) (d a : BitVec 5) (s : State) :
    Host.Outcome State Fault Refusal :=
  issue (.vnarrow z t f d a) s

/-- VWMUL (R198). -/
def execVwmul (z : Bool) (t : BitVec 4) (f : BitVec 3) (d a b : BitVec 5) (s : State) :
    Host.Outcome State Fault Refusal :=
  issue (.vwmul z t f d a b) s

/-- VWMAC (R198). -/
def execVwmac (z : Bool) (t : BitVec 4) (f : BitVec 3) (d a b : BitVec 5) (s : State) :
    Host.Outcome State Fault Refusal :=
  issue (.vwmac z t f d a b) s

/-- VACCRD (R199). -/
def execVaccrd (z : Bool) (t : BitVec 4) (c : BitVec 2) (d : BitVec 5) (h : BitVec 2) (l : BitVec 5) (s : State) :
    Host.Outcome State Fault Refusal :=
  issue (.vaccrd z t c d h l) s

/-- VACCWR (R199). -/
def execVaccwr (z : Bool) (t : BitVec 4) (c : BitVec 2) (l : BitVec 5) (h : BitVec 2) (b : BitVec 5) (s : State) :
    Host.Outcome State Fault Refusal :=
  issue (.vaccwr z t c l h b) s

/-- VCMPEQ (R201). -/
def execVcmpeq (z : Bool) (t : BitVec 4) (f : BitVec 3) (d a b : BitVec 5) (s : State) :
    Host.Outcome State Fault Refusal :=
  issue (.vcmpeq z t f d a b) s

/-- VCMPNE (R201). -/
def execVcmpne (z : Bool) (t : BitVec 4) (f : BitVec 3) (d a b : BitVec 5) (s : State) :
    Host.Outcome State Fault Refusal :=
  issue (.vcmpne z t f d a b) s

/-- VCMPLT (R201). -/
def execVcmplt (z : Bool) (t : BitVec 4) (f : BitVec 3) (d a b : BitVec 5) (s : State) :
    Host.Outcome State Fault Refusal :=
  issue (.vcmplt z t f d a b) s

/-- VCMPLE (R201). -/
def execVcmple (z : Bool) (t : BitVec 4) (f : BitVec 3) (d a b : BitVec 5) (s : State) :
    Host.Outcome State Fault Refusal :=
  issue (.vcmple z t f d a b) s

/-- VSEL (R202). -/
def execVsel (z : Bool) (t : BitVec 4) (f : BitVec 3) (d a b : BitVec 5) (s : State) :
    Host.Outcome State Fault Refusal :=
  issue (.vsel z t f d a b) s

/-- VMLOGIC (R202). -/
def execVmlogic (z : Bool) (t : BitVec 4) (f : BitVec 3) (d a b : BitVec 5) (s : State) :
    Host.Outcome State Fault Refusal :=
  issue (.vmlogic z t f d a b) s

/-- VMPOPC (R202). -/
def execVmpopc (z : Bool) (t : BitVec 4) (f : BitVec 3) (a : BitVec 5) (s : State) :
    Host.Outcome State Fault Refusal :=
  issue (.vmpopc z t f a) s

/-- VMFIRST (R202). -/
def execVmfirst (z : Bool) (t : BitVec 4) (f : BitVec 3) (a : BitVec 5) (s : State) :
    Host.Outcome State Fault Refusal :=
  issue (.vmfirst z t f a) s

/-- VPERM (R203). -/
def execVperm (z : Bool) (t : BitVec 4) (f : BitVec 3) (d a b : BitVec 5) (s : State) :
    Host.Outcome State Fault Refusal :=
  issue (.vperm z t f d a b) s

/-- VBCAST (R203). -/
def execVbcast (z : Bool) (t : BitVec 4) (f : BitVec 3) (d b : BitVec 5) (s : State) :
    Host.Outcome State Fault Refusal :=
  issue (.vbcast z t f d b) s

/-- VIOTA (R203). -/
def execViota (z : Bool) (t : BitVec 4) (f : BitVec 3) (d a : BitVec 5) (s : State) :
    Host.Outcome State Fault Refusal :=
  issue (.viota z t f d a) s

/-- VREDSUM (R204). -/
def execVredsum (z : Bool) (t : BitVec 4) (f : BitVec 3) (d a : BitVec 5) (s : State) :
    Host.Outcome State Fault Refusal :=
  issue (.vredsum z t f d a) s

/-- VREDMIN (R204). -/
def execVredmin (z : Bool) (t : BitVec 4) (f : BitVec 3) (d a : BitVec 5) (s : State) :
    Host.Outcome State Fault Refusal :=
  issue (.vredmin z t f d a) s

/-- VREDMAX (R204). -/
def execVredmax (z : Bool) (t : BitVec 4) (f : BitVec 3) (d a : BitVec 5) (s : State) :
    Host.Outcome State Fault Refusal :=
  issue (.vredmax z t f d a) s

/-- VARGMIN (R205). -/
def execVargmin (z : Bool) (t : BitVec 4) (f : BitVec 3) (a : BitVec 5) (s : State) :
    Host.Outcome State Fault Refusal :=
  issue (.vargmin z t f a) s

/-- VSLIDE (R203). -/
def execVslide (z : Bool) (t : BitVec 4) (f : BitVec 3) (d a b : BitVec 5) (s : State) :
    Host.Outcome State Fault Refusal :=
  issue (.vslide z t f d a b) s

/-- VTOPN (R206). -/
def execVtopn (z : Bool) (t : BitVec 4) (f : BitVec 3) (d a : BitVec 5) (s : State) :
    Host.Outcome State Fault Refusal :=
  issue (.vtopn z t f d a) s

/-- VSPREAD (R207). -/
def execVspread (z : Bool) (t : BitVec 4) (f : BitVec 3) (d a b : BitVec 5) (s : State) :
    Host.Outcome State Fault Refusal :=
  issue (.vspread z t f d a b) s

/-- VPACK (R208). -/
def execVpack (z : Bool) (t : BitVec 4) (f : BitVec 3) (d a b : BitVec 5) (s : State) :
    Host.Outcome State Fault Refusal :=
  issue (.vpack z t f d a b) s

/-- VUNPACK (R208). -/
def execVunpack (z : Bool) (t : BitVec 4) (f : BitVec 3) (d a b : BitVec 5) (s : State) :
    Host.Outcome State Fault Refusal :=
  issue (.vunpack z t f d a b) s

/-- VHASH (R209). -/
def execVhash (z : Bool) (t : BitVec 4) (f : BitVec 3) (d a b : BitVec 5) (s : State) :
    Host.Outcome State Fault Refusal :=
  issue (.vhash z t f d a b) s

/-- VPOPCNT (R210). -/
def execVpopcnt (z : Bool) (t : BitVec 4) (f : BitVec 3) (d a : BitVec 5) (s : State) :
    Host.Outcome State Fault Refusal :=
  issue (.vpopcnt z t f d a) s

/-- VXORPC (R210). -/
def execVxorpc (z : Bool) (t : BitVec 4) (f : BitVec 3) (d a b : BitVec 5) (s : State) :
    Host.Outcome State Fault Refusal :=
  issue (.vxorpc z t f d a b) s

/-- VLUT (R211). -/
def execVlut (z : Bool) (t : BitVec 4) (f : BitVec 3) (d a b : BitVec 5) (s : State) :
    Host.Outcome State Fault Refusal :=
  issue (.vlut z t f d a b) s

/-- VRCP (R212). -/
def execVrcp (z : Bool) (t : BitVec 4) (f : BitVec 3) (d a : BitVec 5) (s : State) :
    Host.Outcome State Fault Refusal :=
  issue (.vrcp z t f d a) s

/-- VRSQ (R212). -/
def execVrsq (z : Bool) (t : BitVec 4) (f : BitVec 3) (d a : BitVec 5) (s : State) :
    Host.Outcome State Fault Refusal :=
  issue (.vrsq z t f d a) s

/-- VRCPREF (R214). -/
def execVrcpref (z : Bool) (t : BitVec 4) (f : BitVec 3) (d a b : BitVec 5) (s : State) :
    Host.Outcome State Fault Refusal :=
  issue (.vrcpref z t f d a b) s

/-- VRSQREF (R214). -/
def execVrsqref (z : Bool) (t : BitVec 4) (f : BitVec 3) (d a b : BitVec 5) (s : State) :
    Host.Outcome State Fault Refusal :=
  issue (.vrsqref z t f d a b) s

/-- VEXP2 (R212). -/
def execVexp2 (z : Bool) (t : BitVec 4) (f : BitVec 3) (d a : BitVec 5) (s : State) :
    Host.Outcome State Fault Refusal :=
  issue (.vexp2 z t f d a) s

/-- VLOG2 (R212). -/
def execVlog2 (z : Bool) (t : BitVec 4) (f : BitVec 3) (d a : BitVec 5) (s : State) :
    Host.Outcome State Fault Refusal :=
  issue (.vlog2 z t f d a) s

/-- SBIND (R218). -/
def execSbind (z : Bool) (t : BitVec 4) (d a : BitVec 5) (s : State) : Host.Outcome State Fault Refusal :=
  issue (.sbind z t d a) s

/-- SISECT (R217). -/
def execSisect (z : Bool) (t : BitVec 4) (d a b : BitVec 5) (s : State) : Host.Outcome State Fault Refusal :=
  issue (.sisect z t d a b) s

/-- SUNION (R217). -/
def execSunion (z : Bool) (t : BitVec 4) (d a b : BitVec 5) (s : State) : Host.Outcome State Fault Refusal :=
  issue (.sunion z t d a b) s

/-- SSUB (R217). -/
def execSsub (z : Bool) (t : BitVec 4) (d a b : BitVec 5) (s : State) : Host.Outcome State Fault Refusal :=
  issue (.ssub z t d a b) s

/-- SMADD (R217). -/
def execSmadd (z : Bool) (t : BitVec 4) (d a b : BitVec 5) (s : State) : Host.Outcome State Fault Refusal :=
  issue (.smadd z t d a b) s

/-- SCOUNT (R218). -/
def execScount (z : Bool) (t : BitVec 4) (a : BitVec 5) (s : State) : Host.Outcome State Fault Refusal :=
  issue (.scount z t a) s

/-- SRESET (R218). -/
def execSreset (z : Bool) (t : BitVec 4) (d : BitVec 5) (s : State) : Host.Outcome State Fault Refusal :=
  issue (.sreset z t d) s

/-- VREPLY (R219). -/
def execVreply (z : Bool) (t : BitVec 4) (a : BitVec 5) (s : State) : Host.Outcome State Fault Refusal :=
  issue (.vreply z t a) s

end Sys2Proof.Machine
end

