-- ==== Sys2Proof/Machine/Dispatch.lean ====
section
/-! DEFINITION. What each instruction and step does: one arm per constructor. -/

namespace Sys2Proof.Machine

/-- The meaning of an instruction or step. An instruction word runs on the context of `s.sch.cur`; a step of the
device is where its operands say. -/
def exec (i : Instr) (s : State) : Host.Outcome State Fault Refusal :=
  match i with
  | .nop z => Sys2Proof.Machine.execNop z s
  | .add z d a b => Sys2Proof.Machine.execAdd z d a b s
  | .sub z d a b => Sys2Proof.Machine.execSub z d a b s
  | .and z d a b => Sys2Proof.Machine.execAnd z d a b s
  | .or z d a b => Sys2Proof.Machine.execOr z d a b s
  | .xor z d a b => Sys2Proof.Machine.execXor z d a b s
  | .andn z d a b => Sys2Proof.Machine.execAndn z d a b s
  | .shl z d a b => Sys2Proof.Machine.execShl z d a b s
  | .shr z d a b => Sys2Proof.Machine.execShr z d a b s
  | .shra z d a b => Sys2Proof.Machine.execShra z d a b s
  | .rotr z d a b => Sys2Proof.Machine.execRotr z d a b s
  | .mul z d a b => Sys2Proof.Machine.execMul z d a b s
  | .mulhs z d a b => Sys2Proof.Machine.execMulhs z d a b s
  | .mulhu z d a b => Sys2Proof.Machine.execMulhu z d a b s
  | .div z d a b => Sys2Proof.Machine.execDiv z d a b s
  | .divu z d a b => Sys2Proof.Machine.execDivu z d a b s
  | .rem z d a b => Sys2Proof.Machine.execRem z d a b s
  | .remu z d a b => Sys2Proof.Machine.execRemu z d a b s
  | .min z d a b => Sys2Proof.Machine.execMin z d a b s
  | .max z d a b => Sys2Proof.Machine.execMax z d a b s
  | .minu z d a b => Sys2Proof.Machine.execMinu z d a b s
  | .maxu z d a b => Sys2Proof.Machine.execMaxu z d a b s
  | .slt z d a b => Sys2Proof.Machine.execSlt z d a b s
  | .sltu z d a b => Sys2Proof.Machine.execSltu z d a b s
  | .seq z d a b => Sys2Proof.Machine.execSeq z d a b s
  | .clz z d a => Sys2Proof.Machine.execClz z d a s
  | .ctz z d a => Sys2Proof.Machine.execCtz z d a s
  | .popc z d a => Sys2Proof.Machine.execPopc z d a s
  | .brev z d a => Sys2Proof.Machine.execBrev z d a s
  | .sext z d a w => Sys2Proof.Machine.execSext z d a w s
  | .zext z d a w => Sys2Proof.Machine.execZext z d a w s
  | .addi z d a imm => Sys2Proof.Machine.execAddi z d a imm s
  | .andi z d a imm => Sys2Proof.Machine.execAndi z d a imm s
  | .ori z d a imm => Sys2Proof.Machine.execOri z d a imm s
  | .xori z d a imm => Sys2Proof.Machine.execXori z d a imm s
  | .shli z d a n => Sys2Proof.Machine.execShli z d a n s
  | .shri z d a n => Sys2Proof.Machine.execShri z d a n s
  | .shrai z d a n => Sys2Proof.Machine.execShrai z d a n s
  | .slti z d a imm => Sys2Proof.Machine.execSlti z d a imm s
  | .sltui z d a imm => Sys2Proof.Machine.execSltui z d a imm s
  | .seqi z d a imm => Sys2Proof.Machine.execSeqi z d a imm s
  | .lui z d imm => Sys2Proof.Machine.execLui z d imm s
  | .auipc z d imm => Sys2Proof.Machine.execAuipc z d imm s
  | .ldb z d a imm => Sys2Proof.Machine.execLdb z d a imm s
  | .ldbu z d a imm => Sys2Proof.Machine.execLdbu z d a imm s
  | .ldh z d a imm => Sys2Proof.Machine.execLdh z d a imm s
  | .ldhu z d a imm => Sys2Proof.Machine.execLdhu z d a imm s
  | .ldw z d a imm => Sys2Proof.Machine.execLdw z d a imm s
  | .ldwu z d a imm => Sys2Proof.Machine.execLdwu z d a imm s
  | .ldd z d a imm => Sys2Proof.Machine.execLdd z d a imm s
  | .stb z b a imm => Sys2Proof.Machine.execStb z b a imm s
  | .sth z b a imm => Sys2Proof.Machine.execSth z b a imm s
  | .stw z b a imm => Sys2Proof.Machine.execStw z b a imm s
  | .std z b a imm => Sys2Proof.Machine.execStd z b a imm s
  | .amo z d a b s_ o => Sys2Proof.Machine.execAmo z d a b s_ o s
  | .amoa z d a b s_ o => Sys2Proof.Machine.execAmoa z d a b s_ o s
  | .amor z d a b s_ o => Sys2Proof.Machine.execAmor z d a b s_ o s
  | .amoar z d a b s_ o => Sys2Proof.Machine.execAmoar z d a b s_ o s
  | .amop z d a b s_ o => Sys2Proof.Machine.execAmop z d a b s_ o s
  | .cas z d a b s_ o => Sys2Proof.Machine.execCas z d a b s_ o s
  | .fence z f s_ e => Sys2Proof.Machine.execFence z f s_ e s
  | .prefl z h a imm => Sys2Proof.Machine.execPrefl z h a imm s
  | .beq z a b imm => Sys2Proof.Machine.execBeq z a b imm s
  | .bne z a b imm => Sys2Proof.Machine.execBne z a b imm s
  | .blt z a b imm => Sys2Proof.Machine.execBlt z a b imm s
  | .bge z a b imm => Sys2Proof.Machine.execBge z a b imm s
  | .bltu z a b imm => Sys2Proof.Machine.execBltu z a b imm s
  | .bgeu z a b imm => Sys2Proof.Machine.execBgeu z a b imm s
  | .jal z d imm => Sys2Proof.Machine.execJal z d imm s
  | .jalr z d a imm => Sys2Proof.Machine.execJalr z d a imm s
  | .yield z => Sys2Proof.Machine.execYield z s
  | .exit z => Sys2Proof.Machine.execExit z s
  | .spawn z a imm => Sys2Proof.Machine.execSpawn z a imm s
  | .cont z a imm => Sys2Proof.Machine.execCont z a imm s
  | .waitgeLocal z a b => Sys2Proof.Machine.execWaitgeLocal z a b s
  | .waitge z a b s_ => Sys2Proof.Machine.execWaitge z a b s_ s
  | .signalLocal z a b => Sys2Proof.Machine.execSignalLocal z a b s
  | .signal z a b s_ => Sys2Proof.Machine.execSignal z a b s_ s
  | .popr z d => Sys2Proof.Machine.execPopr z d s
  | .peekr z d => Sys2Proof.Machine.execPeekr z d s
  | .fork z d a b k q => Sys2Proof.Machine.execFork z d a b k q s
  | .msend z a b => Sys2Proof.Machine.execMsend z a b s
  | .mrecv z d a => Sys2Proof.Machine.execMrecv z d a s
  | .nest z n a imm => Sys2Proof.Machine.execNest z n a imm s
  | .cstore z e a l => Sys2Proof.Machine.execCstore z e a l s
  | .l2pin z a b r w => Sys2Proof.Machine.execL2pin z a b r w s
  | .l2unpin z r => Sys2Proof.Machine.execL2unpin z r s
  | .csrr z d c => Sys2Proof.Machine.execCsrr z d c s
  | .csrw z d a c => Sys2Proof.Machine.execCsrw z d a c s
  | .csrs z d a c => Sys2Proof.Machine.execCsrs z d a c s
  | .csrc z d a c => Sys2Proof.Machine.execCsrc z d a c s
  | .ecall z c => Sys2Proof.Machine.execEcall z c s
  | .ebreak z c => Sys2Proof.Machine.execEbreak z c s
  | .eret z => Sys2Proof.Machine.execEret z s
  | .wfe z => Sys2Proof.Machine.execWfe z s
  | .tlbinv z d a b p => Sys2Proof.Machine.execTlbinv z d a b p s
  | .sev z => Sys2Proof.Machine.execSev z s
  | .vadd z t f d a b => Sys2Proof.Machine.execVadd z t f d a b s
  | .vsub z t f d a b => Sys2Proof.Machine.execVsub z t f d a b s
  | .vaddsat z t f d a b => Sys2Proof.Machine.execVaddsat z t f d a b s
  | .vsubsat z t f d a b => Sys2Proof.Machine.execVsubsat z t f d a b s
  | .vavg z t f d a b => Sys2Proof.Machine.execVavg z t f d a b s
  | .vmul z t f d a b => Sys2Proof.Machine.execVmul z t f d a b s
  | .vmulhi z t f d a b => Sys2Proof.Machine.execVmulhi z t f d a b s
  | .vmac z t f d a b => Sys2Proof.Machine.execVmac z t f d a b s
  | .vmin z t f d a b => Sys2Proof.Machine.execVmin z t f d a b s
  | .vmax z t f d a b => Sys2Proof.Machine.execVmax z t f d a b s
  | .vabs z t f d a => Sys2Proof.Machine.execVabs z t f d a s
  | .vand z t f d a b => Sys2Proof.Machine.execVand z t f d a b s
  | .vor z t f d a b => Sys2Proof.Machine.execVor z t f d a b s
  | .vxor z t f d a b => Sys2Proof.Machine.execVxor z t f d a b s
  | .vshl z t f d a b => Sys2Proof.Machine.execVshl z t f d a b s
  | .vshr z t f d a b => Sys2Proof.Machine.execVshr z t f d a b s
  | .vfadd z t f d a b => Sys2Proof.Machine.execVfadd z t f d a b s
  | .vfsub z t f d a b => Sys2Proof.Machine.execVfsub z t f d a b s
  | .vfmul z t f d a b => Sys2Proof.Machine.execVfmul z t f d a b s
  | .vfma z t f d a b => Sys2Proof.Machine.execVfma z t f d a b s
  | .vfms z t f d a b => Sys2Proof.Machine.execVfms z t f d a b s
  | .vfmin z t f d a b => Sys2Proof.Machine.execVfmin z t f d a b s
  | .vfmax z t f d a b => Sys2Proof.Machine.execVfmax z t f d a b s
  | .vfabs z t f d a => Sys2Proof.Machine.execVfabs z t f d a s
  | .vfneg z t f d a => Sys2Proof.Machine.execVfneg z t f d a s
  | .vcvt z t f d a => Sys2Proof.Machine.execVcvt z t f d a s
  | .vwiden z t f d a => Sys2Proof.Machine.execVwiden z t f d a s
  | .vnarrow z t f d a => Sys2Proof.Machine.execVnarrow z t f d a s
  | .vwmul z t f d a b => Sys2Proof.Machine.execVwmul z t f d a b s
  | .vwmac z t f d a b => Sys2Proof.Machine.execVwmac z t f d a b s
  | .vaccrd z t c d h l => Sys2Proof.Machine.execVaccrd z t c d h l s
  | .vaccwr z t c l h b => Sys2Proof.Machine.execVaccwr z t c l h b s
  | .vcmpeq z t f d a b => Sys2Proof.Machine.execVcmpeq z t f d a b s
  | .vcmpne z t f d a b => Sys2Proof.Machine.execVcmpne z t f d a b s
  | .vcmplt z t f d a b => Sys2Proof.Machine.execVcmplt z t f d a b s
  | .vcmple z t f d a b => Sys2Proof.Machine.execVcmple z t f d a b s
  | .vsel z t f d a b => Sys2Proof.Machine.execVsel z t f d a b s
  | .vmlogic z t f d a b => Sys2Proof.Machine.execVmlogic z t f d a b s
  | .vmpopc z t f a => Sys2Proof.Machine.execVmpopc z t f a s
  | .vmfirst z t f a => Sys2Proof.Machine.execVmfirst z t f a s
  | .vperm z t f d a b => Sys2Proof.Machine.execVperm z t f d a b s
  | .vbcast z t f d b => Sys2Proof.Machine.execVbcast z t f d b s
  | .viota z t f d a => Sys2Proof.Machine.execViota z t f d a s
  | .vredsum z t f d a => Sys2Proof.Machine.execVredsum z t f d a s
  | .vredmin z t f d a => Sys2Proof.Machine.execVredmin z t f d a s
  | .vredmax z t f d a => Sys2Proof.Machine.execVredmax z t f d a s
  | .vargmin z t f a => Sys2Proof.Machine.execVargmin z t f a s
  | .vslide z t f d a b => Sys2Proof.Machine.execVslide z t f d a b s
  | .vtopn z t f d a => Sys2Proof.Machine.execVtopn z t f d a s
  | .vspread z t f d a b => Sys2Proof.Machine.execVspread z t f d a b s
  | .vpack z t f d a b => Sys2Proof.Machine.execVpack z t f d a b s
  | .vunpack z t f d a b => Sys2Proof.Machine.execVunpack z t f d a b s
  | .vhash z t f d a b => Sys2Proof.Machine.execVhash z t f d a b s
  | .vpopcnt z t f d a => Sys2Proof.Machine.execVpopcnt z t f d a s
  | .vxorpc z t f d a b => Sys2Proof.Machine.execVxorpc z t f d a b s
  | .vlut z t f d a b => Sys2Proof.Machine.execVlut z t f d a b s
  | .vrcp z t f d a => Sys2Proof.Machine.execVrcp z t f d a s
  | .vrsq z t f d a => Sys2Proof.Machine.execVrsq z t f d a s
  | .vrcpref z t f d a b => Sys2Proof.Machine.execVrcpref z t f d a b s
  | .vrsqref z t f d a b => Sys2Proof.Machine.execVrsqref z t f d a b s
  | .vexp2 z t f d a => Sys2Proof.Machine.execVexp2 z t f d a s
  | .vlog2 z t f d a => Sys2Proof.Machine.execVlog2 z t f d a s
  | .sbind z t d a => Sys2Proof.Machine.execSbind z t d a s
  | .sisect z t d a b => Sys2Proof.Machine.execSisect z t d a b s
  | .sunion z t d a b => Sys2Proof.Machine.execSunion z t d a b s
  | .ssub z t d a b => Sys2Proof.Machine.execSsub z t d a b s
  | .smadd z t d a b => Sys2Proof.Machine.execSmadd z t d a b s
  | .scount z t a => Sys2Proof.Machine.execScount z t a s
  | .sreset z t d => Sys2Proof.Machine.execSreset z t d s
  | .vreply z t a => Sys2Proof.Machine.execVreply z t a s
  | .mldb z t a r => Sys2Proof.Machine.execMldb z t a r s
  | .mswap z t => Sys2Proof.Machine.execMswap z t s
  | .mma z t c x y f m h s_ g => Sys2Proof.Machine.execMma z t c x y f m h s_ g s
  | .mscq z t a w r => Sys2Proof.Machine.execMscq z t a w r s
  | .mzero z t c => Sys2Proof.Machine.execMzero z t c s
  | .mdrain z t a b k c => Sys2Proof.Machine.execMdrain z t a b k c s
  | .mgo z t a b n => Sys2Proof.Machine.execMgo z t a b n s
  | .matt z t a b m c => Sys2Proof.Machine.execMatt z t a b m c s
  | .mlatld z t a b v => Sys2Proof.Machine.execMlatld z t a b v s
  | .mlat z t a b k c => Sys2Proof.Machine.execMlat z t a b k c s
  | .mbjoin z t a o => Sys2Proof.Machine.execMbjoin z t a o s
  | .mbleave z t o => Sys2Proof.Machine.execMbleave z t o s
  | .mpop z t a r => Sys2Proof.Machine.execMpop z t a r s
  | .mquiet z t => Sys2Proof.Machine.execMquiet z t s
  | .lcp z t a b c l m => Sys2Proof.Machine.execLcp z t a b c l m s
  | .lgo z t n b c l m => Sys2Proof.Machine.execLgo z t n b c l m s
  | .lgath z t a b c m r => Sys2Proof.Machine.execLgath z t a b c m r s
  | .lpref z t a b => Sys2Proof.Machine.execLpref z t a b s
  | .lq z t a b l => Sys2Proof.Machine.execLq z t a b l s
  | .lqx z t a b => Sys2Proof.Machine.execLqx z t a b s
  | .lring z t a r => Sys2Proof.Machine.execLring z t a r s
  | .lmark z t m => Sys2Proof.Machine.execLmark z t m s
  | .lsbind z t a b k => Sys2Proof.Machine.execLsbind z t a b k s
  | .lhint z t a b => Sys2Proof.Machine.execLhint z t a b s
  | .scp z t a b c l m => Sys2Proof.Machine.execScp z t a b c l m s
  | .sgo z t n b c l m => Sys2Proof.Machine.execSgo z t n b c l m s
  | .sscat z t a b c m => Sys2Proof.Machine.execSscat z t a b c m s
  | .sq z t a b c m p => Sys2Proof.Machine.execSq z t a b c m p s
  | .sring z t a r => Sys2Proof.Machine.execSring z t a r s
  | .smark z t m => Sys2Proof.Machine.execSmark z t m s
  | .ssbind z t a b k => Sys2Proof.Machine.execSsbind z t a b k s
  | .sflush z t a b c m imm => Sys2Proof.Machine.execSflush z t a b c m imm s
  | .szero z t a b => Sys2Proof.Machine.execSzero z t a b s
  | .tcvt z t a c m => Sys2Proof.Machine.execTcvt z t a c m s
  | .tcopy z t a b c m => Sys2Proof.Machine.execTcopy z t a b c m s
  | .trope z t a b c m => Sys2Proof.Machine.execTrope z t a b c m s
  | .tsplice z t a b c m => Sys2Proof.Machine.execTsplice z t a b c m s
  | .tfill z t a b c m => Sys2Proof.Machine.execTfill z t a b c m s
  | .tkvapp z t a b c m => Sys2Proof.Machine.execTkvapp z t a b c m s
  | .tchk z t a c m => Sys2Proof.Machine.execTchk z t a c m s
  | .qsearch z t a b c m => Sys2Proof.Machine.execQsearch z t a b c m s
  | .qfetch z t a b c m => Sys2Proof.Machine.execQfetch z t a b c m s
  | .qinsert z t a b c m => Sys2Proof.Machine.execQinsert z t a b c m s
  | .qdelete z t a b c m => Sys2Proof.Machine.execQdelete z t a b c m s
  | .qwalk z t a b c m => Sys2Proof.Machine.execQwalk z t a b c m s
  | .qcancel z t a => Sys2Proof.Machine.execQcancel z t a s
  | .qstat z t a => Sys2Proof.Machine.execQstat z t a s
  | .qsnap z t a b c m => Sys2Proof.Machine.execQsnap z t a b c m s
  | .xext m z r s_ imm => Sys2Proof.Machine.execXext m z r s_ imm s
  | .xrep c x y w => Sys2Proof.Machine.execXrep c x y w s
  | .xcall z e s_ v imm => Sys2Proof.Machine.execXcall z e s_ v imm s
  | .xlimm h => Sys2Proof.Machine.execXlimm h s
  | .xsca s_ => Sys2Proof.Machine.execXsca s_ s
  | .wordStart a e => Sys2Proof.Machine.execWordStart a e s
  | .wordComplete a e => Sys2Proof.Machine.execWordComplete a e s
  | .broadcastDelivery cluster opB group => Sys2Proof.Machine.execBroadcastDelivery cluster opB group s
  | .tokdead a => Sys2Proof.Machine.execTokdead a s
  | .suspend a => Sys2Proof.Machine.execSuspend a s
  | .exitRetire a => Sys2Proof.Machine.execExitRetire a s
  | .pickup p => Sys2Proof.Machine.execPickup p s
  | .faultBatchClose p => Sys2Proof.Machine.execFaultBatchClose p s
  | .fansRetry p all fid => Sys2Proof.Machine.execFansRetry p all fid s
  | .fansAbort p all fid => Sys2Proof.Machine.execFansAbort p all fid s
  | .gatherElementRead op k => Sys2Proof.Machine.execGatherElementRead op k s
  | .scatterElement op => Sys2Proof.Machine.execScatterElement op s
  | .trapEntry a => Sys2Proof.Machine.execTrapEntry a s
  | .yieldRequest p => Sys2Proof.Machine.execYieldRequest p s
  | .yieldlate a => Sys2Proof.Machine.execYieldlate a s
  | .aging p item => Sys2Proof.Machine.execAging p item s
  | .itemCreate p inst stage => Sys2Proof.Machine.execItemCreate p inst stage s
  | .gateTest p inst stage => Sys2Proof.Machine.execGateTest p inst stage s
  | .waitEntryTest p item => Sys2Proof.Machine.execWaitEntryTest p item s
  | .spawnImageEnqueue p item => Sys2Proof.Machine.execSpawnImageEnqueue p item s
  | .stageItemIssue p inst stage => Sys2Proof.Machine.execStageItemIssue p inst stage s
  | .launch p ring => Sys2Proof.Machine.execLaunch p ring s
  | .withdraw p ring => Sys2Proof.Machine.execWithdraw p ring s
  | .nopEntry p ring => Sys2Proof.Machine.execNopEntry p ring s
  | .launchCompletion p ring => Sys2Proof.Machine.execLaunchCompletion p ring s
  | .sqdb p ring seq => Sys2Proof.Machine.execSqdb p ring seq s
  | .cqhead p ring seq => Sys2Proof.Machine.execCqhead p ring seq s
  | .ringEnable p ring val => Sys2Proof.Machine.execRingEnable p ring val s
  | .ringDisable p ring val => Sys2Proof.Machine.execRingDisable p ring val s
  | .rebase p ring val => Sys2Proof.Machine.execRebase p ring val s
  | .irqst p val => Sys2Proof.Machine.execIrqst p val s
  | .irqmask p val => Sys2Proof.Machine.execIrqmask p val s
  | .irqModeration p ring => Sys2Proof.Machine.execIrqModeration p ring s
  | .vfbind val => Sys2Proof.Machine.execVfbind val s
  | .bar2Read fn off n => Sys2Proof.Machine.execBar2Read fn off n s
  | .bar2Write fn off data => Sys2Proof.Machine.execBar2Write fn off data s
  | .functionLevelReset fn => Sys2Proof.Machine.execFunctionLevelReset fn s
  | .partitionEnable p val => Sys2Proof.Machine.execPartitionEnable p val s
  | .partitionDisable p val => Sys2Proof.Machine.execPartitionDisable p val s
  | .disableComplete p => Sys2Proof.Machine.execDisableComplete p s
  | .trlost p => Sys2Proof.Machine.execTrlost p s
  | .frlost p => Sys2Proof.Machine.execFrlost p s
  | .erlost p => Sys2Proof.Machine.execErlost p s
  | .rsstat p => Sys2Proof.Machine.execRsstat p s
  | .hstat fn => Sys2Proof.Machine.execHstat fn s
  | .ecnt imm => Sys2Proof.Machine.execEcnt imm s
  | .lbport imm => Sys2Proof.Machine.execLbport imm s
  | .registerWrite fn off val => Sys2Proof.Machine.execRegisterWrite fn off val s
  | .rgcfgWrite a n val => Sys2Proof.Machine.execRgcfgWrite a n val s
  | .ticmd p val => Sys2Proof.Machine.execTicmd p val s
  | .tlbInvalDone op => Sys2Proof.Machine.execTlbInvalDone op s
  | .format p => Sys2Proof.Machine.execFormat p s
  | .create p => Sys2Proof.Machine.execCreate p s
  | .putnodes p => Sys2Proof.Machine.execPutnodes p s
  | .seal p => Sys2Proof.Machine.execSeal p s
  | .mount p => Sys2Proof.Machine.execMount p s
  | .unmount p => Sys2Proof.Machine.execUnmount p s
  | .drop p => Sys2Proof.Machine.execDrop p s
  | .merge p => Sys2Proof.Machine.execMerge p s
  | .putobj p => Sys2Proof.Machine.execPutobj p s
  | .delobj p => Sys2Proof.Machine.execDelobj p s
  | .clearbad p => Sys2Proof.Machine.execClearbad p s
  | .searchAccept op => Sys2Proof.Machine.execSearchAccept op s
  | .searchRound op => Sys2Proof.Machine.execSearchRound op s
  | .searchEnd op => Sys2Proof.Machine.execSearchEnd op s
  | .fetchAccept op => Sys2Proof.Machine.execFetchAccept op s
  | .fetchObjectEnd op imm => Sys2Proof.Machine.execFetchObjectEnd op imm s
  | .fetchEnd op => Sys2Proof.Machine.execFetchEnd op s
  | .logAppend op => Sys2Proof.Machine.execLogAppend op s
  | .qsnapRead op => Sys2Proof.Machine.execQsnapRead op s
  | .walkRecord op k => Sys2Proof.Machine.execWalkRecord op k s
  | .pageReadAttempt rd ok => Sys2Proof.Machine.execPageReadAttempt rd ok s
  | .mergeStart slot => Sys2Proof.Machine.execMergeStart slot s
  | .mergePublish slot => Sys2Proof.Machine.execMergePublish slot s
  | .unitfail unit => Sys2Proof.Machine.execUnitfail unit s
  | .streamStop n => Sys2Proof.Machine.execStreamStop n s
  | .streamExit n => Sys2Proof.Machine.execStreamExit n s
  | .wfeTimeout a => Sys2Proof.Machine.execWfeTimeout a s
  | .labenInboundRequest r => Sys2Proof.Machine.execLabenInboundRequest r s
  | .labenTimeout a performed => Sys2Proof.Machine.execLabenTimeout a performed s
  | .laneFail port lanes => Sys2Proof.Machine.execLaneFail port lanes s
  | .powerGood => Sys2Proof.Machine.execPowerGood s
  | .bringupPhaseComplete fail badUnits => Sys2Proof.Machine.execBringupPhaseComplete fail badUnits s
  | .rcvimg val fn => Sys2Proof.Machine.execRcvimg val fn s
  | .atcmd val => Sys2Proof.Machine.execAtcmd val s
  | .attestDone => Sys2Proof.Machine.execAttestDone s
  | .lattol p val => Sys2Proof.Machine.execLattol p val s
  | .powerStateEntry u => Sys2Proof.Machine.execPowerStateEntry u s
  | .powerStateExit u => Sys2Proof.Machine.execPowerStateExit u s
  | .powerExitComplete u => Sys2Proof.Machine.execPowerExitComplete u s
  | .patrolScrub line => Sys2Proof.Machine.execPatrolScrub line s
  | .illegalWord w => Sys2Proof.Machine.execIllegalWord w s
  | .rscmd p val => Sys2Proof.Machine.execRscmd p val s
  | .powerLoss => Sys2Proof.Machine.execPowerLoss s

end Sys2Proof.Machine
end

