-- ==== Sys2Proof/Machine/Moves.lean ====
section
/-! DEFINITION. One word of the control core of a context (R131, R132, R307), the passing of time (R109), what the machine does
when nothing says what comes next (log 2), and the placing of a first instruction (log 1). -/

namespace Sys2Proof.Machine

/-! ### Time -/

/-- A context whose SCYC counts: its bank is the running one and not frozen (R109). -/
def countsClk (l : Life) : Bool := l.status == .running || l.status == .halting

/-- Some clk pass: a free number of them (R109; log 5). -/
def advance (s : State) : State :=
  let d := Config.stepClk s.sch.freeCtr
  let up := fun (c : Ctx) => if countsClk c.life then { c with csr := { c.csr with scyc := c.csr.scyc + BitVec.ofNat 64 d } }
    else c
  { s with now := s.now + d, sch := { s.sch with freeCtr := s.sch.freeCtr + 1 }, ctxs := s.ctxs.map fun kc => (kc.1, up kc.2) }

/-! ### What holds a sequencer's splitter -/

/-- No word of an engine is left whose queue-head checks are still to come (R259, R307): its queue is empty, or holds one word that has
passed them. -/
def headPasses (x : EngineSt) : Bool :=
  match x.queue with
  | [] => true
  | [_] => x.headOk
  | _ => false

/-- A sequencer routes no word before every earlier engine word has passed its queue-head checks (R307), which a word makes once it is at
the head of its queue, whether it may start or not. A word behind one that has not started is not there yet, and the splitter waits. -/
def seqGate (s : State) (a : AgentId) : Option State :=
  match [Engine.l, .v, .s].find? fun e => !headPasses (getE (getCtx s a).eng e) with
  | none => none
  | some e =>
    let x := getE (getCtx s a).eng e
    match x.queue with
    | w :: _ => some (if headDue x then checkHead s a e w else stallAt s a .queueFull)
    | [] => none

/-- Routing resumes after the stopped word (R309 SKIP): what is left of the word at the PC has no effect. The word is not fetched
again; one that cannot be fetched counts as the last of its group (DEDUCED, log 88). -/
def skipWord (s : State) (n : Nat) : State :=
  let a := AgentId.seq n
  let last := match fetchWord s a with
    | .word w _ => stopOf w.toNat
    | .stop _ => true
  updFr (setSeq s n { getSeq s n with skip := false }) a fun f => { Front.reset with
    pc := f.pc + 4
    grp := if last then GroupSt.reset else { f.grp with count := f.grp.count + 1 } }

/-- What a sequencer does before it routes the word at its PC, when there is something to do (R307, R309): a word that a CONT skips is
passed first, so that the record of an uncorrectable error names the word after it (R182). -/
def seqFirst (s : State) (n : Nat) : Option State :=
  let a := AgentId.seq n
  let q := getSeq s n
  if q.skip then some (skipWord s n)
  else
    match q.uncorr with
    | some (va, pa) => some (stopMem (setSeq s n { q with uncorr := none }) n (BitVec.ofNat 64 va) pa)
    | none => seqGate s a

/-! ### One word -/

/-- The protected registers a word's routing reads: those of a control word with the oldest reply, and the scalars an engine word
captures (R438). -/
def readsRegs (c : Ctx) (i : Instr) : List Nat :=
  match effInstr c.fr i with
  | some j => (regUse c.fr.pfx c.csr.vfmt (rawOf j)).rs
      ++ (if (op7Of (rawOf j) = 0x56 ∨ op7Of (rawOf j) = 0x57) ∧ engOf (rawOf j) = 0 ∧ !c.eng.reply.isEmpty then [replyAddr 0]
          else [])
  | none => []

/-- The scalar registers a control word writes. -/
def writesRegs (c : Ctx) (i : Instr) : List Nat :=
  match effInstr c.fr i with
  | some j => (regUse c.fr.pfx c.csr.vfmt (rawOf j)).ws
  | none => []

/-- A mark after `n` replies of a context have been removed. -/
def shiftMark (k n : Nat) (e : ErrMark) : Option ErrMark :=
  if e.space = .reg ∧ e.unit = k ∧ replyAddr 0 ≤ e.addr ∧ e.addr < replyAddr 16 then
    if e.addr < replyAddr n then none else some { e with addr := e.addr - n }
  else some e

/-- Replies that have been removed take their check bits along (R176, R438). -/
def shiftReplies (s : State) (a : AgentId) (n : Nat) : State :=
  if n = 0 then s else { s with mem := { s.mem with errs := s.mem.errs.filterMap (shiftMark (ctxKey a) n) } }

/-- A control word has been executed: its context runs on in its mode, and does not stand at the word. A word that traps, freezes or
stands still writes no register. -/
def wordRan (c d : Ctx) : Bool :=
  d.life.status == .running && d.trap.smode == c.trap.smode && d.fr.stall == .none

/-- Run an instruction with the protection of the scalar registers and the reply queue (R438, R440): the checks of R132 come first, and
a word that fails them touches no register; then an uncorrectable register that the word reads takes UNCORR of source 4 at it, with its
engine field (R344); corrections are counted; registers that the word has written have fresh check bits. -/
def execProtected (s : State) (a : AgentId) (i : Instr) : Host.Outcome State Fault Refusal :=
  let c := getCtx s a
  let rs := readsRegs c i
  if (routeCheck (isSeq a) c i).isSome then exec i s
  else if rs.any fun r => (uncorrIn s .reg (ctxKey a) r 1).isSome then
    .next (raiseAt (logReg s a) a .control (engOf (rawOf i)) 0x0E 0 (4 * 2 ^ 16))
  else
    match exec i (rs.foldl (fun s r => countCorr s .reg (ctxKey a) r 1) s) with
    | .next t =>
      let ws := if wordRan c (getCtx t a) then writesRegs c i else []
      let t := ws.foldl (fun s r => clearMarks s .reg (ctxKey a) r 1) t
      .next (shiftReplies t a (c.eng.reply.length - (getCtx t a).eng.reply.length))
    | x => x

/-- A control word that finds its context's buffered accesses performed: one that orders them (R175, R317, R324), that accesses memory
otherwise than as a load, a store, an atomic or a SIGNAL does, or that reads or writes a CSR, since CTRL of L2CSEL acts on the accesses
after it (R127). FENCE performs those it orders by itself (R170). -/
def drainsFirst : Instr → Bool
  | .spawn _ _ _ | .cont _ _ _ | .waitge _ _ _ _ | .signalLocal _ _ _ | .fork _ _ _ _ _ _ | .msend _ _ _ | .nest _ _ _ _
  | .cstore _ _ _ _ | .tlbinv _ _ _ _ _ | .yield _ | .exit _ | .csrr _ _ _ | .csrw _ _ _ _ | .csrs _ _ _ _ | .csrc _ _ _ _ => true
  | _ => false

/-- The scalar registers that the buffered accesses of a context will write; none of them is s0. -/
def pendingRegs (s : State) (a : AgentId) : List Nat :=
  (s.mem.buf.filterMap fun x => if x.ctx = ctxKey a then actDest x.act else none).filter fun r => r != 0

/-- An instruction waits for the buffered accesses of its context: it must find them performed, or it reads or writes a register that one
of them writes (R132, R318; log 89). -/
def waitsForAccesses (s : State) (a : AgentId) (i : Instr) : Bool :=
  let c := getCtx s a
  drainsFirst i || (pendingRegs s a).any fun r => (readsRegs c i ++ writesRegs c i).contains r

/-- An instruction is executed, after the buffered accesses that it must find performed (R318; log 89), with the protection of the
registers where some error stands. -/
def runInstr (s : State) (a : AgentId) (i : Instr) : Host.Outcome State Fault Refusal :=
  let s := if waitsForAccesses s a i then performOwn s a else s
  if s.mem.errs.isEmpty then exec i s else execProtected s a i

/-- The macro call of a context, and the one it resumes, with other bases. -/
def withBases (sb vb : Nat) (c : Ctx) : Ctx :=
  let f := fun (m : MacroCall) => { m with sbase := sb, vbase := vb }
  { c with fr := { c.fr with mac := c.fr.mac.map f }, trap := { c.trap with resume := c.trap.resume.map f } }

/-- A body word that is an instruction only after substitution (R148): it is executed as substituted, under bases that name
themselves. -/
def runSubst (s : State) (a : AgentId) (m : MacroCall) (w : IWord) : Host.Outcome State Fault Refusal :=
  match decodeWord (substRaw m w.toNat) with
  | .ok i =>
    match runInstr (updCtx s a (withBases 28 26)) a i with
    | .next t => .next (updCtx t a (withBases m.sbase m.vbase))
    | x => x
  | .error _ => execIllegalWord w s

/-- The word at the PC is decoded and executed (R131, R132); in a macro body substitution comes before the checks (R148). -/
def runHere (s : State) (a : AgentId) : Host.Outcome State Fault Refusal :=
  match fetchWord s a with
  | .stop s => .next s
  | .word w s =>
    match decodeWord w.toNat, (getCtx s a).fr.mac with
    | .ok i, _ => runInstr s a i
    | .error _, some m => if lateChecked w.toNat then runSubst s a m w else execIllegalWord w s
    | .error _, none => execIllegalWord w s

/-- The control core of a context takes its next step: a pending engine trap at a user-mode word boundary (R343), the steps of a
suspension word (R74), what holds a sequencer (R307), or the word at its PC. -/
def controlMove (s : State) (a : AgentId) : Host.Outcome State Fault Refusal :=
  let s := { s with sch := { s.sch with cur := a } }
  let c := getCtx s a
  if c.life.status ≠ .running then .next s
  else if !isSeq a && !c.trap.smode && trapPending c then .next (takeEngineTrap s a)
  else if c.life.drain ≠ .none then .next (drainStep s a)
  else
    match (match a with
      | .seq n => seqFirst s n
      | .bank _ _ => none) with
    | some s => .next s
    | none => runHere s a

/-! ### Words left behind -/

/-- A context becomes what it was. -/
def restoreCtx (s : State) (k : Nat) (c : Option Ctx) : State :=
  { s with ctxs := match c with
    | some c => kput s.ctxs k c
    | none => kerase s.ctxs k }

/-- The machine goes on from `t`, in which the registers of a bank or stream are those of a word left behind: they return to the
operation, and the context becomes what it was in `s`. -/
def putLeft (s t : State) (id : Nat) (o : Op) (a : AgentId) (e : Engine) : State :=
  { restoreCtx t (ctxKey a) (kfind s.ctxs (ctxKey a)) with
    ops := kput t.ops id { o with body := .word a (getCtx t a) e } }

/-- A word left behind that cannot go on ends, with the accesses it has made: its counter takes its add all the same, since a counter
never waits on an operation that will not run (R95, R98). -/
def endLeft (s t : State) (id : Nat) (o : Op) (a : AgentId) (e : Engine) : State :=
  let t := restoreCtx t (ctxKey a) (kfind s.ctxs (ctxKey a))
  dropOp (addCtr t (some (ctxKey a)) (engineTlb a (chainPos e)) o.part o.asid o.ctr 1) id

/-- A word that its spore has left behind goes on in the registers it was routed with, and completes (R74, R78, R285). At a page without
a translation it makes its fault event, in the name of the bank or stream that issued it, and waits for the answer (R389, R397). One
that would trap, or finds no further outbound entry, ends there: no handler and no vector word is left for it (DESIGN CHOICE,
log 86). -/
def detachedStep (s : State) (id : Nat) : State :=
  match kfind s.ops id with
  | some o =>
    match o.body with
    | .word a c e =>
      let s1 := setCtx s a c
      match (getE c.eng e).flying with
      | [] => dropOp s id
      | f :: _ =>
        if f.hold = .fault then s
        else if f.fin.isSome then
          let t := completeWord s1 a e
          dropOp (restoreCtx t (ctxKey a) (kfind s.ctxs (ctxKey a))) id
        else
          match rerun s1 a e f with
          | (.ok d, r) => putLeft s (setFlight r.s a e f.w.uid (flightOf f.w r d)) id o a e
          | (.error stop, r) =>
            match stop with
            | .wait .queue | .read _ _ _ | .trap _ _ _ => endLeft s r.s id o a e
            | .wait h => putLeft s (setFlight r.s a e f.w.uid (heldFlight f.w r h)) id o a e
            | .fault pages acc =>
              pages.foldl (fun s pg => faultEvent s o.part ⟨.left a id, o.asid, pg, acc⟩)
                (putLeft s (setFlight r.s a e f.w.uid (heldFlight f.w r .fault)) id o a e)
    | _ => s
  | none => s

/-! ### When nothing says what comes next -/

/-- A step of the machine. -/
abbrev Act := State → Host.Outcome State Fault Refusal

/-- What an operation in flight may do next. -/
def opActs (id : Nat) (o : Op) : List Act :=
  match o.body with
  | .gather g => (List.range (max 1 g.st.length)).map (execGatherElementRead id) ++ [execScatterElement id]
  | .search _ => [execSearchAccept id, execSearchRound id, execSearchEnd id]
  | .fetch g => [execFetchAccept id] ++ (List.range g.objs.length).map (execFetchObjectEnd id) ++ [execFetchEnd id]
  | .log _ => [execLogAppend id]
  | .snap _ _ _ => [execQsnapRead id]
  | .walk _ n _ => (List.range n).map (execWalkRecord id)
  | .inval _ _ _ _ => [execTlbInvalDone id]
  | .tables => []
  | .word _ _ _ => [fun s => .next (detachedStep s id)]

/-- What a context's engines may do next. -/
def engineActs (a : AgentId) : List Act := allEngines.flatMap fun e => [execWordComplete a e, execWordStart a e]

/-- What a context may do beside its control core. -/
def ctxActs (k : Nat) : List Act :=
  let a := keyAgent k
  engineActs a ++ [execExitRetire a, execSuspend a, execTrapEntry a]
    ++ (match a with
        | .seq n => [execStreamExit n, execStreamStop n]
        | .bank _ _ => [])

/-- What a ring of a partition may do next. -/
def ringActs (p n : Nat) : List Act :=
  [execLaunch p n, execWithdraw p n, execNopEntry p n, execLaunchCompletion p n, execIrqModeration p n]

/-- What the stages of an instance may do next. -/
def stageActs (p : Nat) (x : Instance) : List Act :=
  (List.range x.stages.length).flatMap fun i => [execItemCreate p x.id i, execGateTest p x.id i, execStageItemIssue p x.id i]

/-- What a partition may do next. -/
def partActs (s : State) (p : Nat) : List Act :=
  let q := getPart s p
  (List.range 4).flatMap (ringActs p) ++ q.insts.flatMap (stageActs p)
    ++ q.items.flatMap (fun x => [execWaitEntryTest p x.id, execSpawnImageEnqueue p x.id])
    ++ [execPickup p, execYieldRequest p, execFaultBatchClose p, execFormat p, execCreate p, execPutnodes p, execSeal p,
        execMount p, execUnmount p, execDrop p, execMerge p, execPutobj p, execDelobj p, execClearbad p,
        execDisableComplete p]

/-- What the rest of the device may do next. -/
def deviceActs (s : State) : List Act :=
  s.groups.map (fun kg => execBroadcastDelivery (kg.1 / 16) (kg.1 / 8 % 2 == 1) (kg.1 % 8))
    ++ s.store.reads.map (fun kr => execPageReadAttempt kr.1 true)
    ++ s.store.indexes.flatMap (fun kx => [execMergeStart kx.1, execMergePublish kx.1])
    ++ [execPowerStateExit .device, execPowerExitComplete .device, execAttestDone]
    ++ (List.range 24).flatMap fun n => [execPowerStateExit (.cluster n), execPowerExitComplete (.cluster n)]

/-- Every step that the device may take by itself, but for control words and for what time alone brings. -/
def ownActs (s : State) : List Act :=
  (if s.mem.buf.isEmpty then [] else [fun s => .next (performNth s 0)]) ++ s.ctxs.flatMap (fun kc => ctxActs kc.1) ++ s.ops.flatMap (fun ko => opActs ko.1 ko.2)
    ++ (List.range 8).flatMap (partActs s) ++ deviceActs s

/-- The control cores, from the one after the last on. -/
def controlActs (s : State) : List Act :=
  let ks := s.ctxs.map (·.1)
  let k := ctxKey s.sch.cur
  ((ks.filter fun j => decide (k < j)) ++ (ks.filter fun j => decide (j ≤ k))).map fun j s => controlMove s (keyAgent j)

/-- What only the passing of time brings. -/
def timeActs (s : State) : List Act :=
  (List.range 8).flatMap (fun p => (getPart s p).items.map fun x => execAging p x.id)
    ++ s.ctxs.flatMap fun kc => [execWfeTimeout (keyAgent kc.1), execLabenTimeout (keyAgent kc.1) false,
      execYieldlate (keyAgent kc.1), execTokdead (keyAgent kc.1)]
    ++ s.ops.flatMap fun ko =>
      match ko.2.body with
      | .word a _ _ => [execLabenTimeout a false]
      | _ => []

/-- The state with the model's choice of context put aside, and the caches, which a word that waits touches each time it is
tried. -/
def sameCur (s : State) (t : State) : State := { t with sch := { t.sch with cur := s.sch.cur }, cache := s.cache }

/-- The first of some steps that changes the state. -/
def firstChange (s : State) : List Act → Option State
  | [] => none
  | f :: r =>
    match f s with
    | .next t => if sameCur s t = s then firstChange s r else some t
    | _ => firstChange s r

/-- What the machine does when nothing says what comes next (DESIGN CHOICE, log 2): the first step that it may take by itself;
else the next control core that can go on; else what time brings; else nothing. -/
def defaultMove (s : State) : State := (firstChange s (ownActs s ++ controlActs s ++ timeActs s)).getD s

/-- A core's cache gives up a line (R121, R122). -/
def loseLine (s : State) (core line : Nat) (instr : Bool) : State :=
  let k := getCore s core
  setCore s core (if instr then { k with icache := kerase k.icache line } else { k with dcache := kerase k.dcache line })

/-- The flash of a retrieval unit can, or cannot, be programmed and erased from now on (R414). -/
def setFlash (s : State) (unit : Nat) (bad : Bool) : State :=
  setUnit s unit { getUnit s unit with flashBad := bad }

/-- The page of a slot of scheduler memory has, or has not, a valid translation from now on (R69, R389; log 74). -/
def setSlotPage (s : State) (p slot : Nat) (gone : Bool) : State :=
  updPart s p fun q => { q with lost := if gone then slot :: q.lost.filter (fun x => x != slot) else q.lost.filter fun x => x != slot }

/-- An error arises in a stored granule (R438): what control cores have buffered is performed before (log 89). A unit of an L2 line takes
its DRAM error from DRAM alone. -/
def upset (s : State) (e : ErrMark) : State :=
  let s := performAll s
  if e.space = .l2unit then s else { s with mem := { s.mem with errs := s.mem.errs ++ [e] } }

/-- The first entry of the agenda is done, or what the machine does by itself. -/
def nextMove (s : State) : Host.Outcome State Fault Refusal :=
  match s.sch.agenda with
  | [] => .next (defaultMove (advance s))
  | m :: r =>
    let s := advance { s with sch := { s.sch with agenda := r } }
    match m with
    | .event i => exec i s
    | .control a => controlMove s a
    | .detached id => .next (detachedStep s id)
    | .read fn off => .next (readBar0 s fn off)
    | .dropTlb k => .next { s with cache := { s.cache with tlb := s.cache.tlb.eraseIdx k } }
    | .dropWalk k => .next { s with cache := { s.cache with walks := s.cache.walks.eraseIdx k } }
    | .dropLine core line instr => .next (loseLine s core line instr)
    | .upset e => .next (upset s e)
    | .flash unit bad => .next (setFlash s unit bad)
    | .replay dram => .next (countClass s (if dram then 9 else 8) 1)
    | .d2dLost => .next (loseD2d s)
    | .flit port => .next (replayFlit s port)
    | .link port lanes peer => .next (trainPort s port lanes peer)
    | .slotPage p slot gone => .next (setSlotPage s p slot gone)
    | .perform k => .next (performNth s k)

/-! ### Placing a first instruction -/

/-- The PC of a placed instruction. -/
def placePc : Nat := 0x100

/-- The tables and the word of a placed instruction, in device DRAM: the identifier table at 0x1000, three levels of tables, and
a page of 2 MiB at 0x20_0000 that permits everything (R380 to R384). -/
def placeMem (m : Mem) (w : Nat) : Mem :=
  let put := fun (m : Mem) (a x : Nat) => mwrite m a (leList 8 x)
  mwrite (put (put (put (put m 0x1000 0x2001) 0x2000 0x3003) 0x3000 0x4003) 0x4000 0x2001E1) (0x200000 + placePc) (leList 4 w)

/-- The block of a partition that holds cluster 0, stack SE0 and identifier 0, and is enabled. -/
def placeRegs (m : KMap Word) : KMap Word :=
  kput (kput (kput (kput (kput m 0x000 1) 0x008 1) 0x010 1) 0x028 0) 0x200 0x1000

/-- A spore that has just been picked up into bank A of core 0, at the placed instruction. -/
def placeCtx : Ctx :=
  { Ctx.reset with
    life := { Life.reset with status := .running, winUnits := 32, tiles := 4 }
    fr := { Front.reset with pc := BitVec.ofNat 64 placePc } }

/-- What `withFetchWord` sets: the word with the tables that reach it, the partition, the spore, and the next step. -/
def placeWord (s : State) (w : Nat) : State :=
  let s := updPart s 0 fun q => { q with regs := placeRegs q.regs }
  let s := setCtx s (.bank 0 false) placeCtx
  let k := getCore s 0
  let s := setCore s 0 { k with icache := kerase k.icache ((0x200000 + placePc) / 128) }
  { s with
    sch := { s.sch with agenda := [.control (.bank 0 false)] }
    mem := { s.mem with dram := placeMem s.mem.dram w, errs := [] }
    cache := { s.cache with tlb := s.cache.tlb.filter fun t => t.asid != 0
                            walks := s.cache.walks.filter fun t => t.asid != 0 } }

end Sys2Proof.Machine
end

