-- ==== Sys2Proof/Machine/Step.lean ====
section
/-! DEFINITION. One step of the machine, and the placing of a first instruction. -/

namespace Sys2Proof.Machine

/-- One step: the first entry of the agenda, or what the machine does by itself (log 2). -/
def step (s : State) : Host.Outcome State Fault Refusal := nextMove s

/-- The state with an instruction word placed where the next step fetches (log 1). -/
def State.withFetchWord (s : State) (_nbits w : Nat) : State := placeWord s w

end Sys2Proof.Machine
end

