-- ==== Sys2Proof/Safety.lean ====
section
/-! DEFINITION. The terms claims are stated in: memories in canonical form, a word that executes normally on its context, a
routed engine word that runs to its end, and what stays as it was. -/

namespace Sys2Proof.Safety

open Sys2Proof.Machine

/-! ### Memories -/

/-- Every memory of the machine is in canonical form. -/
def memoriesCanonical (s : State) : Prop :=
  Memory.wf s.mem.dram = true ∧ Memory.wf s.mem.host = true ∧ Memory.wf s.mem.peer = true
    ∧ Memory.wf s.mem.scratch = true ∧ Memory.wf s.mem.seqScratch = true

/-- A run of bytes and the bytes outside it: `m'` is `m` with `bs` written at `at_`. -/
def writtenAt (m m' : Mem) (at_ : Nat) (bs : List Byte) : Prop :=
  mread m' at_ bs.length = bs ∧ ∀ x, x < at_ ∨ at_ + bs.length ≤ x → mget m' x = mget m x

/-! ### The context a word runs on -/

/-- The context of `sch.cur`: the one a control word runs on. -/
def cx (s : State) : Ctx := getCtx s s.sch.cur

/-- The state with one context put aside: two states that agree here differ in that context alone. -/
def elsewhere (s : State) (a : AgentId) : State := setCtx s a Ctx.reset

/-- The word passes the checks of R132 on a running context: it executes (R131, R132). -/
def ready (s : State) (i : Instr) : Bool :=
  (cx s).life.status == .running && (routeCheck (isSeq s.sch.cur) (cx s) i).isNone

/-- Words of the body of the macro call that a context is in (R148). -/
def bodyLen (s : State) : Nat :=
  match (cx s).fr.mac with
  | some m => (bodyOf s s.sch.cur m.entry).length
  | none => 0

/-- The front end past the word (R131, R145, R148). -/
def pastFront (s : State) (i : Instr) : Front := pastWord (isSeq s.sch.cur) (cx s) i (bodyLen s)

/-- The context with a scalar register written and its front end past the word; s0 is not written (R100). -/
def ctxAfter (s : State) (i : Instr) (d : Nat) (x : Word) : Ctx := { setS (cx s) d x with fr := pastFront s i }

/-- The state in which the word has written one scalar register, and nothing else but its front end has changed. -/
def stateAfter (s : State) (i : Instr) (d : Nat) (x : Word) : State := setCtx s s.sch.cur (ctxAfter s i d x)

/-! ### Routed engine words -/

/-- The engine that a word goes to (R22). -/
def engineOf (i : Instr) : Engine := engineOfField (engOf (rawOf i))

/-- The instruction is a word of one of the six engines (R22). -/
def engineWord (i : Instr) : Bool :=
  (encodeWord i).isSome && decide (1 ≤ engOf (rawOf i)) && decide (engOf (rawOf i) ≤ 6)

/-- The state in which the engine word `i`, whose fields as issued are those of `j`, has been routed and not started (R23). -/
def routed (s : State) (i j : Instr) : State :=
  retire (enqueue (keepFront s s.sch.cur) s.sch.cur (engineOf j) j (rawOf i)) s.sch.cur i

/-- What stands in the queue for it. -/
def queued (s : State) (i j : Instr) : QWord :=
  ⟨j, BitVec.ofNat 32 (rawOf i), curPc (cx s), s.sch.uid, captureOf (cx s) j (rawOf j)⟩

/-- The parity of its queue word (R438): whether it fails, and the state in which it has been tested. -/
def tested (s : State) (i j : Instr) : Bool × State := queueParity (routed s i j) s.sch.cur (queued s i j)

/-- The word passes the checks of R132 and its engine is free to start it: the engine is idle, nothing holds it, no barrier
stands, its token conditions hold and its queue word has no lasting parity error (R87, R132, R343, R438); routed words start at
once (log 3). -/
def starts (s : State) (i j : Instr) : Bool :=
  engineWord i && ready s i && effInstr (cx s).fr i == some j && s.sch.eager
    && (getE (cx s).eng (engineOf j)).queue.isEmpty && (getE (cx s).eng (engineOf j)).flying.isEmpty
    && mayStart (getCtx (routed s i j) s.sch.cur) s.sch.cur (engineOf j) (queued s i j)
    && !(tested s i j).1 && (claimFor (tested s i j).2 s.sch.cur (engineOf j) true).2

/-- The state in which it starts: for an M word the matrix operand state is its bank's (R225). -/
def startState (s : State) (i j : Instr) : State := (claimFor (tested s i j).2 s.sch.cur (engineOf j) true).1

/-- The run of the word from its start: its checks at the queue head and its accesses (R259, R260). -/
def wordRun (s : State) (i j : Instr) : Except Stop EDone × ERun :=
  runHead (startState s i j) s.sch.cur (engineOf j) (queued s i j)

/-- The word executes normally and completes in one step: it starts, passes its checks at the queue head, no access of it
faults, waits or fails, and the reply queue has room (R87, R88, R97, R259, R260). -/
def completes (s : State) (i j : Instr) : Bool :=
  starts s i j && (match wordRun s i j with
    | (.ok d, r) =>
      match d.fin with
      | some n => replyRoom (getCtx (popHead r.s s.sch.cur (engineOf j) (queued s i j) (flightOf (queued s i j) r d))
          s.sch.cur) n && !isMark (queued s i j)
      | none => false
    | _ => false)

/-- The word executes normally as far as its own steps go, and then waits for the operation it has started (R88, R274). -/
def waitsForOp (s : State) (i j : Instr) : Bool :=
  starts s i j && (match wordRun s i j with
    | (.ok d, _) => d.fin.isNone && d.op.isSome
    | _ => false)

end Sys2Proof.Safety
end

