-- ==== Sys2Proof/WellFormed.lean ====
section
/-! DEFINITION. Which instructions have operands inside the limits that depend on no machine state: the code fields of
control words (R134, R135, R169, R170), the ends of the data queues (R101), mask, slot and stream numbers (R103, R104,
R255), the fields of XEXT (R144),
and, for a step of the device, numbers of places that exist. The splitter makes these checks again, with those that
depend on the formats, on the mode and on the group (Machine/Route.lean). -/

namespace Sys2Proof

/-- The context exists: 384 cores of two banks, 32 sequencers (R16, R19, R25). -/
def AgentId.wellFormed : AgentId → Bool
  | .bank c _ => decide (c < 384)
  | .seq n => decide (n < 32)

/-- The power unit exists: 24 clusters (R16, R445). -/
def PowerUnit.wellFormed : PowerUnit → Bool
  | .cluster n => decide (n < 24)
  | .device => true

/-- The operands lie inside their limits. -/
def Instr.wellFormed : Instr → Bool
  | .nop _ => true
  | .add _ _ _ _ => true
  | .sub _ _ _ _ => true
  | .and _ _ _ _ => true
  | .or _ _ _ _ => true
  | .xor _ _ _ _ => true
  | .andn _ _ _ _ => true
  | .shl _ _ _ _ => true
  | .shr _ _ _ _ => true
  | .shra _ _ _ _ => true
  | .rotr _ _ _ _ => true
  | .mul _ _ _ _ => true
  | .mulhs _ _ _ _ => true
  | .mulhu _ _ _ _ => true
  | .div _ _ _ _ => true
  | .divu _ _ _ _ => true
  | .rem _ _ _ _ => true
  | .remu _ _ _ _ => true
  | .min _ _ _ _ => true
  | .max _ _ _ _ => true
  | .minu _ _ _ _ => true
  | .maxu _ _ _ _ => true
  | .slt _ _ _ _ => true
  | .sltu _ _ _ _ => true
  | .seq _ _ _ _ => true
  | .clz _ _ _ => true
  | .ctz _ _ _ => true
  | .popc _ _ _ => true
  | .brev _ _ _ => true
  | .sext _ _ _ _ => true
  | .zext _ _ _ _ => true
  | .addi _ _ _ _ => true
  | .andi _ _ _ _ => true
  | .ori _ _ _ _ => true
  | .xori _ _ _ _ => true
  | .shli _ _ _ _ => true
  | .shri _ _ _ _ => true
  | .shrai _ _ _ _ => true
  | .slti _ _ _ _ => true
  | .sltui _ _ _ _ => true
  | .seqi _ _ _ _ => true
  | .lui _ _ _ => true
  | .auipc _ _ _ => true
  | .ldb _ _ _ _ => true
  | .ldbu _ _ _ _ => true
  | .ldh _ _ _ _ => true
  | .ldhu _ _ _ _ => true
  | .ldw _ _ _ _ => true
  | .ldwu _ _ _ _ => true
  | .ldd _ _ _ _ => true
  | .stb _ _ _ _ => true
  | .sth _ _ _ _ => true
  | .stw _ _ _ _ => true
  | .std _ _ _ _ => true
  | .amo _ _ _ _ s o => decide (s.toNat ≤ 4) && o != 7
  | .amoa _ _ _ _ s o => decide (s.toNat ≤ 4) && o != 7
  | .amor _ _ _ _ s o => decide (s.toNat ≤ 4) && o != 7
  | .amoar _ _ _ _ s o => decide (s.toNat ≤ 4) && o != 7
  | .amop _ _ _ _ s o => decide (s.toNat ≤ 4) && o != 7 && s != 0
  | .cas _ _ _ _ s o => decide (s.toNat ≤ 4) && decide (o.toNat ≤ 4) && !(o == 4 && s == 0)
  | .fence _ _ s _ => decide (s.toNat ≤ 4)
  | .prefl _ h _ _ => decide (h.toNat ≤ 2)
  | .beq _ _ _ _ => true
  | .bne _ _ _ _ => true
  | .blt _ _ _ _ => true
  | .bge _ _ _ _ => true
  | .bltu _ _ _ _ => true
  | .bgeu _ _ _ _ => true
  | .jal _ _ _ => true
  | .jalr _ _ _ _ => true
  | .yield _ => true
  | .exit _ => true
  | .spawn _ _ _ => true
  | .cont _ _ _ => true
  | .waitgeLocal _ a _ => decide (a.toNat < 16)
  | .waitge _ _ _ s => decide (s.toNat ≤ 4)
  | .signalLocal _ a _ => decide (a.toNat < 16)
  | .signal _ _ _ s => decide (s.toNat ≤ 4)
  | .popr _ _ => true
  | .peekr _ _ => true
  | .fork _ _ _ _ _ _ => true
  | .msend _ _ _ => true
  | .mrecv _ _ _ => true
  | .nest _ n _ _ => decide (n.toNat < 8)
  | .cstore _ _ _ _ => true
  | .l2pin _ _ _ _ _ => true
  | .l2unpin _ _ => true
  | .csrr _ _ _ => true
  | .csrw _ _ _ _ => true
  | .csrs _ _ _ _ => true
  | .csrc _ _ _ _ => true
  | .ecall _ _ => true
  | .ebreak _ _ => true
  | .eret _ => true
  | .wfe _ => true
  | .tlbinv _ _ _ _ _ => true
  | .sev _ => true
  | .vadd _ _ _ d a b => d != 30 && a != 31 && b != 31
  | .vsub _ _ _ d a b => d != 30 && a != 31 && b != 31
  | .vaddsat _ _ _ d a b => d != 30 && a != 31 && b != 31
  | .vsubsat _ _ _ d a b => d != 30 && a != 31 && b != 31
  | .vavg _ _ _ d a b => d != 30 && a != 31 && b != 31
  | .vmul _ _ _ d a b => d != 30 && a != 31 && b != 31
  | .vmulhi _ _ _ d a b => d != 30 && a != 31 && b != 31
  | .vmac _ _ _ d a b => d != 30 && a != 31 && b != 31
  | .vmin _ _ _ d a b => d != 30 && a != 31 && b != 31
  | .vmax _ _ _ d a b => d != 30 && a != 31 && b != 31
  | .vabs _ _ _ d a => d != 30 && a != 31
  | .vand _ _ _ d a b => d != 30 && a != 31 && b != 31
  | .vor _ _ _ d a b => d != 30 && a != 31 && b != 31
  | .vxor _ _ _ d a b => d != 30 && a != 31 && b != 31
  | .vshl _ _ _ d a b => d != 30 && a != 31 && b != 31
  | .vshr _ _ _ d a b => d != 30 && a != 31 && b != 31
  | .vfadd _ _ _ d a b => d != 30 && a != 31 && b != 31
  | .vfsub _ _ _ d a b => d != 30 && a != 31 && b != 31
  | .vfmul _ _ _ d a b => d != 30 && a != 31 && b != 31
  | .vfma _ _ _ d a b => d != 30 && a != 31 && b != 31
  | .vfms _ _ _ d a b => d != 30 && a != 31 && b != 31
  | .vfmin _ _ _ d a b => d != 30 && a != 31 && b != 31
  | .vfmax _ _ _ d a b => d != 30 && a != 31 && b != 31
  | .vfabs _ _ _ d a => d != 30 && a != 31
  | .vfneg _ _ _ d a => d != 30 && a != 31
  | .vcvt _ _ _ d a => d != 30 && a != 31
  | .vwiden _ _ _ d a => d != 30 && a != 31
  | .vnarrow _ _ _ d a => d != 30 && a != 31
  | .vwmul _ _ _ d a b => d != 30 && a != 31 && b != 31
  | .vwmac _ _ _ d a b => d != 30 && a != 31 && b != 31
  | .vaccrd _ _ _ d _ _ => d != 30
  | .vaccwr _ _ _ _ _ b => b != 31
  | .vcmpeq _ _ _ d a b => decide (d.toNat < 8) && a != 31 && b != 31
  | .vcmpne _ _ _ d a b => decide (d.toNat < 8) && a != 31 && b != 31
  | .vcmplt _ _ _ d a b => decide (d.toNat < 8) && a != 31 && b != 31
  | .vcmple _ _ _ d a b => decide (d.toNat < 8) && a != 31 && b != 31
  | .vsel _ _ _ d a b => d != 30 && a != 31 && b != 31
  | .vmlogic _ _ _ d a b => decide (d.toNat < 8) && decide (a.toNat < 8) && decide (b.toNat < 8)
  | .vmpopc _ _ _ a => decide (a.toNat < 8)
  | .vmfirst _ _ _ a => decide (a.toNat < 8)
  | .vperm _ _ _ d a b => d != 30 && a != 31 && b != 31
  | .vbcast _ _ _ d b => d != 30 && b != 31
  | .viota _ _ _ d a => d != 30 && decide (a.toNat < 8)
  | .vredsum _ _ _ d a => d != 30 && a != 31
  | .vredmin _ _ _ d a => d != 30 && a != 31
  | .vredmax _ _ _ d a => d != 30 && a != 31
  | .vargmin _ _ _ a => a != 31
  | .vslide _ _ _ d a b => d != 30 && a != 31 && b != 31
  | .vtopn _ _ _ d a => d != 30 && a != 31 && d.toNat % 2 == 0
  | .vspread _ _ _ d a b => d != 30 && a != 31 && b != 31
  | .vpack _ _ _ d a b => d != 30 && a != 31 && decide (b.toNat < 8)
  | .vunpack _ _ _ d a b => d != 30 && a != 31 && decide (b.toNat < 8)
  | .vhash _ _ _ d a b => d != 30 && a != 31 && b != 31
  | .vpopcnt _ _ _ d a => d != 30 && a != 31
  | .vxorpc _ _ _ d a b => d != 30 && a != 31 && b != 31
  | .vlut _ _ _ d a b => d != 30 && a != 31 && b != 31
  | .vrcp _ _ _ d a => d != 30 && a != 31
  | .vrsq _ _ _ d a => d != 30 && a != 31
  | .vrcpref _ _ _ d a b => d != 30 && a != 31 && b != 31
  | .vrsqref _ _ _ d a b => d != 30 && a != 31 && b != 31
  | .vexp2 _ _ _ d a => d != 30 && a != 31
  | .vlog2 _ _ _ d a => d != 30 && a != 31
  | .sbind _ _ d a => decide (d.toNat < 8) && decide (a.toNat < 8)
  | .sisect _ _ d a b => decide (d.toNat < 8) && decide (a.toNat < 8) && decide (b.toNat < 8) && a != b
  | .sunion _ _ d a b => decide (d.toNat < 8) && decide (a.toNat < 8) && decide (b.toNat < 8) && a != b
  | .ssub _ _ d a b => decide (d.toNat < 8) && decide (a.toNat < 8) && decide (b.toNat < 8) && a != b
  | .smadd _ _ d a b => decide (d.toNat < 8) && decide (a.toNat < 8) && decide (b.toNat < 8) && a != b
  | .scount _ _ a => decide (a.toNat < 8)
  | .sreset _ _ d => decide (d.toNat < 8)
  | .vreply _ _ a => a != 31
  | .mldb _ _ _ _ => true
  | .mswap _ _ => true
  | .mma _ _ _ _ _ f _ _ s g => f != 3 && (s || g == 0)
  | .mscq _ _ _ _ _ => true
  | .mzero _ _ _ => true
  | .mdrain _ _ _ _ k _ => k != 3
  | .mgo _ _ _ _ _ => true
  | .matt _ _ _ _ _ _ => true
  | .mlatld _ _ _ _ _ => true
  | .mlat _ _ _ _ k _ => k != 3
  | .mbjoin _ _ _ _ => true
  | .mbleave _ _ _ => true
  | .mpop _ _ _ _ => true
  | .mquiet _ _ => true
  | .lcp _ _ _ _ _ _ _ => true
  | .lgo _ _ n _ _ _ _ => decide (n.toNat < 8)
  | .lgath _ _ _ _ _ _ _ => true
  | .lpref _ _ _ _ => true
  | .lq _ _ _ _ _ => true
  | .lqx _ _ _ _ => true
  | .lring _ _ _ _ => true
  | .lmark _ _ _ => true
  | .lsbind _ _ _ _ k => decide (k.toNat < 6)
  | .lhint _ _ _ _ => true
  | .scp _ _ _ _ _ _ _ => true
  | .sgo _ _ n _ _ _ _ => decide (n.toNat < 8)
  | .sscat _ _ _ _ _ _ => true
  | .sq _ _ _ _ _ _ _ => true
  | .sring _ _ _ _ => true
  | .smark _ _ _ => true
  | .ssbind _ _ _ _ _ => true
  | .sflush _ _ _ _ _ _ _ => true
  | .szero _ _ _ _ => true
  | .tcvt _ _ _ _ _ => true
  | .tcopy _ _ _ _ _ _ => true
  | .trope _ _ _ _ _ _ => true
  | .tsplice _ _ _ _ _ _ => true
  | .tfill _ _ _ _ _ _ => true
  | .tkvapp _ _ _ _ _ _ => true
  | .tchk _ _ _ _ _ => true
  | .qsearch _ _ _ _ _ _ => true
  | .qfetch _ _ _ _ _ _ => true
  | .qinsert _ _ _ _ _ _ => true
  | .qdelete _ _ _ _ _ _ => true
  | .qwalk _ _ _ _ _ _ => true
  | .qcancel _ _ _ => true
  | .qstat _ _ _ => true
  | .qsnap _ _ _ _ _ _ => true
  | .xext m z r _ _ => r != 5 && r != 6 && !(m == 0 && z)
  | .xrep _ _ _ _ => true
  | .xcall _ _ _ _ _ => true
  | .xlimm _ => true
  | .xsca _ => true
  | .wordStart a _ => a.wellFormed
  | .wordComplete a _ => a.wellFormed
  | .broadcastDelivery cluster _ _ => decide (cluster < 24)
  | .tokdead a => a.wellFormed
  | .suspend a => a.wellFormed
  | .exitRetire a => a.wellFormed
  | .pickup p => decide (p < 8)
  | .faultBatchClose p => decide (p < 8)
  | .fansRetry p _ _ => decide (p < 8)
  | .fansAbort p _ _ => decide (p < 8)
  | .gatherElementRead _ _ => true
  | .scatterElement _ => true
  | .trapEntry a => a.wellFormed
  | .yieldRequest p => decide (p < 8)
  | .yieldlate a => a.wellFormed
  | .aging p _ => decide (p < 8)
  | .itemCreate p _ _ => decide (p < 8)
  | .gateTest p _ _ => decide (p < 8)
  | .waitEntryTest p _ => decide (p < 8)
  | .spawnImageEnqueue p _ => decide (p < 8)
  | .stageItemIssue p _ _ => decide (p < 8)
  | .launch p ring => decide (p < 8) && decide (ring < 4)
  | .withdraw p ring => decide (p < 8) && decide (ring < 4)
  | .nopEntry p ring => decide (p < 8) && decide (ring < 4)
  | .launchCompletion p ring => decide (p < 8) && decide (ring < 4)
  | .sqdb p ring _ => decide (p < 8) && decide (ring < 4)
  | .cqhead p ring _ => decide (p < 8) && decide (ring < 4)
  | .ringEnable p ring _ => decide (p < 8) && decide (ring < 4)
  | .ringDisable p ring _ => decide (p < 8) && decide (ring < 4)
  | .rebase p ring _ => decide (p < 8) && decide (ring < 4)
  | .irqst p _ => decide (p < 8)
  | .irqmask p _ => decide (p < 8)
  | .irqModeration p ring => decide (p < 8) && decide (ring < 4)
  | .vfbind _ => true
  | .bar2Read fn _ _ => decide (fn ≤ 8)
  | .bar2Write fn _ _ => decide (fn ≤ 8)
  | .functionLevelReset fn => decide (fn ≤ 8)
  | .partitionEnable p _ => decide (p < 8)
  | .partitionDisable p _ => decide (p < 8)
  | .disableComplete p => decide (p < 8)
  | .trlost p => decide (p < 8)
  | .frlost p => decide (p < 8)
  | .erlost p => decide (p < 8)
  | .rsstat p => decide (p < 8)
  | .hstat fn => decide (fn ≤ 8) || (decide (16 ≤ fn) && decide (fn < 24))
  | .ecnt i => decide (i ≤ 10)
  | .lbport i => decide (i < 16)
  | .registerWrite fn _ _ => decide (fn ≤ 8)
  | .rgcfgWrite a n _ => a.wellFormed && decide (n < 8)
  | .ticmd p _ => decide (p < 8)
  | .tlbInvalDone _ => true
  | .format p => decide (p < 8)
  | .create p => decide (p < 8)
  | .putnodes p => decide (p < 8)
  | .seal p => decide (p < 8)
  | .mount p => decide (p < 8)
  | .unmount p => decide (p < 8)
  | .drop p => decide (p < 8)
  | .merge p => decide (p < 8)
  | .putobj p => decide (p < 8)
  | .delobj p => decide (p < 8)
  | .clearbad p => decide (p < 8)
  | .searchAccept _ => true
  | .searchRound _ => true
  | .searchEnd _ => true
  | .fetchAccept _ => true
  | .fetchObjectEnd _ _ => true
  | .fetchEnd _ => true
  | .logAppend _ => true
  | .qsnapRead _ => true
  | .walkRecord _ _ => true
  | .pageReadAttempt _ _ => true
  | .mergeStart _ => true
  | .mergePublish _ => true
  | .unitfail unit => decide (unit < 8)
  | .streamStop n => decide (n < 32)
  | .streamExit n => decide (n < 32)
  | .wfeTimeout a => a.wellFormed
  | .labenInboundRequest r => decide (r.src < 256)
  | .labenTimeout a _ => a.wellFormed
  | .laneFail port _ => decide (port < 16)
  | .powerGood => true
  | .bringupPhaseComplete _ _ => true
  | .rcvimg _ fn => decide (fn ≤ 8)
  | .atcmd _ => true
  | .attestDone => true
  | .lattol p _ => decide (p < 8)
  | .powerStateEntry u => u.wellFormed
  | .powerStateExit u => u.wellFormed
  | .powerExitComplete u => u.wellFormed
  | .patrolScrub _ => true
  | .illegalWord _ => true
  | .rscmd p _ => decide (p < 8)
  | .powerLoss => true

end Sys2Proof
end

