-- ==== Sys2Proof/Certificates/Slice0/Obligations.lean ====
section
/-! DEFINITION. The statements: what each instruction and each step of the device does, and what it leaves alone. The helper
definitions before a statement write out, from the rules of the spec, the values it states. -/

namespace Sys2Proof.Claims

open Sys2Proof.Machine Sys2Proof.Safety

/-! ### Integer words -/

/-- The value of a source register of a control word: field `k` holds register number `r` (R145, R148). -/
def src (c : Ctx) (k : Nat) (r : BitVec 5) : Word := getS c (effReg c k r)

/-- 1 for a condition that holds and 0 otherwise. -/
def flag (p : Prop) [Decidable p] : Word := if p then 1 else 0

/-- Destination and value of a three-register word (R161, R162). -/
def value3 (c : Ctx) (d a b : BitVec 5) (f : Word → Word → Word) : Option (Nat × Word) :=
  some (effReg c 1 d, f (src c 2 a) (src c 3 b))

/-- Destination and value of a two-register word (R161, R163). -/
def value2 (c : Ctx) (d a : BitVec 5) (f : Word → Word) : Option (Nat × Word) := some (effReg c 1 d, f (src c 2 a))

/-- Destination and value of an immediate word (R163). -/
def valueI (c : Ctx) (d a : BitVec 5) (m : BitVec 11) (f : Word → Word → Word) : Option (Nat × Word) :=
  some (effReg c 1 d, f (src c 2 a) (effImm c m))

/-- The register an integer word writes and the value it writes there (R161 to R163); none for other words. -/
def integerResult (c : Ctx) : Instr → Option (Nat × Word)
  | .add _ d a b => value3 c d a b fun x y => x + y
  | .sub _ d a b => value3 c d a b fun x y => x - y
  | .and _ d a b => value3 c d a b fun x y => x &&& y
  | .or _ d a b => value3 c d a b fun x y => x ||| y
  | .xor _ d a b => value3 c d a b fun x y => x ^^^ y
  | .andn _ d a b => value3 c d a b fun x y => x &&& ~~~y
  | .shl _ d a b => value3 c d a b fun x y => x <<< (y &&& 63)
  | .shr _ d a b => value3 c d a b fun x y => x >>> (y &&& 63)
  | .shra _ d a b => value3 c d a b fun x y => x.sshiftRight (y &&& 63).toNat
  | .rotr _ d a b => value3 c d a b fun x y => x.rotateRight (y &&& 63).toNat
  | .mul _ d a b => value3 c d a b fun x y => x * y
  | .mulhs _ d a b => value3 c d a b fun x y => BitVec.extractLsb' 64 64 (x.signExtend 128 * y.signExtend 128)
  | .mulhu _ d a b => value3 c d a b fun x y => BitVec.extractLsb' 64 64 (x.zeroExtend 128 * y.zeroExtend 128)
  | .div _ d a b => value3 c d a b fun x y => if y = 0 then BitVec.allOnes 64 else x.sdiv y
  | .divu _ d a b => value3 c d a b fun x y => if y = 0 then BitVec.allOnes 64 else x / y
  | .rem _ d a b => value3 c d a b fun x y => if y = 0 then x else x.srem y
  | .remu _ d a b => value3 c d a b fun x y => if y = 0 then x else x % y
  | .min _ d a b => value3 c d a b fun x y => if x.slt y then x else y
  | .max _ d a b => value3 c d a b fun x y => if y.slt x then x else y
  | .minu _ d a b => value3 c d a b fun x y => if x < y then x else y
  | .maxu _ d a b => value3 c d a b fun x y => if y < x then x else y
  | .slt _ d a b => value3 c d a b fun x y => flag (x.slt y)
  | .sltu _ d a b => value3 c d a b fun x y => flag (x < y)
  | .seq _ d a b => value3 c d a b fun x y => flag (x = y)
  | .clz _ d a => value2 c d a fun x => x.clz
  | .ctz _ d a => value2 c d a fun x => x.ctz
  | .popc _ d a => value2 c d a fun x => x.cpop
  | .brev _ d a => value2 c d a fun x => x.reverse
  | .sext _ d a w => value2 c d a fun x => (x.setWidth (w.toNat + 1)).signExtend 64
  | .zext _ d a w => value2 c d a fun x => (x.setWidth (w.toNat + 1)).setWidth 64
  | .addi _ d a m => valueI c d a m fun x y => x + y
  | .andi _ d a m => valueI c d a m fun x y => x &&& y
  | .ori _ d a m => valueI c d a m fun x y => x ||| y
  | .xori _ d a m => valueI c d a m fun x y => x ^^^ y
  | .shli _ d a n => value2 c d a fun x => x <<< n
  | .shri _ d a n => value2 c d a fun x => x >>> n
  | .shrai _ d a n => value2 c d a fun x => x.sshiftRight n.toNat
  | .slti _ d a m => valueI c d a m fun x y => flag (x.slt y)
  | .sltui _ d a m => valueI c d a m fun x y => flag (x < y)
  | .seqi _ d a m => valueI c d a m fun x y => flag (x = y)
  | .lui _ d m => some (effReg c 1 d, effImmJ c m <<< 16)
  | .auipc _ d m => some (effReg c 1 d, c.fr.pc + effImmJ c m <<< 16)
  | _ => none

end Sys2Proof.Claims

section

open Sys2Proof Sys2Proof.Machine Sys2Proof.Safety Sys2Proof.Claims

/-- R161, R162, R163: an integer word that passes the checks of R132 writes its result to its destination register (s0 is not
written, R100), moves past the word, and changes nothing else. -/
def Obligations.IntegerWords : Prop :=
  ∀ (s : State) (i : Instr) (d : Nat) (x : Word),
    ready s i = true → integerResult (cx s) i = some (d, x) → exec i s = .next (stateAfter s i d x)

end

namespace Sys2Proof.Claims

open Sys2Proof.Machine Sys2Proof.Safety

/-! ### Prefix words -/

/-- The prefixes once a prefix word has been added to them (R144 to R147); none for other words, and where one of its kind
has been met (R143). -/
def prefixesWith (f : Front) : Instr → Option Prefixes
  | .xext m z r t x => if f.pfx.ext = none then some { f.pfx with ext := some ⟨m, z, r, t, x⟩ } else none
  | .xrep n x y w => if f.pfx.rep = none then some { f.pfx with rep := some ⟨n, x, y, w⟩ } else none
  | .xlimm h => if f.pfx.limm = none then some { f.pfx with limm := some h } else none
  | .xsca r => if f.pfx.sca = none then some { f.pfx with sca := some (match f.mac with
      | some m => BitVec.ofNat 5 (subS m r.toNat)
      | none => r) } else none
  | _ => none

/-- The front end past a prefix word: the next word of the stream or of the body, in the same group (R143, R150). -/
def pastPrefix (f : Front) (p : Prefixes) : Front :=
  match f.mac with
  | none => { f with pfx := p, stall := .none, pc := f.pc + 4, grp := { f.grp with count := f.grp.count + 1 } }
  | some m => { f with pfx := p, stall := .none
                       mac := some { m with idx := m.idx + 1, grp := { m.grp with count := m.grp.count + 1 } } }

/-! ### Branches and jumps -/

/-- The condition of a conditional branch, and the offset to its target when it is taken (R171). -/
def branchOf (c : Ctx) : Instr → Option (Bool × Word)
  | .beq _ a b m => some (src c 1 a == src c 2 b, effImmB c m)
  | .bne _ a b m => some (src c 1 a != src c 2 b, effImmB c m)
  | .blt _ a b m => some ((src c 1 a).slt (src c 2 b), effImmB c m)
  | .bge _ a b m => some (!(src c 1 a).slt (src c 2 b), effImmB c m)
  | .bltu _ a b m => some (decide (src c 1 a < src c 2 b), effImmB c m)
  | .bgeu _ a b m => some (!decide (src c 1 a < src c 2 b), effImmB c m)
  | _ => none

/-- The state in which the context of `sch.cur` goes on at an address, in a new group, after register `d` has been written
(R171, R172). -/
def wentTo (s : State) (d : Nat) (x t : Word) : State :=
  setCtx s s.sch.cur { setS (cx s) d x with fr := { Front.reset with pc := t } }

end Sys2Proof.Claims

section

open Sys2Proof Sys2Proof.Machine Sys2Proof.Safety Sys2Proof.Claims

/-- R134, R143 to R148: NOP only moves past its word; a prefix word is remembered for its target and the next word follows;
XCALL goes to the first word of the body of a loaded entry and keeps its substitutions. Nothing else changes. -/
def Obligations.NopPrefixAndCallWords : Prop :=
  (∀ (s : State) (z : Bool), ready s (.nop z) = true →
    exec (.nop z) s = .next (setCtx s s.sch.cur { cx s with fr := pastFront s (.nop z) }))
  ∧ (∀ (s : State) (i : Instr) (p : Prefixes),
    (cx s).life.status = .running → (cx s).trap.smode = false → (curGroup (cx s).fr).count < 8 →
    prefixesWith (cx s).fr i = some p →
    exec i s = .next (setCtx s s.sch.cur { cx s with fr := pastPrefix (cx s).fr p }))
  ∧ (∀ (s : State) (core : Nat) (b z : Bool) (e sb vb : BitVec 5) (m : BitVec 9),
    s.sch.cur = .bank core b → (cx s).life.status = .running → (cx s).trap.smode = false →
    (cx s).fr.pfx = Prefixes.reset → sb.toNat ≤ 28 → vb.toNat ≤ 28 → z = true → (cx s).fr.grp.count < 8 →
    bodyOf s s.sch.cur e.toNat ≠ [] →
    exec (.xcall z e sb vb m) s = .next (setCtx s s.sch.cur { cx s with fr := { (cx s).fr with
      mac := some ⟨e.toNat, 0, sb.toNat, vb.toNat, m, (cx s).fr.pc, GroupSt.reset⟩, stall := .none } }))

/-- R171: a conditional branch whose condition fails moves past the word; one whose condition holds goes to PC + 4 × imm in a
new group, or takes ACCESS when that address has bits 63:48 (R172). Nothing else changes. -/
def Sys2Proof.Claims.conditionalBranches : Prop :=
  ∀ (s : State) (i : Instr) (p : Bool) (o : Word), ready s i = true → branchOf (cx s) i = some (p, o) →
    exec i s = .next (
      if p = false then setCtx s s.sch.cur { cx s with fr := pastFront s i }
      else if (cx s).fr.pc + o <<< 2 < 2 ^ 48 then wentTo s 0 0 ((cx s).fr.pc + o <<< 2)
      else raiseCtl s s.sch.cur 6 ((cx s).fr.pc + o <<< 2) 0)

/-- R172: JAL and JALR write PC + 4 to d and go to their target; JALR takes MISALIGN when the target is no multiple of 4, and
both take ACCESS when it has bits 63:48; d is then not written. -/
def Sys2Proof.Claims.jumps : Prop :=
  (∀ (s : State) (z : Bool) (d : BitVec 5) (m : BitVec 16), ready s (.jal z d m) = true →
    exec (.jal z d m) s = .next (
      if (cx s).fr.pc + effImmJ (cx s) m <<< 2 < 2 ^ 48 then
        wentTo s (effReg (cx s) 1 d) ((cx s).fr.pc + 4) ((cx s).fr.pc + effImmJ (cx s) m <<< 2)
      else raiseCtl s s.sch.cur 6 ((cx s).fr.pc + effImmJ (cx s) m <<< 2) 0))
  ∧ (∀ (s : State) (z : Bool) (d a : BitVec 5) (m : BitVec 11), ready s (.jalr z d a m) = true →
    exec (.jalr z d a m) s = .next (
      if (src (cx s) 2 a + effImm (cx s) m) % 4 ≠ 0 then
        raiseCtl s s.sch.cur 5 (src (cx s) 2 a + effImm (cx s) m) 0
      else if src (cx s) 2 a + effImm (cx s) m < 2 ^ 48 then
        wentTo s (effReg (cx s) 1 d) ((cx s).fr.pc + 4) (src (cx s) 2 a + effImm (cx s) m)
      else raiseCtl s s.sch.cur 6 (src (cx s) 2 a + effImm (cx s) m) 0))

end

namespace Sys2Proof.Claims

open Sys2Proof.Machine Sys2Proof.Safety

/-! ### Memory words of the control core -/

/-- No memory has changed. -/
def sameMemory (s t : State) : Prop := t.mem = s.mem

/-- The memory that a place lies in has the bytes there, and no other byte of any memory has changed (R164); which words an AMOP's
release sequence reaches (R316) is put aside. -/
def wroteAt (s t : State) (l : Loc) (bs : List Byte) : Prop :=
  let m := { s.mem with promo := t.mem.promo }
  if l.typ = 0 then writtenAt s.mem.dram t.mem.dram l.pa bs ∧ t.mem = { m with dram := t.mem.dram }
  else if l.typ = 1 then writtenAt s.mem.host t.mem.host l.pa bs ∧ t.mem = { m with host := t.mem.host }
  else writtenAt s.mem.peer t.mem.peer (peerKey l.peer l.pa) bs ∧ t.mem = { m with peer := t.mem.peer }

/-- The counts of L2 accesses put aside (R126). -/
def withoutCounts (c : Ctx) : Ctx := { c with csr := { c.csr with l2hits := 0, l2miss := 0, l2cmpl := 0 } }

/-- A word of the context of `sch.cur` has changed nothing but its own context, memories and caches. -/
def onlyHere (s t : State) : Prop :=
  elsewhere { t with cache := s.cache, mem := s.mem, cores := s.cores } s.sch.cur = elsewhere s s.sch.cur
    ∧ ∀ n, { getCore t n with dcache := [] } = { getCore s n with dcache := [] }

/-- The context after a word that writes one register and reaches memory: nothing else of it has changed but the counts of
L2 accesses. -/
def ctxIs (s t : State) (i : Instr) (d : Nat) (x : Word) : Prop :=
  withoutCounts (getCtx t s.sch.cur) = withoutCounts (ctxAfter s i d x)

/-- Destination, base, offset, width in bytes of a load, and whether it extends the sign (R164). -/
def loadOf : Instr → Option (BitVec 5 × BitVec 5 × BitVec 11 × Nat × Bool)
  | .ldb _ d a m => some (d, a, m, 1, true)
  | .ldbu _ d a m => some (d, a, m, 1, false)
  | .ldh _ d a m => some (d, a, m, 2, true)
  | .ldhu _ d a m => some (d, a, m, 2, false)
  | .ldw _ d a m => some (d, a, m, 4, true)
  | .ldwu _ d a m => some (d, a, m, 4, false)
  | .ldd _ d a m => some (d, a, m, 8, false)
  | _ => none

/-- The value of a load of `n` bytes (R164). -/
def extended (signed : Bool) (n x : Nat) : Word :=
  if signed then (BitVec.ofNat (8 * n) x).signExtend 64 else BitVec.ofNat 64 x

/-- Source, base, offset and width in bytes of a store (R164). -/
def storeOf : Instr → Option (BitVec 5 × BitVec 5 × BitVec 11 × Nat)
  | .stb _ b a m => some (b, a, m, 1)
  | .sth _ b a m => some (b, a, m, 2)
  | .stw _ b a m => some (b, a, m, 4)
  | .std _ b a m => some (b, a, m, 8)
  | _ => none

/-- The new value that an AMO gives memory from the old one and its operand (R135, R166). -/
def amoValue (op : Nat) (old x : Word) : Word :=
  if op = 0 then x else if op = 1 then old + x else if op = 2 then old &&& x else if op = 3 then old ||| x
  else if op = 4 then old ^^^ x else if op = 5 then (if old < x then old else x) else if old < x then x else old

/-- The address register of an atomic and what it does at its place, with its scope and whether it acquires and promotes (R166 to
R169, R175); CAS compares with d. -/
def atomicOf (c : Ctx) : Instr → Option (BitVec 5 × HeldAct)
  | .amo _ d a b sc op => some (a, .amo (effReg c 1 d) op.toNat (src c 3 b) sc.toNat false false)
  | .amoa _ d a b sc op => some (a, .amo (effReg c 1 d) op.toNat (src c 3 b) sc.toNat true false)
  | .amor _ d a b sc op => some (a, .amo (effReg c 1 d) op.toNat (src c 3 b) sc.toNat false false)
  | .amoar _ d a b sc op => some (a, .amo (effReg c 1 d) op.toNat (src c 3 b) sc.toNat true false)
  | .amop _ d a b sc op => some (a, .amo (effReg c 1 d) op.toNat (src c 3 b) sc.toNat true true)
  | .cas _ d a b sc o =>
    some (a, .cas (effReg c 1 d) (src c 1 d) (src c 3 b) sc.toNat (decide (o = 1 ∨ o = 3 ∨ o = 4)) (decide (o = 4)))
  | .signal _ a b _ => some (a, .signal (src c 3 b))
  | _ => none

/-- The address and the alignment of a load, a store or an atomic (R160, R164, R166, R167). -/
def accessOf (c : Ctx) (i : Instr) : Option (Word × Nat) :=
  match loadOf i, storeOf i, atomicOf c i with
  | some (_, a, m, n, _), _, _ => some (src c 2 a + effImm c m, n)
  | _, some (_, a, m, n), _ => some (src c 2 a + effImm c m, n)
  | _, _, some (a, _) => some (src c 2 a, 8)
  | _, _, _ => none

/-- The access that an atomic acquires by, with its scope (R166 to R168). -/
def acquiresAt : HeldAct → Option Nat
  | .amo _ _ _ scope true _ | .cas _ _ _ scope true _ => some scope
  | _ => none

/-- What performing an access has done (R122, R164, R166 to R169, R175), from the state `v` to `t`: the bytes of its place, the register it
writes, and, when it acquires at cluster scope or wider, the data cache of its core, which is then empty. The context is otherwise the
one that `g` gives, but for the counts of L2 accesses. -/
def performed (v t : State) (a : AgentId) (l : Loc) (act : HeldAct) (g : Ctx → Ctx) : Prop :=
  let is := fun (c : Ctx) => withoutCounts (getCtx t a) = withoutCounts (g c)
  let c := getCtx v a
  let old := BitVec.ofNat 64 (leVal (locRead v l 8))
  (match act with
    | .store bs => wroteAt v t l bs ∧ is c
    | .load d n signed => sameMemory v t
        ∧ (is (setS c d (extended signed n (leVal (locRead v l n))))
          ∨ ∃ line, dcLine v a l = some line ∧ is (setS c d (extended signed n (leVal ((line.drop (l.pa % 128)).take n)))))
    | .amo d op x _ _ _ => wroteAt v t l (leList 8 (amoValue op old x).toNat) ∧ is (setS c d old)
    | .cas d was new _ _ _ => (if old = was then wroteAt v t l (leList 8 new.toNat) else sameMemory v t) ∧ is (setS c d old)
    | .signal x => wroteAt v t l (leList 8 (old + x).toNat) ∧ is c)
  ∧ match acquiresAt act with
    | some scope => 1 ≤ scope → (getCore t (coreTlb a)).dcache = []
    | none => True

/-- The word has made its checks and goes on with its access: that is performed at once, after those of its context that still wait, or it
waits in its turn while accesses are buffered (R318; the model's buffer, log 89). No other context changes. -/
def accessRuns (s s' : State) (i : Instr) (l : Loc) (act : HeldAct) : Prop :=
  ∃ t, exec i s = .next t ∧ onlyHere s t
    ∧ (if s.sch.buffer then
        t.mem = { s.mem with buf := s.mem.buf ++ [⟨ctxKey s.sch.cur, l, act⟩] } ∧ ctxIs s t i 0 0
      else
        performed (performOwn s' s.sch.cur) t s.sch.cur l act fun c => { c with fr := pastFront s i })

/-- The bytes of a range that a control word reads, with the state after the reads, when the address is aligned and below 2^48 and
every page of the range passes its checks (R160, R389). -/
def rangeRead (s : State) (va : Word) (n align : Nat) : Option (List Byte × State) :=
  if va.toNat % align ≠ 0 ∨ 2 ^ 48 ≤ va.toNat ∨ (cx s).fr.abort ≠ none ∨ s.mem.errs ≠ [] then none
  else
    match ctlPieces s s.sch.cur .read (pagePieces va.toNat (pieceFuel n) n) with
    | (ls, [], false, false, s') =>
      some (ctlLoads s' s.sch.cur ((ls.map fun x => linePieces x.1 (x.2 / 128 + 2) x.2).flatten))
    | _ => none

end Sys2Proof.Claims

section

open Sys2Proof Sys2Proof.Machine Sys2Proof.Safety Sys2Proof.Claims

/-- R122, R160, R164: a load whose access passes the checks of R160 writes to d the extended bytes of its place: those of memory, or
those of the line that the data cache of its core holds (R122). No memory and no other register changes. While accesses are buffered it
waits behind those of its context instead (the model's buffer, log 89). -/
def Obligations.Loads : Prop :=
  ∀ (s s' : State) (i : Instr) (d a : BitVec 5) (m : BitVec 11) (n : Nat) (signed : Bool) (l : Loc),
    ready s i = true → loadOf i = some (d, a, m, n, signed) → memoriesCanonical s → s.mem.errs = [] →
    ctlCheck s s.sch.cur (src (cx s) 2 a + effImm (cx s) m) n n .read = .ok l s' →
    accessRuns s s' i l (.load (effReg (cx s) 1 d) n signed)

/-- R160, R164: a store whose access passes the checks of R160 writes the low bytes of s[b], least significant first, at its
place, and no other byte of any memory, after the earlier accesses of its context; while accesses are buffered it waits behind
those instead (the model's buffer, log 89). No register changes. -/
def Sys2Proof.Claims.storeWords : Prop :=
  ∀ (s s' : State) (i : Instr) (b a : BitVec 5) (m : BitVec 11) (n : Nat) (l : Loc),
    ready s i = true → storeOf i = some (b, a, m, n) → memoriesCanonical s → s.mem.errs = [] →
    ctlCheck s s.sch.cur (src (cx s) 2 a + effImm (cx s) m) n n .write = .ok l s' →
    accessRuns s s' i l (.store (leList n (src (cx s) 1 b).toNat))

/-- R317, R318, R323: a step that performs a buffered access, which no earlier one of its context stands before, takes it out of the buffer
and does what it does at its place, and nothing else; one that an earlier one of its context has to go before stays, in that step, with
every memory and register: only a load may go before an earlier store of other bytes, which R320 lets no other agent tell (the model's
buffer, log 89). -/
def Sys2Proof.Claims.bufferedAccesses : Prop :=
  ∀ (s : State) (k : Nat) (r : List Move) (x : HeldAccess), s.sch.agenda = .perform k :: r → s.mem.errs = [] →
    memoriesCanonical s → s.mem.buf[k]? = some x →
    let u := advance { s with sch := { s.sch with agenda := r } }
    let v := { u with mem := { u.mem with buf := s.mem.buf.eraseIdx k } }
    ((∀ y, y ∈ s.mem.buf.take k → y.ctx ≠ x.ctx) →
      ∃ t, step s = .next t ∧ performed v t (keyAgent x.ctx) x.loc x.act id
        ∧ elsewhere { t with cache := v.cache, mem := v.mem, cores := v.cores } (keyAgent x.ctx) = elsewhere v (keyAgent x.ctx))
    ∧ ((∃ y, y ∈ s.mem.buf.take k ∧ y.ctx = x.ctx ∧
        ¬ ((∃ bs, y.act = .store bs) ∧ (∃ d n z, x.act = .load d n z) ∧ accessesMeet y x = false)) → step s = .next u)

/-- R160, R166 to R168, R175: an atomic whose access passes the checks of R160 writes the old 64-bit value to d (SIGNAL writes no
register) and its new value at the place, after the earlier accesses of its context; a CAS that compares unequal writes no memory. One
that acquires at cluster scope or wider leaves the data cache of its core empty. Nothing else changes. While accesses are buffered it
waits behind those of its context instead (the model's buffer, log 89). -/
def Obligations.Atomics : Prop :=
  ∀ (s s' : State) (i : Instr) (a : BitVec 5) (act : HeldAct) (l : Loc),
    ready s i = true → atomicOf (cx s) i = some (a, act) → memoriesCanonical s → s.mem.errs = [] →
    ctlCheck s s.sch.cur (src (cx s) 2 a) 8 8 .rmw = .ok l s' → accessRuns s s' i l act

/-- R160: a load, a store or an atomic at an address that is no multiple of its size takes MISALIGN at the word with that
address; one at an aligned address with bits 63:48 takes ACCESS. Neither reads or writes memory for itself. -/
def Obligations.MisalignedAccessTraps : Prop :=
  ∀ (s : State) (i : Instr) (va : Word) (n : Nat),
    ready s i = true → accessOf (cx s) i = some (va, n) → (cx s).fr.abort = none →
    (va.toNat % n ≠ 0 → exec i s = .next (raiseCtl s s.sch.cur 5 va 0))
    ∧ (va.toNat % n = 0 → 2 ^ 48 ≤ va.toNat → exec i s = .next (raiseCtl s s.sch.cur 6 va 0))

/-- R165, R170: PREFL changes no register and no memory; a FENCE whose engines are empty goes on, with the data cache empty from
cluster scope up, and with the scope of an AMOP that an earlier read took its value from (R319, R321; the model takes it as device
scope, log 11), and the instruction cache empty with IF, after the buffered accesses of its context (log 89); one whose engines are not
empty stands still. -/
def Sys2Proof.Claims.prefetchAndFence : Prop :=
  (∀ (s : State) (z : Bool) (h a : BitVec 5) (m : BitVec 11), ready s (.prefl z h a m) = true → s.mem.errs = [] →
    ∃ t, exec (.prefl z h a m) s = .next t ∧ sameMemory s t ∧ onlyHere s t
      ∧ getCtx t s.sch.cur = { cx s with fr := pastFront s (.prefl z h a m) })
  ∧ (∀ (s : State) (z f : Bool) (sc : BitVec 3) (e : BitVec 6) (core : Nat) (b : Bool),
    ready s (.fence z f sc e) = true → s.sch.cur = .bank core b →
    let p := performOwn s s.sch.cur
    if drained (cx s).eng e.toNat then
      ∃ t, exec (.fence z f sc e) s = .next t ∧ sameMemory p t ∧ (∀ x, x ∈ t.mem.buf → x.ctx ≠ ctxKey s.sch.cur)
        ∧ getCtx t s.sch.cur = { cx p with fr := pastFront s (.fence z f sc e) }
        ∧ (getCore t core).dcache = (if 1 ≤ fenceScope p s.sch.cur sc.toNat then [] else (getCore p core).dcache)
        ∧ (getCore t core).icache = (if f then [] else (getCore s core).icache)
    else exec (.fence z f sc e) s = .next (stallAt s s.sch.cur .fence))

/-- R175, R176, R189: WAITGE of a local counter that is large enough, POPR of a reply queue with an entry, PEEKR, SIGNAL of a local
counter, and WFE with the event flag set. -/
def Sys2Proof.Claims.counterAndReplyWords : Prop :=
  (∀ (s : State) (z : Bool) (a b : BitVec 5), ready s (.waitgeLocal z a b) = true →
    (src (cx s) 3 b).toNat ≤ (getPg (cx s) (effReg (cx s) 2 a)).toNat →
    exec (.waitgeLocal z a b) s = .next (setCtx s s.sch.cur { cx s with fr := pastFront s (.waitgeLocal z a b) }))
  ∧ (∀ (s : State) (z : Bool) (a b : BitVec 5), ready s (.signalLocal z a b) = true → effReg (cx s) 2 a < 16 →
    ∃ t, exec (.signalLocal z a b) s = .next t ∧ elsewhere t s.sch.cur = elsewhere s s.sch.cur
      ∧ getPg (getCtx t s.sch.cur) (effReg (cx s) 2 a) = getPg (cx s) (effReg (cx s) 2 a) + src (cx s) 3 b
      ∧ (getCtx t s.sch.cur).arch.s = (cx s).arch.s ∧ (getCtx t s.sch.cur).eng.event = true
      ∧ (getCtx t s.sch.cur).fr = pastFront s (.signalLocal z a b))
  ∧ (∀ (s : State) (z : Bool) (d : BitVec 5) (x : Word) (r : List Word), ready s (.popr z d) = true →
    (cx s).eng.reply = x :: r →
    exec (.popr z d) s = .next (setCtx s s.sch.cur { ctxAfter s (.popr z d) (effReg (cx s) 1 d) x with
      eng := { (cx s).eng with reply := r } }))
  ∧ (∀ (s : State) (z : Bool) (d : BitVec 5), ready s (.popr z d) = true → (cx s).eng.reply = [] →
    exec (.popr z d) s = .next (stallAt s s.sch.cur .popr))
  ∧ (∀ (s : State) (z : Bool) (d : BitVec 5), ready s (.peekr z d) = true →
    exec (.peekr z d) s = .next (stateAfter s (.peekr z d) (effReg (cx s) 1 d)
      (match (cx s).eng.reply with
        | x :: _ => x
        | [] => BitVec.allOnes 64)))
  ∧ (∀ (s : State) (z : Bool) (core : Nat) (b : Bool), ready s (.wfe z) = true → s.sch.cur = .bank core b →
    exec (.wfe z) s = .next (if (cx s).eng.event then
        setCtx s s.sch.cur { cx s with fr := pastFront s (.wfe z), eng := { (cx s).eng with event := false } }
      else stallAt s s.sch.cur .wfe))

/-- R189: SEV sets the event flag of every bank of its cluster and partition that holds a spore, and of no other. -/
def Sys2Proof.Claims.sendEvent : Prop :=
  ∀ (s : State) (z : Bool) (core : Nat) (b : Bool), ready s (.sev z) = true → s.sch.cur = .bank core b → core < 384 →
    ∃ t, exec (.sev z) s = .next t ∧ (getCtx t s.sch.cur).fr = pastFront s (.sev z)
      ∧ (∀ c x, c < 384 → (getCtx t (.bank c x)).eng.event
          = ((getCtx s (.bank c x)).eng.event || (decide (c / 16 = core / 16)
            && (getCtx s (.bank c x)).life.part == (cx s).life.part && (getCtx s (.bank c x)).life.status != .empty)))
      ∧ (∀ c x, c < 384 → (getCtx t (.bank c x)).arch = (getCtx s (.bank c x)).arch)

/-- R177: NEST puts the descriptor that its 128 bytes hold into the shadow of its slot and goes on; a malformed one takes NEST
with the slot's number, and the shadow stays. -/
def Sys2Proof.Claims.nestDescriptor : Prop :=
  ∀ (s s' : State) (z : Bool) (n a : BitVec 5) (m : BitVec 11) (bs : List Byte), ready s (.nest z n a m) = true →
    rangeRead s (src (cx s) 2 a + effImm (cx s) m) 128 8 = some (bs, s') →
    exec (.nest z n a m) s = .next (
      match nestOf bs with
      | some d => setCtx s' s.sch.cur { setNest (cx s') (effReg (cx s) 1 n) d with fr := pastFront s' (.nest z n a m) }
      | none => raiseCtl s' s.sch.cur 0x12 0 (BitVec.ofNat 64 (effReg (cx s) 1 n)))

/-- R149, R184: CSTORE of an entry without grant takes ACCESS in user mode; otherwise it loads the words of its range into the
entry of its core when they are a body, and takes MACRO with the entry's number when they are none. The body is judged with the
VFMT of the bank that runs CSTORE (the model's reading, log 42). -/
def Sys2Proof.Claims.controlStoreLoad : Prop :=
  ∀ (s : State) (z : Bool) (e a n : BitVec 5), ready s (.cstore z e a n) = true →
    let entry := effReg (cx s) 1 e
    let va := src (cx s) 2 a
    let granted := (cx s).trap.smode || bit (preg s (cx s).life.part 0x040).toNat entry
    (granted = false → exec (.cstore z e a n) s = .next (raiseCtl s s.sch.cur 6 va 0))
    ∧ ∀ bs s', granted = true → rangeRead s va (4 * (n.toNat + 1)) 4 = some (bs, s') →
      if bodyOk (cx s).csr.vfmt Prefixes.reset 0 (iwords (n.toNat + 1) bs) then
        ∃ t, exec (.cstore z e a n) s = .next t ∧ t.mem = s'.mem
          ∧ kfind (getCore t (agentCore s.sch.cur)).cstore entry = some (iwords (n.toNat + 1) bs, true)
          ∧ (∀ k, k ≠ entry → kfind (getCore t (agentCore s.sch.cur)).cstore k
              = kfind (getCore s' (agentCore s.sch.cur)).cstore k)
          ∧ (getCtx t s.sch.cur).arch = (cx s').arch
      else exec (.cstore z e a n) s = .next (raiseCtl s' s.sch.cur 0x0F 0 (BitVec.ofNat 64 entry))

/-- R128, R185: L2PIN of a granted register, with a whole number of lines inside one translation of device DRAM and ways left on
each die and for the partition, reserves the highest ways that no other pin holds; L2UNPIN gives them back and keeps the counts (R129,
R330). -/
def Sys2Proof.Claims.retentionWords : Prop :=
  (∀ (s s' : State) (z : Bool) (a b : BitVec 5) (r : BitVec 4) (w : BitVec 2) (l : Loc) (t : TlbEntry),
    ready s (.l2pin z a b r w) = true →
    (src (cx s) 3 b).toNat % 128 = 0 → (src (cx s) 3 b).toNat ≠ 0 →
    s.mem.errs = [] → ctlCheck s s.sch.cur (src (cx s) 2 a) 0 128 .touch = .ok l s' → l.typ = 0 →
    tlbFind s' (coreTlb s.sch.cur) (cx s).life.asid (src (cx s) 2 a).toNat = some t →
    (src (cx s) 2 a).toNat + (src (cx s) 3 b).toNat ≤ t.base + t.size →
    bit (preg s (cx s).life.part 0x038).toNat r.toNat = true →
    waysTaken s r.toNat none + (w.toNat + 1) ≤ 12 →
    waysTaken s r.toNat (some (cx s).life.part) + (w.toNat + 1) ≤ wbits (preg s (cx s).life.part 0x030) 3 0 →
    ∃ u, exec (.l2pin z a b r w) s = .next u ∧ sameMemory s u
      ∧ getPin u r.toNat = ⟨true, l.pa, (src (cx s) 3 b).toNat, w.toNat + 1, (cx s).life.part, 0, 0, 0,
          highestWays (reservedWays (unpin s r.toNat)) (w.toNat + 1)⟩
      ∧ (∀ i, i ≠ r.toNat → getPin u i = getPin s' i)
      ∧ getCtx u s.sch.cur = { cx s with fr := pastFront s (.l2pin z a b r w) })
  ∧ (∀ (s : State) (z : Bool) (r : BitVec 4), ready s (.l2unpin z r) = true →
    if bit (preg s (cx s).life.part 0x038).toNat r.toNat then
      ∃ u, exec (.l2unpin z r) s = .next u ∧ sameMemory s u
        ∧ getPin u r.toNat = { getPin s r.toNat with
            act := false, mask := (getPin u r.toNat).mask
            lines := if (getPin s r.toNat).act then pinLines s r.toNat else (getPin s r.toNat).lines }
        ∧ (∀ i, i ≠ r.toNat → getPin u i = getPin s i)
        ∧ getCtx u s.sch.cur = { cx s with fr := pastFront s (.l2unpin z r) }
    else exec (.l2unpin z r) s = .next (raiseCtl s s.sch.cur 6 0 0))

end

namespace Sys2Proof.Claims

open Sys2Proof.Machine Sys2Proof.Safety

/-! ### Registers that CSR words reach -/

/-- The bits of a read-write CSR that a write changes, where no value of it is ignored (R10, R53, R63, R107, R108, R113, R114, R127,
R310, R340). -/
def csrMask : Nat → Option Nat
  | 0x001 => some 0x3F
  | 0x002 | 0x003 | 0x408 | 0x409 | 0x40A | 0x40B => some 0xFFFFFFFFFFFFFFFF
  | 0x006 | 0x007 | 0x008 => some 0x1F1F1F1F1F1F1F1F
  | 0x010 | 0x011 | 0x012 | 0x013 => some 0x83FF001F000FFC00
  | 0x018 | 0x019 | 0x01A | 0x01B | 0x01C | 0x01D | 0x01E | 0x01F => some 0x8FFF7FFF000FFFE0
  | 0x02B => some 1
  | 0x040 => some 0xFFFFFFFFFFE0
  | 0x402 => some 0x13F
  | 0x403 => some 0xFFFFFFFFFFFFFFFC
  | _ => none

/-- What a CSR word writes: the destination of the old value, the register's number, and the new value (R186); CSRR writes none. -/
def csrOf (s : State) : Instr → Option (Nat × Nat × Option Word)
  | .csrr _ d m => some (effReg (cx s) 1 d, effNum (cx s) m, none)
  | .csrw _ d a m => some (effReg (cx s) 1 d, effNum (cx s) m, some (src (cx s) 2 a))
  | .csrs _ d a m =>
    some (effReg (cx s) 1 d, effNum (cx s) m, some (csrRead s s.sch.cur (effNum (cx s) m) ||| src (cx s) 2 a))
  | .csrc _ d a m =>
    some (effReg (cx s) 1 d, effNum (cx s) m, some (csrRead s s.sch.cur (effNum (cx s) m) &&& ~~~src (cx s) 2 a))
  | _ => none

/-! ### Traps -/

/-- A trap that is reported at the word of the context, with the registers it saves (R340, R342, R344). -/
structure Entry where
  cause : Nat
  engine : Nat
  qhead : Bool
  twpc : Word
  tepc : Word
  va : Word
  det : Word
  /-- The front end at a control word that has still to take its ACCESS (R346). -/
  denied : Option Front

/-- The context that a trap entry gives (R344) at a word that is no issue of an XREP above the first and no body word. -/
def trapped (c : Ctx) (e : Entry) : Ctx :=
  { c with
    trap := { c.trap with
      smode := true, tret := 0, tepc := e.tepc, twpc := e.twpc, tva := e.va, tdet := e.det, resume := none, denied := e.denied
      tcause := BitVec.ofNat 64 (e.cause + 256 * e.engine + 2048 * b2n e.qhead) }
    fr := { Front.reset with pc := c.trap.stvec }
    life := { c.life with drain := .none } }

/-- The context stands in no macro body and at no issue of an XREP but the first. -/
def atWord (c : Ctx) : Prop := c.fr.mac = none ∧ c.fr.issue = 0

/-! ### Suspension -/

/-- No byte of any memory has changed; check bits may have been written anew (R440). -/
def sameBytes (s t : State) : Prop := t.mem = { s.mem with errs := t.mem.errs }

/-- Step 2 of R74 holds, no engine trap waits to be entered, and step 3 finds the carry inside the window. -/
def maySuspend (s : State) : Bool := quiet s s.sch.cur && !trapPending (cx s) && carryFits (cx s)

/-- No access of the context waits to be performed (log 89). -/
def storesDone (s : State) (a : AgentId) : Prop := ∀ x, x ∈ s.mem.buf → x.ctx ≠ ctxKey a

/-- The page of a bank's spore's slot of scheduler memory has a valid translation (R68, R389). -/
def slotHeldBy (s : State) (a : AgentId) : Prop :=
  (getPart s (getCtx s a).life.part).lost.contains (getCtx s a).life.rcd.slot.toNat = false

/-- So has that of the context's own spore. -/
def slotHeld (s : State) : Prop := slotHeldBy s s.sch.cur

/-- The record that a suspension at the word leaves (R65, R74): the resume address, the reason, the carry and s10 to s13. -/
def recordAfter (s : State) (reason : BitVec 2) (r : Spore) : Prop :=
  r.resume = (cx s).fr.pc + 4 ∧ r.reason = reason ∧ r.arg0 = getS (cx s) 10 ∧ r.arg1 = getS (cx s) 11
    ∧ r.arg2 = getS (cx s) 12 ∧ r.arg3 = getS (cx s) 13 ∧ r.tag = (cx s).life.rcd.tag ∧ r.task = (cx s).life.rcd.task
    ∧ r.cvalid = decide (0 < wbits (cx s).csr.carry 24 16) ∧ r.hpend = false

/-! ### Invalidation -/

/-- A translation of the identifier lies in the 4 KiB pages that a range covers; length 0 names the whole space (R387). -/
def inRange (asid base len : Nat) (e : TlbEntry) : Prop :=
  e.asid = asid ∧ (if len = 0 then e.base < 2 ^ 48 ∧ 0 < e.base + e.size
    else e.base < min (2 ^ 48) (base / 4096 * 4096 + (len + 4095) / 4096 * 4096) ∧ base / 4096 * 4096 < e.base + e.size)

/-- A word that raises ILLOP in supervisor mode: an engine or prefix word, or a control word that R339 names. -/
def handlerMayNot (i : Instr) : Prop :=
  match i with
  | .ecall _ _ | .ebreak _ _ | .yield _ | .exit _ | .spawn _ _ _ | .waitge _ _ _ _ => True
  | _ => engOf (rawOf i) ≠ 0

end Sys2Proof.Claims

section

open Sys2Proof Sys2Proof.Machine Sys2Proof.Safety Sys2Proof.Claims

/-- R186: a CSR word that passes its checks writes the old value of the register to d; CSRW, CSRS and CSRC also write the register;
nothing else changes. A write of RGCFGn stands still while a routed word names its ring (R118). -/
def Obligations.CsrWords : Prop :=
  ∀ (s : State) (i : Instr) (d n : Nat) (w : Option Word), ready s i = true → csrOf s i = some (d, n, w) →
    exec i s = .next (
      match w with
      | none => stateAfter s i d (csrRead s s.sch.cur n)
      | some x =>
        if 0x018 ≤ n ∧ n ≤ 0x01F ∧ ringBusy (cx s).eng (n - 0x018) then stallAt s s.sch.cur .rgcfg
        else setCtx s s.sch.cur { setS (csrWrite (cx s) n x) d (csrRead s s.sch.cur n) with fr := pastFront s i })

/-- R10, R53, R63, R107, R108, R113, R114, R127, R310, R340: a read-write CSR reads, after a write, the bits written that it has, and
0 in its reserved bits; the write leaves the general registers and the mode alone. -/
def Sys2Proof.Claims.csrReadsAsWritten : Prop :=
  ∀ (s : State) (a : AgentId) (n mask : Nat) (x : Word), csrMask n = some mask →
    csrRead (setCtx s a (csrWrite (getCtx s a) n x)) a n = x &&& BitVec.ofNat 64 mask
      ∧ (csrWrite (getCtx s a) n x).arch.s = (getCtx s a).arch.s
      ∧ (csrWrite (getCtx s a) n x).trap.smode = (getCtx s a).trap.smode

/-- R47, R68, R92: a write of FRND with a code above 4, of CARRY with a length above 256, or of TOKWD with a period below 1,024 is
ignored; other values are held. -/
def Sys2Proof.Claims.csrIgnoredValues : Prop :=
  ∀ (s : State) (a : AgentId) (x : Word),
    csrRead (setCtx s a (csrWrite (getCtx s a) 0x000 x)) a 0x000
      = (if 5 ≤ x.toNat % 8 then csrRead s a 0x000 else BitVec.ofNat 64 (x.toNat % 8))
    ∧ csrRead (setCtx s a (csrWrite (getCtx s a) 0x004 x)) a 0x004
      = (if 256 < wbits x 24 16 then csrRead s a 0x004 else x &&& 0x1FF03FF)
    ∧ csrRead (setCtx s a (csrWrite (getCtx s a) 0x418 x)) a 0x418
      = (if wbits x 31 0 < 1024 then csrRead s a 0x418 else x &&& 0xFFFFFFFF)

/-- R339, R186, R190: in user mode ERET, TLBINV and every CSR word that names a supervisor CSR take PRIV, and so does a write of a
read-only CSR in either mode, when no earlier check of R132 fails; no register is written. -/
def Obligations.PrivilegeTraps : Prop :=
  ∀ (s : State) (i : Instr),
    (cx s).life.status = .running → (cx s).fr.mac = none → (cx s).fr.pfx = Prefixes.reset → isSeq s.sch.cur = false →
    badStatic false Prefixes.reset (cx s).csr.vfmt (rawOf i) = false → badCsr false (rawOf i) = false →
    ((cx s).trap.smode = true → badSuper (rawOf i) = false) →
    (match i with
      | .eret _ | .tlbinv _ _ _ _ _ => (cx s).trap.smode = false
      | .csrr _ _ m => 0x400 ≤ m.toNat ∧ (cx s).trap.smode = false
      | .csrw _ _ _ m | .csrs _ _ _ m | .csrc _ _ _ m =>
        (0x400 ≤ m.toNat ∧ (cx s).trap.smode = false) ∨ roCsr m.toNat = true
      | _ => False) →
    ∃ det, exec i s = .next (raiseAt s s.sch.cur .routing 0 4 0 det)

/-- R344, R348, R349: a trap of a bank that is not in supervisor mode writes TCAUSE, TWPC, TEPC, TVA and TDET, clears TRET, enters
supervisor mode and goes to STVEC; scalar and vector registers, queues, tiles, counters and FFLAGS stay. One that comes between a control
word and the ACCESS that the word has still to take keeps that for the ERET (R346). -/
def Sys2Proof.Claims.trapEntry : Prop :=
  ∀ (s : State) (core : Nat) (b : Bool) (o : Origin) (engine cause : Nat) (va det : Word),
    (getCtx s (.bank core b)).trap.smode = false → atWord (getCtx s (.bank core b)) → o ≠ .engine →
    getCtx (raiseAt s (.bank core b) o engine cause va det) (.bank core b)
      = trapped (getCtx s (.bank core b))
          ⟨cause, engine, false, curPc (getCtx s (.bank core b)), curPc (getCtx s (.bank core b)), va, det,
            if o = .bank ∧ (getCtx s (.bank core b)).fr.abort ≠ none then
              some { (getCtx s (.bank core b)).fr with grp := GroupSt.reset, stall := .none }
            else none⟩

/-- R339, R347: a trap that is no engine's, taken in supervisor mode, halts the bank: its queues lose every word that has not started,
and no register of the handler's is overwritten. An engine or prefix word, ECALL, EBREAK, YIELD, EXIT, SPAWN and WAITGE with LOC 0 are
ILLOP in supervisor mode, and so such a trap. -/
def Sys2Proof.Claims.doubleTrap : Prop :=
  (∀ (s : State) (i : Instr), (cx s).life.status = .running → isSeq s.sch.cur = false → (cx s).fr.mac = none →
    (cx s).fr.pfx = Prefixes.reset → (cx s).trap.smode = true → handlerMayNot i →
    exec i s = .next (raiseAt s s.sch.cur .routing (engOf (rawOf i)) 1 0 (BitVec.ofNat 64 (rawOf i))))
  ∧ ∀ (s : State) (core : Nat) (b : Bool) (o : Origin) (engine cause : Nat) (va det : Word),
    (getCtx s (.bank core b)).trap.smode = true → o ≠ .engine →
    let c := getCtx (raiseAt s (.bank core b) o engine cause va det) (.bank core b)
    c.life.status = .halting ∧ c.life.halt ≠ none ∧ (∀ e, (getE c.eng e).queue = []) ∧ c.trap = (getCtx s (.bank core b)).trap
      ∧ c.arch = (getCtx s (.bank core b)).arch

/-- R188, R342: ECALL and EBREAK of a bank in user mode take their trap with the code in TDET, the word's address in TWPC and the
address after it in TEPC. No memory changes but, with TRLOG = 1 and a ring that is not full, the 64 bytes of the trap-ring entry at
TRBASE + 64 × (TRTAIL mod 2^TRSIZE) (R348, R350; an entry whose address fails translation is lost: the model's choice, log 22). -/
def Obligations.EnvironmentCalls : Prop :=
  ∀ (s : State) (core : Nat) (b z brk : Bool) (k : BitVec 11),
    let i := if brk then Instr.ebreak z k else Instr.ecall z k
    s.sch.cur = .bank core b → ready s i = true → (cx s).trap.smode = false →
    ∃ t, exec i s = .next t
      ∧ getCtx t s.sch.cur = trapped (cx s)
          ⟨if brk then 0x0D else 0x0C, 0, false, curPc (cx s), (cx s).fr.pc + 4, 0, BitVec.ofNat 64 (effNum (cx s) k), none⟩
      ∧ (bit (preg s (cx s).life.part 0).toNat 8 = false → t.mem = s.mem)
      ∧ (bit (preg s (cx s).life.part 0).toNat 8 = true → memoriesCanonical s → s.mem.errs = [] →
        let p := (cx s).life.part
        let tail := (preg s p 0x068).toNat
        let size := 2 ^ wbits (preg s p 0x060) 4 0
        let slot := (preg s p 0x058).toNat + 64 * (tail % size)
        let c := getCtx t s.sch.cur
        if (tail + 2 ^ 32 - (preg s p 0x070).toNat) % 2 ^ 32 = size then t.mem = s.mem
        else slot % 64 = 0 → match (xlate s sysTlb p (asidBase s p) slot .write false).1 with
          | .ok l => wroteAt s t l (trapEntryBytes c.trap.tepc c.trap.twpc c.trap.tva c.trap.tdet c.trap.tcause c.life s.sch.cur
              c.csr.scyc 0)
          | _ => t.mem = s.mem)

/-- R339, R344, R345, R346: ERET returns to user mode at TEPC; a word held by a trap is discarded where TRET.SKIP names its engine; one whose
trap arose in supervisor mode stays held, for the first user-mode word boundary, and one that was reported is checked again. The
barrier is lifted but for words after one still held. A return to a control word that has still to take its ACCESS finds it so (R346).
Registers, memory and FFLAGS stay. -/
def Sys2Proof.Claims.trapReturnByEret : Prop :=
  ∀ (s : State) (core : Nat) (b z : Bool), s.sch.cur = .bank core b → ready s (.eret z) = true →
    bit (cx s).trap.tret.toNat 8 = false → (cx s).trap.fpend = false → bit (cx s).trap.tcause.toNat 24 = false →
    ∃ t, exec (.eret z) s = .next t ∧ t.mem = s.mem ∧ elsewhere t s.sch.cur = elsewhere s s.sch.cur
      ∧ (getCtx t s.sch.cur).fr = (match (cx s).trap.denied with
        | some d => if curPc { cx s with fr := d } = (cx s).trap.tepc ∧ d.issue = 0 ∧ d.mac = none then d
          else { Front.reset with pc := (cx s).trap.tepc }
        | none => { Front.reset with pc := (cx s).trap.tepc })
      ∧ (getCtx t s.sch.cur).trap = { (cx s).trap with smode := false, resume := none, denied := none }
      ∧ (getCtx t s.sch.cur).arch = (cx s).arch ∧ (getCtx t s.sch.cur).csr = (cx s).csr
      ∧ (getCtx t s.sch.cur).eng.barrier = (firstHeld (getCtx t s.sch.cur).eng).map (fun x => x.2.uid)
      ∧ ∀ e, (getE (getCtx t s.sch.cur).eng e).held
            = ((getE (cx s).eng e).held.filter (fun x => (x.late || x.sure) && !bit (cx s).trap.tret.toNat (chainPos e))).map
                (fun x => { x with late := false })
          ∧ ((getE (cx s).eng e).heldFlying = false →
            (getE (getCtx t s.sch.cur).eng e).queue
              = (if (getE (cx s).eng e).held ≠ none ∧ bit (cx s).trap.tret.toNat (chainPos e) then
                  (getE (cx s).eng e).queue.drop 1 else (getE (cx s).eng e).queue))

/-- R345: ERET with TRET.EXIT of a bank whose queues are empty and whose operations are done retires the spore. -/
def Sys2Proof.Claims.trapReturnToExit : Prop :=
  ∀ (s : State) (core : Nat) (b z : Bool), s.sch.cur = .bank core b → ready s (.eret z) = true →
    bit (cx s).trap.tret.toNat 8 = true → (cx s).trap.fpend = false → quiet (trapReturn s s.sch.cur) s.sch.cur = true →
    trapPending (getCtx (trapReturn s s.sch.cur) s.sch.cur) = false →
    ∃ t, exec (.eret z) s = .next t ∧ (getCtx t s.sch.cur).life.status = .empty

/-- R74, R75, R173: YIELD of a bank whose steps 2 and 3 hold continues with the next word, in a new group, unless a yield is requested;
then the spore is READY again with REASON YIELD and the record of R65, and its bank is empty: at once while the model takes the
acceptance with step 4 (log 3), otherwise once it is accepted. No error stands in what it reads (R440), and no access of its own is
buffered (log 89). -/
def Sys2Proof.Claims.yield : Prop :=
  ∀ (s : State) (core : Nat) (b z : Bool), s.sch.cur = .bank core b → core < 384 → (cx s).life.part < 8 →
    ready s (.yield z) = true → maySuspend s = true → s.mem.errs = [] → storesDone s s.sch.cur →
    ∃ t, exec (.yield z) s = .next t
      ∧ (if (cx s).life.yieldReq && !s.sch.eager then
          sameMemory s t ∧ (getCtx t s.sch.cur).life.drain = .leaveYield ∧ (getCtx t s.sch.cur).life.status = .running
          ∧ (getCtx t s.sch.cur).arch = (cx s).arch
        else if (cx s).life.yieldReq then
          (getCtx t s.sch.cur).life.status = .empty
          ∧ (partOn s (cx s).life.part = true → slotHeld s → sameBytes s t ∧ ∀ x, findItem (getPart s (cx s).life.part) (cx s).life.item = some x →
            ∃ y, findItem (getPart t (cx s).life.part) (cx s).life.item = some y ∧ recordAfter s 1 y.rcd
              ∧ ∃ order, y.st = .ready s.now order)
        else
          sameMemory s t ∧ (getCtx t s.sch.cur).fr = { Front.reset with pc := (cx s).fr.pc + 4 }
          ∧ (getCtx t s.sch.cur).arch = (cx s).arch
          ∧ (getCtx t s.sch.cur).csr.spstat
              = (if (cx s).life.withdrawn then (cx s).csr.spstat ||| 0x400 else (cx s).csr.spstat))

/-- R78, R173: EXIT of a bank whose queues are empty and whose operations are done frees the bank, and the spore's item leaves the
partition. -/
def Sys2Proof.Claims.exit : Prop :=
  ∀ (s : State) (core : Nat) (b z : Bool), s.sch.cur = .bank core b → core < 384 → (cx s).life.part < 8 →
    ready s (.exit z) = true → quiet s s.sch.cur = true → trapPending (cx s) = false →
    ∃ t, exec (.exit z) s = .next t ∧ (getCtx t s.sch.cur).life.status = .empty
      ∧ findItem (getPart t (cx s).life.part) (cx s).life.item = none

/-- R76, R175: WAITGE of a memory counter that is large enough goes on; one that is not, of a bank whose steps 2 and 3 hold, suspends
the spore, which waits on the counter (its acceptance taken with step 4, log 3). -/
def Sys2Proof.Claims.waitForCounter : Prop :=
  ∀ (s s' : State) (core : Nat) (b z : Bool) (a k : BitVec 5) (sc : BitVec 3) (l : Loc),
    s.sch.cur = .bank core b → core < 384 → (cx s).life.part < 8 → ready s (.waitge z a k sc) = true →
    (cx s).life.drain = .none → s.mem.errs = [] → storesDone s s.sch.cur → s.sch.eager = true →
    ctlCheck s s.sch.cur (src (cx s) 2 a) 8 8 .read = .ok l s' →
    if (src (cx s) 3 k).toNat ≤ leVal (locRead s l 8) then
      ∃ t, exec (.waitge z a k sc) s = .next t ∧ sameMemory s t ∧ ctxIs s t (.waitge z a k sc) 0 0
    else
      maySuspend s = true →
      ∃ t, exec (.waitge z a k sc) s = .next t ∧ (getCtx t s.sch.cur).life.status = .empty
        ∧ (partOn s (cx s).life.part = true → slotHeld s → sameBytes s t ∧ ∀ x, findItem (getPart s (cx s).life.part) (cx s).life.item = some x →
            ∃ y, findItem (getPart t (cx s).life.part) (cx s).life.item = some y ∧ recordAfter s 2 y.rcd
              ∧ y.st = .waiting (src (cx s) 2 a) sc.toNat (src (cx s) 3 k))

/-- R174: SPAWN of an image for a stage with room in its queue enqueues a spore with the image's fields and goes on; one for a stage
that is not its own or downstream of it takes QUEUE with the stage's number. -/
def Sys2Proof.Claims.spawn : Prop :=
  ∀ (s s' : State) (z : Bool) (a : BitVec 5) (m : BitVec 11) (bs : List Byte),
    ready s (.spawn z a m) = true → (cx s).life.drain = .none →
    rangeRead s (src (cx s) 2 a + effImm (cx s) m) 64 64 = some (bs, s') →
    match spawnTarget (getPart s' (cx s).life.part) (cx s).life.inst (cx s).life.stage (fieldAt bs 8 2) with
    | none => exec (.spawn z a m) s = .next (raiseCtl s' s.sch.cur 9 0 (BitVec.ofNat 64 (fieldAt bs 8 2)))
    | some d =>
      queueRoom (getPart s' (cx s).life.part) (cx s).life.inst (fieldAt bs 8 2) = true →
      exec (.spawn z a m) s = .next (retire (addItem s' (cx s).life.part (cx s).life.inst (fieldAt bs 8 2)
        (imageSpore bs (cx s).life.rcd.tag d.prio) .queued none) s.sch.cur (.spawn z a m))

/-- R180: FORK of a free sequencer that the partition holds starts a stream at s[a] with s9 its handle and s10 the argument, in user
mode, and writes the handle to d; of a sequencer that is not free it writes 0. -/
def Sys2Proof.Claims.fork : Prop :=
  ∀ (s : State) (core : Nat) (b' z : Bool) (d a b : BitVec 5) (k : BitVec 3) (q : BitVec 2),
    s.sch.cur = .bank core b' → core < 384 → ready s (.fork z d a b k q) = true →
    (src (cx s) 2 a).toNat % 4 = 0 → (src (cx s) 2 a).toNat < 2 ^ 48 →
    bit (preg s (cx s).life.part 0x020).toNat (4 * k.toNat + q.toNat) = true →
    let n := 4 * k.toNat + q.toNat
    let h := BitVec.ofNat 64 (((getSeq s n).gen + 1).toNat * 2 ^ 32 + 2 ^ 15 + n)
    ∃ t, exec (.fork z d a b k q) s = .next t ∧ sameMemory s t
      ∧ (if (getCtx s (.seq n)).life.status = .empty ∧ (getSeq s n).up = [] then
          getCtx t s.sch.cur = ctxAfter s (.fork z d a b k q) (effReg (cx s) 1 d) h
          ∧ (getSeq t n).gen = (getSeq s n).gen + 1
          ∧ (getCtx t (.seq n)).life.status = .running ∧ (getCtx t (.seq n)).fr.pc = src (cx s) 2 a
          ∧ getS (getCtx t (.seq n)) 9 = h ∧ getS (getCtx t (.seq n)) 10 = src (cx s) 3 b
          ∧ (getCtx t (.seq n)).trap.smode = false
          ∧ (getCtx t (.seq n)).life.asid = (cx s).life.asid
        else t = stateAfter s (.fork z d a b k q) (effReg (cx s) 1 d) 0)

/-- R181, R317: MSEND appends the message, bit 63 cleared, to a mailbox with room, and stands still at a full one; MRECV takes the oldest
message into d, as an acquire at device scope, and stands still at an empty one, whose stream has not ended; with an ended handle
MSEND, and MRECV at an empty mailbox, take ACCESS. -/
def Sys2Proof.Claims.mailboxes : Prop :=
  (∀ (s : State) (core : Nat) (b' z : Bool) (a b : BitVec 5), s.sch.cur = .bank core b' → ready s (.msend z a b) = true →
    staleHandle s (cx s).life.part (src (cx s) 2 a) = false → seqFree s (handleSeq (src (cx s) 2 a)) = false →
    exec (.msend z a b) s = .next (
      if (getSeq s (handleSeq (src (cx s) 2 a))).down.length < 8 then
        stateAfter (setSeq s (handleSeq (src (cx s) 2 a)) { getSeq s (handleSeq (src (cx s) 2 a)) with
          down := (getSeq s (handleSeq (src (cx s) 2 a))).down ++ [src (cx s) 3 b &&& 0x7FFFFFFFFFFFFFFF] })
          (.msend z a b) 0 0
      else stallAt s s.sch.cur .mailbox))
  ∧ (∀ (s : State) (core : Nat) (b' z : Bool) (a b : BitVec 5), s.sch.cur = .bank core b' → ready s (.msend z a b) = true →
    seqFree s (handleSeq (src (cx s) 2 a)) = true → exec (.msend z a b) s = .next (raiseCtl s s.sch.cur 6 0 0))
  ∧ (∀ (s : State) (n : Nat) (z : Bool) (a b : BitVec 5), s.sch.cur = .seq n → ready s (.msend z a b) = true →
    src (cx s) 2 a = (cx s).csr.sqid → 8 ≤ (getSeq s n).up.length →
    exec (.msend z a b) s = .next (stallAt s s.sch.cur .mailbox))
  ∧ (∀ (s : State) (n : Nat) (z : Bool) (a b : BitVec 5), s.sch.cur = .seq n → ready s (.msend z a b) = true →
    src (cx s) 2 a = (cx s).csr.sqid → (getSeq s n).up.length < 8 →
    ∃ t, exec (.msend z a b) s = .next t ∧ sameMemory s t
      ∧ (getSeq t n).up = (getSeq s n).up ++ [src (cx s) 3 b &&& 0x7FFFFFFFFFFFFFFF]
      ∧ (getCtx t s.sch.cur).arch = (cx s).arch)
  ∧ (∀ (s : State) (core : Nat) (b' z : Bool) (d a : BitVec 5) (x : Word) (r : List Word), s.sch.cur = .bank core b' →
    core < 384 → ready s (.mrecv z d a) = true → staleHandle s (cx s).life.part (src (cx s) 2 a) = false →
    (getSeq s (handleSeq (src (cx s) 2 a))).up = x :: r → (getSeq s (handleSeq (src (cx s) 2 a))).pendMsg = [] →
    exec (.mrecv z d a) s = .next (stateAfter (acquire (setSeq s (handleSeq (src (cx s) 2 a))
      { getSeq s (handleSeq (src (cx s) 2 a)) with up := r }) s.sch.cur 3) (.mrecv z d a) (effReg (cx s) 1 d) x))
  ∧ (∀ (s : State) (core : Nat) (b' z : Bool) (d a : BitVec 5), s.sch.cur = .bank core b' →
    ready s (.mrecv z d a) = true → staleHandle s (cx s).life.part (src (cx s) 2 a) = false →
    (getSeq s (handleSeq (src (cx s) 2 a))).up = [] →
    exec (.mrecv z d a) s = .next (
      if seqFree s (handleSeq (src (cx s) 2 a)) then raiseCtl s s.sch.cur 6 0 0 else stallAt s s.sch.cur .mailbox))
  ∧ (∀ (s : State) (n : Nat) (z : Bool) (d a : BitVec 5), s.sch.cur = .seq n → ready s (.mrecv z d a) = true →
    src (cx s) 2 a = (cx s).csr.sqid →
    exec (.mrecv z d a) s = .next (
      match (getSeq s n).down with
      | [] => stallAt s s.sch.cur .mailbox
      | x :: r => stateAfter (acquire (setSeq s n { getSeq s n with down := r }) s.sch.cur 3) (.mrecv z d a) (effReg (cx s) 1 d) x))

/-- R182, R309: CONT of a stopped stream ends it with END set, and otherwise lets it go on; a stale handle takes ACCESS; a stream that
is not stopped is left. -/
def Sys2Proof.Claims.continueStream : Prop :=
  ∀ (s s' : State) (z : Bool) (a : BitVec 5) (m : BitVec 11) (bs : List Byte), ready s (.cont z a m) = true →
    rangeRead s (src (cx s) 2 a + effImm (cx s) m) 16 16 = some (bs, s') →
    let h := BitVec.ofNat 64 (fieldAt bs 0 8)
    let n := handleSeq h
    if staleHandle s' (cx s).life.part h then exec (.cont z a m) s = .next (raiseCtl s' s.sch.cur 6 0 0)
    else if (getCtx s' (.seq n)).life.status = .stopped ∧ (getCtx s' (.seq n)).life.drain ≠ .exit ∧ isSeq s.sch.cur = false then
      ∃ t, exec (.cont z a m) s = .next t ∧ t.mem = s'.mem
        ∧ (agentCore s.sch.cur < 384 → (getCtx t (.seq n)).life.status = .running
          ∧ (getCtx t (.seq n)).life.drain = (if bit (fieldAt bs 8 1) 1 then .exit else (getCtx s' (.seq n)).life.drain))
    else isSeq s.sch.cur = false →
      exec (.cont z a m) s = .next (retire s' s.sch.cur (.cont z a m))

/-- R387: in supervisor mode TLBINV of an identifier of the partition issues the invalidation and goes on. -/
def Sys2Proof.Claims.invalidationIssued : Prop :=
  ∀ (s : State) (z : Bool) (d a b : BitVec 5) (n : BitVec 4), ready s (.tlbinv z d a b n) = true →
    (src (cx s) 1 d).toNat < 512 → asidOk s (cx s).life.part (src (cx s) 1 d).toNat = true →
    ∃ t, exec (.tlbinv z d a b n) s = .next t ∧ sameMemory s t
      ∧ (getCtx t s.sch.cur).arch = (cx s).arch ∧ (getCtx t s.sch.cur).fr = pastFront s (.tlbinv z d a b n)
      ∧ ∃ o, kfind t.ops s.sch.uid = some o ∧ o.ctr = .loc n.toNat ∧ o.part = (cx s).life.part
        ∧ o.owner = some (ctxKey s.sch.cur)
        ∧ o.body = .inval (src (cx s) 2 a).toNat (src (cx s) 3 b).toNat (src (cx s) 1 d).toNat false

/-- R387, R388: an invalidation completes once every cache has dropped each entry of the identifier that translates a page of the
range, and each table entry of the identifier; every other entry stays. TLBINV then adds 1 to its counter; a host invalidation adds 1
to TIDONE and the next one queued starts. An identifier outside the partition's drops nothing. The accesses of control cores
that still wait, translated before, are performed, in order (log 89). -/
def Sys2Proof.Claims.invalidationDone : Prop :=
  ∀ (s : State) (id : Nat) (o : Op) (base len asid : Nat) (host : Bool), kfind s.ops id = some o →
    o.body = .inval base len asid host → o.part < 8 → (host = true ∨ ∃ n, o.ctr = .loc n) →
    ∃ t, exec (.tlbInvalDone id) s = .next t ∧ (s.mem.buf = [] → sameMemory s t)
      ∧ t.mem.buf = []
      ∧ (s.mem.errs = [] → ∀ w : List (Nat × List Byte), s.mem.buf.map (fun x => (x.loc.typ, x.act)) = w.map (fun y => (0, .store y.2)) →
          s.mem.buf.map (fun x => x.loc.pa) = w.map (fun y => y.1) → t.mem.dram = w.foldl (fun m y => mwrite m y.1 y.2) s.mem.dram)
      ∧ (if asidOk s o.part asid then
          (∀ e, e ∈ t.cache.tlb ↔ e ∈ s.cache.tlb ∧ ¬ inRange asid base len e)
          ∧ (∀ e, e ∈ t.cache.walks ↔ e ∈ s.cache.walks ∧ e.asid ≠ asid)
        else t.cache.tlb = s.cache.tlb ∧ t.cache.walks = s.cache.walks)
      ∧ (if host then
          (preg t o.part 0x258).toNat = ((preg s o.part 0x258).toNat + 1) % 2 ^ 32
          ∧ (s.mem.buf = [] → t.ctxs = s.ctxs)
          ∧ (match (getPart s o.part).invals with
            | [] => t.ops = kerase s.ops id
            | (b, n, i) :: r => (getPart t o.part).invals = r
              ∧ t.ops = kput (kerase s.ops id) s.sch.uid { o with asid := i, body := .inval b n i true })
        else
          t.ops = kerase s.ops id
          ∧ ∀ core b n, o.owner = some (ctxKey (.bank core b)) → core < 384 → o.ctr = .loc n → n < 16 →
            getPg (getCtx t (.bank core b)) n = getPg (getCtx s (.bank core b)) n + 1
            ∧ (s.mem.buf = [] → (getCtx t (.bank core b)).arch.s = (getCtx s (.bank core b)).arch.s))

end

namespace Sys2Proof.Claims

open Sys2Proof.Machine Sys2Proof.Safety

/-! ### Engine words -/

/-- What the start of a word changes in its context: it leaves the head of its engine's queue and is in flight, with what the engine
kept of it gone, and each token counter it pops loses 1 (R87). -/
def startsIn (a : AgentId) (e : Engine) (w : QWord) (f : Flight) (c c' : Ctx) : Prop :=
  getE c'.eng e = { getE c.eng e with
      queue := (getE c.eng e).queue.drop 1, flying := (getE c.eng e).flying ++ [f]
      headAbort := none, headLog := [], headLines := [] }
    ∧ (∀ g, g ≠ e → getE c'.eng g = getE c.eng g)
    ∧ (∀ n, n < 10 → getTok c'.eng n = getTok c.eng n - b2n ((popsOf (isSeq a) e w).contains n))
    ∧ { c' with eng := { Engines.reset with
          reply := c'.eng.reply, qin := c'.eng.qin, qout := c'.eng.qout, lmarks := c'.eng.lmarks
          smarks := c'.eng.smarks, barrier := c'.eng.barrier, event := c'.eng.event } }
      = { c with eng := { Engines.reset with
          reply := c.eng.reply, qin := c.eng.qin, qout := c.eng.qout, lmarks := c.eng.lmarks
          smarks := c.eng.smarks, barrier := c.eng.barrier, event := c.eng.event } }

/-- A ring once a word's owed slots have been committed or popped (R116). -/
def ringPaid (n : Nat) (r : Ring) : RingOwe → Ring
  | .none => r
  | .commit m k => if m = n then { r with tail := (r.tail + k) % ringN r, count := r.count + k } else r
  | .pop m k => if m = n then { r with head := (r.head + k) % ringN r, count := r.count - k } else r

/-- What the completion of a word changes in its context (R64, R87, R88, R96, R101, R116, R278): its flags are ORed into FFLAGS, its
replies and its entry of qout are appended, its stream binding is set, the slots of its rings are committed or popped, it leaves its
engine, and each token counter it pushes gains 1. The registers, CSRs and the other engines stay. -/
def completesIn (a : AgentId) (e : Engine) (f : Flight) (n : Finish) (c c' : Ctx) : Prop :=
  c'.csr = { c.csr with fflags := c.csr.fflags ||| BitVec.ofNat 32 n.flags }
    ∧ c'.eng.reply = c.eng.reply ++ (n.replies.map fun x => BitVec.ofNat 64 (engineField e * 2 ^ 61 + x.toNat % 2 ^ 61))
    ∧ c'.eng.event = (c.eng.event || !n.replies.isEmpty)
    ∧ c'.eng.qin = c.eng.qin ∧ c'.eng.qout = c.eng.qout ++ n.qout.toList
    ∧ (∀ k, k < 10 → getTok c'.eng k = getTok c.eng k + b2n ((pushesOf (isSeq a) e f.w).contains k))
    ∧ getE c'.eng e = { getE c.eng e with flying := (getE c.eng e).flying.filter fun y => y.w.uid != f.w.uid }
    ∧ (∀ g, g ≠ e → getE c'.eng g = getE c.eng g)
    ∧ (∀ k, k < 8 → getRing c' k = ringPaid k (ringPaid k (ringPaid k (getRing c k) f.ring1) f.ring2) f.ring3)
    ∧ (∀ k, k < 8 → getK c' k = (match n.bind with
        | some (m, b) => if m = k then b else getK c k
        | none => getK c k))
    ∧ c'.arch.s = c.arch.s ∧ c'.arch.v = c.arch.v ∧ c'.arch.m = c.arch.m
    ∧ c'.arch.pg = c.arch.pg ∧ c'.life = c.life ∧ c'.trap = c.trap ∧ c'.fr = c.fr

/-- Two states differ in one context alone, but for check bits of registers written anew (R440). -/
def onlyCtx (s t : State) (a : AgentId) : Prop :=
  elsewhere { t with mem := s.mem } a = elsewhere s a ∧ t.mem = { s.mem with errs := t.mem.errs }

/-- The add of a word's counter, when it has one (R94). -/
def counterAdd (s : State) (a : AgentId) (e : Engine) (f : Flight) (n : Finish) : State :=
  if n.add then
    addCtr s (some (ctxKey a)) (engineTlb a (chainPos e)) (getCtx s a).life.part (getCtx s a).life.asid (ctrOf f.w) 1
  else s

/-- What every word of an engine leaves as it was, memories, caches and the matrix operand state aside: every other context and unit,
and of its own context the life, the trap registers and the CSRs but FFLAGS, RSTEP and the counts of L2 accesses. The front end is
past the word. -/
def afterWord (s t : State) (i : Instr) : Prop :=
  elsewhere { t with cache := s.cache, mem := s.mem, cores := s.cores } s.sch.cur
      = elsewhere { keepFront s s.sch.cur with sch := { s.sch with uid := s.sch.uid + 1 } } s.sch.cur
    ∧ (getCtx t s.sch.cur).life = (cx s).life ∧ (getCtx t s.sch.cur).trap = (cx s).trap
    ∧ withoutCounts { getCtx t s.sch.cur with arch := (cx s).arch, eng := (cx s).eng, fr := (cx s).fr, csr :=
        { (getCtx t s.sch.cur).csr with fflags := 0, rstep := 0 } }
      = withoutCounts { cx s with csr := { (cx s).csr with fflags := 0, rstep := 0 } }
    ∧ (getCtx t s.sch.cur).fr = pastFront s i

/-- The engines after a word has completed: its own is idle again, the others and the barrier are as they were, and each token
counter has lost what the word popped and gained what it pushed (R86, R87). -/
def enginesAfter (s t : State) (j : Instr) : Prop :=
  getE (getCtx t s.sch.cur).eng (engineOf j) = { getE (cx s).eng (engineOf j) with headAbort := none, headLog := [], headLines := [] }
    ∧ (∀ e, e ≠ engineOf j → getE (getCtx t s.sch.cur).eng e = getE (cx s).eng e)
    ∧ (getCtx t s.sch.cur).eng.barrier = (cx s).eng.barrier
    ∧ ∀ n, n < 10 → getTok (getCtx t s.sch.cur).eng n
        = getTok (cx s).eng n - b2n ((popsOf (isSeq s.sch.cur) (engineOf j) ⟨j, 0, 0, 0, captureOf (cx s) j (rawOf j)⟩).contains n)
          + b2n ((pushesOf (isSeq s.sch.cur) (engineOf j) ⟨j, 0, 0, 0, captureOf (cx s) j (rawOf j)⟩).contains n)

/-- A word of an engine has completed with these flags and reply entries (R64, R88, R96); `t` is the state before the add of its
counter. -/
def leaves (s t : State) (i j : Instr) (flags : Nat) (replies : List Nat) : Prop :=
  afterWord s t i ∧ enginesAfter s t j
    ∧ (getCtx t s.sch.cur).csr.fflags = (cx s).csr.fflags ||| BitVec.ofNat 32 flags
    ∧ (getCtx t s.sch.cur).csr.rstep = (if takesStep (cx s) (rawOf j) then (cx s).csr.rstep + 1 else (cx s).csr.rstep)
    ∧ (getCtx t s.sch.cur).eng.reply = (cx s).eng.reply
        ++ (replies.map fun x => BitVec.ofNat 64 (engineField (engineOf j) * 2 ^ 61 + x % 2 ^ 61))
    ∧ (getCtx t s.sch.cur).eng.event = ((cx s).eng.event || !replies.isEmpty)

/-- The data queues and the mark counts of a context are as they were. -/
def queuesSame (s t : State) : Prop :=
  (getCtx t s.sch.cur).eng.qin = (cx s).eng.qin ∧ (getCtx t s.sch.cur).eng.qout = (cx s).eng.qout
    ∧ (getCtx t s.sch.cur).eng.lmarks = (cx s).eng.lmarks ∧ (getCtx t s.sch.cur).eng.smarks = (cx s).eng.smarks

/-- The registers of the context, and every core but for its data cache, are as they were. -/
def archSame (s t : State) : Prop :=
  (getCtx t s.sch.cur).arch = (cx s).arch ∧ ∀ n, { getCore t n with dcache := [] } = { getCore s n with dcache := [] }

/-- What is captured for the word (R23). -/
def cap (s : State) (j : Instr) : Capture := captureOf (cx s) j (rawOf j)

/-- The reply queue has room for `n` entries (R97). -/
def replyFits (s : State) (n : Nat) : Prop := (cx s).eng.reply.length + n ≤ 16

/-- `t` is `u` after the add of 1 to the word's counter (R94). -/
def addsOne (s u t : State) (i j : Instr) : Prop :=
  t = addCtr u (some (ctxKey s.sch.cur)) (engineTlb s.sch.cur (chainPos (engineOf j))) (cx s).life.part (cx s).life.asid
    (ctrOf (queued s i j)) 1

/-! ### Vector words -/

/-- The stream words (R215). -/
def streamWord : Instr → Bool
  | .sbind _ _ _ _ | .sisect _ _ _ _ _ | .sunion _ _ _ _ _ | .ssub _ _ _ _ _ | .smadd _ _ _ _ _ | .scount _ _ _
  | .sreset _ _ _ => true
  | _ => false

/-- The queues and the tile that a vector word names are ready (R101, R105). -/
def vecReady (s : State) (j : Instr) : Prop :=
  (usesQin (rawOf j) (cap s j).sv.isSome = true → (cx s).eng.qin ≠ [])
    ∧ (usesQout (rawOf j) = true → (cx s).eng.qout.length < 8)
    ∧ ∀ t, vecTile j = some t → tileBusy (cx s).eng t s.sch.uid = false

/-- What a vector word computes with: the registers as they stand at its start, and its capture. -/
def vecSees (s : State) (i j : Instr) : VEnv :=
  vecEnv (startState s i j) s.sch.cur (getCtx (startState s i j) s.sch.cur) (cap s j) (rawOf j)

/-- The registers after a destination has been written; an entry of qout is none of them (R101). -/
def archWith (c : Ctx) : VDest → Arch
  | .none => c.arch
  | .regs r k x => if r = 31 then c.arch else (setGroup c r x k).arch
  | .mask r x => (setM c r (BitVec.ofNat 4096 x)).arch
  | .row t n x => (setAccRow c t n (BitVec.ofNat 4096 x)).arch

/-- The value of element `k` of the destination of a word on integers of a format (R196), for an element the mask selects. -/
def intLane (e : VEnv) (g : Fmt) (k : Nat) : Instr → Option (Nat × Nat)
  | .vadd _ _ _ d a b => some (d.toNat, (intInto g (x a + y b) e.cap.sat).1)
  | .vsub _ _ _ d a b => some (d.toNat, (intInto g (x a - y b) e.cap.sat).1)
  | .vaddsat _ _ _ d a b => some (d.toNat, (intInto g (x a + y b) true).1)
  | .vsubsat _ _ _ d a b => some (d.toNat, (intInto g (x a - y b) true).1)
  | .vavg _ _ _ d a b => some (d.toNat, (intInto g ((x a + y b + 1) / 2) false).1)
  | .vmul _ _ _ d a b => some (d.toNat, (intInto g (x a * y b) e.cap.sat).1)
  | .vmulhi _ _ _ d a b => some (d.toNat, (intInto g (x a * y b / 2 ^ fmtW g) false).1)
  | .vmac _ _ _ d a b => some (d.toNat, (intInto g (intValue g (elemAt g (vOld e d.toNat 1) k) + x a * y b) e.cap.sat).1)
  | .vmin _ _ _ d a b => some (d.toNat, (intInto g (if x a ≤ y b then x a else y b) false).1)
  | .vmax _ _ _ d a b => some (d.toNat, (intInto g (if x a ≤ y b then y b else x a) false).1)
  | .vabs _ _ _ d a => some (d.toNat, (intInto g (if 0 ≤ x a then x a else - x a) e.cap.sat).1)
  | .vshl _ _ _ d a b => some (d.toNat, (intInto g (x a * 2 ^ shift b) e.cap.sat).1)
  | .vshr _ _ _ d a b => some (d.toNat, (intInto g (x a / 2 ^ shift b) false).1)
  | .vpopcnt _ _ _ d a => some (d.toNat, popBits (fmtW g) (elemAt g (vSrc e a.toNat 1) k))
  | .vxorpc _ _ _ d a b =>
    some (d.toNat, popBits (fmtW g) (elemAt g (vSrc e a.toNat 1) k ^^^ vB e g (vSrc e b.toNat 1) k))
  | .viota _ _ _ d a =>
    some (d.toNat, ((List.range k).filter fun n => bit (getM e.c a.toNat).toNat n).length % 2 ^ fmtW g)
  | _ => none
where
  x (a : BitVec 5) : Int := intValue g (elemAt g (vSrc e a.toNat 1) k)
  y (b : BitVec 5) : Int := intValue g (vB e g (vSrc e b.toNat 1) k)
  shift (b : BitVec 5) : Nat := min (fmtW g) (vB e g (vSrc e b.toNat 1) k % 2 ^ fmtW g)

/-- The same of a word that takes every format (R196, R202, R203). -/
def anyLane (e : VEnv) (g : Fmt) (k : Nat) : Instr → Option (Nat × Nat)
  | .vand _ _ _ d a b => some (d.toNat, A a k &&& B b k)
  | .vor _ _ _ d a b => some (d.toNat, A a k ||| B b k)
  | .vxor _ _ _ d a b => some (d.toNat, A a k ^^^ B b k)
  | .vsel _ _ _ d a b => some (d.toNat, if bit (getM e.c (e.cap.imm % 8)).toNat k then A a k else B b k)
  | .vbcast _ _ _ d b => some (d.toNat, B b (e.cap.imm % elemCount g))
  | .vslide _ _ _ d a b =>
    some (d.toNat, if k + e.cap.imm < elemCount g then A a (k + e.cap.imm)
      else if k + e.cap.imm < 2 * elemCount g then B b (k + e.cap.imm - elemCount g) else 0)
  | _ => none
where
  A (a : BitVec 5) (n : Nat) : Nat := elemAt g (vSrc e a.toNat 1) n
  B (b : BitVec 5) (n : Nat) : Nat := vB e g (vSrc e b.toNat 1) n

/-- The same of a word on floating values of a format: the exact result, rounded once (R49, R50, R197). -/
def floatLane (e : VEnv) (h : Flt) (k : Nat) : Instr → Option (Nat × Nat)
  | .vfadd _ _ _ d a b => some (d.toNat, rounded (fvAdd (x a) (y b) (vRdn e)).1)
  | .vfsub _ _ _ d a b => some (d.toNat, rounded (fvAdd (x a) (fvNegate (y b)) (vRdn e)).1)
  | .vfmul _ _ _ d a b => some (d.toNat, rounded (fvMul (x a) (y b)).1)
  | .vfma _ _ _ d a b => some (d.toNat, rounded (fvFma (x a) (y b) (old d) (vRdn e)).1)
  | .vfms _ _ _ d a b => some (d.toNat, rounded (fvFma (fvNegate (x a)) (y b) (old d) (vRdn e)).1)
  | .vfmin _ _ _ d a b => some (d.toNat, fvCode h (fvPick false (x a) (y b)))
  | .vfmax _ _ _ d a b => some (d.toNat, fvCode h (fvPick true (x a) (y b)))
  | .vfabs _ _ _ d a => some (d.toNat, fvCode h (fvAbs (x a)))
  | .vfneg _ _ _ d a => some (d.toNat, fvCode h (fvNegate (x a)))
  | _ => none
where
  rounded (v : FVal) : Nat := (roundToFormat v h (vRnd e) e.cap.sat k).1
  x (a : BitVec 5) : FVal := fltValue h (elemAt (.flt h) (vSrc e a.toNat 1) k)
  y (b : BitVec 5) : FVal := fltValue h (vB e (.flt h) (vSrc e b.toNat 1) k)
  old (d : BitVec 5) : FVal := fltValue h (elemAt (.flt h) (vOld e d.toNat 1) k)

/-- The value of an element of the destination of a word that works element by element on one format. -/
def lane (e : VEnv) (g : Fmt) (k : Nat) (j : Instr) : Option (Nat × Nat) :=
  match anyLane e g k j, g with
  | some x, _ => some x
  | none, .flt h => floatLane e h k j
  | none, .bin => none
  | none, _ => intLane e g k j

/-- The value of a finite number: its sign, its significand and its power of two (R37). -/
def ratOf (neg : Bool) (m : Nat) (e : Int) : Rat := (if neg then -1 else 1) * (m : Rat) * (2 : Rat) ^ e

/-- One floating value is below another: neither is NaN, and −0 = +0 (R201). -/
def fltBelow : FVal → FVal → Bool
  | .inf a, .inf b => a && !b
  | .inf a, .fin _ _ _ _ => a
  | .fin _ _ _ _, .inf b => !b
  | .fin a m e _, .fin b n k _ => decide (ratOf a m e < ratOf b n k)
  | _, _ => false

/-- Two floating values are the same number: neither is NaN, and −0 = +0 (R201). -/
def fltSame : FVal → FVal → Bool
  | .inf a, .inf b => a == b
  | .fin a m e _, .fin b n k _ => decide (ratOf a m e = ratOf b n k)
  | _, _ => false

/-- One element is below another: integers as their format has them, B1 as +1 and −1, floating values as numbers (R193, R201). -/
def below (g : Fmt) (x y : Nat) : Bool :=
  match g with
  | .flt h => fltBelow (fltValue h x) (fltValue h y)
  | .bin => x % 2 == 1 && y % 2 == 0
  | _ => decide (intValue g x < intValue g y)

/-- Two elements have one value (R193, R201). -/
def same (g : Fmt) (x y : Nat) : Bool :=
  match g with
  | .flt h => fltSame (fltValue h x) (fltValue h y)
  | .bin => x % 2 == y % 2
  | _ => decide (intValue g x = intValue g y)

/-- An element is a NaN. -/
def nanElem (g : Fmt) (x : Nat) : Bool :=
  match g with
  | .flt h => fltValue h x == .nan
  | _ => false

/-- The bit of the destination mask that a compare or VMLOGIC gives for element `k`, and whether it sets NV: LT and LE of a NaN do
(R201, R202). -/
def maskLane (e : VEnv) (g : Fmt) (k : Nat) : Instr → Option (Nat × Bool × Bool)
  | .vcmpeq _ _ _ d a b => some (d.toNat, same g (x a) (y b), false)
  | .vcmpne _ _ _ d a b => some (d.toNat, !same g (x a) (y b), false)
  | .vcmplt _ _ _ d a b => some (d.toNat, below g (x a) (y b), nanElem g (x a) || nanElem g (y b))
  | .vcmple _ _ _ d a b => some (d.toNat, below g (x a) (y b) || same g (x a) (y b), nanElem g (x a) || nanElem g (y b))
  | .vmlogic _ _ _ d a b => some (d.toNat,
      bit e.cap.imm (2 * b2n (bit (getM e.c a.toNat).toNat k) + b2n (bit (getM e.c b.toNat).toNat k)), false)
  | _ => none
where
  x (a : BitVec 5) : Nat := elemAt g (vSrc e a.toNat 1) k
  y (b : BitVec 5) : Nat := vB e g (vSrc e b.toNat 1) k

/-- The formats that a vector word takes, as its rule gives them, and for a row of a tile the tiles the bank holds (R36, R192 to
R214, R219). -/
def vecTakes (e : VEnv) : Instr → Prop
  | .vadd _ _ f _ _ _ | .vsub _ _ f _ _ _ | .vaddsat _ _ f _ _ _ | .vsubsat _ _ f _ _ _ | .vavg _ _ f _ _ _
  | .vmul _ _ f _ _ _ | .vmulhi _ _ f _ _ _ | .vmac _ _ f _ _ _ | .vmin _ _ f _ _ _ | .vmax _ _ f _ _ _
  | .vshl _ _ f _ _ _ | .vshr _ _ f _ _ _ | .vxorpc _ _ f _ _ _ | .vabs _ _ f _ _ | .vpopcnt _ _ f _ _
  | .viota _ _ f _ _ => takes f isInt
  | .vfadd _ _ f _ _ _ | .vfsub _ _ f _ _ _ | .vfmul _ _ f _ _ _ | .vfma _ _ f _ _ _ | .vfms _ _ f _ _ _
  | .vfmin _ _ f _ _ _ | .vfmax _ _ f _ _ _ | .vfabs _ _ f _ _ | .vfneg _ _ f _ _ => takes f isFlt
  | .vand _ _ f _ _ _ | .vor _ _ f _ _ _ | .vxor _ _ f _ _ _ | .vcmpeq _ _ f _ _ _ | .vcmpne _ _ f _ _ _
  | .vcmplt _ _ f _ _ _ | .vcmple _ _ f _ _ _ | .vsel _ _ f _ _ _ | .vmlogic _ _ f _ _ _ | .vslide _ _ f _ _ _
  | .vpack _ _ f _ _ _ | .vunpack _ _ f _ _ _ | .vbcast _ _ f _ _ | .vmpopc _ _ f _ | .vmfirst _ _ f _ =>
    takes f fun _ => true
  | .vredsum _ _ f _ _ | .vredmin _ _ f _ _ | .vredmax _ _ f _ _ | .vargmin _ _ f _ => takes f (· != .bin)
  | .vperm _ _ f _ _ _ => takes f fun g => g != .bin && decide (4 ≤ storedW g)
  | .vtopn _ _ f _ _ | .vspread _ _ f _ _ _ => takes f fun g => g != .bin && decide (8 ≤ storedW g)
  | .vhash _ _ f _ _ _ => takes f fun g => storedW g == 32
  | .vlut _ _ f _ _ _ => takes f fun g => storedW g == 4 || storedW g == 8
  | .vcvt _ _ f _ _ => both f fun g h => storedW g == storedW h
  | .vwiden _ _ f _ _ => both f fun g h => storedW h == 2 * storedW g || storedW h == 4 * storedW g
  | .vnarrow _ _ f _ _ => both f fun g h => storedW g == 2 * storedW h || storedW g == 4 * storedW h
  | .vwmul _ _ f _ _ _ | .vwmac _ _ f _ _ _ => both f fun g h =>
      (storedW h == 2 * storedW g || storedW h == 4 * storedW g) && (isInt g && isInt h || isFlt g && isFlt h)
  | .vaccrd _ _ c _ h l => c.toNat < e.c.life.tiles ∧ e.badRow c.toNat (accRowNo h.toNat l.toNat) = false
  | .vaccwr _ _ c _ _ _ => c.toNat < e.c.life.tiles
  | .vrcp _ _ f _ _ | .vrsq _ _ f _ _ | .vexp2 _ _ f _ _ | .vlog2 _ _ f _ _ => specialFmt e f.toNat = true
  | .vrcpref _ _ f _ _ _ | .vrsqref _ _ f _ _ _ => takes f (· == .flt .fp32)
  | .vreply _ _ _ => True
  | _ => False
where
  takes (f : BitVec 3) (p : Fmt → Bool) : Prop := ∃ g, vFmt e f.toNat = some g ∧ p g = true
  both (f : BitVec 3) (p : Fmt → Fmt → Bool) : Prop :=
    ∃ g h, vFmt e f.toNat = some g ∧ vFmt e (f.toNat + 1) = some h ∧ p g h = true

/-- The format selector of a vector word. -/
def selOf (j : Instr) : Nat := bits (rawOf j) 17 15

end Sys2Proof.Claims

section

open Sys2Proof Sys2Proof.Machine Sys2Proof.Safety Sys2Proof.Claims

/-- R23: an engine word that passes its checks goes to the tail of its engine's queue, in program order, with its captured operands;
at a full queue of 64 entries it stands still. -/
def Obligations.RoutedWords : Prop :=
  ∀ (s : State) (i j : Instr), engineWord i = true → ready s i = true → effInstr (cx s).fr i = some j →
    ((getE (cx s).eng (engineOf j)).queue.length < 64 →
      (getE (cx s).eng (engineOf j)).queue ≠ [] ∨ (getE (cx s).eng (engineOf j)).flying ≠ [] ∨ s.sch.eager = false →
      exec i s = .next (routed s i j)
        ∧ (getE (getCtx (routed s i j) s.sch.cur).eng (engineOf j)).queue
            = (getE (cx s).eng (engineOf j)).queue ++ [queued s i j])
    ∧ (64 ≤ (getE (cx s).eng (engineOf j)).queue.length → exec i s = .next (stallAt s s.sch.cur .queueFull))

/-- R64, R87, R88, R94, R96, R101, R116: an engine word that starts and meets no stop completes: after its accesses it has left the
queue and popped its tokens; then its flags, replies, queue entry, binding, ring slots and pushed tokens take effect, and then the
add of its counter. Nothing else changes. -/
def Obligations.EngineWordCompletes : Prop :=
  ∀ (s : State) (i j : Instr), completes s i j = true →
    ∃ d n r m u, wordRun s i j = (.ok d, r) ∧ d.fin = some n
      ∧ startsIn s.sch.cur (engineOf j) (queued s i j) (flightOf (queued s i j) r d) (getCtx r.s s.sch.cur) m
      ∧ completesIn s.sch.cur (engineOf j) (flightOf (queued s i j) r d) n m (getCtx u s.sch.cur)
      ∧ onlyCtx r.s u s.sch.cur
      ∧ exec i s = .next (counterAdd u s.sch.cur (engineOf j) (flightOf (queued s i j) r d) n)

/-- R101, R105, R192 to R214, R219: a vector word that is no stream word and whose queues and tile are ready writes its result to its
destination, its flags to FFLAGS and its reply entry to the reply queue; it takes an entry of qin where it names one, and appends
one to qout where its destination is v31. Nothing else changes. -/
def Sys2Proof.Claims.vectorWords : Prop :=
  ∀ (s : State) (i j : Instr) (o : VOut), starts s i j = true → engineOf j = .v → streamWord j = false → s.mem.errs = [] →
    vecReady s j → vecRes (vecSees s i j) j = .ok o → o.trap = none → replyFits s o.reply.toList.length →
    ∃ t, exec i s = .next t ∧ leaves s t i j o.flags o.reply.toList ∧ t.mem = s.mem ∧ t.cores = s.cores ∧ t.cache = s.cache
      ∧ (getCtx t s.sch.cur).arch = archWith (cx s) o.dst
      ∧ (getCtx t s.sch.cur).eng.qin
          = (if usesQin (rawOf j) (cap s j).sv.isSome then (cx s).eng.qin.drop 1 else (cx s).eng.qin)
      ∧ (getCtx t s.sch.cur).eng.qout = (cx s).eng.qout ++ (destQout o.dst).toList

/-- R87, R192 to R214, R219: a vector word whose formats are among those it takes has a result, and completes, once its engine is free
to start it, its queues and its tile are ready and the reply queue has room. -/
def Sys2Proof.Claims.vectorWordsComplete : Prop :=
  ∀ (s : State) (i j : Instr), starts s i j = true → engineOf j = .v → streamWord j = false → s.mem.errs = [] →
    vecReady s j → vecTakes (vecSees s i j) j → replyFits s 1 →
    ∃ o t, vecRes (vecSees s i j) j = .ok o ∧ o.trap = none ∧ exec i s = .next t
      ∧ (getCtx t s.sch.cur).arch = archWith (cx s) o.dst ∧ (getCtx t s.sch.cur).fr = pastFront s i ∧ t.mem = s.mem

/-- R36, R103, R194 to R197, R201 to R203, R210: the elements of the result: the operation's value where the mask selects the element,
and otherwise 0 under Z or the old element. A compare or VMLOGIC clears the bits of its mask past the elements; LT and LE of a selected
NaN set NV. -/
def Obligations.VectorElements : Prop :=
  (∀ (e : VEnv) (g : Fmt) (j : Instr) (d : Nat) (x : Nat → Nat), vFmt e (selOf j) = some g →
    (∀ k, lane e g k j = some (d, x k)) →
    ∃ r f, vecRes e j = .ok ⟨.regs d 1 r, f, none, none⟩
      ∧ ∀ k, k < elemCount g → r / 2 ^ (storedW g * k) % 2 ^ storedW g
          = (if vActive e k then x k % 2 ^ storedW g
             else if e.cap.zero then 0 else vOld e d 1 / 2 ^ (storedW g * k) % 2 ^ storedW g))
  ∧ (∀ (e : VEnv) (g : Fmt) (j : Instr) (d : Nat) (x nv : Nat → Bool), vFmt e (selOf j) = some g →
    (∀ k, maskLane e g k j = some (d, x k, nv k)) →
    ∃ r, vecRes e j = .ok ⟨.mask d r, b2n ((List.range (elemCount g)).any fun k => vActive e k && nv k), none, none⟩
      ∧ (∀ k, k < elemCount g → bit r k
          = (if vActive e k then x k else if e.cap.zero then false else bit (getM e.c d).toNat k))
      ∧ ∀ k, elemCount g ≤ k → bit r k = false)
  ∧ (∀ (e : VEnv) (g : Fmt) (z : Bool) (t : BitVec 4) (f : BitVec 3) (a : BitVec 5), vFmt e f.toNat = some g →
    vecRes e (.vmpopc z t f a) = .ok ⟨.none, 0,
        some (((List.range (elemCount g)).filter fun k => vActive e k && bit (getM e.c a.toNat).toNat k).length), none⟩
    ∧ ∃ n, vecRes e (.vmfirst z t f a) = .ok ⟨.none, 0, some n, none⟩
      ∧ (∀ k, k < n → k < elemCount g → (vActive e k && bit (getM e.c a.toNat).toNat k) = false)
      ∧ (n < elemCount g ∧ (vActive e n && bit (getM e.c a.toNat).toNat n) = true ∨ n = elemCount g))

end

namespace Sys2Proof.Claims

open Sys2Proof.Machine Sys2Proof.Safety

/-! ### Places that an engine word reaches -/

/-- Every value of a list, when each is there. -/
def everyOf {α : Type} : List (Option α) → Option (List α)
  | [] => some []
  | x :: r =>
    match x, everyOf r with
    | some y, some ys => some (y :: ys)
    | _, _ => none

/-- The place of one piece of a page, when the stream TLB of the engine holds a translation that permits the access (R383, R385). -/
def heldPiece (s : State) (e : Engine) (kind : AccKind) (va n : Nat) : Option (Loc × Nat) :=
  if (tlbFind s (engineTlb s.sch.cur (chainPos e)) (cx s).life.asid va).isNone then none
  else
    match (xlate s (engineTlb s.sch.cur (chainPos e)) (cx s).life.part (cx s).life.asid va kind true).1 with
    | .ok l => some (l, n)
    | _ => none

/-- The places of a range, when every page of it is held so. -/
def held (s : State) (e : Engine) (kind : AccKind) (va n : Nat) : Option (List (Loc × Nat)) :=
  if n = 0 then some []
  else if 2 ^ 48 < va + n then none
  else everyOf ((pagePieces va (pieceFuel n) n).map fun x => heldPiece s e kind x.1 x.2)

/-- Two places share no byte. -/
def apart (x y : Loc × Nat) : Prop :=
  min x.1.typ 2 ≠ min y.1.typ 2 ∨ key x.1 + x.2 ≤ key y.1 ∨ key y.1 + y.2 ≤ key x.1
where
  key (l : Loc) : Nat := if l.typ ≤ 1 then l.pa else peerKey l.peer l.pa

/-- The memories after the writes of `ws`, each at its places: they hold those bytes, and every place apart from them and every
scratchpad byte is as it was (which words an AMOP's release sequence reaches, R316, is put aside). -/
def memWrote (s t : State) (ws : List (List (Loc × Nat) × List Byte)) : Prop :=
  (∀ w, w ∈ ws → piecesRead t w.1 = w.2)
    ∧ (∀ x, (∀ w, w ∈ ws → ∀ p, p ∈ w.1 → apart x p) → locRead t x.1 x.2 = locRead s x.1 x.2)
    ∧ t.mem = { s.mem with dram := t.mem.dram, host := t.mem.host, peer := t.mem.peer, promo := t.mem.promo }

/-- The writes share no byte with one another. -/
def allApart (ws : List (List (Loc × Nat) × List Byte)) : Prop :=
  (ws.map fun w => w.1).flatten.Pairwise apart

/-- The memory that holds the scratchpad of the context (R111, R306). -/
def padMem (s : State) (m : Stores) : Mem :=
  match s.sch.cur with
  | .bank _ _ => m.scratch
  | .seq _ => m.seqScratch

/-- The place in it of an offset of the window. -/
def padAt (s : State) (off : Nat) : Nat :=
  match s.sch.cur with
  | .bank c _ => 2 ^ 20 * c + (cx s).life.winBase + off
  | .seq n => 2 ^ 18 * n + off

/-- The scratchpads after writes at offsets of the window: they hold those bytes, and no other byte of any memory has changed. -/
def padWrote (s t : State) (ws : List (Nat × List Byte)) : Prop :=
  (∀ w, w ∈ ws → padRead t s.sch.cur w.1 w.2.length = w.2)
    ∧ (∀ x, (∀ w, w ∈ ws → x < padAt s w.1 ∨ padAt s w.1 + w.2.length ≤ x) →
        mget (padMem s t.mem) x = mget (padMem s s.mem) x)
    ∧ t.mem = (match s.sch.cur with
        | .bank _ _ => { s.mem with scratch := t.mem.scratch }
        | .seq _ => { s.mem with seqScratch := t.mem.seqScratch })

/-- Offsets of `n` bytes lie in the window (R111). -/
def inWindow (s : State) (off n : Nat) : Prop := n = 0 ∨ off + n ≤ winBytes (cx s)

/-- The counter of the word is aligned (R93). -/
def counterOk (s : State) (j : Instr) : Prop := hasMc (rawOf j) = true → (cap s j).sm.toNat % 8 = 0

/-- No access of the engine's head is to fail (R394, R430), no memory holds an error mark (R440), the memories are canonical, and
the reply queue has room for `n` entries. -/
def calm (s : State) (j : Instr) (n : Nat) : Prop :=
  (getE (cx s).eng (engineOf j)).headAbort = none ∧ s.mem.errs = [] ∧ memoriesCanonical s ∧ replyFits s n

/-! ### Copies -/

/-- The offsets of `n` units from an offset on: 32 bytes apart, or in column mode the pitch of the skewed region that holds the offset
(R113, R262). -/
def unitOffs (c : Ctx) (off n : Nat) (col : Bool) : Option (List Nat) :=
  if col then (skewPitch c off).map fun p => (List.range n).map fun u => off + u * p
  else some ((List.range n).map fun u => off + 32 * u)

/-- The units of a copy, in order, as virtual address and offset (R178, R262, R263). -/
def copyUnits (s : State) (j : Instr) : Option (List (Nat × Nat)) :=
  match j with
  | .lcp _ _ _ _ _ l _ | .scp _ _ _ _ _ l _ =>
    (unitOffs (cx s) (wbits (cap s j).sb 19 0) (wbits (cap s j).sb 40 20 / 32) l).map (unitsAt (cap s j).sa.toNat)
  | .lgo _ _ _ _ _ l _ | .sgo _ _ _ _ _ l _ =>
    (everyOf ((nestAll (cap s j).nest).map fun x =>
      (unitOffs (cx s) x.2.toNat ((cap s j).nest.unit / 32) l).map (unitsAt x.1))).map List.flatten
  | _ => none
where
  unitsAt (va : Nat) (us : List Nat) : List (Nat × Nat) := us.zipIdx.map fun u => (va + 32 * u.2, u.1)

/-- The parameters of a copy are in order and aligned (R259, R261, R263). -/
def copyFits (s : State) (j : Instr) : Prop :=
  counterOk s j ∧ (match j with
    | .lcp _ _ _ _ _ _ _ | .scp _ _ _ _ _ _ _ =>
      wbits (cap s j).sb 63 46 = 0 ∧ badScope (wbits (cap s j).sb 45 43) (wbits (cap s j).sb 42 41) = false
        ∧ wbits (cap s j).sb 40 20 ≤ 2 ^ 20 ∧ (cap s j).sa.toNat % 32 = 0 ∧ wbits (cap s j).sb 40 20 % 32 = 0
        ∧ wbits (cap s j).sb 19 0 % 32 = 0
    | _ =>
      wbits (cap s j).sb 63 5 = 0 ∧ badScope (wbits (cap s j).sb 4 2) (wbits (cap s j).sb 1 0) = false
        ∧ (cap s j).nest.levels ≠ [] ∧ (cap s j).nest.unit % 32 = 0
        ∧ ∀ x, x ∈ nestAll (cap s j).nest → x.1 % 32 = 0 ∧ x.2 % 32 = 0 ∧ 0 ≤ x.2)

/-- What LCP and LGO write: for each unit its offset and the 32 bytes of its place. -/
def loadedUnits (s : State) (us : List (Nat × Nat)) : Option (List (Nat × List Byte)) :=
  everyOf (us.map fun u => (held s .l .read u.1 32).map fun ls => (u.2, piecesRead s ls))

/-- What SCP and SGO write: for each unit its place and the 32 bytes at its offset. -/
def storedUnits (s : State) (us : List (Nat × Nat)) : Option (List (List (Loc × Nat) × List Byte)) :=
  everyOf (us.map fun u => (held s .s .write u.1 32).map fun ls => (ls, padRead s s.sch.cur u.2 32))

/-! ### Queue words -/

/-- The offsets of the units of the entries that LQ and LQX read (R264). -/
def entryUnits (s : State) (j : Instr) : List (List Nat) :=
  match j with
  | .lq _ _ _ _ l => (List.range (cap s j).sb.toNat).map fun n => (List.range 16).map fun u =>
      if l then (cap s j).sa.toNat + 32 * n + u * (skewPitch (cx s) (cap s j).sa.toNat).getD 0
      else (cap s j).sa.toNat + 512 * n + 32 * u
  | .lqx _ _ _ _ => (List.range (cap s j).sb.toNat).map fun n => (List.range 16).map fun u =>
      leVal (padRead s s.sch.cur ((cap s j).sa.toNat + 64 * n + 4 * u) 4)
  | _ => []

/-- The entry that 16 units make. -/
def entryAt (s : State) (us : List Nat) : VReg := BitVec.ofNat 4096 (leVal (us.map fun o => padRead s s.sch.cur o 32).flatten)

/-! ### Set operations -/

/-- The records of a stream that are still to come (R215, R277). -/
def recordsFrom (s : State) (off rf vf count pos : Nat) : List (Nat × Nat) :=
  ((List.range count).map fun n => recParts rf vf (padRead s s.sch.cur (off + n * recSize rf) (recSize rf))).drop pos

/-- The keys of records rise, and are above the last key taken (R216). -/
def rising (last : Option Nat) (l : List (Nat × Nat)) : Prop :=
  (l.map fun x => x.1).Pairwise (· < ·) ∧ ∀ k, last = some k → ∀ x, x ∈ l → k < x.1

/-- A record is among those with its key. -/
def hasKey (l : List (Nat × Nat)) (k : Nat) : Prop := ∃ v, (k, v) ∈ l

/-- What a set operation emits from two lists of records into a slot of its output: which records, by key (R217); the slot is the
index with which a sum of SMADD rounds (R52). -/
def emits (s : State) (j : Instr) (rf vf : Nat) (a b : List (Nat × Nat)) (slot k v : Nat) : Prop :=
  match j with
  | .sisect _ _ _ _ _ => (k, v) ∈ a ∧ hasKey b k
  | .sunion _ _ _ _ _ => (k, v) ∈ a ∨ ((k, v) ∈ b ∧ ¬ hasKey a k)
  | .ssub _ _ _ _ _ => (k, v) ∈ a ∧ ¬ hasKey b k
  | _ => ((k, v) ∈ a ∧ ¬ hasKey b k) ∨ ((k, v) ∈ b ∧ ¬ hasKey a k)
      ∨ ∃ x y, (k, x) ∈ a ∧ (k, y) ∈ b ∧ v = (madd (cap s j) rf vf x y slot).1

/-- The registers that a set operation names. -/
def setRegs : Instr → Option (Nat × Nat × Nat)
  | .sisect _ _ d a b | .sunion _ _ d a b | .ssub _ _ d a b | .smadd _ _ d a b => some (d.toNat, a.toNat, b.toNat)
  | _ => none

end Sys2Proof.Claims

section

open Sys2Proof Sys2Proof.Machine Sys2Proof.Safety Sys2Proof.Claims

/-- R178, R258 to R263: LCP and LGO copy each unit of memory to its place in the scratchpad, SCP and SGO the other way, and then add 1
to the word's counter. No register changes, and no byte outside the units. -/
def Obligations.CopyWords : Prop :=
  (∀ (s : State) (i j : Instr) (us : List (Nat × Nat)) (ws : List (Nat × List Byte)),
    starts s i j = true → engineOf j = .l → calm s j 0 → copyFits s j → copyUnits s j = some us →
    (∀ u, u ∈ us → inWindow s u.2 32) → loadedUnits s us = some ws →
    ws.Pairwise (fun x y => x.1 + 32 ≤ y.1 ∨ y.1 + 32 ≤ x.1) →
    ∃ u t, exec i s = .next t ∧ addsOne s u t i j ∧ leaves s u i j 0 [] ∧ archSame s u ∧ queuesSame s u ∧ padWrote s u ws)
  ∧ (∀ (s : State) (i j : Instr) (us : List (Nat × Nat)) (ws : List (List (Loc × Nat) × List Byte)),
    starts s i j = true → engineOf j = .s → calm s j 0 → copyFits s j → copyUnits s j = some us →
    (∀ u, u ∈ us → inWindow s u.2 32) → storedUnits s us = some ws → allApart ws →
    ∃ u t, exec i s = .next t ∧ addsOne s u t i j ∧ leaves s u i j 0 [] ∧ archSame s u ∧ queuesSame s u ∧ memWrote s u ws)

/-- R101, R264, R265: LQ and LQX append their entries to qin when it has room for them; SQ takes its entries from qout and writes
them, 512 bytes each, to the scratchpad or to memory. -/
def Obligations.QueueWords : Prop :=
  (∀ (s : State) (i j : Instr), starts s i j = true → calm s j 0 → (cap s j).sb.toNat ≤ 4096 →
    (match j with
      | .lq _ _ _ _ l => (cap s j).sa.toNat % 32 = 0 ∧ (l = true → (skewPitch (cx s) (cap s j).sa.toNat).isSome = true)
      | .lqx _ _ _ _ => (cap s j).sa.toNat % 4 = 0 ∧ inWindow s (cap s j).sa.toNat (64 * (cap s j).sb.toNat)
          ∧ ∀ us, us ∈ entryUnits s j → ∀ o, o ∈ us → o % 32 = 0
      | _ => False) →
    (∀ us, us ∈ entryUnits s j → ∀ o, o ∈ us → inWindow s o 32) → (cx s).eng.qin.length + (cap s j).sb.toNat ≤ 8 →
    ∃ t, exec i s = .next t ∧ leaves s t i j 0 [] ∧ archSame s t ∧ t.mem = s.mem
      ∧ (getCtx t s.sch.cur).eng.qin = (cx s).eng.qin ++ (entryUnits s j).map (entryAt s)
      ∧ (getCtx t s.sch.cur).eng.qout = (cx s).eng.qout)
  ∧ (∀ (s : State) (i : Instr) (z : Bool) (k c : BitVec 4) (a b : BitVec 5) (m p : Bool) (ws : List (List (Loc × Nat) × List Byte)),
    let j := Instr.sq z k a b c m p
    let n := wbits (cap s j).sb 15 0
    starts s i j = true → calm s j 0 → counterOk s j → wbits (cap s j).sb 63 21 = 0 →
    badScope (wbits (cap s j).sb 20 18) (wbits (cap s j).sb 17 16) = false → (cap s j).sa.toNat % 32 = 0 →
    n ≤ (cx s).eng.qout.length →
    (if p then wbits (cap s j).sb 17 16 = 0 ∧ inWindow s (cap s j).sa.toNat (512 * n)
      else everyOf ((List.range (16 * n)).map fun u => (held s .s .write ((cap s j).sa.toNat + 32 * u) 32).map fun ls =>
            (ls, ((leList 512 (((cx s).eng.qout.getD (u / 16) 0).toNat)).drop (32 * (u % 16))).take 32)) = some ws ∧ allApart ws) →
    ∃ u t, exec i s = .next t ∧ addsOne s u t i j ∧ leaves s u i j 0 [] ∧ archSame s u
      ∧ (getCtx u s.sch.cur).eng.qout = (cx s).eng.qout.drop n ∧ (getCtx u s.sch.cur).eng.qin = (cx s).eng.qin
      ∧ (if p then padWrote s u ((List.range n).map fun e =>
            ((cap s j).sa.toNat + 512 * e, leList 512 ((cx s).eng.qout.getD e 0).toNat))
          else memWrote s u ws))

/-- R116, R215, R218, R268, R277, R278: LRING commits slots of a ring and SRING pops them; LSBIND and SSBIND bind a stream register;
SBIND turns an output into an input over its records; SRESET unbinds; SCOUNT answers the records left or written. -/
def Obligations.RingAndBindingWords : Prop :=
  ∀ (s : State) (i j : Instr), starts s i j = true → calm s j 1 →
    let c := cx s
    let k := cap s j
    let does := fun (r : List Nat) (x : Ctx) => ∃ t, exec i s = .next t ∧ leaves s t i j 0 r ∧ queuesSame s t ∧ t.mem = s.mem
      ∧ t.cores = s.cores ∧ (getCtx t s.sch.cur).arch = x.arch
    match j with
    | .lring _ _ _ r =>
      ringUsable c r.toNat = true →
      (getRing c r.toNat).count + (ringOwed c.eng r.toNat).1 + k.sa.toNat ≤ ringN (getRing c r.toNat) →
      does [] (setRing c r.toNat { getRing c r.toNat with
        tail := ((getRing c r.toNat).tail + k.sa.toNat) % ringN (getRing c r.toNat)
        count := (getRing c r.toNat).count + k.sa.toNat })
    | .sring _ _ _ r =>
      ringUsable c r.toNat = true → k.sa.toNat ≤ (getRing c r.toNat).count - (ringOwed c.eng r.toNat).2 →
      does [] (setRing c r.toNat { getRing c r.toNat with
        head := ((getRing c r.toNat).head + k.sa.toNat) % ringN (getRing c r.toNat)
        count := (getRing c r.toNat).count - k.sa.toNat })
    | .lsbind _ _ _ _ n =>
      wbits k.sb 63 45 = 0 → wbits k.sb 39 36 = 0 → badRecord (wbits k.sb 35 32) (wbits k.sb 44 40) = false →
      k.sa.toNat % recSize (wbits k.sb 35 32) = 0 → inWindow s k.sa.toNat (wbits k.sb 31 0 * recSize (wbits k.sb 35 32)) →
      does [] (setK c n.toNat (.input k.sa.toNat (wbits k.sb 35 32) (wbits k.sb 44 40) (wbits k.sb 31 0) 0 none))
    | .ssbind _ _ _ _ n =>
      wbits k.sb 63 45 = 0 → wbits k.sb 39 36 = 0 → badRecord (wbits k.sb 35 32) (wbits k.sb 44 40) = false →
      k.sa.toNat % recSize (wbits k.sb 35 32) = 0 → inWindow s k.sa.toNat (wbits k.sb 31 0 * recSize (wbits k.sb 35 32)) →
      does [] (setK c (6 + b2n n) (.output k.sa.toNat (wbits k.sb 35 32) (wbits k.sb 44 40) (wbits k.sb 31 0) 0))
    | .sbind _ _ d a =>
      d.toNat < 6 → 6 ≤ a.toNat → ∀ off rf vf lim wr, getK c a.toNat = .output off rf vf lim wr →
      does [] (setK c d.toNat (.input off rf vf wr 0 none))
    | .sreset _ _ d => does [] (setK c d.toNat .unbound)
    | .scount _ _ a =>
      match getK c a.toNat with
      | .input _ _ _ count pos _ => does [(count - pos) % 2 ^ 32] c
      | .output _ _ _ _ wr => does [wr % 2 ^ 32 + 2 ^ 32] c
      | .unbound => True
    | _ => True

/-- R215 to R217: over two inputs whose keys rise, with room in the output, SISECT writes the records of a whose keys b holds, SUNION
those of a and those of b that a does not hold, SSUB those of a whose keys b does not hold, and SMADD those of either with the
values of equal keys added; the records written have rising keys, follow those already there, and are counted in the reply. -/
def Obligations.StreamSetOperations : Prop :=
  ∀ (s : State) (i j : Instr) (d a b off rf vf lim wr oa ca pa ob cb pb : Nat) (la lb : Option Nat),
    starts s i j = true → calm s j 1 → setRegs j = some (d, a, b) → rf ≤ 2 → 6 ≤ d → a < 6 → b < 6 →
    getK (cx s) d = .output off rf vf lim wr → getK (cx s) a = .input oa rf vf ca pa la →
    getK (cx s) b = .input ob rf vf cb pb lb →
    let ra := recordsFrom s oa rf vf ca pa
    let rb := recordsFrom s ob rf vf cb pb
    let lo := off + wr * recSize rf
    let hi := off + (wr + ra.length + rb.length) * recSize rf
    rising la ra → rising lb rb → wr + ra.length + rb.length ≤ lim →
    (hi ≤ oa ∨ oa + ca * recSize rf ≤ lo) → (hi ≤ ob ∨ ob + cb * recSize rf ≤ lo) →
    ∃ t out flags, exec i s = .next t ∧ leaves s t i j flags [out.length % 2 ^ 32] ∧ queuesSame s t ∧ t.cores = s.cores
      ∧ rising none out ∧ (∀ n k v, out[n]? = some (k, v) → emits s j rf vf ra rb (wr + n) k v)
      ∧ (∀ n k v, emits s j rf vf ra rb n k v → hasKey out k)
      ∧ padWrote s t [(lo, (out.map fun x => recBytes rf x.1 x.2).flatten)]
      ∧ getK (getCtx t s.sch.cur) d = .output off rf vf lim (wr + out.length)
      ∧ (∀ n, n ≠ d → n ≠ a → n ≠ b → getK (getCtx t s.sch.cur) n = getK (cx s) n)
      ∧ (getCtx t s.sch.cur).arch.s = (cx s).arch.s ∧ (getCtx t s.sch.cur).arch.v = (cx s).arch.v

/-- R122 to R125, R269, R270: LPREF, LHINT and SFLUSH change no register and no byte of memory; SFLUSH then adds 1 to its counter;
SZERO writes zeros over its range of the scratchpad. -/
def Sys2Proof.Claims.cacheAndZeroWords : Prop :=
  ∀ (s : State) (i j : Instr), starts s i j = true → calm s j 0 →
    match j with
    | .lpref _ _ _ _ | .lhint _ _ _ _ =>
      wbits (cap s j).sb 63 42 = 0 → wbits (cap s j).sb 41 40 ≠ 3 →
      ∃ t, exec i s = .next t ∧ leaves s t i j 0 [] ∧ archSame s t ∧ queuesSame s t ∧ t.mem = s.mem
    | .sflush _ _ _ _ _ _ _ =>
      wbits (cap s j).sb 63 42 = 0 → wbits (cap s j).sb 41 40 = 0 → (cap s j).sa.toNat % 128 = 0 →
      wbits (cap s j).sb 39 0 % 128 = 0 → counterOk s j →
      ∃ u t, exec i s = .next t ∧ addsOne s u t i j ∧ leaves s u i j 0 [] ∧ archSame s u ∧ queuesSame s u ∧ u.mem = s.mem
    | .szero _ _ _ _ =>
      (cap s j).sa.toNat % 32 = 0 → (cap s j).sb.toNat % 32 = 0 → inWindow s (cap s j).sa.toNat (cap s j).sb.toNat →
      ∃ t, exec i s = .next t ∧ leaves s t i j 0 [] ∧ archSame s t ∧ queuesSame s t
        ∧ padWrote s t [((cap s j).sa.toNat, List.replicate (cap s j).sb.toNat 0)]
    | _ => True

/-- R266, R267: an LMARK whose SMARK of the same number has started, or the other way round, completes with it: both words leave
their engines, and the counts of the number are then equal. An unmatched mark stays started. -/
def Sys2Proof.Claims.marks : Prop :=
  ∀ (s : State) (i j : Instr) (m : BitVec 4) (load : Bool) (g : Flight),
    starts s i j = true → s.mem.errs = [] → (cx s).eng.reply.length ≤ 16 → g.ring1 = .none → g.ring2 = .none → g.ring3 = .none →
    (if load then (∃ z p, j = .lmark z p m) ∧ (cx s).eng.s.flying = [g] ∧ g.fin = some Finish.plain
      else (∃ z p, j = .smark z p m) ∧ (cx s).eng.l.flying = [g] ∧ g.fin = some Finish.plain) →
    ∃ t, exec i s = .next t ∧ t.mem = s.mem ∧ archSame s t
      ∧ (getCtx t s.sch.cur).fr = pastFront s i
      ∧ (getCtx t s.sch.cur).eng.lmarks[m.toNat] = (cx s).eng.lmarks[m.toNat] + (if load then 1 else 0)
      ∧ (getCtx t s.sch.cur).eng.smarks[m.toNat] = (cx s).eng.smarks[m.toNat] + (if load then 0 else 1)
      ∧ (if (getCtx t s.sch.cur).eng.lmarks[m.toNat] = (getCtx t s.sch.cur).eng.smarks[m.toNat] then
            (getCtx t s.sch.cur).eng.l.flying = [] ∧ (getCtx t s.sch.cur).eng.s.flying = []
          else ((getE (getCtx t s.sch.cur).eng (engineOf j)).flying.map fun f => f.w.uid) = [s.sch.uid])

/-! The transform engine -/

end

namespace Sys2Proof.Claims

open Sys2Proof.Machine Sys2Proof.Safety

/-- The descriptor of a T word, when it is aligned and held, and its CTL is in order (R279). -/
def descOf (s : State) (j : Instr) : Option (List Byte) :=
  if (cap s j).sa.toNat % 32 ≠ 0 then none
  else
    match held s .t .read (cap s j).sa.toNat 32 with
    | none => none
    | some ls => if badCtl (piecesRead s ls) then none else some (piecesRead s ls)

/-- The places of a long range, page by page, when every page is held. -/
def heldLong (s : State) (e : Engine) (kind : AccKind) (va n : Nat) : Option (List (Loc × Nat)) :=
  (everyOf ((pageRuns va n).map fun x => held s e kind (va + x.1) x.2)).map List.flatten

/-- What TCOPY, TFILL and TCHK read and write: the bytes, the place they are written to, and the reply entry (R280). -/
def transferOf (s : State) (j : Instr) (d : List Byte) : Option (List (List (Loc × Nat) × List Byte) × List Nat) :=
  match j with
  | .tcopy _ _ _ _ _ _ =>
    if 2 ^ 48 < (cap s j).sb.toNat then none
    else
      match heldLong s .t .read (fieldAt d 0 8) (cap s j).sb.toNat, heldLong s .t .write (fieldAt d 8 8) (cap s j).sb.toNat with
      | some r, some w => some ([(w, piecesRead s r)], [])
      | _, _ => none
  | .tfill _ _ _ _ _ _ =>
    if fieldAt d 0 8 % 8 ≠ 0 ∨ fieldAt d 8 8 % 8 ≠ 0 then none
    else
      (heldLong s .t .write (fieldAt d 0 8) (fieldAt d 8 8)).map fun w =>
        ([(w, ((List.range (fieldAt d 8 8 / 8)).map fun _ => leList 8 (cap s j).sb.toNat).flatten)], [])
  | .tchk _ _ _ _ _ =>
    (heldLong s .t .read (fieldAt d 0 8) (fieldAt d 8 8)).map fun r => ([], [crc32c (fieldAt d 16 4) (piecesRead s r)])
  | _ => none

end Sys2Proof.Claims

section

open Sys2Proof Sys2Proof.Machine Sys2Proof.Safety Sys2Proof.Claims

/-- R279, R280: TCOPY writes the bytes it has read, TFILL its pattern, and TCHK appends the checksum of its range; each then adds 1 to
its counter. No other byte of memory and no register changes. -/
def Sys2Proof.Claims.transferWords : Prop :=
  ∀ (s : State) (i j : Instr) (d : List Byte) (ws : List (List (Loc × Nat) × List Byte)) (r : List Nat),
    starts s i j = true → engineOf j = .t → calm s j r.length → counterOk s j → descOf s j = some d →
    transferOf s j d = some (ws, r) → allApart ws →
    ∃ u t, exec i s = .next t ∧ addsOne s u t i j ∧ leaves s u i j 0 r ∧ archSame s u ∧ queuesSame s u ∧ memWrote s u ws

/-- R279, R281 to R284: a TCVT, TROPE, TSPLICE or TKVAPP that completes changes no register, no scratchpad byte and no queue but the
reply queue: TCVT appends no entry, TSPLICE the new entry count, TROPE and TKVAPP one entry; each then adds 1 to its counter. -/
def Sys2Proof.Claims.transformWords : Prop :=
  ∀ (s : State) (i j : Instr), completes s i j = true → s.mem.errs = [] →
    (match j with
      | .tcvt _ _ _ _ _ | .trope _ _ _ _ _ _ | .tsplice _ _ _ _ _ _ | .tkvapp _ _ _ _ _ _ => True
      | _ => False) →
    ∃ u t flags r, exec i s = .next t ∧ addsOne s u t i j ∧ leaves s u i j flags r ∧ archSame s u ∧ queuesSame s u
      ∧ u.mem = { s.mem with dram := u.mem.dram, host := u.mem.host, peer := u.mem.peer, promo := u.mem.promo }
      ∧ (match j with
        | .tcvt _ _ _ _ _ => r = []
        | .tsplice _ _ _ _ _ _ => flags = 0 ∧ ∀ d, descOf s j = some d →
            r = [(fieldAt d 16 4 - fieldAt d 24 2 + fieldAt d 26 2) % 2 ^ 32]
        | .tkvapp _ _ _ _ _ _ => flags = 0 ∧ r.length = 1
        | _ => r.length = 1)

end

namespace Sys2Proof.Claims

open Sys2Proof.Machine Sys2Proof.Safety

/-- What a T word that edits reads between its writes, what it writes, its reply entries and its flags. -/
structure Edit where
  reads : List (Loc × Nat)
  writes : List (List (Loc × Nat) × List Byte)
  replies : List Nat
  flags : Nat

/-- TCVT (R281), when its descriptor is in order and its ranges are held. -/
def tcvtEdit (s : State) (j : Instr) (d : List Byte) : Option Edit :=
  let k := cap s j
  let n := fieldAt d 24 4
  let dmx := bit (fieldAt d 30 1) 0
  let smx := bit (fieldAt d 30 1) 1
  match fmtOfCode (fieldAt d 28 1), fmtOfCode (fieldAt d 29 1) with
  | some src, some dst =>
    if 2 < fieldAt d 30 1 ∨ (dmx && !mxAllowed dst) = true ∨ (smx && !mxAllowed src) = true
        ∨ fieldAt d 0 8 % fmtAlign src ≠ 0 ∨ fieldAt d 8 8 % fmtAlign dst ≠ 0 ∨ n % countUnit src ≠ 0 ∨ n % countUnit dst ≠ 0
        ∨ ((dmx || smx) = true ∧ n % 32 ≠ 0) then none
    else
      match heldLong s .t .read (fieldAt d 0 8) (fmtBytes src n), heldLong s .t .read (fieldAt d 16 8) (if smx then n / 32 else 0),
        heldLong s .t .write (fieldAt d 8 8) (fmtBytes dst n), heldLong s .t .write (fieldAt d 16 8) (if dmx then n / 32 else 0) with
      | some a, some b, some x, some y =>
        let r := cvtAll src dst dmx smx n (leVal (piecesRead s a)) (piecesRead s b) ⟨k.rnd, k.seed.toNat, k.step.toNat⟩ k.sat
        some ⟨[], [(x, r.1), (y, r.2.1)], [], r.2.2⟩
      | _, _, _, _ => none
  | _, _ => none

/-- TROPE (R282), when its descriptor is in order and its ranges are held: the rotary part of every slot of the entries that are not
skipped. -/
def tropeEdit (s : State) (j : Instr) (d : List Byte) : Option Edit :=
  let n := fieldAt d 16 2
  let dc := fieldAt d 18 2
  let dr := fieldAt d 20 1
  let lfmt := fieldAt d 21 1
  if n = 0 ∨ 4096 < n ∨ dc < 32 ∨ 1024 < dc ∨ dr < 2 ∨ 128 < dr ∨ 1 < lfmt ∨ fieldAt d 22 9 ≠ 0 ∨ fieldAt d 0 8 % 16 ≠ 0
      ∨ fieldAt d 8 8 % 4 ≠ 0 ∨ dc % 32 ≠ 0 ∨ dr % 2 ≠ 0 then none
  else
    match heldLong s .t .read (fieldAt d 8 8) (2 * dr),
      everyOf ((List.range n).map fun e => held s .t .read (fieldAt d 0 8 + 16 * e) 16) with
    | some th, some es =>
      let ents := usableEntries (es.map fun ls => entryOf (piecesRead s ls))
      let cs := (List.range (dr / 2)).map fun e =>
        cosSin ((cap s j).sb.toNat % 2 ^ 32 * fieldAt (piecesRead s th) (4 * e) 4 % 2 ^ 32)
      let lb := latentBytes dc lfmt
      let slots := (ents.1.map fun e => (List.range e.count).map fun t => e.block + t * (lb + 2 * dr) + lb).flatten
      match everyOf (slots.map fun a => held s .t .read a (2 * dr)), everyOf (slots.map fun a => held s .t .write a (2 * dr)) with
      | some rs, some ws =>
        let outs := rs.zipIdx.map fun x => ropeSlot (cap s j) (piecesRead s x.1) 0 (x.2 * dr) cs
        some ⟨[], ws.zip (outs.map fun x => x.1), [ents.2.1 + ents.2.2 * 2 ^ 16], outs.foldl (fun f x => f ||| x.2) 0⟩
      | _, _ => none
    | _, _ => none

/-- TSPLICE (R283), when its descriptor is in order and its ranges are held: from AT on, the table is the inserted entries, the
entries after the deleted ones with their positions moved, and zeros. -/
def tspliceEdit (s : State) (j : Instr) (d : List Byte) : Option Edit :=
  let tbl := fieldAt d 0 8
  let n := fieldAt d 16 4
  let at_ := fieldAt d 20 4
  let del := fieldAt d 24 2
  let ins := fieldAt d 26 2
  let most := fieldAt d 28 3
  let left := n - del + ins
  if 4096 < ins ∨ most < n ∨ n < at_ ∨ n - at_ < del ∨ most < left ∨ tbl % 16 ≠ 0 ∨ fieldAt d 8 8 % 16 ≠ 0 then none
  else
    match everyOf ((List.range (n - at_ - del)).map fun t => held s .t .read (tbl + 16 * (at_ + del + t)) 16),
      everyOf ((List.range ins).map fun t => held s .t .read (fieldAt d 8 8 + 16 * t) 16),
      everyOf ((List.range (max n left - at_)).map fun t => held s .t .write (tbl + 16 * (at_ + t)) 16) with
    | some tail, some new, some ws =>
      let put := new.map fun ls => (piecesRead s ls).take 13 ++ [0, 0, 0]
      let moved := tail.map fun ls =>
        let b := piecesRead s ls
        b.take 8 ++ leList 4 ((fieldAt b 8 4 + (cap s j).sb.toNat) % 2 ^ 32) ++ (b.drop 12).take 1 ++ [0, 0, 0]
      some ⟨[], ws.zip (put ++ moved ++ List.replicate (n - left) (List.replicate 16 0)), [left % 2 ^ 32], 0⟩
    | _, _, _ => none

/-- TKVAPP (R284), when its descriptor is in order and its ranges are held: the tokens go to the free slots of the last block and to
fresh blocks, the last entry's count is raised, and the fresh blocks get entries. -/
def tkvappEdit (s : State) (j : Instr) (d : List Byte) : Option Edit :=
  let slotb := wbits (cap s j).sb 15 0
  let most := wbits (cap s j).sb 31 16
  let tbl := fieldAt d 0 8
  let n := fieldAt d 24 4
  let ntok := fieldAt d 28 2
  if wbits (cap s j).sb 63 32 ≠ 0 ∨ slotb < 2 ∨ 4096 < slotb ∨ most = 0 ∨ n = 0 ∨ 4096 < ntok ∨ fieldAt d 30 1 ≠ 0 ∨ most < n
      ∨ tbl % 16 ≠ 0 ∨ fieldAt d 16 8 % 8 ≠ 0 ∨ slotb % 2 ≠ 0 then none
  else
    match held s .t .read (tbl + 16 * (n - 1)) 16, held s .t .write (tbl + 16 * (n - 1)) 16 with
    | some el, some ew =>
      let eb := piecesRead s el
      let e := entryOf eb
      let need := (e.count + ntok - 64 + 63) / 64
      if e.valid = false ∨ e.count = 0 ∨ 64 < e.count ∨ most < n + need then none
      else
        match heldLong s .t .read (fieldAt d 16 8) (8 * need),
          everyOf ((List.range need).map fun t => held s .t .write (tbl + 16 * (n + t)) 16) with
        | some fl, some nw =>
          let fresh := (List.range need).map fun t => fieldAt (piecesRead s fl) (8 * t) 8
          let slot := fun t =>
            if e.count + t < 64 then e.block + (e.count + t) * slotb
            else fresh.getD ((e.count + t - 64) / 64) 0 + (e.count + t - 64) % 64 * slotb
          match everyOf ((List.range ntok).map fun t => heldLong s .t .read (fieldAt d 8 8 + t * slotb) slotb),
            everyOf ((List.range ntok).map fun t => heldLong s .t .write (slot t) slotb) with
          | some srcs, some dsts =>
            if fresh.any (fun x => x % 64 != 0) then none
            else some ⟨srcs.flatten,
              dsts.zip (srcs.map fun ls => piecesRead s ls)
                ++ [(ew, eb.take 12 ++ leList 1 (min 64 (e.count + ntok)) ++ [0, 0, 0])]
                ++ nw.zipIdx.map fun x => (x.1, leList 8 (fresh.getD x.2 0 + 1) ++ leList 4 (e.first + 64 * (x.2 + 1))
                    ++ leList 1 (min 64 (e.count + ntok - 64 * (x.2 + 1))) ++ [0, 0, 0]),
              [(n + need) % 2 ^ 32 + need * 2 ^ 32], 0⟩
          | _, _ => none
        | _, _ => none
    | _, _ => none

/-- The edit of a T word. -/
def editOf (s : State) (j : Instr) (d : List Byte) : Option Edit :=
  match j with
  | .tcvt _ _ _ _ _ => tcvtEdit s j d
  | .trope _ _ _ _ _ _ => tropeEdit s j d
  | .tsplice _ _ _ _ _ _ => tspliceEdit s j d
  | .tkvapp _ _ _ _ _ _ => tkvappEdit s j d
  | _ => none

end Sys2Proof.Claims

section

open Sys2Proof Sys2Proof.Machine Sys2Proof.Safety Sys2Proof.Claims

/-- R279, R281 to R284: a TCVT, TROPE, TSPLICE or TKVAPP whose descriptor is in order, whose ranges are held by its stream TLB, and
whose writes share no byte with one another or with what is read between them, writes what its rule says, appends its reply entry,
and adds 1 to its counter. No other byte of memory and no register changes. TKVAPP writes the reserved bits of entry N - 1 as 0
(the model's reading, log 60). -/
def Sys2Proof.Claims.editWords : Prop :=
  ∀ (s : State) (i j : Instr) (d : List Byte) (x : Edit),
    starts s i j = true → engineOf j = .t → calm s j 1 → counterOk s j → descOf s j = some d → editOf s j d = some x →
    allApart x.writes → (∀ r, r ∈ x.reads → ∀ w, w ∈ x.writes → ∀ p, p ∈ w.1 → apart r p) →
    ∃ u t, exec i s = .next t ∧ addsOne s u t i j ∧ leaves s u i j x.flags x.replies ∧ archSame s u ∧ queuesSame s u
      ∧ memWrote s u x.writes

end

namespace Sys2Proof.Claims

open Sys2Proof.Machine Sys2Proof.Safety

/-! ### Words that start an operation -/

/-- The operation that a word of the context starts. -/
def opBy (s : State) (j : Instr) (scope hint : Nat) (tagged : Bool) (ctr : Ctr) (holds : Bool) (b : OpBody) : Op :=
  ⟨some (ctxKey s.sch.cur), engineOf j, (cx s).life.part, (cx s).life.asid, (cx s).life.rcd.tag, ctr, scope, hint, holds,
   tagged, false, b⟩

/-- The operation of a Q word (R288): its counter is the word's, and a local one holds the spore's suspensions (R74). -/
def queryOp (s : State) (i j : Instr) (scope hint : Nat) (tagged : Bool) (b : OpBody) : Op :=
  opBy s j scope hint tagged (ctrOf (queued s i j)) (localCtr (ctrOf (queued s i j))) b

/-- A descriptor of `n` bytes that is aligned and held. -/
def descAt (s : State) (j : Instr) (n align : Nat) : Option (List Byte) :=
  if (cap s j).sa.toNat % align ≠ 0 then none
  else (held s (engineOf j) .read (cap s j).sa.toNat n).map (piecesRead s)

/-- The descriptor is in order, and the addresses and lengths it names are multiples of their units. -/
def formOk (f : QForm) : Bool := !f.fails

/-- Every range is held (R288: each is probed). -/
def probed (s : State) (kind : AccKind) (l : List (Nat × Nat)) : Bool :=
  l.all fun x => (held s .q kind x.1 x.2).isSome

/-- The operation that a Q word forwards when its checks pass, and whether the word waits until it is accepted (R88, R288 to R303). -/
def forwarded (s : State) (i j : Instr) : Option (Bool × Op) :=
  let k := cap s j
  let known := handleIndex s (cx s).life.part k.sb
  match j with
  | .qsnap _ _ _ _ _ _ =>
    if k.sa.toNat % 16 = 0 ∧ badHandle k.sb = false ∧ probed s .write [(k.sa.toNat, 16)] = true then
      some (false, queryOp s i j 3 0 false (.snap k.sa k.sb (known.map homeUnit)))
    else none
  | .qwalk _ _ _ _ _ _ =>
    if k.sa.toNat % 32 = 0 ∧ badWalk k.sb = false ∧ probed s .both [(k.sa.toNat, 32 * (wbits k.sb 15 0 + 1))] = true then
      some (false, queryOp s i j (wbits k.sb 18 16) (wbits k.sb 20 19) false (.walk k.sa (wbits k.sb 15 0 + 1) []))
    else none
  | .qinsert _ _ _ _ _ _ | .qdelete _ _ _ _ _ _ =>
    let del := match j with
      | .qdelete _ _ _ _ _ _ => true
      | _ => false
    (descAt s j 64 64).bind fun bs =>
      let list := match known with
        | some x => [(fieldAt bs 0 8, logStride x del * fieldAt bs 16 4)]
        | none => if del then [(fieldAt bs 0 8, 8 * fieldAt bs 16 4)] else []
      if formOk (logForm bs k.sb) ∧ probed s .read list = true
          ∧ probed s .write (if fieldAt bs 8 8 = 0 then [] else [(fieldAt bs 8 8, 8)]) = true then
        some (false, queryOp s i j (ctlScope bs).1 (ctlScope bs).2 false
          (.log ⟨k.sb, del, BitVec.ofNat 64 (fieldAt bs 0 8), BitVec.ofNat 64 (fieldAt bs 8 8), fieldAt bs 16 4,
            known.map homeUnit⟩))
      else none
  | .qsearch _ _ _ _ _ _ =>
    (descAt s j 64 64).bind fun bs =>
      let cb := (known.map fun x => x.cb).getD 0
      let code := if cb = 0 then some [] else (held s .q .read (fieldAt bs 0 8) (cb / 8)).map (piecesRead s)
      code.bind fun q =>
        if formOk (searchForm bs k.sb) ∧ probed s .write [(fieldAt bs 8 8, resBytes bs (cb != 0))] = true then
          some (true, queryOp s i j (ctlScope bs).1 (ctlScope bs).2 true (.search (searchOf bs k.sb (cb != 0) (leVal q))))
        else none
  | .qfetch _ _ _ _ _ _ =>
    (descAt s j 64 64).bind fun bs =>
      match heldLong s .q .read (fieldAt bs 0 8) (8 * fieldAt bs 28 2), heldLong s .q .read (fieldAt bs 8 8) (8 * fieldAt bs 28 2) with
      | some lo, some lb =>
        if k.sb.toNat % 8 = 0 ∧ formOk (fetchForm bs) ∧ badBlocks bs (piecesRead s lb) = false
            ∧ probed s .write (fetchRanges bs (piecesRead s lb) k.sb) = true then
          some (true, queryOp s i j (ctlScope bs).1 (ctlScope bs).2 true
            (.fetch (fetchOf bs (piecesRead s lo) (piecesRead s lb) k.sb)))
        else none
      | _, _ => none
  | _ => none

/-- No receiver of the command has a full task queue (R288). -/
def hasPlace (s : State) (o : Op) : Prop := receiverFull s (cx s).life.part o.body = false

/-- The ranges of the window that LGATH and SSCAT name with their descriptor lie in it, and its fields are aligned (R271). -/
def gatherFits (s : State) (j : Instr) (bs : List Byte) : Prop :=
  let iw := if fieldAt bs 28 1 = 0 then 4 else 8
  (cap s j).sa.toNat % 4 = 0 ∧ fieldAt bs 0 4 % iw = 0 ∧ fieldAt bs 8 4 % 4 = 0 ∧ fieldAt bs 12 4 % 4 = 0
    ∧ fieldAt bs 16 4 % 4 = 0 ∧ fieldAt bs 20 4 % 4 = 0
    ∧ (bits (fieldAt bs 29 1) 7 6 ≠ 0 → fieldAt bs 16 4 % combineBytes (fieldAt bs 30 1) = 0)
    ∧ inWindow s (fieldAt bs 0 4) (iw * fieldAt bs 4 4) ∧ inWindow s (fieldAt bs 8 4) (fieldAt bs 16 4 * fieldAt bs 4 4)
    ∧ inWindow s (fieldAt bs 12 4) (4 * (fieldAt bs 4 4 + 1))

/-- The operation of LGATH or SSCAT over the descriptor `bs` (R271 to R276): one element for each index. -/
def gathered (s : State) (i j : Instr) (scatter rpl : Bool) (bs : List Byte) : Op :=
  let iw := if fieldAt bs 28 1 = 0 then 4 else 8
  let n := fieldAt bs 4 4
  let rowb := fieldAt bs 16 4
  let fl := fieldAt bs 29 1
  opBy s j (bits fl 5 3) (bits fl 2 1) false (if scatter then ctrOf (queued s i j) else .none) true
    (.gather ⟨scatter, (cap s j).sa, fieldAt bs 8 4, fieldAt bs 12 4, rowb, fieldAt bs 20 4, fieldAt bs 24 4, bit fl 0,
      bits fl 2 1, bits fl 7 6, fieldAt bs 30 1, rpl,
      (List.range n).map fun e => leVal (padRead s s.sch.cur (fieldAt bs 0 4 + iw * e) iw), List.replicate n .todo,
      if scatter then (List.range n).map fun e => padRead s s.sch.cur (fieldAt bs 8 4 + rowb * e) rowb else List.replicate n []⟩)

/-- The word has started the operation `o` and nothing else has changed but its own engine: it waits for it, or it has completed. -/
def opened (s t : State) (i j : Instr) (wait : Bool) (o : Op) : Prop :=
  elsewhere { t with cache := s.cache, cores := s.cores } s.sch.cur
      = elsewhere { keepFront s s.sch.cur with sch := { s.sch with uid := s.sch.uid + 2 }, ops := kput s.ops (s.sch.uid + 1) o } s.sch.cur
    ∧ archSame s t ∧ (getCtx t s.sch.cur).life = (cx s).life ∧ (getCtx t s.sch.cur).trap = (cx s).trap
    ∧ (getCtx t s.sch.cur).fr = pastFront s i ∧ (getCtx t s.sch.cur).eng.reply = (cx s).eng.reply ∧ queuesSame s t
    ∧ (getE (getCtx t s.sch.cur).eng (engineOf j)).queue = []
    ∧ (if wait then ∃ f, (getE (getCtx t s.sch.cur).eng (engineOf j)).flying = [f] ∧ f.w = queued s i j ∧ f.fin = none
          ∧ f.op = some (s.sch.uid + 1)
        else (getE (getCtx t s.sch.cur).eng (engineOf j)).flying = [])

/-! ### Withdrawals -/

/-- A compute item of a withdrawn tag is removed, and so is a command that has not been issued: it is queued, or READY and has never run
(R370). -/
def itemRemoved (x : Item) : Bool :=
  match x.st with
  | .queued | .command => true
  | .ready _ _ => x.rcd.reason == 0
  | .onCore _ _ | .waiting _ _ _ | .spawnwait _ => false

/-- The record of a suspended spore whose tag is withdrawn: CANCEL, and HPEND where its stage has a handler (R370). -/
def cancelledRecord (q : Part) (x : Item) : Spore :=
  { x.rcd with cancel := true, hpend := x.rcd.hpend || (match findStage q x.inst x.stage with
    | some d => d.handler != 0
    | none => false) }

/-- A search or a fetch is under way (R30, R294, R298): the fetch is accepted; the search has been begun by its home unit, or has
ended. -/
def underWay (o : Op) : Bool :=
  match o.body with
  | .search g => g.accepted && (g.c.length != 0 || g.status.isSome)
  | .fetch g => g.accepted
  | _ => true

/-- A suspended spore of a withdrawn tag stands with a cancelled record and this state (R370); one whose record has lost the translation of
its page halts (R389). A suspended spore has been picked up and stands in no slot of its stage queue (R361). -/
def sporeCancelled (s t : State) (p : Nat) (x : Item) (st : ItemState) : Prop :=
  let stands := ∃ y, findItem (getPart t p) x.id = some y ∧ y.st = st ∧ y.rcd = cancelledRecord (getPart s p) x
  match x.place with
  | none => if (getPart s p).lost.contains x.rcd.slot.toNat then findItem (getPart t p) x.id = none else stands
  | some _ => findItem (getPart t p) x.id = none ∨ stands

/-- What a withdrawal makes of an item of its tag (R30, R370), and of one of another tag. -/
def itemWithdrawn (s t : State) (p : Nat) (tag : BitVec 32) (x : Item) : Prop :=
  if x.rcd.tag ≠ tag then findItem (getPart t p) x.id = some x
  else if itemRemoved x then findItem (getPart t p) x.id = none
  else
    match x.st with
    | .onCore core b => findItem (getPart t p) x.id = some x ∧ (getCtx t (.bank core b)).life.withdrawn = true
    | .waiting _ _ _ => sporeCancelled s t p x (.ready s.now x.id)
    | _ => sporeCancelled s t p x x.st

/-! ### The matrix engine -/

/-- The bank that runs an M word owns the matrix operand state of its core (R225). -/
def ownsCore (s : State) : Prop := ∃ core b, s.sch.cur = .bank core b ∧ (getCore s core).owner = some b

/-- The bank is in no group of an operand besides (R242). -/
def ownsMatrix (s : State) : Prop := ownsCore s ∧ inGroup s s.sch.cur = false

/-- The matrix operand state the bank sees. -/
def matOf (s : State) : MatState := getMat s s.sch.cur

/-- The cores are as they were but for the matrix operand state and the data cache of the context's own. -/
def coresBut (s t : State) (m : MatState) : Prop :=
  { getCore t (agentCore s.sch.cur) with dcache := [] } = { getCore s (agentCore s.sch.cur) with mat := m, dcache := [] }
    ∧ ∀ n, n ≠ agentCore s.sch.cur → getCore t n = getCore s n

/-- The bytes of a block of a ring after `used` further slots (R227). -/
def ringBytes (s : State) (ring used n : Nat) : List Byte :=
  let r := getRing (cx s) ring
  ((ringRuns r (n / (ringN r * ringS r) + 2) ((r.head + (ringOwed (cx s).eng ring).2 + used) * ringS r) n).map fun x =>
    padRead s s.sch.cur x.1 x.2).flatten

/-- The ring is usable and holds `k` slots that no started word has reserved (R116, R117). -/
def ringHolds (s : State) (ring k : Nat) : Prop := ringUsable (cx s) ring = true ∧ k ≤ ringFree (cx s) ring

/-- Bytes of the A, B and metadata blocks of an MMA (R227); `head` holds the first bytes of the metadata, which give their counts. -/
def blockSizes (p : MPair) (df : BitVec 2) (sp : Bool) (spn : Nat) (head : List Byte) : Nat × Nat × Nat :=
  let ks := ksOf p
  let dense := fun (f : Fmt) => 16 * ks * storedW f
  let packed := fun (f : Fmt) (n : Nat) => (n * storedW f + 7) / 8
  let kept := if spn = 1 then 64 else if spn = 2 then 32 else 16
  if df = 0 then if sp then (ks * kept * storedW p.fa / 8, 0, ks * kept) else (dense p.fa, 0, 0)
  else if sp = false then (dense p.fa, dense p.fb, 0)
  else if df = 1 then
    let na := fieldAt head 0 2
    let nb := fieldAt head 2 2
    (packed p.fa na, packed p.fb nb, 4 + 2 * (na + nb))
  else
    let nnz := fieldAt head 256 2 - fieldAt head 0 2
    (packed p.fa nnz, dense p.fb, 288 + 2 * nnz)

/-- The records of the A list and of the B list of OP metadata (R236): those in range, and the others. -/
def recordsOf (p : MPair) (m a b : List Byte) : (List (Nat × Nat × Nat) × List (Nat × Nat)) × (List (Nat × Nat × Nat) × List (Nat × Nat)) :=
  let na := fieldAt m 0 2
  (opRecords p.fa (m.drop 4) a na (ksOf p), opRecords p.fb (m.drop (4 + 2 * na)) b (fieldAt m 2 2) (ksOf p))

/-- The lines of A and the columns of B of an MMA from its blocks (R227, R234 to R237). -/
def mmaLines (p : MPair) (df : BitVec 2) (sp : Bool) (spn : Nat) (a b m : List Byte) : List KLine × List KLine :=
  let ks := ksOf p
  let rs := recordsOf p m a b
  if df = 0 then
    (if sp then ipSparse p.fa a m ks (if spn = 1 then 64 else if spn = 2 then 32 else 16) else denseLines p.fa a ks, denseLines p.fb b ks)
  else if df = 1 then
    if sp then ((List.range 128).map (gatherK ks rs.1.1), (List.range 128).map (gatherK ks rs.2.1))
    else (denseLines p.fa a ks, denseLines p.fb b ks)
  else (if sp then rwRows p.fa m a ks else denseLines p.fa a ks, rowWiseCols p.fb b ks)

/-- No row of the metadata is malformed, and no record or entry is out of range (R236 to R238). -/
def inOrder (p : MPair) (df : BitVec 2) (m : List Byte) : Prop :=
  if df = 1 then
    ∀ r, r < fieldAt m 0 2 + fieldAt m 2 2 → bits (fieldAt m (4 + 2 * r) 2) 7 0 < ksOf p
  else
    (∀ i, i < 128 → rwBad m i = false) ∧ ∀ e, e < fieldAt m 256 2 - fieldAt m 0 2 → fieldAt m (288 + 2 * e) 2 < ksOf p

/-- The reply entry of an MMA with sparse operands in OP or RW (R238). -/
def mmaReply (p : MPair) (df : BitVec 2) (m : List Byte) : Nat :=
  if df = 1 then
    let rs := recordsOf p m [] []
    min (rs.1.2.length + rs.2.2.length) 65535 * 2 ^ 16 + 0xFF * 2 ^ 32
  else
    let bad := (List.range 128).filter (rwBad m)
    let out := (List.range (fieldAt m 256 2 - fieldAt m 0 2)).filter fun e => decide (ksOf p ≤ fieldAt m (288 + 2 * e) 2)
    bad.length + min out.length 65535 * 2 ^ 16 + bad.head?.getD 0xFF * 2 ^ 32 + 2 ^ 40

/-- The context after `k` slots of a ring have been popped (R116). -/
def popped (c : Ctx) (ring k : Nat) : Ctx :=
  if k = 0 then c
  else setRing c ring { getRing c ring with
    head := ((getRing c ring).head + k) % ringN (getRing c ring), count := (getRing c ring).count - k }

/-- The state after the bank's MQUIET has been counted in each of its groups (R245). -/
def quieted (s : State) : State :=
  (groupsOfBank s s.sch.cur).foldl (fun u kg =>
    updMember u kg.1 (agentCore s.sch.cur) fun m => { m with quiets := m.quiets + 1 }) s

/-- The tile holds these rows, and every other row of every tile is as it was. -/
def tileIs (s t : State) (c : Nat) (rows : List (List Nat)) : Prop :=
  (∀ r, r < 128 → getAccRow (getCtx t s.sch.cur) c r = rowReg (listGet [] rows r))
    ∧ ∀ d r, d ≠ c → r < 128 → getAccRow (getCtx t s.sch.cur) d r = getAccRow (cx s) d r

/-- The word is over: its context is past it with its registers as they were, and its engine is idle again. -/
def wordOver (s t : State) (i j : Instr) : Prop :=
  (getCtx t s.sch.cur).fr = pastFront s i ∧ (getCtx t s.sch.cur).arch.s = (cx s).arch.s ∧ (getCtx t s.sch.cur).arch.v = (cx s).arch.v
    ∧ (getE (getCtx t s.sch.cur).eng (engineOf j)).queue = [] ∧ (getE (getCtx t s.sch.cur).eng (engineOf j)).flying = []

/-- The word waits, and is over once its operation has been accepted. -/
def overOnAccept (s : State) (i j accept : Instr) : Prop :=
  ∃ t u v, exec i s = .next t ∧ exec accept t = .next u ∧ exec (.wordComplete s.sch.cur (engineOf j)) u = .next v ∧ wordOver s v i j

/-- The registers but the tiles and the rings are as they were. -/
def archBut (s t : State) : Prop :=
  { (getCtx t s.sch.cur).arch with acc := [], rings := (cx s).arch.rings } = { (cx s).arch with acc := [] }

end Sys2Proof.Claims

section

open Sys2Proof Sys2Proof.Machine Sys2Proof.Safety Sys2Proof.Claims

/-- R88, R287 to R300, R303: a Q word whose descriptor passes its checks and whose ranges pass their probes forwards its command, with
its spore's tag, identifier and counter; QSEARCH and QFETCH then wait until it is accepted, the others complete. No register and no
byte of memory changes. While the task queue of a receiver is full the word stays at the head of its queue. -/
def Sys2Proof.Claims.forwardedCommands : Prop :=
  ∀ (s : State) (i j : Instr) (wait : Bool) (o : Op), starts s i j = true → engineOf j = .q → calm s j 0 → counterOk s j →
    forwarded s i j = some (wait, o) →
    if receiverFull s (cx s).life.part o.body then exec i s = .next (routed s i j)
    else ∃ t, exec i s = .next t ∧ opened s t i j wait o

/-- R271 to R274: LGATH and SSCAT read their descriptor and their indices, SSCAT its rows as well, and start one operation with an
element for each index; LGATH waits until every element has settled, and so does an SSCAT with WAIT = 1, since any of its elements may yet
be held; one with WAIT = 0 completes. -/
def Sys2Proof.Claims.gatherAndScatterStart : Prop :=
  ∀ (s : State) (i j : Instr) (scatter rpl : Bool), starts s i j = true → calm s j 0 → counterOk s j →
    (match j with
      | .lgath _ _ _ _ _ _ r => scatter = false ∧ rpl = r
      | .sscat _ _ _ _ _ _ => scatter = true ∧ rpl = false
      | _ => False) →
    let bs := padRead s s.sch.cur (cap s j).sb.toNat 32
    (cap s j).sb.toNat % 32 = 0 → inWindow s (cap s j).sb.toNat 32 → badGather bs scatter = false → gatherFits s j bs →
    ∃ t, exec i s = .next t ∧ opened s t i j (!scatter || bit (fieldAt bs 29 1) 0) (gathered s i j scatter rpl bs)

/-- R301, R302: QSTAT appends the state of its unit; QCANCEL withdraws its tag in one step of the scheduler's order, the items and
the operations of the tag standing as that withdrawal leaves them, and appends the counts. Neither changes a register. -/
def Sys2Proof.Claims.queryStatusWords : Prop :=
  (∀ (s : State) (i : Instr) (z : Bool) (k : BitVec 4) (a : BitVec 5), starts s i (.qstat z k a) = true →
    calm s (.qstat z k a) 1 → wbits (cap s (.qstat z k a)).sa 63 3 = 0 →
    ∃ t, exec i s = .next t ∧ archSame s t ∧ queuesSame s t ∧ t.mem = s.mem
      ∧ leaves s t i (.qstat z k a) 0 [unitReply s (cx s).life.part (wbits (cap s (.qstat z k a)).sa 2 0)])
  ∧ (∀ (s : State) (i : Instr) (z : Bool) (k : BitVec 4) (a : BitVec 5), starts s i (.qcancel z k a) = true →
    calm s (.qcancel z k a) 1 → wbits (cap s (.qcancel z k a)).sa 63 32 = 0 →
    let w := withdrawTag (startState s i (.qcancel z k a)) (cx s).life.part
      (BitVec.ofNat 32 (cap s (.qcancel z k a)).sa.toNat)
    let r := w.1
    ∃ t, exec i s = .next t ∧ t.parts = w.2.parts ∧ t.ops = w.2.ops ∧ t.mem = w.2.mem ∧ t.store = w.2.store
      ∧ (getCtx t s.sch.cur).fr = pastFront s i
      ∧ (getCtx t s.sch.cur).arch.s = (cx s).arch.s ∧ (getCtx t s.sch.cur).arch.v = (cx s).arch.v
      ∧ (getCtx t s.sch.cur).eng.reply = (cx s).eng.reply ++ [BitVec.ofNat 64 (6 * 2 ^ 61
          + (min r.1 (2 ^ 20 - 1) + min r.2.1 (2 ^ 20 - 1) * 2 ^ 20 + min r.2.2 (2 ^ 20 - 1) * 2 ^ 40))])

/-- R30, R301, R370: a withdrawal, one step of the scheduler's order, removes the items of the tag that have not started, cancels those
that have, never creates those an expansion still owes, and withdraws the searches and fetches of the tag, of which those under way
stay counted as its items; it answers how many it has withdrawn, how many it cancels while running, and how many had finished. Items,
instances and operations of other tags stay. A cancelled spore whose record has lost its page halts (R389). The counter of a removed
compute item takes its completion; a removed command writes its CANCELLED status and takes its add. -/
def Sys2Proof.Claims.withdrawal : Prop :=
  ∀ (s : State) (p : Nat) (tag : BitVec 32), p < 8 → ((getPart s p).items.map fun x => x.id).Nodup →
    let w := withdrawTag s p tag
    let t := w.2
    let mine := (getPart s p).items.filter fun x => x.rcd.tag == tag
    let ops := s.ops.filter fun ko => ko.2.tagged && ko.2.part == p && ko.2.tag == tag
    let owed := ((getPart s p).insts.filter fun i => i.tag == tag).flatMap fun i =>
      i.stages.map fun x => if x.ended then 0 else x.total - x.made
    (∀ x, x ∈ (getPart s p).items → itemWithdrawn s t p tag x)
    ∧ (getPart t p).insts = (getPart s p).insts.map (fun i =>
        if i.tag = tag then { i with stages := i.stages.map fun x => { x with ended := true } } else i)
    ∧ t.ops = s.ops.map (fun ko => if (ko.2.tagged && ko.2.part == p && ko.2.tag == tag) = true then
        (ko.1, { ko.2 with withdrawn := true, tagged := underWay ko.2 }) else ko)
    ∧ w.1.1 = (mine.filter itemRemoved).length + owed.sum + (ops.filter fun ko => !underWay ko.2).length
    ∧ w.1.2.1 = (mine.filter fun x => !itemRemoved x).length + (ops.filter fun ko => underWay ko.2).length
    ∧ w.1.2.2 = kget 0 (getPart s p).finished tag.toNat
    ∧ (mine = [] → t.mem = s.mem)
    ∧ ∀ (x : Item) (i : Instance) (d : StageDesc), mine = [x] → findInst (getPart s p) x.inst = some i →
      findStage (getPart s p) x.inst x.stage = some d →
      (x.st ≠ .command → itemRemoved x = true →
        t.mem = if d.donectr = 0 then s.mem else (devAdd s sysTlb p i.asid d.donectr 1).mem)
      ∧ (x.st = .command → t.mem = (devAdd (reportItem (dropItem s p x.id) p i.asid d (itemSa d x.rcd.task) 2 4)
          sysTlb p i.asid d.v48 1).mem)

/-- R88, R242, R287 to R303, R387: the words that hand a command on complete, under conditions on the state and the operands alone.
With room in the task queue of every receiver, QSEARCH and QFETCH, with a descriptor and ranges that pass their checks, complete
when the unit has accepted the command they forward; QINSERT, QDELETE, QWALK and QSNAP when they have forwarded it; QSTAT and
QCANCEL, with no reserved bit set, when they have appended their reply; MBLEAVE, on the bank that owns the matrix operand state,
when the bank has left its group; TLBINV, in supervisor mode and of an identifier of the partition, when every cache has dropped
its entries.  -/
def Obligations.CommandWordsComplete : Prop :=
  (∀ (s : State) (i j : Instr), starts s i j = true → calm s j 1 → counterOk s j →
    match j with
    | .qsearch _ _ _ _ _ _ => ∀ o, forwarded s i j = some (true, o) → hasPlace s o → overOnAccept s i j (.searchAccept (s.sch.uid + 1))
    | .qfetch _ _ _ _ _ _ => ∀ o, forwarded s i j = some (true, o) → hasPlace s o → overOnAccept s i j (.fetchAccept (s.sch.uid + 1))
    | .qinsert _ _ _ _ _ _ | .qdelete _ _ _ _ _ _ | .qwalk _ _ _ _ _ _ | .qsnap _ _ _ _ _ _ =>
      ∀ o, forwarded s i j = some (false, o) → hasPlace s o → ∃ t, exec i s = .next t ∧ wordOver s t i j
    | .qstat _ _ _ => wbits (cap s j).sa 63 3 = 0 → ∃ t, exec i s = .next t ∧ wordOver s t i j
    | .qcancel _ _ _ => wbits (cap s j).sa 63 32 = 0 → ∃ t, exec i s = .next t ∧ wordOver s t i j
    | .mbleave _ _ _ => ownsCore s → ∃ t, exec i s = .next t ∧ wordOver s t i j
    | _ => True)
  ∧ ∀ (s : State) (z : Bool) (d a b : BitVec 5) (n : BitVec 4), ready s (.tlbinv z d a b n) = true →
    (src (cx s) 1 d).toNat < 512 → asidOk s (cx s).life.part (src (cx s) 1 d).toNat = true → (cx s).life.part < 8 →
    ∃ t u, exec (.tlbinv z d a b n) s = .next t ∧ exec (.tlbInvalDone s.sch.uid) t = .next u
      ∧ (getCtx u s.sch.cur).fr = pastFront s (.tlbinv z d a b n) ∧ (getCtx u s.sch.cur).arch.s = (cx s).arch.s
      ∧ (∀ core b, s.sch.cur = .bank core b → core < 384 →
          getPg (getCtx u s.sch.cur) n.toNat = getPg (cx s) n.toNat + 1)

/-- R225, R227, R228, R230 to R232, R239, R242, R244 to R246: what the M words that write no product do, on a bank that owns the matrix
operand state: MZERO clears its tile; MSWAP moves the shadow block to the resident one; MSCQ and MLDB of a bank in no group take their
block from a ring; MPOP pops slots; MLATLD loads a region; MBJOIN joins a group; MBLEAVE takes the bank out of its group of that
operand; MQUIET, no member being behind, is counted in the bank's groups. -/
def Obligations.MatrixStateWords : Prop :=
  ∀ (s : State) (i j : Instr), starts s i j = true → calm s j 0 → ownsCore s → ksorted (cx s).arch.acc = true →
    let c := cx s
    let k := cap s j
    match j with
    | .mzero _ _ x =>
      x.toNat < c.life.tiles → vecBusy c.eng x.toNat s.sch.uid = false →
      ∃ t, exec i s = .next t ∧ leaves s t i j 0 [] ∧ queuesSame s t ∧ t.mem = s.mem ∧ t.cores = s.cores ∧ archBut s t
        ∧ (getCtx t s.sch.cur).arch.rings = c.arch.rings ∧ tileIs s t x.toNat zeroTile
    | .mswap _ _ =>
      (matOf s).shadow ≠ none →
      ∃ t, exec i s = .next t ∧ leaves s t i j 0 [] ∧ queuesSame s t ∧ t.mem = s.mem ∧ (getCtx t s.sch.cur).arch = c.arch
        ∧ coresBut s t { matOf s with resident := (matOf s).shadow, shadow := none }
    | .mscq _ _ _ w r =>
      inGroup s s.sch.cur = false →
      k.sa.toNat ≤ 4096 → (scaleQ (matOf s) w).length + k.sa.toNat ≤ 4096 → ringHolds s r.toNat (slotsFor c r.toNat k.sa.toNat) →
      0 < ringN (getRing c r.toNat) →
      ∃ t, exec i s = .next t ∧ leaves s t i j 0 [] ∧ queuesSame s t ∧ t.mem = s.mem
        ∧ (getCtx t s.sch.cur).arch = (popped c r.toNat (slotsFor c r.toNat k.sa.toNat)).arch
        ∧ coresBut s t (setScaleQ (matOf s) w (scaleQ (matOf s) w ++ ringBytes s r.toNat 0 k.sa.toNat))
    | .mldb _ _ _ r =>
      inGroup s s.sch.cur = false → wbits k.sa 63 5 = 0 → ∀ p, pairOf (pairCode k (wbits k.sa 2 0)) = some p →
      (wbits k.sa 4 3 ≠ 0 → p.fa ≠ .bin ∧ storedW p.fa ≠ 16) →
      (p.mxb = true → 4 * ksOf p ≤ (matOf s).scaleB.length) →
      ringHolds s r.toNat (slotsFor c r.toNat (16 * ksOf p * storedW p.fb)) →
      ∃ t, exec i s = .next t ∧ leaves s t i j 0 [] ∧ queuesSame s t ∧ t.mem = s.mem
        ∧ (getCtx t s.sch.cur).arch = (popped c r.toNat (slotsFor c r.toNat (16 * ksOf p * storedW p.fb))).arch
        ∧ coresBut s t { matOf s with
            scaleB := (matOf s).scaleB.drop (if p.mxb then 4 * ksOf p else 0)
            shadow := some ⟨ringBytes s r.toNat 0 (16 * ksOf p * storedW p.fb),
              (matOf s).scaleB.take (if p.mxb then 4 * ksOf p else 0), wbits k.sa 2 0, pairCode k (wbits k.sa 2 0),
              wbits k.sa 4 3, r.toNat⟩ }
    | .mpop _ _ _ r =>
      k.sa.toNat ≤ ringN (getRing c r.toNat) → ringHolds s r.toNat k.sa.toNat →
      ∃ t, exec i s = .next t ∧ leaves s t i j 0 [] ∧ queuesSame s t ∧ t.mem = s.mem ∧ t.cores = s.cores
        ∧ (getCtx t s.sch.cur).arch = (popped c r.toNat k.sa.toNat).arch
    | .mlatld _ _ _ _ v =>
      let dc := wbits k.sb 10 0
      let d := wbits k.sb 23 16
      wbits k.sb 63 24 = 0 → wbits k.sb 15 11 = 0 → 32 ≤ dc → dc ≤ 1024 → dc % 32 = 0 → 1 ≤ d → d ≤ 128 → dc * d ≤ 65536 →
      k.sa.toNat % 64 = 0 → ∀ ls, heldLong s .m .read k.sa.toNat (2 * dc * d) = some ls →
      ∃ t, exec i s = .next t ∧ leaves s t i j 0 [] ∧ queuesSame s t ∧ t.mem = s.mem ∧ (getCtx t s.sch.cur).arch = c.arch
        ∧ coresBut s t (if v then { matOf s with wv := some ⟨dc, d, bf16s (piecesRead s ls) (dc * d)⟩ }
            else { matOf s with wk := some ⟨dc, d, bf16s (piecesRead s ls) (dc * d)⟩ })
    | .mbjoin _ _ _ o =>
      joinRefused s s.sch.cur o k.sa = false →
      ∃ t, exec i s = .next t ∧ leaves s { t with groups := s.groups } i j 0 [] ∧ queuesSame s t ∧ t.mem = s.mem ∧ t.cores = s.cores
        ∧ (getCtx t s.sch.cur).arch = c.arch ∧ (∀ n, n ≠ groupKey (coreCluster (agentCore s.sch.cur)) o (wbits k.sa 2 0) →
            kfind t.groups n = kfind s.groups n)
        ∧ ∃ g, kfind t.groups (groupKey (coreCluster (agentCore s.sch.cur)) o (wbits k.sa 2 0)) = some g
          ∧ g.members.any (fun m => m.core == agentCore s.sch.cur) = true
          ∧ g.need = (match kfind s.groups (groupKey (coreCluster (agentCore s.sch.cur)) o (wbits k.sa 2 0)) with
              | some h => h.need
              | none => wbits k.sa 7 4 + 1)
    | .mbleave _ _ o =>
      ∃ t, exec i s = .next t ∧ leaves s { t with groups := s.groups } i j 0 [] ∧ queuesSame s t ∧ t.mem = s.mem
        ∧ t.cores = s.cores ∧ (getCtx t s.sch.cur).arch = c.arch ∧ groupOfBank t s.sch.cur o = none
        ∧ t.groups = (match s.sch.cur with
            | .bank core b => (s.groups.map fun kg =>
                if kg.1 / 16 = coreCluster core ∧ (kg.1 / 8 % 2 == 1) = o then (kg.1, leaveGroup kg.2 core b) else kg).filter
                  fun kg => !kg.2.members.isEmpty
            | .seq _ => s.groups)
    | .mquiet _ _ =>
      let u := quieted s
      (groupsOfBank u s.sch.cur).all (fun kg => (quietLate (agentCore s.sch.cur) kg.2).isEmpty) = true →
      ∃ t, exec i s = .next t ∧ leaves s { t with groups := s.groups } i j 0 [] ∧ queuesSame s t ∧ t.mem = s.mem ∧ t.cores = s.cores
        ∧ (getCtx t s.sch.cur).arch = c.arch ∧ t.groups = u.groups
    | _ => True

/-- R227 to R229, R233 to R236: a dense MMA of dataflow OP or RW takes its blocks of A and B from their rings and their scales from
the queues, and writes the products of its lines and columns, added to the tile or alone, to its tile. Where one ring serves A and
B, the slots of A come before those of B (the model's reading, log 55). -/
def Sys2Proof.Claims.streamedProduct : Prop :=
  ∀ (s : State) (i : Instr) (z acc : Bool) (n : BitVec 4) (c : BitVec 2) (x y e g : BitVec 3) (df : BitVec 2) (p : MPair),
    let j := Instr.mma z n c x y df e acc false g
    let na := 16 * ksOf p * storedW p.fa
    let nb := 16 * ksOf p * storedW p.fb
    let qa := if p.mxa then 4 * ksOf p else 0
    let qb := if p.mxb then 4 * ksOf p else 0
    let ka := slotsFor (cx s) x.toNat na
    let used := if x = y then ka else 0
    starts s i j = true → calm s j 0 → ownsMatrix s → ksorted (cx s).arch.acc = true → df = 1 ∨ df = 2 →
    c.toNat < (cx s).life.tiles → vecBusy (cx s).eng c.toNat s.sch.uid = false →
    pairOf (pairCode (cap s j) e.toNat) = some p →
    qa ≤ (matOf s).scaleA.length → qb ≤ (matOf s).scaleB.length →
    ringHolds s x.toNat ka → ringHolds s y.toNat (used + slotsFor (cx s) y.toNat nb) →
    let a := ringBytes s x.toNat 0 na
    let b := ringBytes s y.toNat used nb
    let r := mmaTile p (denseLines p.fa a (ksOf p)) (if df = 1 then denseLines p.fb b (ksOf p) else rowWiseCols p.fb b (ksOf p))
      (lineScales p.mxa ((matOf s).scaleA.take qa) (ksOf p)) (lineScales p.mxb ((matOf s).scaleB.take qb) (ksOf p))
      (if acc then tileRows (cx s) c.toNat else zeroTile)
    ∃ t, exec i s = .next t ∧ leaves s t i j r.2 [] ∧ queuesSame s t ∧ t.mem = s.mem ∧ tileIs s t c.toNat r.1 ∧ archBut s t
      ∧ (getCtx t s.sch.cur).arch.rings = (popped (popped (cx s) x.toNat ka) y.toNat (slotsFor (cx s) y.toNat nb)).arch.rings
      ∧ coresBut s t { matOf s with scaleA := (matOf s).scaleA.drop qa, scaleB := (matOf s).scaleB.drop qb }

/-- R227 to R229, R233 to R238: an MMA that multiplies with the resident block (IP), whose loaded formats are those of its pair, and an MMA
of any dataflow with sparse operands, takes its metadata, its A block and its B block from their rings and its scales from the queues or
the resident block, and writes the products of the lines that its coordinates give to its tile. An index beside a value names its place
in its group of 128 (IP); records name rows, columns and places, those out of range none (OP); row pointers and column indices name the
entries of the rows that are well formed (RW). OP and RW append the reply of R238, in strict mode only where nothing is malformed or out
of range. Where rings coincide the metadata come first, then A, then B (the model's reading, log 55). -/
def Sys2Proof.Claims.residentAndSparseProduct : Prop :=
  ∀ (s : State) (i : Instr) (z acc sp : Bool) (n : BitVec 4) (c : BitVec 2) (x y e g : BitVec 3) (df : BitVec 2) (p : MPair) (res : BBlock),
    let j := Instr.mma z n c x y df e acc sp g
    let ip := decide (df = 0)
    let head := if sp && !ip then ringBytes s g.toNat 0 (if df = 1 then 4 else 258) else []
    let sz := blockSizes p df sp res.spn head
    let qa := if p.mxa then 4 * ksOf p else 0
    let qb := if p.mxb && !ip then 4 * ksOf p else 0
    let km := if sp then slotsFor (cx s) g.toNat sz.2.2 else 0
    let ka := slotsFor (cx s) x.toNat sz.1
    let kb := if ip then 0 else slotsFor (cx s) y.toNat sz.2.1
    let ua := if x = g then km else 0
    let ub := (if y = g then km else 0) + (if y = x then ka else 0)
    starts s i j = true → calm s j 1 → ownsMatrix s → ksorted (cx s).arch.acc = true → df ≠ 3 → df = 0 ∨ sp = true →
    c.toNat < (cx s).life.tiles → vecBusy (cx s).eng c.toNat s.sch.uid = false →
    pairOf (pairCode (cap s j) e.toNat) = some p →
    (sp = true → p.fa ≠ .bin ∧ p.fb ≠ .bin ∧ (df = 0 → storedW p.fa ≠ 16)) →
    (df = 0 → (matOf s).resident = some res ∧ res.ring = y.toNat ∧ res.entry = e.toNat ∧ (res.spn ≠ 0 ↔ sp = true)
      ∧ ∃ q, pairOf res.pair = some q ∧ q.fb = p.fb ∧ q.mxb = p.mxb ∧ ksOf q = ksOf p) →
    qa ≤ (matOf s).scaleA.length → qb ≤ (matOf s).scaleB.length →
    (sp = true → ringHolds s g.toNat km) → ringHolds s x.toNat (ua + ka) → (df ≠ 0 → ringHolds s y.toNat (ub + kb)) →
    let m := if sp then ringBytes s g.toNat 0 sz.2.2 else []
    let a := ringBytes s x.toNat ua sz.1
    let b := if ip then res.bytes else ringBytes s y.toNat ub sz.2.1
    ((cap s j).sat = true → df ≠ 0 → inOrder p df m) →
    let ls := mmaLines p df sp res.spn a b m
    let r := mmaTile p ls.1 ls.2 (lineScales p.mxa ((matOf s).scaleA.take qa) (ksOf p))
      (lineScales p.mxb (if ip then res.scales else (matOf s).scaleB.take qb) (ksOf p))
      (if acc then tileRows (cx s) c.toNat else zeroTile)
    ∃ t, exec i s = .next t ∧ leaves s t i j r.2 (if ip then [] else [mmaReply p df m]) ∧ queuesSame s t ∧ t.mem = s.mem
      ∧ tileIs s t c.toNat r.1 ∧ archBut s t
      ∧ (getCtx t s.sch.cur).arch.rings
        = (popped (popped (popped (cx s) x.toNat ka) y.toNat kb) g.toNat km).arch.rings
      ∧ coresBut s t { matOf s with scaleA := (matOf s).scaleA.drop qa, scaleB := (matOf s).scaleB.drop qb }

/-- R222, R235 to R241, R247 to R254: an MMA, MGO, MLAT or MATT that completes writes no register but its tile, its rings and its
flags, and an MDRAIN no register but its ring and its flags; neither writes device, host or peer memory. -/
def Sys2Proof.Claims.tileWords : Prop :=
  ∀ (s : State) (i j : Instr), completes s i j = true → s.mem.errs = [] → ownsMatrix s → ksorted (cx s).arch.acc = true →
    (match j with
      | .mma _ _ _ _ _ _ _ _ _ _ | .mgo _ _ _ _ _ | .mlat _ _ _ _ _ _ | .matt _ _ _ _ _ _ | .mdrain _ _ _ _ _ _ => True
      | _ => False) →
    ∃ t flags r, exec i s = .next t ∧ leaves s t i j flags r ∧ queuesSame s t ∧ archBut s t
      ∧ t.mem = { s.mem with scratch := t.mem.scratch }
      ∧ (∀ n, n ≠ agentCore s.sch.cur → getCore t n = getCore s n)
      ∧ (∀ d n, n < 128 → (match j with
          | .mdrain _ _ _ _ _ _ => True
          | _ => matTile (queued s i j) ≠ some d) → getAccRow (getCtx t s.sch.cur) d n = getAccRow (cx s) d n)
      ∧ (match j with
        | .mgo _ _ _ _ _ | .mlat _ _ _ _ _ _ => r = []
        | .matt _ _ _ _ _ _ => r.length = 1
        | _ => True)

/-- R241: MDRAIN of kind 0 converts each line of its tile and writes it at its place in the window; the tile stays. -/
def Sys2Proof.Claims.drainToWindow : Prop :=
  ∀ (s : State) (i : Instr) (z : Bool) (n : BitVec 4) (a b : BitVec 5) (c : BitVec 2) (dst : Fmt),
    let j := Instr.mdrain z n a b 0 c
    let k := cap s j
    let line := 16 * storedW dst
    let pb := if wbits k.sb 31 16 = 0 then (line + 31) / 32 * 32 else 32 * wbits k.sb 31 16
    let out := fun l => drainCodes (wbits k.sb 5 5 == 1) false dst ⟨k.rnd, k.seed.toNat, k.step.toNat⟩ k.sat
      (drainLine (tileRows (cx s) c.toNat) (wbits k.sb 7 7 == 1) l)
    starts s i j = true → calm s j 0 → ownsMatrix s → c.toNat < (cx s).life.tiles →
    fmtOfCode (wbits k.sb 4 0) = some dst → wbits k.sb 15 8 = 0 → wbits k.sb 6 6 = 0 → wbits k.sb 63 32 = 0 →
    k.sa.toNat % 32 = 0 → line ≤ pb → (∀ l, l < 128 → inWindow s (k.sa.toNat + l * pb) line) →
    ∃ t, exec i s = .next t ∧ leaves s t i j ((List.range 128).foldl (fun f l => f ||| (out l).2.2) 0) []
      ∧ archSame s t ∧ queuesSame s t
      ∧ padWrote s t ((List.range 128).map fun l => (k.sa.toNat + l * pb, drainBytes dst (out l).1))

end

namespace Sys2Proof.Claims

open Sys2Proof.Machine Sys2Proof.Safety

/-- The tile after the operations of an MGO one after another, from the scale bytes that are left and the tile as it stands, and the
flags (R240). -/
def goTiles (s : State) (p : MPair) (d : NestDesc) (pa pb : Nat) : List Byte → List Byte → List (Nat × Int) → List (List Nat) →
    List (List Nat) × Nat
  | _, _, [], old => (old, 0)
  | qa, qb, o :: r, old =>
    let ks := ksOf p
    let na := if p.mxa then 4 * ks else 0
    let nb := if p.mxb then 4 * ks else 0
    let a := ((List.range 128).map fun l => padRead s s.sch.cur (mgoLineA o.1 pa l) (ks * storedW p.fa / 8)).flatten
    let b := ((List.range 128).map fun l => padRead s s.sch.cur (mgoLineB d o.2 pb l).toNat (ks * storedW p.fb / 8)).flatten
    let m := mmaTile p (denseLines p.fa a ks) (denseLines p.fb b ks) (lineScales p.mxa (qa.take na) ks)
      (lineScales p.mxb (qb.take nb) ks) old
    let z := goTiles s p d pa pb (qa.drop na) (qb.drop nb) r (m.1.map fun row => rowElems (rowReg row))
    (z.1, m.2 ||| z.2)

/-- The query rows of MATT (R248). -/
def queryRows (s : State) (d : MDesc) (len : Nat) : List QRow :=
  (List.range d.rows).map fun n =>
    let vs := bfVals (bf16s (padRead s s.sch.cur (d.qoff + n * ((2 * len + 31) / 32 * 32)) (2 * len)) len)
    ⟨d.p0 + n / d.h, vs.take (len - d.dr), vs.drop (len - d.dr)⟩

/-- The rows of MATT after the slots of its entries, each with the places of its slots (R249 to R251). -/
def attended (s : State) (absorb : Bool) (pk pv : Proj) (d : MDesc) (qs : List QRow)
    (es : List (BEntry × List (List (Loc × Nat)))) (rs : List MRow) : List MRow :=
  es.foldl (fun rs e =>
    let ts := e.2.zipIdx.map fun y => tokenOf absorb pk pv d (e.1.first + y.2) (piecesRead s y.1)
    (mattStep d qs (ts.map fun t => t.1) rs).map fun x => { x with fl := x.fl ||| ts.foldl (fun f t => f ||| t.2) 0 }) rs

end Sys2Proof.Claims

section

open Sys2Proof Sys2Proof.Machine Sys2Proof.Safety Sys2Proof.Claims

/-- R240, R247 to R251: an MGO, an MLAT or a MATT of a bank that owns the matrix operand state and is in no group, with a granted
tile, operands in form, aligned and inside the window, and (MATT) table and slots held by its stream TLB, completes: its tile holds
the sums of its operations, the projections of its rows, or the outputs of its query rows, and MATT appends its counts and writes
its statistics. No other register and no other byte changes. The flags of an MATT are those of every step of its recurrence (the
model's reading, log 57). -/
def Sys2Proof.Claims.tileResults : Prop :=
  ∀ (s : State) (i j : Instr), starts s i j = true → calm s j 1 → ownsMatrix s → ksorted (cx s).arch.acc = true →
    let c := cx s
    let k := cap s j
    match j with
    | .mgo _ _ _ _ _ =>
      let x := wbits k.sa 1 0
      let pa := wbits k.sb 19 0
      let pb := wbits k.sb 39 20
      let ops := nestAll k.nest
      ∀ p, pairOf (pairCode k (wbits k.sa 4 2)) = some p →
      let qa := if p.mxa then 4 * ksOf p * ops.length else 0
      let qb := if p.mxb then 4 * ksOf p * ops.length else 0
      x < c.life.tiles → vecBusy c.eng x s.sch.uid = false → wbits k.sa 63 6 = 0 → wbits k.sb 63 40 = 0 →
      k.nest.levels ≠ [] → ops ≠ [] → pa % 32 = 0 → pb % 32 = 0 →
      (∀ o, o ∈ ops → ∀ l, l < 128 → mgoLineA o.1 pa l % 32 = 0 ∧ mgoLineB k.nest o.2 pb l % 32 = 0 ∧ 0 ≤ mgoLineB k.nest o.2 pb l
        ∧ inWindow s (mgoLineA o.1 pa l) (ksOf p * storedW p.fa / 8)
        ∧ inWindow s (mgoLineB k.nest o.2 pb l).toNat (ksOf p * storedW p.fb / 8)) →
      qa ≤ (matOf s).scaleA.length → qb ≤ (matOf s).scaleB.length →
      let r := goTiles s p k.nest pa pb (matOf s).scaleA (matOf s).scaleB ops (if wbits k.sa 5 5 = 1 then tileRows c x else zeroTile)
      ∃ t, exec i s = .next t ∧ leaves s t i j r.2 [] ∧ queuesSame s t ∧ t.mem = s.mem ∧ tileIs s t x r.1 ∧ archBut s t
        ∧ (getCtx t s.sch.cur).arch.rings = c.arch.rings
        ∧ coresBut s t { matOf s with scaleA := (matOf s).scaleA.drop qa, scaleB := (matOf s).scaleB.drop qb }
    | .mlat _ _ _ _ kind x =>
      let rows := wbits k.sb 6 0 + 1
      let acc := wbits k.sb 7 7 == 1
      let b := wbits k.sb 10 8
      ∀ p, (if kind.toNat = 1 then (matOf s).wv else (matOf s).wk) = some p →
      let len := if kind.toNat = 2 then p.d else p.dc
      let pitch := (2 * len + 31) / 32 * 32
      x.toNat < c.life.tiles → vecBusy c.eng x.toNat s.sch.uid = false → wbits k.sb 63 11 = 0 →
      (kind.toNat = 2 → 128 * b < p.dc) → k.sa.toNat % 32 = 0 →
      (∀ r, r < rows → inWindow s (k.sa.toNat + r * pitch) (2 * len)) →
      let new := (tileRows c x.toNat).zipIdx.map fun y =>
        if y.2 < rows then
          latRow (latCols p (kind.toNat == 2) b) acc (bfVals (bf16s (padRead s s.sch.cur (k.sa.toNat + y.2 * pitch) (2 * len)) len)) y.1
        else (if acc then y.1 else List.replicate 128 0, 0)
      ∃ t, exec i s = .next t ∧ leaves s t i j (new.foldl (fun f y => f ||| y.2) 0) [] ∧ queuesSame s t ∧ t.mem = s.mem
        ∧ t.cores = s.cores ∧ archBut s t ∧ (getCtx t s.sch.cur).arch.rings = c.arch.rings
        ∧ tileIs s t x.toNat (new.map fun y => y.1)
    | .matt _ _ _ _ absorb x =>
      let off := k.sb.toNat
      let d := mattDesc (padRead s s.sch.cur off 32)
      let pk := (matOf s).wk.getD ⟨0, 0, []⟩
      let len := (if absorb then d.dc else pk.d) + d.dr
      let sb := latentBytes d.dc d.lfmt + 2 * d.dr
      ∀ (pv : Proj) (es : List (List (Loc × Nat))) (ts : List (List (List (Loc × Nat)))), (matOf s).wv = some pv →
      pv.dc = d.dc → (absorb = false → (matOf s).wk ≠ none ∧ pk.dc = d.dc) → badMatt d = false →
      x.toNat < c.life.tiles → vecBusy c.eng x.toNat s.sch.uid = false → off % 32 = 0 → inWindow s off 32 → d.qoff % 32 = 0 →
      (∀ r, r < d.rows → inWindow s (d.qoff + r * ((2 * len + 31) / 32 * 32)) (2 * len)) →
      (d.statoff ≠ 0xFFFFFFFF → inWindow s d.statoff (8 * d.rows)) → k.sa.toNat % 16 = 0 →
      everyOf ((List.range d.e).map fun n => held s .m .read (k.sa.toNat + 16 * n) 16) = some es →
      let ents := usableEntries (es.map fun ls => entryOf (piecesRead s ls))
      everyOf (ents.1.map fun e => everyOf ((List.range e.count).map fun n => heldLong s .m .read (e.block + n * sb) sb)) = some ts →
      let rs := attended s absorb pk pv d (queryRows s d len) (ents.1.zip ts)
        (List.replicate d.rows ⟨.inf true, .zero, List.replicate (if absorb then d.dc else pv.d) .zero, 0⟩)
      let outs := rs.map (mattOut absorb pv)
      ∃ t, exec i s = .next t
        ∧ leaves s t i j (outs.foldl (fun f y => f ||| y.2.2) 0)
            [ents.2.1 + ents.2.2 * 2 ^ 16 + (outs.filter fun y => y.2.1).length * 2 ^ 32]
        ∧ queuesSame s t ∧ archBut s t ∧ (getCtx t s.sch.cur).arch.rings = c.arch.rings ∧ coresBut s t (matOf s)
        ∧ tileIs s t x.toNat (outs.map (fun y => y.1) ++ List.replicate (128 - d.rows) (List.replicate 128 0))
        ∧ (if d.statoff = 0xFFFFFFFF then t.mem = s.mem
          else padWrote s t [(d.statoff, rs.flatMap fun r =>
            leList 4 (roundToFormat r.m .fp32 rne false 0).1 ++ leList 4 (roundToFormat r.l .fp32 rne false 0).1)])
    | _ => True

end

namespace Sys2Proof.Claims

open Sys2Proof.Machine Sys2Proof.Safety

/-! ### The whole machine -/

/-- The state in which the agenda's first entry has been taken and the control core of `a` has its turn (log 2, 5). -/
def turnOf (s : State) (a : AgentId) (r : List Move) : State :=
  let u := advance { s with sch := { s.sch with agenda := r } }
  { u with sch := { u.sch with cur := a } }

/-- The control core of the context runs the word at its PC: it is running, no engine trap of a user-mode word waits, no suspension
word is under way, and on a sequencer nothing holds the splitter (R131, R307, R343). -/
def runsHere (u : State) (a : AgentId) : Prop :=
  (cx u).life.status = .running ∧ (cx u).life.drain = .none
    ∧ (isSeq a = false → (cx u).trap.smode = true ∨ trapPending (cx u) = false)
    ∧ (match a with
        | .seq n => seqFirst u n = none
        | .bank _ _ => True)

/-- Words of the opcode table, written out from the encodings of the spec, and what they stand for. -/
def sampleWords : List (Nat × Instr) :=
  [(0b000_1_0000001_000000000000000000000, .nop true),
   (0b000_0_0000010_00011_00001_00101_000000, .add false 3 1 5),
   (0b000_1_0110110_00100_00010_11111111000, .ldd true 4 2 0x7F8),
   (0b000_0_1001000_00110_00111_10000000001, .beq false 6 7 0x401),
   (0b000_0_1100001_00001_01001_10000000010, .csrw false 1 9 0x402),
   (0b001_0_1001_000000_010_00100_00101_11110, .vadd false 9 2 4 5 30),
   (0b010_1_0010_0001010000000000000000_11, .mzero true 2 3),
   (0b011_0_1000_000001_01010_01011_0111_1_0_00, .lcp false 8 10 11 7 true false),
   (0b100_0_0001_000001_01100_01101_0000_0_1_00, .scp false 1 12 13 0 false true),
   (0b100_1_0000_001001_00011_00100_00000000, .szero true 0 3 4),
   (0b101_0_0000_000101_00001_00010_1111_0_0_00, .tfill false 0 1 2 15 false),
   (0b110_0_0100_000111_00110_0000000000000, .qstat false 4 6),
   (0b11100001000000000_000011_010_001_111, .xrep 3 2 1 7)]

end Sys2Proof.Claims

section

open Sys2Proof Sys2Proof.Machine Sys2Proof.Safety Sys2Proof.Claims

/-- R26, R47, R63, R68, R92, R107, R108, R109, R113, R114, R340, R418: after reset every bank is empty and every sequencer free; FRND,
RSEED, RSTEP (R53, R54), FFLAGS, CARRY, SPSTAT, VFMT, MFMT, MFMTH, SCYC, SKEW0 to SKEW3 and RGCFG0 to RGCFG7 read 0; of the supervisor
CSRs TSTAT, TCAUSE, TRET, TEPC, TWPC, TVA, TDET, SSCR0 to SSCR3, STVEC, MSAVE and YWD read 0, and TOKWD reads 0x100000; DEVID reads 0x5371_0100 (R432) and
DEVSTAT 0 (R433), every other register of the device block holds 0, every register of a partition block holds 0 but that at 0x030; and
every byte of device, host and peer memory and of the scratchpads of cores and sequencers reads 0 (the model's choice, log 7 to 9). -/
def Obligations.ResetState : Prop :=
  (∀ a, (getCtx State.reset a).life.status = .empty ∧ (getCtx State.reset a).trap.smode = false
      ∧ (∀ n, n ≤ 0x009 ∨ 0x010 ≤ n ∧ n ≤ 0x013 ∨ 0x018 ≤ n ∧ n ≤ 0x01F ∨ 0x400 ≤ n ∧ n ≤ 0x406 ∨ 0x408 ≤ n ∧ n ≤ 0x40B
            ∨ n ∈ [0x410, 0x412, 0x419] →
          csrRead State.reset a n = 0)
      ∧ csrRead State.reset a 0x418 = 0x100000
      ∧ (getCtx State.reset a).eng.reply = [] ∧ (∀ e, (getE (getCtx State.reset a).eng e).queue = []))
  ∧ (readDevice State.reset 0).reply = .data (leList 8 0x53710100) ∧ (readDevice State.reset 8).reply = .data (leList 8 0)
  ∧ (∀ off, off ≠ 0 → dreg State.reset off = 0)
  ∧ (∀ p off, preg State.reset p off = if off = 0x030 then 0xFFFF0000 else 0)
  ∧ (∀ p, partOn State.reset p = false ∧ (getPart State.reset p).items = [])
  ∧ ∀ x, mget State.reset.mem.dram x = 0 ∧ mget State.reset.mem.host x = 0 ∧ mget State.reset.mem.peer x = 0
      ∧ mget State.reset.mem.scratch x = 0 ∧ mget State.reset.mem.seqScratch x = 0

/-- Every memory has its canonical form at reset. -/
def Obligations.ResetMemoryCanonical : Prop := memoriesCanonical State.reset

/-- Whatever step the device takes, its memories keep their canonical form: equal memories are equal data. -/
def Obligations.StepKeepsMemoryCanonical : Prop :=
  ∀ s t : State, memoriesCanonical s → step s = .next t → memoriesCanonical t

/-- R131, R133 to R302: the word of a well-formed instruction is 32 bits long and decodes to that instruction with every operand. -/
def Obligations.DecodeEncode : Prop :=
  ∀ (i : Instr) (w : Nat), i.wellFormed = true → encodeWord i = some w →
    w < 2 ^ 32 ∧ decodeWord w = .ok i ∧ decode (encode i) = .ok (i, [])

/-- R131, R132: a word that decodes is the word of the instruction it decodes to: no bit of a word is without meaning. -/
def Obligations.EncodeDecode : Prop :=
  ∀ (w : Nat) (i : Instr), w < 2 ^ 32 → decodeWord w = .ok i → encodeWord i = some w

/-- R131: words written out from the encodings decode to the instructions they stand for. -/
def Obligations.DecodeSamples : Prop := ∀ x, x ∈ sampleWords → decodeWord x.1 = .ok x.2

/-- R131, R148: when the bytes at the PC of a context, in memory and in the line its instruction cache may hold, decode to an
instruction, a step of its control core is that instruction, run on the state after the fetch, which has changed no more than the
caches, and, for a word that has to find the accesses of its context performed or that names a register which one of them writes
(R132), after those accesses (the model's buffer, log 89); and so is a step that runs a word of a macro body. -/
def Obligations.StepRunsDecoded : Prop :=
  (∀ (s v : State) (a : AgentId) (r : List Move) (i : Instr) (l : Loc), s.sch.agenda = .control a :: r →
    let u := turnOf s a r
    runsHere u a → s.mem.errs = [] → (cx u).fr.mac = none → ctlCheck u a (cx u).fr.pc 4 4 .fetch = .ok l v →
    decode (locRead v l 4) = .ok (i, []) →
    (isSeq a = false → l.typ = 0 → ∀ line, kfind (getCore v (agentCore a)).icache (l.pa / 128) = some line →
      decode ((line.drop (l.pa % 128)).take 4) = .ok (i, [])) →
    ∃ t, step s = exec i (if waitsForAccesses t a i then performOwn t a else t) ∧ { t with cache := u.cache, cores := u.cores } = u)
  ∧ (∀ (s : State) (a : AgentId) (r : List Move) (i : Instr) (m : MacroCall) (w : IWord), s.sch.agenda = .control a :: r →
    let u := turnOf s a r
    runsHere u a → s.mem.errs = [] → (cx u).fr.mac = some m → (bodyOf u a m.entry)[m.idx]? = some w →
    decodeWord w.toNat = .ok i → step s = exec i (if waitsForAccesses u a i then performOwn u a else u))

/-- R99, R100: s0 reads 0 and is not written; every other scalar register holds what was last written to it. -/
def Obligations.ScalarRegisters : Prop :=
  ∀ (c : Ctx) (r q : Nat) (x : Word), getS c 0 = 0 ∧ setS c 0 x = c
    ∧ (0 < r → r < 32 → getS (setS c r x) r = x) ∧ (q ≠ r → getS (setS c r x) q = getS c q)

end

namespace Sys2Proof.Claims

open Sys2Proof.Machine Sys2Proof.Safety

/-! ### Steps of the device -/

/-- The step answers a next state of which `P` holds. -/
def gives (i : Instr) (s : State) (P : State → Prop) : Prop := ∃ t, exec i s = .next t ∧ P t

/-- The context holds a trap of this cause and detail, taken in user mode, at its handler's first word, with its registers and its
queues as they were (R344). -/
def tookTrap (s t : State) (a : AgentId) (cause : Nat) (det : Word) : Prop :=
  (getCtx t a).trap.smode = true ∧ (getCtx t a).trap.tcause.toNat % 256 = cause ∧ (getCtx t a).trap.tdet = det
    ∧ (getCtx t a).trap.tepc = curPc (getCtx s a) ∧ (getCtx t a).fr = { Front.reset with pc := (getCtx s a).trap.stvec }
    ∧ (getCtx t a).arch = (getCtx s a).arch ∧ ∀ e, taken (getE (getCtx t a).eng e) = taken (getE (getCtx s a).eng e)
where
  /-- What an engine holds, but for whether its trap came while another was being handled (R339) and whether it is to be entered
  unchecked (R346). -/
  taken (x : EngineSt) : EngineSt := { x with held := x.held.map fun h => { h with late := false, sure := false } }

/-- A bank whose spore stands at YIELD with a yield request, its queues empty, no engine's trap held and its carry in the window (R74,
R75); or one whose step 4 is over. -/
def yields (s : State) (a : AgentId) : Prop :=
  (getCtx s a).life.status = .running ∧ trapPending (getCtx s a) = false
    ∧ quiet s a = true ∧ partOn s (getCtx s a).life.part = true
    ∧ ((getCtx s a).life.drain = .yield ∧ (getCtx s a).life.yieldReq = true ∧ carryFits (getCtx s a) = true ∧ s.sch.eager = true
      ∨ (getCtx s a).life.drain = .leaveYield)

/-- The record of an item can be written to its slot of the stage queue, when it stands in one (R361). -/
def slotWritable (s : State) (p id : Nat) : Prop :=
  ∀ x va, findItem (getPart s p) id = some x → x.place = some va →
    ∃ u, devWrite s sysTlb p (instAsid (getPart s p) x.inst) va (recordBytes x.rcd) false 0 = .ok u

/-- The record of an item that stands in no stage queue has a page with a valid translation (R389). -/
def recordKept (s : State) (p : Nat) (x : Item) : Prop := x.place = none → (getPart s p).lost.contains x.rcd.slot.toNat = false

/-- The READY spore that R372 chooses for a bank, its core and its bank. -/
def pickChoice (s : State) (p : Nat) (x : Item) (d : StageDesc) (i : Instance) (core : Nat) (b : Bool) : Prop :=
  partOn s p = true ∧ firstChosen (getPart s p) ((readyItems (getPart s p)).filter fun x => (pickCore s p x.1 x.2 true).isSome) = some (x, d)
    ∧ pickCore s p x d true = some core ∧ findInst (getPart s p) x.inst = some i ∧ freeBankOf s core = some b

end Sys2Proof.Claims

section

open Sys2Proof Sys2Proof.Machine Sys2Proof.Safety Sys2Proof.Claims

/-- R87, R88, R94: the head word of an idle engine that may start, has no lasting parity error (R438) and meets no stop is started:
it has made its accesses, leaves the queue and pops its tokens. The oldest word of an engine that has finished, with room for its
replies, completes: its flags, replies, entry of qout, binding, ring slots and tokens take effect, then its counter's add.  -/
def Sys2Proof.Claims.wordStartAndComplete : Prop :=
  (∀ (s v u : State) (a : AgentId) (e : Engine) (w : QWord) (r : List QWord) (d : EDone) (x : ERun),
    (getE (getCtx s a).eng e).flying = [] → (getE (getCtx s a).eng e).queue = w :: r → mayStart (getCtx s a) a e w = true →
    queueParity s a w = (false, v) → claimFor v a e true = (u, true) → runHead u a e w = (.ok d, x) →
    gives (.wordStart a e) s fun t => startsIn a e w (flightOf w x d) (getCtx x.s a) (getCtx t a)
      ∧ elsewhere t a = elsewhere x.s a)
  ∧ (∀ (s : State) (a : AgentId) (e : Engine) (f : Flight) (r : List Flight) (n : Finish),
    (getE (getCtx s a).eng e).flying = f :: r → f.fin = some n → hasRoom (getCtx s a) n = true → engineTurn s a e = true →
    isMark f.w = false →
    gives (.wordComplete a e) s fun t => ∃ u, completesIn a e f n (getCtx s a) (getCtx u a) ∧ onlyCtx s u a
      ∧ t = counterAdd u a e f n)

/-- R74, R75, R78, R91, R102, R189, R342 to R347, R374: what a bank does at a boundary without a word of its own: the traps TOKDEAD
and YIELDLATE, the entry of an engine's trap, the suspension and the end of a spore whose waits are over, and the timeout of
WFE. That a suspension is accepted in the same step is log 3; that its record stands by slot number beside the queues is log 74. -/
def Obligations.BankEvents : Prop :=
  (∀ (s : State) (core : Nat) (b : Bool), tokenStalled s (.bank core b) = true →
    gives (.tokdead (.bank core b)) s fun t => tookTrap s t (.bank core b) 0x0A (tokDetail s (.bank core b)))
  ∧ (∀ (s : State) (core : Nat) (b : Bool), let c := getCtx s (.bank core b)
    c.life.status = .running → c.life.yieldReq = true → c.trap.smode = false → trapPending c = false →
    c.life.drain = .none → c.life.part < 8 →
    gives (.yieldlate (.bank core b)) s fun t => tookTrap s t (.bank core b) 0x0B c.trap.ywd
      ∧ wbits (preg t c.life.part 0x110) 63 32 = (wbits (preg s c.life.part 0x110) 63 32 + 1) % 2 ^ 32)
  ∧ (∀ (s : State) (core : Nat) (b : Bool) (e : Engine) (x : TrapInfo), let c := getCtx s (.bank core b)
    c.life.status = .running → c.trap.smode = false → firstHeld c.eng = some (e, x) →
    gives (.trapEntry (.bank core b)) s fun t => tookTrap s t (.bank core b) (x.cause % 256) x.det
      ∧ (getCtx t (.bank core b)).trap.twpc = x.pc ∧ (getCtx t (.bank core b)).trap.tva = x.va)
  ∧ (∀ (s : State) (core : Nat) (b : Bool), core < 384 → (getCtx s (.bank core b)).life.part < 8 → yields s (.bank core b) →
    slotHeldBy s (.bank core b) → s.mem.errs = [] →
    gives (.suspend (.bank core b)) s fun t => (getCtx t (.bank core b)).life.status = .empty
      ∧ ∀ x, findItem (getPart s (getCtx s (.bank core b)).life.part) (getCtx s (.bank core b)).life.item = some x →
        ∃ y n, findItem (getPart t (getCtx s (.bank core b)).life.part) (getCtx s (.bank core b)).life.item = some y
          ∧ kfind (getPart t (getCtx s (.bank core b)).life.part).records y.rcd.slot.toNat = some (recordBytes y.rcd)
          ∧ y.st = .ready s.now n ∧ y.rcd.resume = (getCtx s (.bank core b)).fr.pc + 4 ∧ y.rcd.reason = 1)
  ∧ (∀ (s : State) (core : Nat) (b : Bool), core < 384 → (getCtx s (.bank core b)).life.part < 8 →
    (getCtx s (.bank core b)).life.status = .running → (getCtx s (.bank core b)).life.drain = .exit →
    quiet s (.bank core b) = true → trapPending (getCtx s (.bank core b)) = false →
    gives (.exitRetire (.bank core b)) s fun t => (getCtx t (.bank core b)).life.status = .empty
      ∧ findItem (getPart t (getCtx s (.bank core b)).life.part) (getCtx s (.bank core b)).life.item = none)
  ∧ (∀ (s : State) (a : AgentId), (getCtx s a).life.status = .running → (getCtx s a).fr.stall = .wfe →
    (getCtx s a).fr.mac = none → (getCtx s a).fr.pfx = Prefixes.reset →
    gives (.wfeTimeout a) s fun t => (getCtx t a).fr.pc = (getCtx s a).fr.pc + 4 ∧ (getCtx t a).eng.event = false
      ∧ (getCtx t a).arch = (getCtx s a).arch ∧ t.mem = s.mem)

/-- R242, R243: once a group is complete and every member waits for a read of the same number of bytes, the bytes at the head of the
leader's ring reach every member, and are to be popped by the leader alone (R244); while a member that has needed another byte count stays in the group, nothing is delivered (log 28). -/
def Sys2Proof.Claims.broadcastDelivery : Prop :=
  ∀ (s : State) (cluster n ring : Nat) (opB : Bool) (group : Nat) (g : BGroup) (lead : Member),
    kfind s.groups (groupKey cluster opB group) = some g → g.complete = true →
    (∀ m, m ∈ g.members → m.got = none ∧ ∃ k, memberRead s opB m = some (k, n)) →
    g.members.find? (fun m => m.core == leaderCore g) = some lead → memberRead s opB lead = some (ring, n) → s.mem.errs = [] →
    if g.members.any (fun m => m.odd) then exec (.broadcastDelivery cluster opB group) s = .next s
    else gives (.broadcastDelivery cluster opB group) s fun t => t.mem = s.mem ∧ t.ctxs = s.ctxs
      ∧ ∃ h, kfind t.groups (groupKey cluster opB group) = some h ∧ h.members.length = g.members.length
        ∧ ∀ m, m ∈ h.members → m.got = some (leaderBytes s (.bank lead.core lead.b) ring n) ∧ m.own = (m.core == lead.core)

/-- R76, R81, R82, R364 to R367, R369: the steps of a stage: creating its next item, testing its gates, testing the counter of a
waiting spore, and enqueueing a held image at its stage with the resume address, the task and the arguments it holds. -/
def Obligations.StageEvents : Prop :=
  (∀ (s : State) (p inst stage : Nat) (i : Instance) (d : StageDesc) (st : StageSt), p < 8 → partOn s p = true →
    findInst (getPart s p) inst = some i → findStage (getPart s p) inst stage = some d →
    findStageSt (getPart s p) inst stage = some st → st.ended = false → st.made < st.total →
    queueRoom (getPart s p) inst stage = true → (∀ y, y ∈ (getPart s p).items → y.id < s.sch.uid) →
    slotWritable (appendItem (updStage s p inst stage fun y => { y with made := y.made + 1 }) p inst stage (itemRecord i stage d st.made)
      (if d.kind = 0 then .queued else .command) (if stage = 0 then dieCoord i.levels.reverse st.made else none)).2 p s.sch.uid →
    gives (.itemCreate p inst stage) s fun t =>
      findStageSt (getPart t p) inst stage = some { st with made := st.made + 1 }
      ∧ ∃ x, (getPart t p).items = (getPart s p).items ++ [x] ∧ x.inst = inst ∧ x.stage = stage
        ∧ x.rcd.resume = BitVec.ofNat 64 d.entry ∧ x.rcd.task = BitVec.ofNat 64 st.made ∧ x.rcd.tag = i.tag
        ∧ x.rcd.prio = BitVec.ofNat 3 d.prio ∧ x.rcd.arg0 = i.args.getD 0 0
        ∧ (d.kind = 0 → x.place = freeSlot (getPart s p) inst stage)
        ∧ (d.kind = 0 → if st.open_ then x.st = .ready s.now x.id else x.st = .queued)
        ∧ (d.kind ≠ 0 → x.st = .command))
  ∧ (∀ (s : State) (p inst stage : Nat) (i : Instance) (d : StageDesc) (st : StageSt), p < 8 →
    findInst (getPart s p) inst = some i → findStage (getPart s p) inst stage = some d →
    findStageSt (getPart s p) inst stage = some st → st.open_ = false →
    (gateHolds s p i.asid d.gate0 d.thr0).1 = true →
    (gateHolds (gateHolds s p i.asid d.gate0 d.thr0).2 p i.asid d.gate1 d.thr1).1 = true →
    gives (.gateTest p inst stage) s fun t => stageOpen (getPart t p) inst stage = true
      ∧ (getPart t p).items = (getPart s p).items.map fun y =>
          if y.inst = inst ∧ y.stage = stage ∧ y.st = .queued then { y with st := .ready s.now y.id, aged := s.now } else y)
  ∧ (∀ (s v : State) (p item : Nat) (x : Item) (i : Instance) (va val : Word) (sc : Nat) (bs : List Byte), p < 8 →
    findItem (getPart s p) item = some x → x.st = .waiting va sc val → x.place = none → findInst (getPart s p) x.inst = some i →
    recordKept s p x → devReadS s sysTlb p i.asid va.toNat 8 true = (.ok bs, v) →
    gives (.waitEntryTest p item) s fun t =>
      if val.toNat ≤ leVal bs then
        ∃ y, findItem (getPart t p) item = some y ∧ y.st = .ready s.now x.id ∧ y.rcd.resume = x.rcd.resume
      else t = v ∧ v.parts = s.parts)
  ∧ (∀ (s v : State) (p item : Nat) (x : Item) (i : Instance) (d : StageDesc) (va : Word) (bs : List Byte), p < 8 →
    findItem (getPart s p) item = some x → x.st = .spawnwait va → x.place = none → partOn s p = true →
    findInst (getPart s p) x.inst = some i → (∀ y, y ∈ (getPart s p).items → y.id < s.sch.uid) →
    recordKept s p x → devReadS s sysTlb p i.asid va.toNat 64 true = (.ok bs, v) →
    spawnTarget (getPart s p) x.inst x.stage (fieldAt bs 8 2) = some d → queueRoom (getPart s p) x.inst (fieldAt bs 8 2) = true →
    slotWritable (appendItem v p x.inst (fieldAt bs 8 2) (imageSpore bs x.rcd.tag d.prio) .queued none).2 p s.sch.uid →
    gives (.spawnImageEnqueue p item) s fun t => (getPart t p).items.length = (getPart s p).items.length + 1
      ∧ (∃ y, findItem (getPart t p) item = some y ∧ y.st = .ready s.now x.id)
      ∧ ∃ z, findItem (getPart t p) s.sch.uid = some z ∧ z.inst = x.inst ∧ z.stage = fieldAt bs 8 2
        ∧ z.rcd = { imageSpore bs x.rcd.tag d.prio with slot := z.rcd.slot }
        ∧ z.rcd.resume = BitVec.ofNat 64 (fieldAt bs 0 8 / 4 * 4) ∧ z.place = freeSlot (getPart s p) x.inst (fieldAt bs 8 2)
        ∧ z.st = if stageOpen (getPart s p) x.inst (fieldAt bs 8 2) = true then .ready s.now z.id else .queued)

/-- R10, R68, R70 to R72, R79, R92, R340, R366, R371 to R373: a pickup puts the chosen spore, whose record and carry the scheduler reads,
on its bank in user mode at its record's address, with s9 its task, s10 to s13 its arguments, a window of zeros, and no reserved bit of
CARRY set (that the spore is READY, then on its bank, with no step between is log 48); a search item whose checks pass becomes an
operation; aging raises a READY spore's priority; a yield request is posted to the victim. -/
def Obligations.SchedulerEvents : Prop :=
  (∀ (s : State) (p core : Nat) (b : Bool) (x : Item) (d : StageDesc) (i : Instance) (r : Spore) (bs : List Byte) (u : State), p < 8 →
    pickChoice s p x d i core b → loadSpore s p i.asid x = (.ok (r, bs), u) →
    gives (.pickup p) s fun t =>
      let c := getCtx t (.bank core b)
      let handler := r.hpend && d.handler != 0
      let other := (getCtx s (.bank core (!b))).life.status
      c.life.status = (if other = .running ∨ other = .halting then .standby else .running)
      ∧ c.life.item = x.id ∧ c.life.asid = i.asid ∧ c.life.winUnits = d.window ∧ c.life.tiles = d.tiles
      ∧ c.trap.smode = false ∧ c.trap.stvec = preg s p 0x048 ∧ c.trap.tokwd = 0x100000
      ∧ c.trap.sscr = (getCtx s (.bank core b)).trap.sscr
      ∧ c.fr.pc = BitVec.ofNat 64 (if handler then d.handler else r.resume.toNat / 4 * 4)
      ∧ getS c 9 = r.task ∧ getS c 10 = r.arg0 ∧ getS c 11 = r.arg1 ∧ getS c 12 = r.arg2 ∧ getS c 13 = r.arg3
      ∧ c.csr.vfmt = BitVec.ofNat 64 d.v40 &&& fmtMask ∧ c.csr.mfmt = BitVec.ofNat 64 d.v48 &&& fmtMask ∧ c.csr.frnd = 0 ∧ c.csr.fflags = 0
      ∧ (r.reason ≠ 0 → c.csr.carry = BitVec.ofNat 64 (r.carry.toNat &&& 0x1FF03FF))
      ∧ (r.cvalid = false → memoriesCanonical s → ∀ k, k < 16384 * d.window → mget t.mem.scratch (2 ^ 20 * core + c.life.winBase + k) = 0)
      ∧ (∃ y, findItem (getPart t p) x.id = some y ∧ y.st = .onCore core b))
  ∧ (∀ (s v : State) (p inst stage : Nat) (x : Item) (i : Instance) (d : StageDesc) (o : Op), p < 8 → partOn s p = true →
    (getPart s p).items.find? (fun x => x.inst == inst && x.stage == stage && x.st == .command) = some x →
    findInst (getPart s p) inst = some i → findStage (getPart s p) inst stage = some d → stageOpen (getPart s p) inst stage = true →
    d.kind = 1 → searchItem s p i d (itemSa d x.rcd.task) = (some o, v) →
    receiverFull v p o.body = false → s.mem.errs = [] →
    gives (.stageItemIssue p inst stage) s fun t => t.mem = s.mem ∧ kfind t.ops s.sch.uid = some o
      ∧ (getPart t p).items = (getPart s p).items.filter fun y => y.id != x.id)
  ∧ (∀ (s : State) (p item : Nat) (x : Item), p < 8 → findItem (getPart s p) item = some x → (readySince x).isSome = true →
    slotWritable (updItem s p item (older s p)) p item → recordKept s p x →
    gives (.aging p item) s fun t =>
      if x.aged + ageClk s p ≤ s.now ∧ x.rcd.prio.toNat < ageLimit s p then
        ∃ y, findItem (getPart t p) item = some y ∧ y.rcd.prio = x.rcd.prio + 1 ∧ y.st = x.st ∧ y.aged = x.aged + ageClk s p
      else t = s)
  ∧ (∀ (s : State) (p k : Nat) (x : Item) (d : StageDesc), p < 8 → partOn s p = true →
    firstChosen (getPart s p) ((readyItems (getPart s p)).filter fun y =>
      (pickCore s p y.1 y.2 false).isNone && !yieldAsked s y.1.id && !(victims s p y.1 y.2).isEmpty) = some (x, d) →
    firstVictim (victims s p x d) = some k → (getCtx s (keyAgent k)).life.yieldReq = false →
    gives (.yieldRequest p) s fun t => (getCtx t (keyAgent k)).life.yieldReq = true
      ∧ (getCtx t (keyAgent k)).life.yieldFor = some x.id ∧ t.mem = s.mem
      ∧ (getCtx t (keyAgent k)).arch = (getCtx s (keyAgent k)).arch)

end

namespace Sys2Proof.Claims

open Sys2Proof.Machine Sys2Proof.Safety

/-! ### The host, the gathers and the partitions -/

/-- The one record of the partition's fault list names one frozen bank of it, which runs in user mode with no trap of an engine to
take, and no event of the open batch names it (R392). -/
def oneFault (s : State) (p core : Nat) (b : Bool) (r : FaultRec) : Prop :=
  p < 8 ∧ core < 384 ∧ s.boot.ready = true ∧ (getPart s p).batch = none ∧ (getPart s p).recs = [r] ∧ r.who = [.bank core b]
    ∧ (getCtx s (.bank core b)).life.status = .frozen ∧ partOn s (getCtx s (.bank core b)).life.part = true
    ∧ (getCtx s (.bank core b)).trap.smode = false ∧ trapPending (getCtx s (.bank core b)) = false

/-- The bank goes on: it runs or waits for its turn, and its registers and the memory are as they were (R394, R397). -/
def goesOn (s t : State) (core : Nat) (b : Bool) : Prop :=
  ((getCtx t (.bank core b)).life.status = .standby ∨ (getCtx t (.bank core b)).life.status = .running)
    ∧ (getCtx t (.bank core b)).fr.stall ≠ .fault ∧ (getCtx t (.bank core b)).trap.fpend = false
    ∧ (getCtx t (.bank core b)).arch = (getCtx s (.bank core b)).arch ∧ t.mem = s.mem

/-- An element of a gather or a scatter that may be served, and another that is not settled yet (R272, R275). -/
def elemReady (s : State) (op k : Nat) (o : Op) (g : GatherOp) : Prop :=
  kfind s.ops op = some o ∧ o.body = .gather g ∧ k < g.st.length ∧ servable g k = true
    ∧ (elemSt g k = .todo ∨ elemSt g k = .retry) ∧ (∃ j, j < g.st.length ∧ j ≠ k ∧ settled (elemSt g j) = false)
    ∧ s.mem.errs = [] ∧ memoriesCanonical s

/-- The element has ended with a status, and the others are as they were. -/
def elemEnded (t : State) (op k : Nat) (g : GatherOp) (code : Nat) : Prop :=
  ∃ o h, kfind t.ops op = some o ∧ o.body = .gather h ∧ elemSt h k = .done code
    ∧ ∀ j, j ≠ k → elemSt h j = elemSt g j

/-- The 32-byte unit of an offset of the window is complete once element `k` is settled: it holds bytes of that row, no byte of an
element that is not settled, and none of the status area (R112, R272). -/
def unitDone (h : GatherOp) (k x : Nat) : Prop :=
  (∃ y, h.rowoff + k * h.rowb ≤ y ∧ y < h.rowoff + (k + 1) * h.rowb ∧ y / 32 = x / 32)
    ∧ unitReady h (x / 32) = true ∧ statusUnit h (x / 32) = false

/-- Element `k` of a gather has ended with a status and the bytes of its row; every unit that this completes shows the rows, and
every other byte of the window is as it was (R112, R272). -/
def rowSettled (s t : State) (op k : Nat) (o : Op) (g : GatherOp) (code : Nat) (bs : List Byte) : Prop :=
  let h := { g with st := listSet g.st k (.done code), rows := listSet g.rows k bs }
  (∃ o', kfind t.ops op = some o' ∧ o'.body = .gather h)
    ∧ ∀ x, let shown := h.rowoff ≤ x ∧ x < h.rowoff + h.st.length * h.rowb ∧ unitDone h k x
        (shown → padRead t (keyAgent (o.owner.getD 0)) x 1 = [rowByte h x])
          ∧ (¬ shown → padRead t (keyAgent (o.owner.getD 0)) x 1 = padRead s (keyAgent (o.owner.getD 0)) x 1)

/-- The last element of a gather or a scatter that is not settled, which may be served. -/
def lastReady (s : State) (op k : Nat) (o : Op) (g : GatherOp) : Prop :=
  kfind s.ops op = some o ∧ o.body = .gather g ∧ ksorted s.ops = true ∧ k < g.st.length ∧ (elemSt g k = .todo ∨ elemSt g k = .retry)
    ∧ (∀ j, j < g.st.length → j ≠ k → settled (elemSt g j) = true) ∧ s.mem.errs = [] ∧ memoriesCanonical s

/-- The status code that an element ends with, and the places of its row when that is OK (R272, R274); none where it is held. -/
def elemOutcome (s : State) (o : Op) (g : GatherOp) (k : Nat) : Option (Nat × List (Loc × Nat)) :=
  match (findRow s o g k).1 with
  | .ok ls => some (0, ls)
  | .code n => some (n, [])
  | .invalid _ => if g.wait = true ∧ elemSt g k = .todo then none else some (1, [])

/-- The count of the elements that are not OK and the status area: that count, then an entry for each of them (R273). -/
def statusArea (h : GatherOp) : Nat × List Byte :=
  let bad := (List.range h.st.length).filterMap fun k => match elemSt h k with
    | .done n => if n = 0 then none else some (k + n * 2 ^ 30)
    | _ => none
  (bad.length, leList 4 bad.length ++ bad.flatMap (leList 4))

/-- Every element has been settled, `k` last: the window holds the status area and, of a gather, all rows, and no other byte of it has
changed; the word, when it has not completed yet, may do so, LGATH with its reply entry and its counter's add (R112, R273, R274). -/
def gatherOver (s w : State) (op k : Nat) (o : Op) (h : GatherOp) : Prop :=
  let a := keyAgent (o.owner.getD 0)
  let e := if h.scatter then Engine.s else .l
  let area := statusArea h
  let fin : Finish := ⟨if h.scatter = false ∧ h.rpl = true then [BitVec.ofNat 64 area.1] else [], 0, !h.scatter, none, none⟩
  padRead w a h.stoff area.2.length = area.2
    ∧ (∀ x, x < h.stoff ∨ h.stoff + area.2.length ≤ x →
        let shown := h.scatter = false ∧ h.rowoff ≤ x ∧ x < h.rowoff + h.st.length * h.rowb
          ∧ (unitDone h k x ∨ statusUnit h (x / 32) = true)
        (shown → padRead w a x 1 = [rowByte h x]) ∧ (¬ shown → padRead w a x 1 = padRead s a x 1))
    ∧ (getE (getCtx w a).eng e).flying = (getE (getCtx s a).eng e).flying.map (fun f =>
        if f.op = some op ∧ f.fin = none then { f with fin := some fin, hold := .none } else f)
    ∧ (∀ x, x ≠ e → getE (getCtx w a).eng x = getE (getCtx s a).eng x) ∧ (getCtx w a).arch = (getCtx s a).arch
    ∧ elsewhere { w with cache := s.cache, mem := s.mem, cores := s.cores, ops := s.ops } a = elsewhere s a

/-- A ring of a partition that reads its next entry, with no completion owed. -/
def ringReads (s : State) (p n : Nat) (e : List Byte) : Prop :=
  p < 8 ∧ n < 4 ∧ (lookRing s p n).1 = some e ∧ (getHRing s p n).owed = [] ∧ memoriesCanonical s

/-- The completion that an entry owes (R421, R423). -/
def complOf (s : State) (p n : Nat) (e : List Byte) (st det : Nat) (cnt : Word) (inst : Option Nat) : Compl :=
  ⟨BitVec.ofNat 32 ((sqLast s p n + 1) % 2 ^ 32), BitVec.ofNat 64 (fieldAt e 8 8), st, fieldAt e 4 1, det, cnt, inst⟩

/-- A completion has been written at the next place of the completion ring and CQLAST names it (R421, R423). -/
def complWritten (s t : State) (p n : Nat) (x : Compl) : Prop :=
  let c := (bits (ringReg s p n 0x38) 31 0 + 1) % 2 ^ 32
  (getHRing t p n).owed = [] ∧ ringReg t p n 0x38 = x.seq.toNat * 2 ^ 32 + c
    ∧ mread t.mem.host ((getHRing s p n).cqBase + 32 * (c % 2 ^ (getHRing s p n).cqLog)) 32 = complBytes c x
    ∧ bit (preg t p 0x600).toNat (4 + n) = true

/-- The registers of a ring may be taken at an enable (R420, R424). -/
def ringGood (s : State) (p n : Nat) : Prop :=
  4 ≤ bits (ringReg s p n 0x08) 4 0 ∧ bits (ringReg s p n 0x08) 4 0 ≤ 16 ∧ 4 ≤ bits (ringReg s p n 0x28) 4 0
    ∧ bits (ringReg s p n 0x28) 4 0 ≤ 16 ∧ ringReg s p n 0x00 ≠ 0 ∧ ringReg s p n 0x20 ≠ 0

/-- A ring is enabled with the registers and the sequence that stand in its registers (R424). -/
def ringRestarted (s t : State) (p n : Nat) : Prop :=
  let last := (bits (ringReg s p n 0x08) 63 32 + 2 ^ 32 - 1) % 2 ^ 32
  ringOn t p n = true ∧ sqLast t p n = last ∧ (getHRing t p n).d.toNat = last ∧ sqStop t p n = false ∧ sqOverrun t p n = false
    ∧ (getHRing t p n).sqBase = ringReg s p n 0x00 ∧ (getHRing t p n).cqBase = ringReg s p n 0x20
    ∧ (getHRing t p n).sqLog = bits (ringReg s p n 0x08) 4 0 ∧ (getHRing t p n).cqLog = bits (ringReg s p n 0x28) 4 0

/-- A write of RCTL with EN = 1, once no completion is owed: the ring runs, or RCTL shows that its registers were refused. -/
def ringStarts (s t : State) (p n : Nat) (val : Word) : Prop :=
  (ringGood s p n → ringRestarted s t p n) ∧ (¬ ringGood s p n → ringOn t p n = false ∧ bit (ringReg t p n 0x40) 2 = true)
    ∧ bits (ringReg t p n 0x40) 31 16 = wbits val 31 16 ∧ t.mem = s.mem

/-- A read that clears: the host is answered with the value, and the register holds what is left. -/
def cleared (s t : State) (val : Word) : Prop := t.reply = .data (leList 8 val.toNat) ∧ t.mem = s.mem

end Sys2Proof.Claims

section

open Sys2Proof Sys2Proof.Machine Sys2Proof.Safety Sys2Proof.Claims

/-- R390 to R394, R397: closing a batch gives each of its records the next FID; RETRY and ABORT end the record they name, and the
bank that waited goes on, with the failure when the answer is ABORT; an answer that names no record is counted. -/
def Sys2Proof.Claims.faultBatchAndAnswers : Prop :=
  (∀ (s : State) (p : Nat) (evs : List FaultEvent), p < 8 → (getPart s p).batch = some evs → evs.length ≤ maxEvents s p →
    gives (.faultBatchClose p) s fun t => (getPart t p).batch = none
      ∧ ((getPart t p).recs.map fun r => { r with written := false })
        = ((getPart s p).recs ++ (batchRanges evs).zipIdx.map fun (r : FaultRec × Nat) =>
            { r.1 with fid := BitVec.ofNat 32 (wbits (preg s p 0x260) 63 32 + 1 + r.2) }).map fun (r : FaultRec) => { r with written := false })
  ∧ (∀ (s : State) (p core : Nat) (b : Bool) (r : FaultRec), oneFault s p core b r →
    (hasAbort (getCtx s (.bank core b)) = false →
      gives (.fansRetry p false r.fid) s fun t => (getPart t p).recs = [] ∧ goesOn s t core b
        ∧ (getCtx t (.bank core b)).fr.abort = (getCtx s (.bank core b)).fr.abort)
    ∧ gives (.fansAbort p false r.fid) s fun t => (getPart t p).recs = [] ∧ goesOn s t core b
        ∧ ((getCtx s (.bank core b)).fr.stall = .fault → (getCtx t (.bank core b)).fr.abort = some false)
        ∧ ∀ e, (getE (getCtx s (.bank core b)).eng e).headWait = true →
            (getE (getCtx t (.bank core b)).eng e).headAbort = some false)
  ∧ (∀ (s : State) (p : Nat) (fid : BitVec 32) (i : Instr), p < 8 → s.boot.ready = true →
    (∀ r, r ∈ (getPart s p).recs → r.fid ≠ fid) → i = .fansRetry p false fid ∨ i = .fansAbort p false fid →
    gives i s fun t => (getPart t p).recs = (getPart s p).recs ∧ t.ctxs = s.ctxs ∧ t.mem = s.mem
      ∧ wbits (preg t p 0x260) 15 0 = min 65535 (wbits (preg s p 0x260) 15 0 + 1))

/-- R388: a write of TICMD starts the invalidation of TIBASE and TILEN, or queues it behind the one in progress. -/
def Sys2Proof.Claims.hostInvalidation : Prop :=
  ∀ (s : State) (p : Nat) (val : Word), p < 8 → s.boot.ready = true →
    gives (.ticmd p val) s fun t => t.mem = s.mem ∧ t.ctxs = s.ctxs
      ∧ (if hostInval s p then
          t.ops = s.ops ∧ (getPart t p).invals
            = (getPart s p).invals ++ [((preg s p 0x240).toNat, (preg s p 0x248).toNat, wbits val 8 0)]
        else ∃ o, kfind t.ops s.sch.uid = some o ∧ o.part = p
          ∧ o.body = .inval (preg s p 0x240).toNat (preg s p 0x248).toNat (wbits val 8 0) true)

/-- R112, R272 to R276: an element of a gather whose checks pass keeps its row's bytes, one whose checks fail a row of zeros with its
code, and each 32-byte unit of the window shows its rows at once when its last element ends; the lowest servable element of a
scatter writes its row, or combines it with the table's. With the last element the status area is written and the operation ends: an
LGATH, or an SSCAT that has waited, may complete, and a scatter adds to its counter. -/
def Sys2Proof.Claims.gatherElements : Prop :=
  (∀ (s : State) (op k : Nat) (o : Op) (g : GatherOp) (ls : List (Loc × Nat)), elemReady s op k o g → g.scatter = false →
    (findRow s o g k).1 = .ok ls →
    gives (.gatherElementRead op k) s fun t => elemEnded t op k g 0 ∧ rowSettled s t op k o g 0 (piecesRead s ls)
      ∧ t.mem.dram = s.mem.dram ∧ t.mem.host = s.mem.host ∧ t.mem.peer = s.mem.peer)
  ∧ (∀ (s : State) (op k : Nat) (o : Op) (g : GatherOp) (n : Nat), elemReady s op k o g → (findRow s o g k).1 = .code n →
    gives (.gatherElementRead op k) s fun t => elemEnded t op k g n
      ∧ (g.scatter = false → rowSettled s t op k o g n (List.replicate g.rowb 0))
      ∧ (g.scatter = true → t.mem = s.mem))
  ∧ (∀ (s : State) (op k : Nat) (o : Op) (g : GatherOp) (ls : List (Loc × Nat)), elemReady s op k o g → g.scatter = true →
    (∀ j, j < k → servable g j = false) → (findRow s o g k).1 = .ok ls →
    gives (.scatterElement op) s fun t => elemEnded t op k g 0
      ∧ t.mem = (if g.sop = 0 then piecesWrite s ls (listGet [] g.rows k)
          else combineWrite s ls (combineRow g (piecesRead s ls) (listGet [] g.rows k))).mem)
  ∧ (∀ (s : State) (op k code : Nat) (o : Op) (g : GatherOp) (ls : List (Loc × Nat)), lastReady s op k o g → g.scatter = false →
    elemOutcome s o g k = some (code, ls) →
    gives (.gatherElementRead op k) s fun t => kfind t.ops op = none
      ∧ gatherOver s t op k o { g with
          st := listSet g.st k (.done code)
          rows := listSet g.rows k (if code = 0 then piecesRead s ls else List.replicate g.rowb 0) }
      ∧ { t.mem with scratch := s.mem.scratch, seqScratch := s.mem.seqScratch } = s.mem)
  ∧ (∀ (s : State) (op k code : Nat) (o : Op) (g : GatherOp) (ls : List (Loc × Nat)), lastReady s op k o g → g.scatter = true →
    elemOutcome s o g k = some (code, ls) →
    gives (.scatterElement op) s fun t => kfind t.ops op = none ∧ ∃ w, gatherOver s w op k o { g with st := listSet g.st k (.done code) }
      ∧ { w.mem with scratch := s.mem.scratch, seqScratch := s.mem.seqScratch } = (if code ≠ 0 then s
          else if g.sop = 0 then piecesWrite s ls (listGet [] g.rows k)
          else combineWrite s ls (combineRow g (piecesRead s ls) (listGet [] g.rows k))).mem
      ∧ w.cache.tlb = (findRow s o g k).2.cache.tlb ∧ w.cache.walks = (findRow s o g k).2.cache.walks
      ∧ t.mem = (addCtr w o.owner (coalTlb 0) o.part o.asid o.ctr 1).mem
      ∧ t.ctxs = (addCtr w o.owner (coalTlb 0) o.part o.asid o.ctr 1).ctxs)
  ∧ (∀ (s : State) (op k : Nat) (o : Op) (g : GatherOp), kfind s.ops op = some o → o.body = .gather g → ksorted s.ops = true →
    memoriesCanonical s → g.st = [] →
    gives (.gatherElementRead op k) s fun t => kfind t.ops op = none ∧ ∃ w, gatherOver s w op k o g
      ∧ { w.mem with scratch := s.mem.scratch, seqScratch := s.mem.seqScratch } = s.mem ∧ w.cache = s.cache
      ∧ (g.scatter = false → t.mem = w.mem ∧ t.ctxs = w.ctxs)
      ∧ (g.scatter = true → t.mem = (addCtr w o.owner (coalTlb 0) o.part o.asid o.ctr 1).mem
        ∧ t.ctxs = (addCtr w o.owner (coalTlb 0) o.part o.asid o.ctr 1).ctxs))

/-- R421, R423: a ring consumes its next entry and advances SQLAST; NOP, a reserved entry, WITHDRAW and a refused LAUNCH complete at
once, an accepted LAUNCH when every item has been created; a WITHDRAW or LAUNCH with a nonzero reserved field is BADENTRY and has no
other effect. -/
def Obligations.RingEntries : Prop :=
  (∀ (s : State) (p n : Nat) (e : List Byte), ringReads s p n e → fieldAt e 4 1 = 0 ∨ 2 < fieldAt e 4 1 →
    gives (.nopEntry p n) s fun t => sqLast t p n = (sqLast s p n + 1) % 2 ^ 32 ∧ t.ctxs = s.ctxs
      ∧ complWritten s t p n (complOf s p n e (if badEntry e then 4 else 0) 0 0 none))
  ∧ (∀ (s : State) (p n : Nat) (e : List Byte), ringReads s p n e → fieldAt e 4 1 = 2 → badEntry e = false →
    let w := withdrawTag s p (BitVec.ofNat 32 (fieldAt e 64 4))
    memoriesCanonical w.2 →
    gives (.withdraw p n) s fun t => sqLast t p n = (sqLast s p n + 1) % 2 ^ 32
      ∧ (getPart t p).items = (getPart w.2 p).items ∧ t.ops = w.2.ops
      ∧ complWritten s t p n (complOf s p n e 0 0
          (BitVec.ofNat 64 (satCount w.1.1 + satCount w.1.2.1 * 2 ^ 20 + satCount w.1.2.2 * 2 ^ 40)) none))
  ∧ (∀ (s : State) (p n : Nat) (e : List Byte), ringReads s p n e → fieldAt e 4 1 = 1 → badEntry e = false →
    let r := launchRecord s p n (e.drop 64)
    gives (.launch p n) s fun t => sqLast t p n = (sqLast s p n + 1) % 2 ^ 32
      ∧ (getPart t p).insts = (getPart r.2 p).insts
      ∧ (r.1.2.2 = none → memoriesCanonical r.2 → complWritten s t p n (complOf s p n e r.1.1 r.1.2.1 0 none))
      ∧ (expanded (getPart r.2 p) r.1.2.2 = false →
          (getHRing t p n).owed = [complOf s p n e r.1.1 r.1.2.1 0 r.1.2.2]))
  ∧ (∀ (s : State) (p n : Nat) (e : List Byte) (i : Instr), ringReads s p n e → badEntry e = true →
    (i = .withdraw p n ∧ fieldAt e 4 1 = 2) ∨ (i = .launch p n ∧ fieldAt e 4 1 = 1) →
    gives i s fun t => sqLast t p n = (sqLast s p n + 1) % 2 ^ 32 ∧ t.ctxs = s.ctxs ∧ t.ops = s.ops
      ∧ (getPart t p).items = (getPart s p).items ∧ (getPart t p).insts = (getPart s p).insts
      ∧ complWritten s t p n (complOf s p n e 4 0 0 none))
  ∧ (∀ (s : State) (p n : Nat) (x : Compl), p < 8 → n < 4 → (getHRing s p n).owed = [x] → (getHRing s p n).act = .none →
    expanded (getPart s p) x.inst = true → cqFree s p n = true → memoriesCanonical s →
    gives (.launchCompletion p n) s fun t => complWritten s t p n x ∧ t.ctxs = s.ctxs)

/-- R420, R422, R424: a doorbell raises D or is ignored; a write of CQHEAD frees room, and starts again a ring that stopped for
want of it; RCTL stops a ring, or starts it with the registers as they stand, once its completions are written. A doorbell counts
in HSTAT of the block and of the physical function (log 39), and EN = 1 re-bases a ring that is enabled too (log 67): both are the
model's readings. -/
def Sys2Proof.Claims.ringControl : Prop :=
  ∀ (s : State) (p n : Nat), p < 8 → n < 4 → s.boot.ready = true →
    (∀ seq : BitVec 32, gives (.sqdb p n seq) s fun t => t.mem = s.mem ∧ t.ctxs = s.ctxs
      ∧ wbits (preg t p 0x618) 63 32 = (wbits (preg s p 0x618) 63 32 + 1) % 2 ^ 32
      ∧ (getHRing t p n).d = (match doorbellLimit (sqLast s p n) (getHRing s p n).d.toNat seq.toNat with
          | some d => BitVec.ofNat 32 d
          | none => (getHRing s p n).d))
    ∧ (∀ seq : BitVec 32, (getHRing s p n).owed = [] → (getHRing s p n).act = .none →
      (getHRing s p n).d.toNat = sqLast s p n →
      gives (.cqhead p n seq) s fun t => ringReg t p n 0x30 = seq.toNat ∧ t.mem = s.mem ∧ sqLast t p n = sqLast s p n
        ∧ (sqStop s p n = true → sqOverrun s p n = false →
          (bits (ringReg s p n 0x38) 31 0 + 1 + 2 ^ 32 - seq.toNat) % 2 ^ 32 ≤ 2 ^ (getHRing s p n).cqLog →
          sqStop t p n = false))
    ∧ (∀ val : Word, bit val.toNat 0 = true →
      let i := if bit val.toNat 1 then Instr.rebase p n val else Instr.ringEnable p n val
      ((getHRing s p n).owed = [] → gives i s fun t => ringStarts s t p n val)
      ∧ ((getHRing s p n).owed ≠ [] → gives i s fun t => (getHRing t p n).act = .rebase ∧ sqLast t p n = sqLast s p n
          ∧ (getHRing t p n).owed = (getHRing s p n).owed ∧ t.mem = s.mem))
    ∧ (∀ val : Word, bit val.toNat 0 = false →
      gives (.ringDisable p n val) s fun t => ringOn t p n = false ∧ sqLast t p n = sqLast s p n ∧ t.mem = s.mem
        ∧ (getHRing t p n).owed = (getHRing s p n).owed)

/-- R427: IRQST clears the bits written as 1; IRQMASK holds the mask, and a source unmasked with its bit set sends its message; a
completion message delayed by MODNS is sent once that time has passed. The time runs from the last message of the ring, at 2 clk a
ns (the model's reading, log 72). -/
def Sys2Proof.Claims.interruptRegisters : Prop :=
  ∀ (s : State) (p : Nat), p < 8 → s.boot.ready = true →
    (∀ val : Word, gives (.irqst p val) s fun t => preg t p 0x600 = preg s p 0x600 &&& ~~~val ∧ t.msix = s.msix
      ∧ t.mem = s.mem)
    ∧ (∀ val : Word, gives (.irqmask p val) s fun t => preg t p 0x608 = BitVec.ofNat 64 (wbits val 11 0)
      ∧ preg t p 0x600 = preg s p 0x600 ∧ t.mem = s.mem
      ∧ ∀ k, k < 12 → (k < 4 ∨ 8 ≤ k) →
          ((List.range 12).filter fun k => bit (preg s p 0x608).toNat k && !bit val.toNat k && bit (preg s p 0x600).toNat k)
            = [k] →
          t.msix = (sendMsg s p (irqVector k)).msix)
    ∧ (∀ n, n < 4 → (getHRing s p n).modPend = true →
      (∀ m, (getHRing s p n).lastMsg = some m → m + 2 * bits (ringReg s p n 0x40) 31 16 ≤ s.now) →
      gives (.irqModeration p n) s fun t => t.msix = (sendMsg s p (4 + n)).msix ∧ (getHRing t p n).modPend = false
        ∧ (getHRing t p n).lastMsg = some s.now ∧ t.mem = s.mem)

/-- A refused access is counted in BADACC of its function: in HSTAT of the partition's block, or in that of the physical function
(R418, R425). -/
def badAccCounted (s t : State) (fn : Nat) : Prop :=
  (∀ p, vfPart s fn = some p → wbits (preg t p 0x618) 15 0 = min 65535 (wbits (preg s p 0x618) 15 0 + 1))
  ∧ (fn = 0 → wbits (dreg t 0x1010) 15 0 = min 65535 (wbits (dreg s 0x1010) 15 0 + 1))

/-- R416 to R418: VFBIND takes a legal binding; the host reads and writes the DRAM and the scratchpads through BAR 2; an access that
the function may not make reads 0, writes nothing and is counted. -/
def Obligations.HostAccess : Prop :=
  (∀ (s : State) (val : BitVec 32), s.boot.ready = true → bindsTwice val.toNat = false → bindsBusy s val.toNat = false →
    gives (.vfbind val) s fun t => dreg t 0x1000 = BitVec.ofNat 64 val.toNat ∧ t.mem = s.mem ∧ t.parts = s.parts)
  ∧ (∀ (s : State) (fn off n : Nat), s.boot.ready = true → s.mem.errs = [] → 0 < n → off % 4096 + n ≤ 4096 →
    gives (.bar2Read fn off n) s fun t => t.mem = s.mem ∧ t.ctxs = s.ctxs ∧ t.reply = .data (match hostTarget s fn off n with
      | .dram pa => mread s.mem.dram pa n
      | .scratch c x => mread s.mem.scratch (2 ^ 20 * c + x) n
      | .seqScratch q x => mread s.mem.seqScratch (2 ^ 18 * q + x) n
      | .nothing | .refused => List.replicate n 0)
      ∧ (hostTarget s fn off n = .refused → badAccCounted s t fn))
  ∧ (∀ (s : State) (fn off : Nat) (bs : List Byte), s.boot.ready = true → s.mem.errs = [] → bs ≠ [] →
    off % 4096 + bs.length ≤ 4096 → memoriesCanonical s →
    gives (.bar2Write fn off bs) s fun t => t.ctxs = s.ctxs ∧ (match hostTarget s fn off bs.length with
      | .dram pa => writtenAt s.mem.dram t.mem.dram pa bs ∧ t.mem = { s.mem with dram := t.mem.dram, promo := t.mem.promo }
      | .scratch c x => writtenAt s.mem.scratch t.mem.scratch (2 ^ 20 * c + x) bs ∧ t.mem = { s.mem with scratch := t.mem.scratch }
      | .seqScratch q x =>
        writtenAt s.mem.seqScratch t.mem.seqScratch (2 ^ 18 * q + x) bs ∧ t.mem = { s.mem with seqScratch := t.mem.seqScratch }
      | .nothing => t.mem = s.mem
      | .refused => t.mem = s.mem ∧ badAccCounted s t fn))

/-- R354, R376, R419: a write of PCTL with EN = 1 enables a partition whose block is in order and refuses another by its STATUS;
EN = 0 ends its work and leaves it draining until none is left; a function-level reset resets the rings and interrupt registers once
every bank of the partition is empty. -/
def Obligations.PartitionControl : Prop :=
  ∀ (s : State) (p : Nat), p < 8 → s.boot.ready = true →
    (∀ val : Word, bit val.toNat 0 = true → partOn s p = false → partStatus s p ≠ 3 →
      gives (.partitionEnable p val) s fun t => t.mem = s.mem ∧ t.ctxs = s.ctxs
        ∧ (if badValue s p then partOn t p = false ∧ partStatus t p = 2
          else if conflict s p then partOn t p = false ∧ partStatus t p = 1
          else partOn t p = true ∧ partStatus t p = 0))
    ∧ (∀ val : Word, bit val.toNat 0 = false → partOn s p = true →
      gives (.partitionDisable p val) s fun t => partOn t p = false ∧ partStatus t p = 3 ∧ (getPart t p).cmds = []
        ∧ ∀ o, o ∈ t.ops → o.2.part = p → (∃ g, o.2.body = .search g) ∨ (∃ g, o.2.body = .fetch g) → o.2.withdrawn = true)
    ∧ (partOn s p = false → partStatus s p = 3 → workLeft s p = false →
      gives (.disableComplete p) s fun t => partStatus t p = 0 ∧ partOn t p = false ∧ t.mem = s.mem
        ∧ ∀ core b, core < 384 → bit (preg s p 0x008).toNat (coreCluster core) = true →
            (getCtx t (.bank core b)).trap.sscr = Vector.replicate 4 0 ∧ (getCore t core).cstore = [])
    ∧ (∀ fn, vfPart s fn = some p → partOn s p = false → banksEmpty s p = true → (getPart s p).flr.contains fn = false →
      gives (.functionLevelReset fn) s fun t => t.mem = s.mem
        ∧ (∀ off, 0x400 ≤ off → off ≤ 0x610 → preg t p off = preg State.reset p off)
        ∧ ∀ n, n < 4 → getHRing t p n = HostRing.reset)
    ∧ (∀ fn, vfPart s fn = some p → partOn s p = true →
      gives (.functionLevelReset fn) s fun t => partOn t p = false ∧ partStatus t p = 3
        ∧ (banksEmpty s p = false → (getPart t p).flr.contains fn = true))
    ∧ (∀ (core : Nat) (b : Bool) (fn : Nat), (getCtx s (.bank core b)).life.part = p → (getPart s p).flr = [fn] → fn ≠ 0 →
      banksEmpty (freeBank s core b) p = true →
      (∀ n, n < 4 → getHRing (freeBank s core b) p n = HostRing.reset) ∧ (getPart (freeBank s core b) p).flr = []
        ∧ ∀ off, 0x400 ≤ off → off ≤ 0x610 → preg (freeBank s core b) p off = preg State.reset p off)

/-- R9, R354, R395, R412, R425, R428, R432, R433, R435, R439: a read that clears answers the register's value and leaves 0; DEVID and
DEVSTAT answer at any time, before READY too, and change nothing; a write of a register of a
block holds the bits it has, unless the partition is enabled and the register is a configuration register; RGCFG takes a write
that no routed word holds up. -/
def Obligations.RegisterAccess : Prop :=
  (∀ (s : State) (p : Nat), p < 8 → s.boot.ready = true →
    gives (.trlost p) s (fun t => cleared s t (preg s p 0x078) ∧ preg t p 0x078 = 0)
    ∧ gives (.frlost p) s (fun t => cleared s t (preg s p 0x228) ∧ preg t p 0x228 = 0)
    ∧ gives (.erlost p) s (fun t => cleared s t (preg s p 0x320) ∧ preg t p 0x320 = 0)
    ∧ gives (.rsstat p) s (fun t => cleared s t (BitVec.ofNat 64 (wbits (preg s p 0x340) 15 8 * 256 + (getPart s p).cmds.length))
        ∧ wbits (preg t p 0x340) 15 8 = 0)
    ∧ (∀ fn, vfPart s fn = some p ∨ fn = 16 + p → gives (.hstat fn) s fun t => cleared s t (preg s p 0x618)
        ∧ wbits (preg t p 0x618) 15 0 = 0 ∧ wbits (preg t p 0x618) 63 16 = wbits (preg s p 0x618) 63 16))
  ∧ (∀ (s : State) (r : List Move) (off x : Nat), s.sch.agenda = .read 0 off :: r →
    (off = 0 ∧ x = devid s.boot) ∨ (off = 8 ∧ x = devstat s) →
    ∃ t, step s = .next t ∧ t.reply = .data (leList 8 x) ∧ t.mem = s.mem ∧ t.dregs = s.dregs ∧ t.parts = s.parts)
  ∧ (∀ (s : State), s.boot.ready = true →
    gives (.hstat 0) s (fun t => cleared s t (dreg s 0x1010) ∧ wbits (dreg t 0x1010) 15 0 = 0)
    ∧ (∀ i, i ≤ 10 → gives (.ecnt i) s fun t => cleared s t (dreg s (0x3000 + 8 * i)) ∧ dreg t (0x3000 + 8 * i) = 0)
    ∧ (∀ i, i < 16 → gives (.lbport i) s fun t => cleared s t (dreg s (0x2100 + 8 * i))
        ∧ wbits (dreg t (0x2100 + 8 * i)) 15 0 = 0
        ∧ wbits (dreg t (0x2100 + 8 * i)) 63 16 = wbits (dreg s (0x2100 + 8 * i)) 63 16))
  ∧ (∀ (s : State) (fn p off mask : Nat) (cfg : Bool) (val : Word), p < 8 → s.boot.ready = true →
    blockField off = some (mask, cfg) → vfPart s fn = some p →
    ∀ i, i = .registerWrite 0 (0x100000 + 0x1000 * p + off) val ∨ i = .registerWrite fn off val →
    gives i s fun t => if cfg && partOn s p then t = s
      else t = setPreg s p off (val &&& BitVec.ofNat 64 mask) ∧ preg t p off = val &&& BitVec.ofNat 64 mask)
  ∧ (∀ (s : State) (a : AgentId) (n : Nat) (val : Word), n < 8 → isSeq a = false → (getCtx s a).life.status = .running →
    ringBusy (getCtx s a).eng n = false →
    gives (.rgcfgWrite a n val) s fun t => getCtx t a = setRing (getCtx s a) n (rgcfgRing val) ∧ t.mem = s.mem)

end

namespace Sys2Proof.Claims

open Sys2Proof.Machine Sys2Proof.Safety

/-! ### The retrieval store -/

/-- The command at the head of an enabled partition's queue has this OP, its block can be read, its reserved bytes are 0, and `r` is
the machine once the block has been read (R412, R413). -/
def cmdHeld (s r : State) (p op : Nat) (w : Word) (rest : List Word) (bs : List Byte) : Prop :=
  p < 8 ∧ partOn s p = true ∧ (getPart s p).cmds = w :: rest
    ∧ devReadS s sysTlb p (asidBase s p) w.toNat 64 false = (.ok bs, r)
    ∧ fieldAt bs 0 1 = op ∧ fieldAt bs 4 4 = 0 ∧ fieldAt bs 32 24 = 0

/-- The command is done: the queue and RSDONE have advanced, the store is that of `u`, and RESULT and STATUS are written after the
command's own effect (R412, R413). -/
def cmdEnds (s u t : State) (p : Nat) (w : Word) (rest : List Word) (res st : Nat) : Prop :=
  (getPart t p).cmds = rest ∧ preg t p 0x330 = BitVec.ofNat 64 (((preg s p 0x330).toNat + 1) % 2 ^ 32) ∧ t.store = u.store
    ∧ ∀ v, sysWrite u p (w.toNat + 56) (leList 4 res ++ leList 1 st ++ leList 3 0) = .ok v → t.mem = v.mem

/-- The command names a slot that this partition may use, in the state given. -/
def slotIs (s : State) (p : Nat) (bs : List Byte) (st : IdxState) (x : Index) : Prop :=
  cmdSlot bs < 4096 ∧ slotOf s (cmdSlot bs) = x ∧ x.st = st ∧ (x.st = .free ∨ x.owner = p)

/-- An operation in flight, and what it still has to do. -/
def inFlight (s : State) (op : Nat) (o : Op) (b : OpBody) : Prop :=
  kfind s.ops op = some o ∧ o.body = b ∧ ksorted s.ops = true

/-- What the operation still has to do. -/
def nowDoes (t : State) (op : Nat) (b : OpBody) : Prop := ∃ o, kfind t.ops op = some o ∧ o.body = b

/-- The operation has ended in `t` after what it did up to `v`: it is gone, an item that its tag carries counts as finished (R301), and then
its counter, be it a local one, one in memory or none, has taken its add (R94, R95). -/
def endsOn (v t : State) (op : Nat) (o : Op) (cache : Nat) : Prop :=
  let u := addCtr (if finishes o then countFinished v o.part o.tag else v) o.owner cache o.part o.asid o.ctr 1
  kfind t.ops op = none ∧ t.mem = u.mem ∧ t.ctxs = u.ctxs ∧ t.parts = u.parts

/-- The operation has ended with its parts written in order (R293, R297). -/
def endsWith (s t : State) (op : Nat) (o : Op) (cache : Nat) (parts : List (Nat × List Byte)) : Prop :=
  endsOn (writeParts s cache o parts).2 t op o cache

/-- An object of a fetch ends with a code and its entry, or with FAULT when the entry cannot be written; `s` is the machine once its
slots have been written (R297). -/
def objEnds (s t : State) (op i : Nat) (o : Op) (g : FetchOp) (x : FetchObj) (code : Nat) (entry : List Byte) : Prop :=
  match devWrite s (unitTlb (x.unit.getD 0)) o.part o.asid (g.ent.toNat + 16 * i) entry true o.hint o.owner with
  | .ok v => t.mem = v.mem ∧ nowDoes t op (.fetch { g with objs := listSet g.objs i { x with st := some code, wait := [] } })
  | .error (_, v) => t.mem = v.mem ∧ sameBytes s t ∧ nowDoes t op (.fetch { g with objs := listSet g.objs i { x with st := some 5, wait := [] } })

/-- A log batch has been reported by 8 bytes at POSOUT, where it names one, and has ended, with its counter's add (R299). -/
def batchReported (s t : State) (op : Nat) (o : Op) (g : LogOp) (cache x : Nat) : Prop :=
  endsOn (if g.posout = 0 then s else (writeParts s cache o [(g.posout.toNat, leList 8 x)]).2) t op o cache

/-- The object's entry (R297). -/
def entryBytes (g : FetchOp) (i : Nat) (x : FetchObj) (flags : Nat) : List Byte :=
  leList 8 (x.block.toNat + flags)
    ++ leList 4 ((g.pos + ((g.objs.take i).map fun y => y.cnt).foldl (· + ·) 0) % 2 ^ 32) ++ leList 1 x.cnt ++ leList 3 0

end Sys2Proof.Claims

section

open Sys2Proof Sys2Proof.Machine Sys2Proof.Safety Sys2Proof.Claims

/-- R399, R400, R407, R409, R412 to R414: RSCMD queues a command; FORMAT, CREATE, PUTNODES, PUTOBJ, DELOBJ and CLEARBAD change the
store as they say, and report success. FORMAT erases what any partition has on the unit (the model's choice, log 85). -/
def Sys2Proof.Claims.provisioningCommands : Prop :=
  (∀ (s : State) (p : Nat) (val : Word), p < 8 → s.boot.ready = true →
    gives (.rscmd p val) s fun t => t.mem = s.mem ∧ t.store = s.store
      ∧ if 16 ≤ (getPart s p).cmds.length then (getPart t p).cmds = (getPart s p).cmds
          ∧ wbits (preg t p 0x340) 15 8 = min 255 (wbits (preg s p 0x340) 15 8 + 1)
        else (getPart t p).cmds = (getPart s p).cmds ++ [BitVec.ofNat 64 (wbits val 47 6 * 64)])
  ∧ (∀ (s r : State) (p : Nat) (w : Word) (rest : List Word) (bs : List Byte), let u := cmdUnit bs
    cmdHeld s r p 1 w rest bs → u < 8 → 16 ≤ cmdArg bs → cmdArg bs ≤ 512 → bit (preg s p 0x018).toNat u = true →
    flashFails s [u] = false → (∀ kx, kx ∈ s.store.indexes → kx.2.owner = p → kx.2.st ≠ .free → kx.2.place.contains u = false) →
    let v := setUnit r u { getUnit r u with indexGib := cmdArg bs }
    gives (.format p) s fun t =>
      cmdEnds s { v with store := { v.store with
        objects := s.store.objects.filter fun o => o.unit != u
        indexes := s.store.indexes.map fun kx => (kx.1, erasedIndex u kx.2) } } t p w rest 0 0)
  ∧ (∀ (s r z : State) (p : Nat) (w : Word) (rest : List Word) (bs img : List Byte) (x y : Index),
    cmdHeld s r p 2 w rest bs → slotIs s p bs .free x → cmdImage r p bs = (some img, z) → headerIndex p z.sch.uid x.gen img = some y →
    (∀ u, u ∈ y.place → bit (preg s p 0x018).toNat u = true) →
    (flashFails s y.place = true → gives (.create p) s fun t => cmdEnds s z t p w rest 0 6)
    ∧ (flashFails s y.place = false → (∀ u, u ∈ y.place → regionFits (putIndex z (cmdSlot bs) y) u = true) →
    gives (.create p) s fun t => cmdEnds s (freshUid (putIndex z (cmdSlot bs) y)).2 t p w rest 0 0))
  ∧ (∀ (s r z : State) (p : Nat) (w : Word) (rest : List Word) (bs img : List Byte) (x : Index) (ns : List Node),
    cmdHeld s r p 3 w rest bs → slotIs s p bs .building x → cmdImage r p bs = (some img, z) →
    parseNodes x (img.length / 8 + 1) img = some ns →
    (ns.map (·.id) ++ (curVersion x).nodes.map (·.id)).eraseDups.length = (ns.map (·.id) ++ (curVersion x).nodes.map (·.id)).length →
    (∀ u, u ∈ x.place → bit (preg s p 0x018).toNat u = true) →
    let v := putIndex z (cmdSlot bs)
      { x with versions := [{ curVersion x with nodes := (curVersion x).nodes ++ placeNodes z x ns ⟨[], []⟩ }] }
    (flashFails s (ns.map fun n => nodeUnit x n.id) = true → gives (.putnodes p) s fun t => cmdEnds s z t p w rest 0 6)
    ∧ (flashFails s (ns.map fun n => nodeUnit x n.id) = false → (∀ u, u ∈ x.place → regionFits v u = true) →
      gives (.putnodes p) s fun t => cmdEnds s v t p w rest 0 0))
  ∧ (∀ (s r z : State) (p : Nat) (w : Word) (rest : List Word) (bs img : List Byte) (u : Nat),
    cmdHeld s r p 9 w rest bs → 0 < cmdUnit bs → cmdUnit bs ≤ 64 → cmdSlot bs % 2 = 0 → 2 ≤ cmdSlot bs → cmdSlot bs ≤ 4096 →
    cmdLen bs = cmdUnit bs * cmdSlot bs → objectUnit s p (cmdArg bs) = some u → cmdImage r p bs = (some img, z) →
    let o : KvObj := ⟨p, u, cmdArg bs, cmdSlot bs, cmdUnit bs, 0, objectBody (cmdArg bs) (cmdSlot bs) (cmdUnit bs) img⟩
    let pg := objectRun z u (bodyPages o).length
    let v := { z with store := { z.store with
      objects := (s.store.objects.filter fun y => !(y.part == p && y.unit == u && y.id == cmdArg bs))
        ++ [{ o with page := pg }] } }
    (flashFails s [u] = true → gives (.putobj p) s fun t => cmdEnds s z t p w rest 0 6)
    ∧ (flashFails s [u] = false → pg + (bodyPages o).length ≤ objectPages z u → regionFits v u = true →
      gives (.putobj p) s fun t => cmdEnds s v t p w rest 0 0))
  ∧ (∀ (s r : State) (p : Nat) (w : Word) (rest : List Word) (bs : List Byte) (u : Nat),
    cmdHeld s r p 10 w rest bs → objectUnit s p (cmdArg bs) = some u →
    gives (.delobj p) s fun t =>
      if flashFails s [u] then cmdEnds s r t p w rest 0 6
      else cmdEnds s { r with store := { r.store with
        objects := s.store.objects.filter fun y => !(y.part == p && y.unit == u && y.id == cmdArg bs) } } t p w rest 0 0)
  ∧ (∀ (s r : State) (p : Nat) (w : Word) (rest : List Word) (bs : List Byte),
    cmdHeld s r p 11 w rest bs → cmdUnit bs < 8 → bit (preg s p 0x018).toNat (cmdUnit bs) = true →
    gives (.clearbad p) s fun t =>
      cmdEnds s (setUnit r (cmdUnit bs) { getUnit r (cmdUnit bs) with marks := [] }) t p w rest 0 0)

/-- R355, R404, R406, R414: SEAL, MOUNT, UNMOUNT, DROP and MERGE act on a slot of the partition in the state they require; on another
partition's slot they end with NOTGRANTED, on one in another state with BADSTATE, and change nothing. All but UNMOUNT need the index's
units granted, and end with NOTGRANTED otherwise (the model's reading, log 85). -/
def Sys2Proof.Claims.indexCommands : Prop :=
  ∀ (s r : State) (p : Nat) (w : Word) (rest : List Word) (bs : List Byte) (i : Instr) (op : Nat) (need : IdxState) (x : Index),
    (i = .seal p ∧ op = 4 ∧ need = .building) ∨ (i = .mount p ∧ op = 5 ∧ need = .built)
      ∨ (i = .unmount p ∧ op = 6 ∧ need = .mounted) ∨ (i = .drop p ∧ op = 7 ∧ need = .built)
      ∨ (i = .merge p ∧ op = 8 ∧ need = .mounted) →
    cmdHeld s r p op w rest bs → cmdSlot bs < 4096 → slotOf s (cmdSlot bs) = x →
    gives i s fun t =>
      if x.st ≠ .free ∧ (x.owner ≠ p ∨ op ≠ 6 ∧ (x.place.any fun u => !bit (preg s p 0x018).toNat u) = true) then
        cmdEnds s r t p w rest 0 2
      else if x.st ≠ need then cmdEnds s r t p w rest 0 3
      else if op = 4 ∧ flashFails s x.place = true then cmdEnds s r t p w rest 0 6
      else if op = 4 then cmdEnds s (putIndex r (cmdSlot bs) { x with st := .built, nodes := (curVersion x).nodes.length }) t p w rest 0 0
      else if op = 5 then cmdEnds s (putIndex r (cmdSlot bs) { x with st := .mounted, gen := x.gen + 1 }) t p w rest
        (cmdSlot bs + (x.gen + 1).toNat * 2 ^ 16) 0
      else if op = 6 then cmdEnds s (putIndex r (cmdSlot bs) { x with st := .built }) t p w rest 0 0
      else if op = 7 then cmdEnds s (putIndex r (cmdSlot bs) (freeIndex x.gen)) t p w rest 0 0
      else if x.merge.isSome then cmdEnds s r t p w rest 0 5
      else cmdEnds s (putIndex r (cmdSlot bs) { x with merge := some ⟨0, 0, false, [], false⟩, mergeHold := false }) t p w rest 0 0

/-- R288, R289 to R294: a search is accepted, once the task queue of its home unit has room, with the version and the log position of its
index, runs its rounds, and ends with its records and its header, or, where a write of these fails, with the header of STATUS FAULT, and with its
counter's add. A handle is judged at the head of the queue and again at
acceptance (the model's reading, log 49). -/
def Sys2Proof.Claims.searchSteps : Prop :=
  (∀ (s : State) (op : Nat) (o : Op) (g : SearchOp), inFlight s op o (.search g) → g.accepted = false →
    gives (.searchAccept op) s fun t => if (!o.withdrawn && g.known && receiverFull s o.part (.search g)) = true then t = s
      else t.mem = s.mem ∧ nowDoes t op (.search (
      if o.withdrawn then { g with accepted := true, since := s.sch.uid, status := some 2 }
      else match (if g.known then handleIndex s o.part g.handle else none) with
        | some x => { g with accepted := true, since := s.sch.uid, pin := some x, ver := (curVersion x).num, logpos := x.logpos }
        | none => { g with accepted := true, since := s.sch.uid, status := some 3 })))
  ∧ (∀ (s : State) (op : Nat) (o : Op) (g : SearchOp) (x : Index), inFlight s op o (.search g) → g.pin = some x →
    g.status = none → g.wait = [] → g.c = [] → searchesOn s (homeUnit x) < 64 →
    gives (.searchRound op) s fun t => t.mem = s.mem ∧ ∃ h, nowDoes t op (.search h)
      ∧ h.c = [(codeDist g.qcode x.ecode, x.entry)] ∧ h.seen = [x.entry] ∧ h.rounds = g.rounds)
  ∧ (∀ (s : State) (op : Nat) (o : Op) (g : SearchOp) (x : Index), inFlight s op o (.search g) → g.pin = some x →
    g.status = none → g.wait = [] → g.c ≠ [] →
    let b := expandAll (pinnedVersion g).nodes g.qcode g.unread g.front ⟨g.c, g.x, g.seen, false, []⟩
    gives (.searchRound op) s fun t => t.mem = s.mem ∧ ∃ h, nowDoes t op (.search h) ∧ h.rounds = g.rounds + 1
      ∧ h.c = b.c.take g.l ∧ h.x = b.x ∧ h.seen = b.seen
      ∧ (o.withdrawn = true → h.status = some 2)
      ∧ (o.withdrawn = false → frontier ⟨b.c.take g.l, b.x, b.seen, false, []⟩ g.w = [] ∨ g.rounds + 1 = g.hops →
          h.status = some (if g.unread = [] then 0 else 1))
      ∧ (o.withdrawn = false → frontier ⟨b.c.take g.l, b.x, b.seen, false, []⟩ g.w ≠ [] → g.rounds + 1 ≠ g.hops →
          h.status = none ∧ h.front = frontier ⟨b.c.take g.l, b.x, b.seen, false, []⟩ g.w))
  ∧ (∀ (s : State) (op : Nat) (o : Op) (g : SearchOp) (st : Nat), inFlight s op o (.search g) → g.status = some st →
    let cache := unitTlb ((g.pin.map homeUnit).getD 0)
    let rs := searchResults (pinnedVersion g) ((g.pin.map fun x => x.log).getD []) g
    let parts := if st = 2 ∨ st = 3 then [(g.res.toNat, searchHeader g 0 st)]
      else (rs.zipIdx.map fun x => (g.res.toNat + 32 + 8 * x.2, leList 8 (x.1.2.1 + x.1.1 * 2 ^ 40 + x.1.2.2 * 2 ^ 56)))
        ++ [(g.res.toNat, searchHeader g rs.length st)]
    let done := writeParts s cache o parts
    gives (.searchEnd op) s fun t =>
      if done.1 = true ∨ st = 2 ∨ st = 3 then endsWith s t op o cache parts
      else endsWith done.2 t op o cache [(g.res.toNat, searchHeader g 0 4)])

/-- R288, R296 to R298, R407, R408: a fetch, once the task queues of its units have room, takes what the directory says of its objects;
each object ends with its slots and its entry written, or with the code of what failed; then the status bytes and the header are
written, and the counter takes its add. -/
def Sys2Proof.Claims.fetchSteps : Prop :=
  (∀ (s : State) (op : Nat) (o : Op) (g : FetchOp), inFlight s op o (.fetch g) → g.accepted = false → o.withdrawn = false →
    gives (.fetchAccept op) s fun t => if receiverFull s o.part (.fetch g) = true then t = s
      else t.mem = s.mem ∧ ∃ h, nowDoes t op (.fetch h) ∧ h.accepted = true
      ∧ h.objs = g.objs.map fun x => match findObject s o.part x.id with
          | some b => { x with unit := some b.unit, body := some b, cnt := b.cnt }
          | none => x)
  ∧ (∀ (s : State) (op : Nat) (o : Op) (g : FetchOp), inFlight s op o (.fetch g) → g.accepted = false → o.withdrawn = true →
    gives (.fetchAccept op) s fun t => t.mem = s.mem ∧ ∃ h, nowDoes t op (.fetch h) ∧ h.accepted = true
      ∧ h.objs = g.objs.map fun x => { x with st := some 4 })
  ∧ (∀ (s : State) (op i : Nat) (o : Op) (g : FetchOp) (x : FetchObj), inFlight s op o (.fetch g) → g.accepted = true →
    g.objs[i]? = some x → x.st = none → let go := o.withdrawn = false ∨ x.begun = true
    (¬ go → gives (.fetchObjectEnd op i) s fun t => t.mem = s.mem
      ∧ nowDoes t op (.fetch { g with objs := listSet g.objs i { x with st := some 4, wait := [] } }))
    ∧ (go → x.unit = none → gives (.fetchObjectEnd op i) s fun t => objEnds s t op i o g x 2 (entryBytes g i x 0))
    ∧ ∀ (u : Nat) (b : KvObj), go → x.unit = some u → x.body = some b →
      (x.bad = true → x.wait = [] →
        gives (.fetchObjectEnd op i) s fun t => objEnds s t op i o g x 1 (entryBytes g i x 0))
      ∧ (x.bad = false → b.slotb ≠ g.slotb →
        gives (.fetchObjectEnd op i) s fun t => objEnds s t op i o g x 3 (entryBytes g i x 0))
      ∧ (x.bad = false → b.slotb = g.slotb → x.begun = false → (bodyPages b).any (pageGone s u .object) = true →
        gives (.fetchObjectEnd op i) s fun t => objEnds s t op i o g x 1 (entryBytes g i x 0))
      ∧ (x.bad = false → b.slotb = g.slotb → x.begun = true → x.wait = [] →
        let wr := devWrite s (unitTlb u) o.part o.asid x.block.toNat ((b.data.drop 64).take (b.cnt * b.slotb)) true o.hint o.owner
        (∀ v, wr = .ok v → gives (.fetchObjectEnd op i) s fun t => objEnds v t op i o g x 0 (entryBytes g i x 3))
        ∧ (∀ e v, wr = .error (e, v) → sameBytes s v
          ∧ gives (.fetchObjectEnd op i) s fun t => objEnds v t op i o g x 5 (entryBytes g i x 0))))
  ∧ (∀ (s : State) (op : Nat) (o : Op) (g : FetchOp), inFlight s op o (.fetch g) → g.accepted = true →
    (∀ x, x ∈ g.objs → x.st.isSome = true) →
    let sts := g.objs.filterMap fun x => x.st
    gives (.fetchEnd op) s fun t => endsWith s t op o (unitTlb 0)
      [(g.status.toNat + 8, sts.map (BitVec.ofNat 8)), (g.status.toNat, fetchHeader sts)])

/-- R299, R300, R303, R304, R403: a log batch is appended whole or rejected whole, and its position or the code of what speaks
against it is written at POSOUT; QSNAP writes version and position; a walk's record writes its rows and counts its bad ones; each ends
with its counter's add, a walk after its last record. A batch that cannot be read is reported nowhere (the model's choice, log 29). Where
a batch finds no room and an identifier is bad too, LOGFULL is reported (the model's choice, log 79). -/
def Sys2Proof.Claims.logAndWalkSteps : Prop :=
  (∀ (s : State) (op : Nat) (o : Op) (g : LogOp), inFlight s op o (.log g) → handleIndex s o.part g.handle = none →
    gives (.logAppend op) s fun t => t.store = s.store ∧ batchReported s t op o g (unitTlb (g.home.getD 0)) 0xFFFFFFFFFFFFFF01)
  ∧ (∀ (s v : State) (op : Nat) (o : Op) (g : LogOp) (x : Index) (bs : List Byte), inFlight s op o (.log g) →
    handleIndex s o.part g.handle = some x →
    let cache := unitTlb (g.home.getD 0)
    let slot := wbits g.handle 11 0
    devReadS s cache o.part o.asid g.list.toNat (logStride x g.del * g.count) true o.owner = (.ok bs, v) →
    let rs := batchRecords bs g.del (logStride x g.del) g.count
    gives (.logAppend op) s fun t =>
      if x.logcap < x.logpos + g.count - oldestBase s slot x then
        t.store = s.store ∧ batchReported v t op o g cache 0xFFFFFFFFFFFFFF02
      else if rs.any (fun r => decide (2 ^ 40 ≤ r.1)) = true then
        t.store = s.store ∧ batchReported v t op o g cache 0xFFFFFFFFFFFFFF03
      else
        let y := { x with logpos := x.logpos + g.count, log := (x.log ++ rs.zipIdx.map (fun r =>
            (⟨x.logpos + r.2, r.1.1, r.1.2⟩ : LogRec))).filter (fun r => decide (oldestBase s slot x ≤ r.pos)) }
        let z := noteHigh (putIndex v slot y) slot y
        t.store = z.store ∧ batchReported z t op o g cache x.logpos)
  ∧ (∀ (s v : State) (op : Nat) (o : Op) (g : LogOp) (x : Index) (e : Xlat), inFlight s op o (.log g) →
    handleIndex s o.part g.handle = some x →
    devReadS s (unitTlb (g.home.getD 0)) o.part o.asid g.list.toNat (logStride x g.del * g.count) true o.owner = (.error e, v) →
    gives (.logAppend op) s fun t => t.store = s.store ∧ endsOn v t op o (unitTlb (g.home.getD 0)))
  ∧ (∀ (s : State) (op : Nat) (o : Op) (dst h : Word) (home : Option Nat), inFlight s op o (.snap dst h home) →
    gives (.qsnapRead op) s fun t => endsWith s t op o (unitTlb (home.getD 0))
      [(dst.toNat, match handleIndex s o.part h with
        | some x => leList 4 (curVersion x).num ++ leList 4 0 ++ leList 8 x.logpos
        | none => leList 4 0xFFFFFFFF ++ leList 12 0)])
  ∧ (∀ (s s1 s2 s3 : State) (op k : Nat) (o : Op) (arr : Word) (n : Nat) (done : List Nat) (bs idx wt : List Byte)
    (ps : List (Loc × Nat)),
    inFlight s op o (.walk arr n done) → k < n → done.contains k = false → done.length < n →
    let cache := walkerTlb k
    unitRead s cache o (arr.toNat + 32 * k) 32 = (some bs, s1) →
    let w := walkRec bs
    badWalkRec w = false → unitRead s1 cache o w.idx (walkIw w * w.count) = (some idx, s2) →
    unitRead s2 cache o w.wgt (if w.wgt = 0 then 0 else 4 * w.count) = (some wt, s3) →
    let at_ := sysPieces s3 cache o.part o.asid w.out .write true (pieceFuel (walkOutBytes w)) (walkOutBytes w)
    at_.1 = .ok ps →
    let rows := walkRows cache o w ((List.range w.count).map fun e => fieldAt idx (walkIw w * e) (walkIw w)) at_.2
    let wts := if w.wgt = 0 then [] else (List.range w.count).map fun e => fltValue .fp32 (fieldAt wt (4 * e) 4)
    let v := (writeParts rows.2 cache o [(w.out, (walkOut w wts rows.1).1),
      (arr.toNat + 32 * k + 30, leList 2 (min (walkOut w wts rows.1).2 0xFFFE))]).2
    gives (.walkRecord op k) s fun t =>
      if done.length + 1 = n then endsOn v t op o cache else nowDoes t op (.walk arr n (k :: done)) ∧ t.mem = v.mem)

/-- R404, R405, R409, R410: page reads end, are tried again, or mark their page after the ninth failure; a merge starts at the
limit of the log and publishes the next version; a failed unit stays failed. Which pages the new records take is the model's choice
(log 21), and that the pages a merge needs are asked for when it starts its reading (log 30). -/
def Sys2Proof.Claims.storeSteps : Prop :=
  (∀ (s : State) (rd : Nat) (r : PageRead), kfind s.store.reads rd = some r → ksorted s.store.reads = true →
    pageGone s r.unit r.region r.page = false → r.unit < 8 →
    gives (.pageReadAttempt rd true) s (fun t => kfind t.store.reads rd = none ∧ t.mem = s.mem ∧ t.store.units = s.store.units)
    ∧ gives (.pageReadAttempt rd false) s fun t =>
      if r.attempt < 8 then kfind t.store.reads rd = some { r with attempt := r.attempt + 1 }
        ∧ (getUnit t r.unit).marks = (getUnit s r.unit).marks
      else kfind t.store.reads rd = none
        ∧ (getUnit t r.unit).marks = (getUnit s r.unit).marks ++ [(r.region, r.page, true)])
  ∧ (∀ (s : State) (slot : Nat) (x : Index), kfind s.store.indexes slot = some x →
    (x.merge = none ∧ (x.st = .mounted ∨ x.st = .built) ∧ partOn s x.owner = true ∧ x.mergeHold = false
      ∧ mergeAt s x ≤ x.logpos - (curVersion x).logbase) ∨ (∃ m, x.merge = some m ∧ m.started = false) →
    gives (.mergeStart slot) s fun t => t.mem = s.mem ∧ t.store.objects = s.store.objects
      ∧ ∃ ids, kfind t.store.indexes slot = some { x with merge := some ⟨x.logpos, (curVersion x).logbase, true, ids,
          (curVersion x).nodes.any fun n => (mergeRun x x.logpos).seen.contains n.id
            && pageGone s (nodeUnit x n.id) .index n.page⟩ })
  ∧ (∀ (s : State) (slot : Nat) (x : Index) (m : Merge), kfind s.store.indexes slot = some x →
    x.merge = some m → m.started = true → m.reads = [] →
    let lost := m.failed || (curVersion x).nodes.any fun n => (mergeRun x m.m).seen.contains n.id
      && (getUnit s (nodeUnit x n.id)).failed
    (lost = true → gives (.mergePublish slot) s fun t => t.store.objects = s.store.objects
      ∧ kfind t.store.indexes slot = some { x with merge := none, mergeHold := true, regionFull := false })
    ∧ (lost = false → ∀ fresh z,
      fresh = placeNodes s x ((mergeRun x m.m).ns.filter fun n => (mergeRun x m.m).changed.contains n.id) ⟨[], []⟩ →
      z = nextIndex s slot x m.m fresh →
      if (retained s slot x).length < 4 ∧ publishFits s slot x z fresh = true then
        gives (.mergePublish slot) s fun t => t.store.objects = s.store.objects ∧ ∃ y, kfind t.store.indexes slot = some y
          ∧ y.merge = none ∧ (curVersion y).num = (curVersion x).num + 1 ∧ (curVersion y).logbase = m.m
          ∧ (curVersion y).nodes = (mergeRun x m.m).ns.map (fun n => (findNode fresh n.id).getD n)
          ∧ y.log = x.log.filter (fun r => decide (oldestBase s slot z ≤ r.pos)) ∧ y.logpos = x.logpos
      else gives (.mergePublish slot) s fun t => t.store.objects = s.store.objects
        ∧ kfind t.store.indexes slot = some { x with regionFull := true }))
  ∧ (∀ (s : State) (u : Nat), u < 8 → (getUnit s u).failed = false →
    gives (.unitfail u) s fun t => (getUnit t u).failed = true ∧ ∀ v, v ≠ u → getUnit t v = getUnit s v)

/-- R181, R306 to R308, R428 to R431: a stream stops with its STOP message and ends with its EXIT message; a peer's request is
performed in the inbound window and refused outside it; an access that a peer leaves unanswered fails; a lane's failure narrows
its port. -/
def Obligations.StreamAndPeerEvents : Prop :=
  (∀ (s : State) (n va pa : Nat), n < 32 → (getSeq s n).uncorr = some (va, pa) → (getCtx s (.seq n)).life.status = .running →
    (getCtx s (.seq n)).life.drain = .none → (getSeq s n).skip = false → (getSeq s n).pendMsg = [] → (getSeq s n).up.length < 8 →
    gives (.streamStop n) s fun t => (getCtx t (.seq n)).life.status = .stopped ∧ (getSeq t n).stopCause = 0x0E
      ∧ (getSeq t n).stopPc = curPc (getCtx s (.seq n))
      ∧ ∃ m, (getSeq t n).up = (getSeq s n).up ++ [m] ∧ wbits m 63 52 = 0x90E)
  ∧ (∀ (s : State) (n : Nat), n < 32 → (getCtx s (.seq n)).life.status = .running → (getCtx s (.seq n)).life.drain = .exit →
    quiet s (.seq n) = true → (getSeq s n).pendMsg = [] → (getSeq s n).up.length < 8 →
    gives (.streamExit n) s fun t => getCtx t (.seq n) = Ctx.reset ∧ (getSeq t n).down = []
      ∧ (getSeq t n).up = (getSeq s n).up ++ [BitVec.ofNat 64 (2 ^ 63
          + (if (getSeq s n).forced then 2 ^ 59 else wbits (getS (getCtx (performOwn s (.seq n)) (.seq n)) 10) 58 0))]
      ∧ t.mem = (performOwn s (.seq n)).mem)
  ∧ (∀ (s : State) (r : PeerReq), s.boot.ready = true → s.mem.errs = [] → memoriesCanonical s →
    gives (.labenInboundRequest r) s fun t => match inboundPart s r, r.acc with
      | none, _ => t.reply = .refused ∧ t.mem = s.mem
      | some _, .read n => t.reply = .data (mread s.mem.dram r.pa n) ∧ t.mem = s.mem
      | some _, .write d => t.reply = .data [] ∧ writtenAt s.mem.dram t.mem.dram r.pa d
      | some _, .amo op x _ => t.reply = .data (mread s.mem.dram r.pa 8) ∧ writtenAt s.mem.dram t.mem.dram r.pa
          (leList 8 (amoNew op.toNat (BitVec.ofNat 64 (leVal (mread s.mem.dram r.pa 8))) x).toNat)
      | some _, .cas e x _ => t.reply = .data (mread s.mem.dram r.pa 8)
          ∧ if leVal (mread s.mem.dram r.pa 8) = e.toNat then writtenAt s.mem.dram t.mem.dram r.pa (leList 8 x.toNat)
            else t.mem = s.mem)
  ∧ (∀ (s : State) (a : AgentId) (b : Bool), (getCtx s a).fr.stall = .laben →
    gives (.labenTimeout a b) s fun t => (getCtx t a).fr = { (getCtx s a).fr with stall := .none, abort := some b }
      ∧ (getCtx t a).arch = (getCtx s a).arch ∧ t.mem = s.mem)
  ∧ (∀ (s : State) (port lanes : Nat), port < 16 → lanes = 0 ∨ lanes = 1 ∨ lanes = 2 →
    lanes < wbits (dreg s (0x2100 + 8 * port)) 18 16 →
    gives (.laneFail port lanes) s fun t => wbits (dreg t (0x2100 + 8 * port)) 18 16 = lanes
      ∧ wbits (dreg t (0x2100 + 8 * port)) 15 0 = wbits (dreg s (0x2100 + 8 * port)) 15 0 ∧ t.mem = s.mem)

/-- R434 to R437, R441: power good starts phase 1; a phase ends in the next one or in a FAIL code; the firmware phase runs the accepted
image of the highest version; the last gives READY; a recovery image restarts bring-up at phase 3; a loss of power leaves what
flash and fuses hold. -/
def Obligations.BringUp : Prop :=
  (∀ s : State, s.boot.powered = false → gives .powerGood s fun t => t.boot.powered = true ∧ t.boot.phase = 1 ∧ t.boot.fail = 0
    ∧ t.boot.ready = false ∧ t.mem = s.mem)
  ∧ (∀ (s : State) (fail bad : BitVec 8), s.boot.powered = true → s.boot.ready = false → s.boot.fail = 0 →
    1 ≤ s.boot.phase → s.boot.phase ≤ 7 → (phaseFails s.boot.phase).contains fail.toNat = true →
    gives (.bringupPhaseComplete fail bad) s fun t =>
      if fail ≠ 0 then t.boot = { s.boot with fail := fail.toNat } ∧ t.mem = s.mem
      else if s.boot.phase = 3 then t.boot = verifyFirmware s.boot
      else if s.boot.phase = 7 then t.boot.ready = true ∧ t.boot.fail = 0
      else t.boot.phase = s.boot.phase + 1 ∧ t.boot.ready = false ∧ (s.boot.phase = 5 → t.mem.dram = []))
  ∧ (∀ (s : State) (val : Word), s.boot.fail = 2 ∨ s.boot.fail = 3 →
    let img := imageAt s (wbits val 63 12 * 2 ^ 12)
    gives (.rcvimg val 0) s fun t =>
      if imageAccepted s.boot img = true then t.boot.phase = 3 ∧ t.boot.fail = 0
        ∧ (t.boot.image0 = some img ∨ t.boot.image1 = some img) ∧ t.mem = s.mem
      else t = s)
  ∧ (∀ s : State, gives .powerLoss s fun t => t.boot.powered = false ∧ t.boot.ready = false ∧ t.ctxs = [] ∧ t.mem.dram = []
    ∧ t.mem.host = s.mem.host ∧ t.mem.peer = s.mem.peer ∧ t.boot.fusedVer = s.boot.fusedVer ∧ t.boot.burnt = s.boot.burnt
    ∧ t.boot.nextLeaf = s.boot.nextLeaf ∧ t.boot.image0 = s.boot.image0 ∧ t.boot.image1 = s.boot.image1
    ∧ t.store.objects = s.store.objects)

/-- R132, R438, R442 to R447: an attestation request runs alone and writes its report with the next leaf; TOLUS and HOLDUS are held;
an idle unit enters the state its tolerance allows and leaves it through an exit; the patrol scrub corrects a line; a word that is
no instruction raises ILLOP. -/
def Obligations.PowerAndOtherEvents : Prop :=
  (∀ (s : State) (val : Word), s.boot.ready = true →
    gives (.atcmd val) s fun t => t.mem = s.mem ∧
      if s.boot.atBuf.isSome then t.boot = s.boot ∧ wbits (dreg t 0x48) 43 40 = 1
      else if exhausted s.boot then t.boot = s.boot ∧ wbits (dreg t 0x48) 43 40 = 2
      else if 2 ^ 64 < wbits val 63 12 * 2 ^ 12 + 8192 then t.boot = s.boot ∧ wbits (dreg t 0x48) 43 40 = 3
      else t.boot.atBuf = some (wbits val 63 12 * 2 ^ 12) ∧ t.boot.atSnap = configBytes s)
  ∧ (∀ (s : State) (buf : Nat), s.boot.atBuf = some buf → memoriesCanonical s →
    gives .attestDone s fun t => t.boot.atBuf = none ∧ t.boot.nextLeaf = s.boot.nextLeaf + 1
      ∧ wbits (dreg t 0x48) 31 0 = (wbits (dreg s 0x48) 31 0 + 1) % 2 ^ 32 ∧ wbits (dreg t 0x48) 63 44 = s.boot.nextLeaf % 2 ^ 20
      ∧ writtenAt s.mem.host t.mem.host (buf + 64) (report s.boot s.boot.nextLeaf (mread s.mem.host buf 32) s.boot.atSnap))
  ∧ (∀ (s : State) (p : Nat) (val : Word), p < 8 → s.boot.ready = true →
    gives (.lattol p val) s fun t => preg t p 0x640 = BitVec.ofNat 64 (wbits val 31 0) ∧ t.mem = s.mem ∧ t.ctxs = s.ctxs)
  ∧ (∀ (s : State) (u : PowerUnit), s.boot.ready = true → s.mem.errs = [] → exiting s u = false → unitPower s u < entryTarget s u →
    gives (.powerStateEntry u) s fun t => unitPower t u = entryTarget s u ∧ t.mem = s.mem)
  ∧ (∀ (s : State) (u : PowerUnit), unitPower s u ≠ 0 → exiting s u = false → unitWanted s u = true →
    gives (.powerStateExit u) s fun t => exiting t u = true ∧ unitPower t u = unitPower s u ∧ t.mem = s.mem)
  ∧ (∀ (s : State) (u : PowerUnit) (st : Nat), s.power.exits.find? (fun e => e.1 == u) = some (u, st) →
    s.mem.errs = [] → (∀ n, u = .cluster n → (clusterPart s n).isSome = true) →
    gives (.powerExitComplete u) s fun t => unitPower t u = st ∧ exiting t u = false ∧ t.mem = s.mem)
  ∧ (∀ (s : State) (line : Nat), gives (.patrolScrub line) s fun t =>
    t.mem = { s.mem with errs := s.mem.errs.filter fun e => !(markHit .dram 0 (128 * line) 128 e && e.correctable) })
  ∧ (∀ (s : State) (w : IWord) (core : Nat) (b : Bool), s.sch.cur = .bank core b → (cx s).life.status = .running →
    (cx s).trap.smode = false → (cx s).fr.mac = none → (cx s).fr.pfx = Prefixes.reset → engOf w.toNat ≠ 7 →
    gives (.illegalWord w) s fun t => tookTrap s t (.bank core b) 1 (BitVec.ofNat 64 w.toNat))

end

/-! ### Statements in several parts -/

section

open Sys2Proof

/-- Both hold: `Claims.storeWords` (R160, R164) and `Claims.bufferedAccesses` (R317, R318, R323). -/
def Obligations.Stores : Prop := Claims.storeWords ∧ Claims.bufferedAccesses

/-- Both hold: `Claims.conditionalBranches` (R171) and `Claims.jumps` (R172). -/
def Obligations.BranchesAndJumps : Prop := Claims.conditionalBranches ∧ Claims.jumps

/-- Both hold: `Claims.counterAndReplyWords` (R175, R176, R189) and `Claims.sendEvent` (R189). -/
def Obligations.CounterReplyAndEventWords : Prop := Claims.counterAndReplyWords ∧ Claims.sendEvent

/-- Both hold: `Claims.nestDescriptor` (R177) and `Claims.controlStoreLoad` (R149, R184). -/
def Obligations.NestAndControlStoreWords : Prop := Claims.nestDescriptor ∧ Claims.controlStoreLoad

/-- Both hold: `Claims.prefetchAndFence` (R165, R170) and `Claims.retentionWords` (R128, R185). -/
def Obligations.PrefetchFenceAndRetentionWords : Prop := Claims.prefetchAndFence ∧ Claims.retentionWords

/-- Both hold: `Claims.csrReadsAsWritten` (R10, R53, R63, R107, R108, R113, R114, R127, R310, R340) and
`Claims.csrIgnoredValues` (R47, R68, R92). -/
def Obligations.CsrValues : Prop := Claims.csrReadsAsWritten ∧ Claims.csrIgnoredValues

/-- Both hold: `Claims.trapEntry` (R344, R348, R349) and `Claims.doubleTrap` (R339, R347). -/
def Obligations.TrapEntryAndDoubleTrap : Prop := Claims.trapEntry ∧ Claims.doubleTrap

/-- Both hold: `Claims.trapReturnByEret` (R339, R344, R345, R346) and `Claims.trapReturnToExit` (R345). -/
def Obligations.TrapReturns : Prop := Claims.trapReturnByEret ∧ Claims.trapReturnToExit

/-- All hold: `Claims.yield` (R74, R75, R173) and `Claims.exit` (R78, R173) and `Claims.waitForCounter` (R76, R175). -/
def Obligations.SuspensionWords : Prop := Claims.yield ∧ Claims.exit ∧ Claims.waitForCounter

/-- Both hold: `Claims.spawn` (R174) and `Claims.fork` (R180). -/
def Obligations.SpawnAndFork : Prop := Claims.spawn ∧ Claims.fork

/-- Both hold: `Claims.mailboxes` (R181, R317) and `Claims.continueStream` (R182, R309). -/
def Obligations.MailboxesAndStreams : Prop := Claims.mailboxes ∧ Claims.continueStream

/-- Both hold: `Claims.vectorWords` (R101, R105, R192 to R214, R219) and `Claims.vectorWordsComplete` (R87, R192 to R214, R219).
-/
def Obligations.VectorWordsAndTheirFormats : Prop := Claims.vectorWords ∧ Claims.vectorWordsComplete

/-- Both hold: `Claims.cacheAndZeroWords` (R122 to R125, R269, R270) and `Claims.marks` (R266, R267). -/
def Obligations.CacheZeroAndMarkWords : Prop := Claims.cacheAndZeroWords ∧ Claims.marks

/-- All hold: `Claims.forwardedCommands` (R88, R287 to R300, R303) and `Claims.queryStatusWords` (R301, R302) and
`Claims.withdrawal` (R30, R301, R370). -/
def Obligations.ForwardedQueryWords : Prop := Claims.forwardedCommands ∧ Claims.queryStatusWords ∧ Claims.withdrawal

/-- Both hold: `Claims.streamedProduct` (R227 to R229, R233 to R236) and `Claims.residentAndSparseProduct` (R227 to R229, R233
to R238). -/
def Obligations.DenseMatrixProduct : Prop := Claims.streamedProduct ∧ Claims.residentAndSparseProduct

/-- All hold: `Claims.tileWords` (R222, R235 to R241, R247 to R254) and `Claims.drainToWindow` (R241) and `Claims.tileResults`
(R240, R247 to R251). -/
def Obligations.TileAndDrainWords : Prop := Claims.tileWords ∧ Claims.drainToWindow ∧ Claims.tileResults

/-- All hold: `Claims.transferWords` (R279, R280) and `Claims.transformWords` (R279, R281 to R284) and `Claims.editWords` (R279,
R281 to R284). -/
def Obligations.TransferAndTransformWords : Prop := Claims.transferWords ∧ Claims.transformWords ∧ Claims.editWords

/-- Both hold: `Claims.wordStartAndComplete` (R87, R88, R94) and `Claims.broadcastDelivery` (R242, R243). -/
def Obligations.WordsAtEngines : Prop := Claims.wordStartAndComplete ∧ Claims.broadcastDelivery

/-- Both hold: `Claims.gatherAndScatterStart` (R271 to R274) and `Claims.gatherElements` (R112, R272 to R276). -/
def Obligations.GathersAndScatters : Prop := Claims.gatherAndScatterStart ∧ Claims.gatherElements

/-- Both hold: `Claims.faultBatchAndAnswers` (R390 to R394, R397) and `Claims.hostInvalidation` (R388). -/
def Obligations.FaultAnswers : Prop := Claims.faultBatchAndAnswers ∧ Claims.hostInvalidation

/-- Both hold: `Claims.ringControl` (R420, R422, R424) and `Claims.interruptRegisters` (R427). -/
def Obligations.RingControlAndInterrupts : Prop := Claims.ringControl ∧ Claims.interruptRegisters

/-- Both hold: `Claims.provisioningCommands` (R399, R400, R407, R409, R412 to R414) and `Claims.indexCommands` (R355, R404,
R406, R414). -/
def Obligations.ProvisioningAndIndexCommands : Prop := Claims.provisioningCommands ∧ Claims.indexCommands

/-- Both hold: `Claims.searchSteps` (R288, R289 to R294) and `Claims.fetchSteps` (R288, R296 to R298, R407, R408). -/
def Obligations.SearchAndFetchSteps : Prop := Claims.searchSteps ∧ Claims.fetchSteps

/-- Both hold: `Claims.invalidationIssued` (R387) and `Claims.invalidationDone` (R387, R388). -/
def Obligations.InvalidateTranslations : Prop := Claims.invalidationIssued ∧ Claims.invalidationDone

/-- Both hold: `Claims.logAndWalkSteps` (R299, R300, R303, R304, R403) and `Claims.storeSteps` (R404, R405, R409, R410). -/
def Obligations.LogWalkAndStoreSteps : Prop := Claims.logAndWalkSteps ∧ Claims.storeSteps

end
end

