-- ==== Sys2Proof/Laws/Maps.lean ====
section
/-! SUPPORT. What the operations on sparse maps and byte memories do: a read after a write, and the canonical form, which
every memory operation keeps. -/

namespace Sys2Proof.Machine

variable {α : Type}

@[simp] theorem kfind_nil (k : Nat) : kfind ([] : KMap α) k = none := rfl

/-- A map reads at a key what was put there. -/
@[simp] theorem kfind_kput_same (m : KMap α) (k : Nat) (x : α) : kfind (kput m k x) k = some x := by
  induction m with
  | nil => simp [kput, kfind]
  | cons e r ih =>
    obtain ⟨j, y⟩ := e
    unfold kput
    split
    · simp [kfind]
    · split
      · simp [kfind]
      · rename_i h1 h2
        simp [kfind, h1, h2, ih]

/-- A put leaves every other key alone. -/
theorem kfind_kput_other (m : KMap α) {k k' : Nat} (x : α) (h : k' ≠ k) : kfind (kput m k x) k' = kfind m k' := by
  induction m with
  | nil => simp [kput, kfind, h]
  | cons e r ih =>
    obtain ⟨j, y⟩ := e
    unfold kput
    split
    · rename_i h1
      simp only [kfind]
      split
      · have : k' < j := by omega
        simp [this]
      · simp [h]
    · split
      · rename_i h1 h2
        subst h2
        simp [kfind, h]
      · rename_i h1 h2
        simp only [kfind, ih]

/-- The second of two puts at a key stands. -/
@[simp] theorem kput_kput (m : KMap α) (k : Nat) (x y : α) : kput (kput m k x) k y = kput m k y := by
  induction m with
  | nil => simp [kput]
  | cons e r ih =>
    obtain ⟨j, z⟩ := e
    by_cases h1 : k < j
    · simp [kput, h1]
    · by_cases h2 : k = j
      · simp [kput, h2]
      · simp [kput, h1, h2, ih]

@[simp] theorem kget_kput_same (d : α) (m : KMap α) (k : Nat) (x : α) : kget d (kput m k x) k = x := by simp [kget]

theorem kget_kput_other (d : α) (m : KMap α) {k k' : Nat} (x : α) (h : k' ≠ k) : kget d (kput m k x) k' = kget d m k' := by
  simp [kget, kfind_kput_other m x h]

/-- Keys above a bound stay above it when a key above it is put. -/
theorem keysAbove_kput {m : KMap α} {n k : Nat} (x : α) (hm : keysAbove n m = true) (hk : n < k) :
    keysAbove n (kput m k x) = true := by
  cases m with
  | nil => simpa [kput, keysAbove] using hk
  | cons e r =>
    obtain ⟨j, y⟩ := e
    simp only [keysAbove, decide_eq_true_eq] at hm
    unfold kput
    split
    · simpa [keysAbove] using hk
    · split <;> simp [keysAbove, hm, hk]

/-- A put keeps the keys rising. -/
theorem ksorted_kput {m : KMap α} (k : Nat) (x : α) (h : ksorted m = true) : ksorted (kput m k x) = true := by
  induction m with
  | nil => simp [kput, ksorted, keysAbove]
  | cons e r ih =>
    obtain ⟨j, y⟩ := e
    simp only [ksorted, Bool.and_eq_true] at h
    unfold kput
    split
    · rename_i h1
      simp only [ksorted, Bool.and_eq_true]
      exact ⟨by simpa [keysAbove] using h1, h⟩
    · split
      · rename_i h1 h2
        subst h2
        simp [ksorted, h.1, h.2]
      · rename_i h1 h2
        simp only [ksorted, Bool.and_eq_true]
        exact ⟨keysAbove_kput x h.1 (by omega), ih h.2⟩

/-- Rising keys: every key of the rest is above the first. -/
theorem keysAbove_trans {m : KMap α} {n k : Nat} (hnk : n ≤ k) (h : keysAbove k m = true) : keysAbove n m = true := by
  cases m with
  | nil => rfl
  | cons e r =>
    simp only [keysAbove, decide_eq_true_eq] at *
    omega

theorem keysAbove_tail {m : KMap α} {j n : Nat} {y : α} (h : ksorted ((j, y) :: m) = true) (hn : n ≤ j) :
    keysAbove n m = true := by
  simp only [ksorted, Bool.and_eq_true] at h
  exact keysAbove_trans hn h.1

/-- A key below every key of a map is not found. -/
theorem kfind_keysAbove {m : KMap α} {n : Nat} (h : keysAbove n m = true) : kfind m n = none := by
  cases m with
  | nil => rfl
  | cons e r =>
    obtain ⟨j, y⟩ := e
    simp only [keysAbove, decide_eq_true_eq] at h
    simp [kfind, h]

theorem keysAbove_kerase {m : KMap α} {n : Nat} (k : Nat) (hs : ksorted m = true) (h : keysAbove n m = true) :
    keysAbove n (kerase m k) = true := by
  cases m with
  | nil => rfl
  | cons e r =>
    obtain ⟨j, y⟩ := e
    have hj : n < j := by simpa [keysAbove] using h
    unfold kerase
    split
    · simpa [keysAbove] using hj
    · split
      · exact keysAbove_tail hs (by omega)
      · simpa [keysAbove] using hj

/-- A removal keeps the keys rising. -/
theorem ksorted_kerase {m : KMap α} (k : Nat) (h : ksorted m = true) : ksorted (kerase m k) = true := by
  induction m with
  | nil => rfl
  | cons e r ih =>
    obtain ⟨j, y⟩ := e
    have h' := h
    simp only [ksorted, Bool.and_eq_true] at h
    unfold kerase
    split
    · exact h'
    · split
      · exact h.2
      · simp only [ksorted, Bool.and_eq_true]
        exact ⟨keysAbove_kerase k h.2 h.1, ih h.2⟩

/-- A removed key is gone. -/
theorem kfind_kerase_same {m : KMap α} (k : Nat) (h : ksorted m = true) : kfind (kerase m k) k = none := by
  induction m with
  | nil => rfl
  | cons e r ih =>
    obtain ⟨j, y⟩ := e
    have h' := h
    simp only [ksorted, Bool.and_eq_true] at h
    unfold kerase
    split
    · rename_i h1
      simp [kfind, h1]
    · split
      · rename_i h1 h2
        subst h2
        exact kfind_keysAbove h.1
      · rename_i h1 h2
        simp [kfind, h1, h2, ih h.2]

/-- A removal leaves every other key alone. -/
theorem kfind_kerase_other {m : KMap α} {k k' : Nat} (h : ksorted m = true) (hk : k' ≠ k) :
    kfind (kerase m k) k' = kfind m k' := by
  induction m with
  | nil => rfl
  | cons e r ih =>
    obtain ⟨j, y⟩ := e
    have h' := h
    simp only [ksorted, Bool.and_eq_true] at h
    unfold kerase
    split
    · rfl
    · split
      · rename_i h1 h2
        subst h2
        simp only [kfind]
        split
        · rename_i hlt
          exact kfind_keysAbove (keysAbove_trans (by omega) h.1)
        · simp [hk]
      · rename_i h1 h2
        simp only [kfind, ih h.2]

/-! ### Bytes -/

/-- Every entry of a map is one of another's, or the one put. -/
theorem all_kput {m : KMap α} {p : Nat × α → Bool} (k : Nat) (x : α) (h : m.all p = true) (hx : p (k, x) = true) :
    (kput m k x).all p = true := by
  induction m with
  | nil => simp [kput, hx]
  | cons e r ih =>
    obtain ⟨j, y⟩ := e
    simp only [List.all_cons, Bool.and_eq_true] at h
    unfold kput
    split
    · simp [hx, h.1, h.2]
    · split
      · simp [hx, h.2]
      · simp [h.1, ih h.2]

theorem all_kerase {m : KMap α} {p : Nat × α → Bool} (k : Nat) (h : m.all p = true) : (kerase m k).all p = true := by
  induction m with
  | nil => rfl
  | cons e r ih =>
    obtain ⟨j, y⟩ := e
    simp only [List.all_cons, Bool.and_eq_true] at h
    unfold kerase
    split
    · simp [h.1, h.2]
    · split
      · exact h.2
      · simp [h.1, ih h.2]

/-- The canonical form of the empty memory. -/
theorem Memory.wf_nil : Memory.wf [] = true := rfl

/-- A write of one byte keeps the canonical form. -/
theorem Memory.wf_mset {m : Mem} (a : Nat) (b : Byte) (h : Memory.wf m = true) : Memory.wf (mset m a b) = true := by
  simp only [Memory.wf, Bool.and_eq_true] at *
  unfold mset
  split
  · exact ⟨ksorted_kerase a h.1, all_kerase a h.2⟩
  · rename_i hb
    exact ⟨ksorted_kput a b h.1, all_kput a b h.2 (by simpa using hb)⟩

/-- A write of a run of bytes keeps the canonical form. -/
theorem Memory.wf_mwrite (l : List Byte) {m : Mem} (a : Nat) (h : Memory.wf m = true) :
    Memory.wf (mwrite m a l) = true := by
  induction l generalizing m a with
  | nil => exact h
  | cons b r ih => exact ih (a + 1) (Memory.wf_mset a b h)

/-- Leaving out entries keeps the canonical form. -/
theorem keysAbove_filter {m : KMap α} {n : Nat} (p : Nat × α → Bool) (hs : ksorted m = true)
    (h : keysAbove n m = true) : keysAbove n (m.filter p) = true := by
  induction m with
  | nil => rfl
  | cons e r ih =>
    obtain ⟨j, y⟩ := e
    have hj : n < j := by simpa [keysAbove] using h
    have hr := keysAbove_tail hs (Nat.le_of_lt hj)
    simp only [ksorted, Bool.and_eq_true] at hs
    rw [List.filter_cons]
    split
    · simpa [keysAbove] using hj
    · exact ih hs.2 hr

theorem ksorted_filter {m : KMap α} (p : Nat × α → Bool) (h : ksorted m = true) : ksorted (m.filter p) = true := by
  induction m with
  | nil => rfl
  | cons e r ih =>
    obtain ⟨j, y⟩ := e
    simp only [ksorted, Bool.and_eq_true] at h
    rw [List.filter_cons]
    split
    · simp only [ksorted, Bool.and_eq_true]
      exact ⟨keysAbove_filter p h.2 h.1, ih h.2⟩
    · exact ih h.2

/-- A memory with some entries left out is canonical. -/
theorem Memory.wf_filter {m : Mem} (p : Host.Cell → Bool) (h : Memory.wf m = true) : Memory.wf (m.filter p) = true := by
  simp only [Memory.wf, Bool.and_eq_true] at *
  refine ⟨ksorted_filter p h.1, ?_⟩
  rw [List.all_eq_true] at *
  intro x hx
  exact h.2 x (List.mem_filter.mp hx).1

/-- A byte reads as it was written. -/
theorem mget_mset_same {m : Mem} (a : Nat) (b : Byte) (h : Memory.wf m = true) : mget (mset m a b) a = b := by
  simp only [Memory.wf, Bool.and_eq_true] at h
  unfold mset mget kget
  split
  · rename_i hb
    simp [kfind_kerase_same a h.1, hb]
  · simp

/-- A write of a byte leaves every other byte alone. -/
theorem mget_mset_other {m : Mem} {a a' : Nat} (b : Byte) (h : Memory.wf m = true) (ha : a' ≠ a) :
    mget (mset m a b) a' = mget m a' := by
  simp only [Memory.wf, Bool.and_eq_true] at h
  unfold mset mget kget
  split
  · rw [kfind_kerase_other h.1 ha]
  · rw [kfind_kput_other m b ha]

/-- A write of a run leaves every byte outside the run alone. -/
theorem mget_mwrite_outside (l : List Byte) {m : Mem} {a a' : Nat} (h : Memory.wf m = true)
    (ha : a' < a ∨ a + l.length ≤ a') : mget (mwrite m a l) a' = mget m a' := by
  induction l generalizing m a with
  | nil => rfl
  | cons b r ih =>
    simp only [List.length_cons] at ha
    unfold mwrite
    rw [ih (Memory.wf_mset a b h) (by omega), mget_mset_other b h (by omega)]

/-- A run reads as it was written. -/
theorem mread_mwrite_same (l : List Byte) {m : Mem} (a : Nat) (h : Memory.wf m = true) :
    mread (mwrite m a l) a l.length = l := by
  induction l generalizing m a with
  | nil => rfl
  | cons b r ih =>
    simp only [List.length_cons, mwrite, mread]
    rw [mget_mwrite_outside r (Memory.wf_mset a b h) (by omega), mget_mset_same a b h, ih (a + 1) (Memory.wf_mset a b h)]

/-- A run reads as many bytes as it is asked for. -/
@[simp] theorem length_mread (m : Mem) (a n : Nat) : (mread m a n).length = n := by
  induction n generalizing a with
  | zero => rfl
  | succ n ih => simp [mread, ih]

/-- The little-endian bytes of a number are as many as asked for. -/
@[simp] theorem length_leList (n x : Nat) : (leList n x).length = n := by
  induction n generalizing x with
  | zero => rfl
  | succ n ih => simp [leList, ih]

/-- A number below 256^n comes back from its n bytes. -/
theorem leVal_leList (n x : Nat) (h : x < 256 ^ n) : leVal (leList n x) = x := by
  induction n generalizing x with
  | zero => simp_all [leList, leVal]
  | succ n ih =>
    have : x / 256 < 256 ^ n := by
      rw [Nat.div_lt_iff_lt_mul (by omega)]
      rwa [Nat.pow_succ] at h
    simp only [leList, leVal, ih _ this, BitVec.toNat_ofNat]
    omega

end Sys2Proof.Machine
end

