-- ==== Sys2Proof/Laws/State.lean ====
section
/-! SUPPORT. What an update of the state leaves: one lemma per field and update, so that no proof unfolds a record; the
contexts, cores, sequencers and partitions that an update writes and leaves alone. -/

namespace Sys2Proof.Machine

/-! ### setCtx -/

@[simp] theorem setCtx_sch (s : State) (a : AgentId) (c : Ctx) : (setCtx s a c).sch = s.sch := rfl
@[simp] theorem setCtx_now (s : State) (a : AgentId) (c : Ctx) : (setCtx s a c).now = s.now := rfl
@[simp] theorem setCtx_mem (s : State) (a : AgentId) (c : Ctx) : (setCtx s a c).mem = s.mem := rfl
@[simp] theorem setCtx_cache (s : State) (a : AgentId) (c : Ctx) : (setCtx s a c).cache = s.cache := rfl
@[simp] theorem setCtx_cores (s : State) (a : AgentId) (c : Ctx) : (setCtx s a c).cores = s.cores := rfl
@[simp] theorem setCtx_seqs (s : State) (a : AgentId) (c : Ctx) : (setCtx s a c).seqs = s.seqs := rfl
@[simp] theorem setCtx_groups (s : State) (a : AgentId) (c : Ctx) : (setCtx s a c).groups = s.groups := rfl
@[simp] theorem setCtx_parts (s : State) (a : AgentId) (c : Ctx) : (setCtx s a c).parts = s.parts := rfl
@[simp] theorem setCtx_dregs (s : State) (a : AgentId) (c : Ctx) : (setCtx s a c).dregs = s.dregs := rfl
@[simp] theorem setCtx_ops (s : State) (a : AgentId) (c : Ctx) : (setCtx s a c).ops = s.ops := rfl
@[simp] theorem setCtx_store (s : State) (a : AgentId) (c : Ctx) : (setCtx s a c).store = s.store := rfl
@[simp] theorem setCtx_boot (s : State) (a : AgentId) (c : Ctx) : (setCtx s a c).boot = s.boot := rfl
@[simp] theorem setCtx_power (s : State) (a : AgentId) (c : Ctx) : (setCtx s a c).power = s.power := rfl
@[simp] theorem setCtx_peers (s : State) (a : AgentId) (c : Ctx) : (setCtx s a c).peers = s.peers := rfl
@[simp] theorem setCtx_msix (s : State) (a : AgentId) (c : Ctx) : (setCtx s a c).msix = s.msix := rfl
@[simp] theorem setCtx_reply (s : State) (a : AgentId) (c : Ctx) : (setCtx s a c).reply = s.reply := rfl

/-! ### updCtx -/

@[simp] theorem updCtx_sch (s : State) (a : AgentId) (f : Ctx → Ctx) : (updCtx s a f).sch = s.sch := rfl
@[simp] theorem updCtx_now (s : State) (a : AgentId) (f : Ctx → Ctx) : (updCtx s a f).now = s.now := rfl
@[simp] theorem updCtx_mem (s : State) (a : AgentId) (f : Ctx → Ctx) : (updCtx s a f).mem = s.mem := rfl
@[simp] theorem updCtx_cache (s : State) (a : AgentId) (f : Ctx → Ctx) : (updCtx s a f).cache = s.cache := rfl
@[simp] theorem updCtx_cores (s : State) (a : AgentId) (f : Ctx → Ctx) : (updCtx s a f).cores = s.cores := rfl
@[simp] theorem updCtx_seqs (s : State) (a : AgentId) (f : Ctx → Ctx) : (updCtx s a f).seqs = s.seqs := rfl
@[simp] theorem updCtx_groups (s : State) (a : AgentId) (f : Ctx → Ctx) : (updCtx s a f).groups = s.groups := rfl
@[simp] theorem updCtx_parts (s : State) (a : AgentId) (f : Ctx → Ctx) : (updCtx s a f).parts = s.parts := rfl
@[simp] theorem updCtx_dregs (s : State) (a : AgentId) (f : Ctx → Ctx) : (updCtx s a f).dregs = s.dregs := rfl
@[simp] theorem updCtx_ops (s : State) (a : AgentId) (f : Ctx → Ctx) : (updCtx s a f).ops = s.ops := rfl
@[simp] theorem updCtx_store (s : State) (a : AgentId) (f : Ctx → Ctx) : (updCtx s a f).store = s.store := rfl
@[simp] theorem updCtx_boot (s : State) (a : AgentId) (f : Ctx → Ctx) : (updCtx s a f).boot = s.boot := rfl
@[simp] theorem updCtx_power (s : State) (a : AgentId) (f : Ctx → Ctx) : (updCtx s a f).power = s.power := rfl
@[simp] theorem updCtx_peers (s : State) (a : AgentId) (f : Ctx → Ctx) : (updCtx s a f).peers = s.peers := rfl
@[simp] theorem updCtx_msix (s : State) (a : AgentId) (f : Ctx → Ctx) : (updCtx s a f).msix = s.msix := rfl
@[simp] theorem updCtx_reply (s : State) (a : AgentId) (f : Ctx → Ctx) : (updCtx s a f).reply = s.reply := rfl

/-! ### updFr -/

@[simp] theorem updFr_sch (s : State) (a : AgentId) (f : Front → Front) : (updFr s a f).sch = s.sch := rfl
@[simp] theorem updFr_now (s : State) (a : AgentId) (f : Front → Front) : (updFr s a f).now = s.now := rfl
@[simp] theorem updFr_mem (s : State) (a : AgentId) (f : Front → Front) : (updFr s a f).mem = s.mem := rfl
@[simp] theorem updFr_cache (s : State) (a : AgentId) (f : Front → Front) : (updFr s a f).cache = s.cache := rfl
@[simp] theorem updFr_cores (s : State) (a : AgentId) (f : Front → Front) : (updFr s a f).cores = s.cores := rfl
@[simp] theorem updFr_seqs (s : State) (a : AgentId) (f : Front → Front) : (updFr s a f).seqs = s.seqs := rfl
@[simp] theorem updFr_groups (s : State) (a : AgentId) (f : Front → Front) : (updFr s a f).groups = s.groups := rfl
@[simp] theorem updFr_parts (s : State) (a : AgentId) (f : Front → Front) : (updFr s a f).parts = s.parts := rfl
@[simp] theorem updFr_dregs (s : State) (a : AgentId) (f : Front → Front) : (updFr s a f).dregs = s.dregs := rfl
@[simp] theorem updFr_ops (s : State) (a : AgentId) (f : Front → Front) : (updFr s a f).ops = s.ops := rfl
@[simp] theorem updFr_store (s : State) (a : AgentId) (f : Front → Front) : (updFr s a f).store = s.store := rfl
@[simp] theorem updFr_boot (s : State) (a : AgentId) (f : Front → Front) : (updFr s a f).boot = s.boot := rfl
@[simp] theorem updFr_power (s : State) (a : AgentId) (f : Front → Front) : (updFr s a f).power = s.power := rfl
@[simp] theorem updFr_peers (s : State) (a : AgentId) (f : Front → Front) : (updFr s a f).peers = s.peers := rfl
@[simp] theorem updFr_msix (s : State) (a : AgentId) (f : Front → Front) : (updFr s a f).msix = s.msix := rfl
@[simp] theorem updFr_reply (s : State) (a : AgentId) (f : Front → Front) : (updFr s a f).reply = s.reply := rfl

/-! ### updLife -/

@[simp] theorem updLife_sch (s : State) (a : AgentId) (f : Life → Life) : (updLife s a f).sch = s.sch := rfl
@[simp] theorem updLife_now (s : State) (a : AgentId) (f : Life → Life) : (updLife s a f).now = s.now := rfl
@[simp] theorem updLife_mem (s : State) (a : AgentId) (f : Life → Life) : (updLife s a f).mem = s.mem := rfl
@[simp] theorem updLife_cache (s : State) (a : AgentId) (f : Life → Life) : (updLife s a f).cache = s.cache := rfl
@[simp] theorem updLife_cores (s : State) (a : AgentId) (f : Life → Life) : (updLife s a f).cores = s.cores := rfl
@[simp] theorem updLife_seqs (s : State) (a : AgentId) (f : Life → Life) : (updLife s a f).seqs = s.seqs := rfl
@[simp] theorem updLife_groups (s : State) (a : AgentId) (f : Life → Life) : (updLife s a f).groups = s.groups := rfl
@[simp] theorem updLife_parts (s : State) (a : AgentId) (f : Life → Life) : (updLife s a f).parts = s.parts := rfl
@[simp] theorem updLife_dregs (s : State) (a : AgentId) (f : Life → Life) : (updLife s a f).dregs = s.dregs := rfl
@[simp] theorem updLife_ops (s : State) (a : AgentId) (f : Life → Life) : (updLife s a f).ops = s.ops := rfl
@[simp] theorem updLife_store (s : State) (a : AgentId) (f : Life → Life) : (updLife s a f).store = s.store := rfl
@[simp] theorem updLife_boot (s : State) (a : AgentId) (f : Life → Life) : (updLife s a f).boot = s.boot := rfl
@[simp] theorem updLife_power (s : State) (a : AgentId) (f : Life → Life) : (updLife s a f).power = s.power := rfl
@[simp] theorem updLife_peers (s : State) (a : AgentId) (f : Life → Life) : (updLife s a f).peers = s.peers := rfl
@[simp] theorem updLife_msix (s : State) (a : AgentId) (f : Life → Life) : (updLife s a f).msix = s.msix := rfl
@[simp] theorem updLife_reply (s : State) (a : AgentId) (f : Life → Life) : (updLife s a f).reply = s.reply := rfl

/-! ### stallAt -/

@[simp] theorem stallAt_sch (s : State) (a : AgentId) (w : Stall) : (stallAt s a w).sch = s.sch := rfl
@[simp] theorem stallAt_now (s : State) (a : AgentId) (w : Stall) : (stallAt s a w).now = s.now := rfl
@[simp] theorem stallAt_mem (s : State) (a : AgentId) (w : Stall) : (stallAt s a w).mem = s.mem := rfl
@[simp] theorem stallAt_cache (s : State) (a : AgentId) (w : Stall) : (stallAt s a w).cache = s.cache := rfl
@[simp] theorem stallAt_cores (s : State) (a : AgentId) (w : Stall) : (stallAt s a w).cores = s.cores := rfl
@[simp] theorem stallAt_seqs (s : State) (a : AgentId) (w : Stall) : (stallAt s a w).seqs = s.seqs := rfl
@[simp] theorem stallAt_groups (s : State) (a : AgentId) (w : Stall) : (stallAt s a w).groups = s.groups := rfl
@[simp] theorem stallAt_parts (s : State) (a : AgentId) (w : Stall) : (stallAt s a w).parts = s.parts := rfl
@[simp] theorem stallAt_dregs (s : State) (a : AgentId) (w : Stall) : (stallAt s a w).dregs = s.dregs := rfl
@[simp] theorem stallAt_ops (s : State) (a : AgentId) (w : Stall) : (stallAt s a w).ops = s.ops := rfl
@[simp] theorem stallAt_store (s : State) (a : AgentId) (w : Stall) : (stallAt s a w).store = s.store := rfl
@[simp] theorem stallAt_boot (s : State) (a : AgentId) (w : Stall) : (stallAt s a w).boot = s.boot := rfl
@[simp] theorem stallAt_power (s : State) (a : AgentId) (w : Stall) : (stallAt s a w).power = s.power := rfl
@[simp] theorem stallAt_peers (s : State) (a : AgentId) (w : Stall) : (stallAt s a w).peers = s.peers := rfl
@[simp] theorem stallAt_msix (s : State) (a : AgentId) (w : Stall) : (stallAt s a w).msix = s.msix := rfl
@[simp] theorem stallAt_reply (s : State) (a : AgentId) (w : Stall) : (stallAt s a w).reply = s.reply := rfl

/-! ### stallAcc -/

@[simp] theorem stallAcc_sch (s : State) (a : AgentId) (w : Stall) (f : Bool) : (stallAcc s a w f).sch = s.sch := rfl
@[simp] theorem stallAcc_now (s : State) (a : AgentId) (w : Stall) (f : Bool) : (stallAcc s a w f).now = s.now := rfl
@[simp] theorem stallAcc_mem (s : State) (a : AgentId) (w : Stall) (f : Bool) : (stallAcc s a w f).mem = s.mem := rfl
@[simp] theorem stallAcc_cache (s : State) (a : AgentId) (w : Stall) (f : Bool) : (stallAcc s a w f).cache = s.cache := rfl
@[simp] theorem stallAcc_cores (s : State) (a : AgentId) (w : Stall) (f : Bool) : (stallAcc s a w f).cores = s.cores := rfl
@[simp] theorem stallAcc_seqs (s : State) (a : AgentId) (w : Stall) (f : Bool) : (stallAcc s a w f).seqs = s.seqs := rfl
@[simp] theorem stallAcc_groups (s : State) (a : AgentId) (w : Stall) (f : Bool) : (stallAcc s a w f).groups = s.groups := rfl
@[simp] theorem stallAcc_parts (s : State) (a : AgentId) (w : Stall) (f : Bool) : (stallAcc s a w f).parts = s.parts := rfl
@[simp] theorem stallAcc_dregs (s : State) (a : AgentId) (w : Stall) (f : Bool) : (stallAcc s a w f).dregs = s.dregs := rfl
@[simp] theorem stallAcc_ops (s : State) (a : AgentId) (w : Stall) (f : Bool) : (stallAcc s a w f).ops = s.ops := rfl
@[simp] theorem stallAcc_store (s : State) (a : AgentId) (w : Stall) (f : Bool) : (stallAcc s a w f).store = s.store := rfl
@[simp] theorem stallAcc_boot (s : State) (a : AgentId) (w : Stall) (f : Bool) : (stallAcc s a w f).boot = s.boot := rfl
@[simp] theorem stallAcc_power (s : State) (a : AgentId) (w : Stall) (f : Bool) : (stallAcc s a w f).power = s.power := rfl
@[simp] theorem stallAcc_peers (s : State) (a : AgentId) (w : Stall) (f : Bool) : (stallAcc s a w f).peers = s.peers := rfl
@[simp] theorem stallAcc_msix (s : State) (a : AgentId) (w : Stall) (f : Bool) : (stallAcc s a w f).msix = s.msix := rfl
@[simp] theorem stallAcc_reply (s : State) (a : AgentId) (w : Stall) (f : Bool) : (stallAcc s a w f).reply = s.reply := rfl

/-! ### writeS -/

@[simp] theorem writeS_sch (s : State) (a : AgentId) (r : Nat) (x : Word) : (writeS s a r x).sch = s.sch := rfl
@[simp] theorem writeS_now (s : State) (a : AgentId) (r : Nat) (x : Word) : (writeS s a r x).now = s.now := rfl
@[simp] theorem writeS_mem (s : State) (a : AgentId) (r : Nat) (x : Word) : (writeS s a r x).mem = s.mem := rfl
@[simp] theorem writeS_cache (s : State) (a : AgentId) (r : Nat) (x : Word) : (writeS s a r x).cache = s.cache := rfl
@[simp] theorem writeS_cores (s : State) (a : AgentId) (r : Nat) (x : Word) : (writeS s a r x).cores = s.cores := rfl
@[simp] theorem writeS_seqs (s : State) (a : AgentId) (r : Nat) (x : Word) : (writeS s a r x).seqs = s.seqs := rfl
@[simp] theorem writeS_groups (s : State) (a : AgentId) (r : Nat) (x : Word) : (writeS s a r x).groups = s.groups := rfl
@[simp] theorem writeS_parts (s : State) (a : AgentId) (r : Nat) (x : Word) : (writeS s a r x).parts = s.parts := rfl
@[simp] theorem writeS_dregs (s : State) (a : AgentId) (r : Nat) (x : Word) : (writeS s a r x).dregs = s.dregs := rfl
@[simp] theorem writeS_ops (s : State) (a : AgentId) (r : Nat) (x : Word) : (writeS s a r x).ops = s.ops := rfl
@[simp] theorem writeS_store (s : State) (a : AgentId) (r : Nat) (x : Word) : (writeS s a r x).store = s.store := rfl
@[simp] theorem writeS_boot (s : State) (a : AgentId) (r : Nat) (x : Word) : (writeS s a r x).boot = s.boot := rfl
@[simp] theorem writeS_power (s : State) (a : AgentId) (r : Nat) (x : Word) : (writeS s a r x).power = s.power := rfl
@[simp] theorem writeS_peers (s : State) (a : AgentId) (r : Nat) (x : Word) : (writeS s a r x).peers = s.peers := rfl
@[simp] theorem writeS_msix (s : State) (a : AgentId) (r : Nat) (x : Word) : (writeS s a r x).msix = s.msix := rfl
@[simp] theorem writeS_reply (s : State) (a : AgentId) (r : Nat) (x : Word) : (writeS s a r x).reply = s.reply := rfl

/-! ### jumpTo -/

@[simp] theorem jumpTo_sch (s : State) (a : AgentId) (x : Word) : (jumpTo s a x).sch = s.sch := rfl
@[simp] theorem jumpTo_now (s : State) (a : AgentId) (x : Word) : (jumpTo s a x).now = s.now := rfl
@[simp] theorem jumpTo_mem (s : State) (a : AgentId) (x : Word) : (jumpTo s a x).mem = s.mem := rfl
@[simp] theorem jumpTo_cache (s : State) (a : AgentId) (x : Word) : (jumpTo s a x).cache = s.cache := rfl
@[simp] theorem jumpTo_cores (s : State) (a : AgentId) (x : Word) : (jumpTo s a x).cores = s.cores := rfl
@[simp] theorem jumpTo_seqs (s : State) (a : AgentId) (x : Word) : (jumpTo s a x).seqs = s.seqs := rfl
@[simp] theorem jumpTo_groups (s : State) (a : AgentId) (x : Word) : (jumpTo s a x).groups = s.groups := rfl
@[simp] theorem jumpTo_parts (s : State) (a : AgentId) (x : Word) : (jumpTo s a x).parts = s.parts := rfl
@[simp] theorem jumpTo_dregs (s : State) (a : AgentId) (x : Word) : (jumpTo s a x).dregs = s.dregs := rfl
@[simp] theorem jumpTo_ops (s : State) (a : AgentId) (x : Word) : (jumpTo s a x).ops = s.ops := rfl
@[simp] theorem jumpTo_store (s : State) (a : AgentId) (x : Word) : (jumpTo s a x).store = s.store := rfl
@[simp] theorem jumpTo_boot (s : State) (a : AgentId) (x : Word) : (jumpTo s a x).boot = s.boot := rfl
@[simp] theorem jumpTo_power (s : State) (a : AgentId) (x : Word) : (jumpTo s a x).power = s.power := rfl
@[simp] theorem jumpTo_peers (s : State) (a : AgentId) (x : Word) : (jumpTo s a x).peers = s.peers := rfl
@[simp] theorem jumpTo_msix (s : State) (a : AgentId) (x : Word) : (jumpTo s a x).msix = s.msix := rfl
@[simp] theorem jumpTo_reply (s : State) (a : AgentId) (x : Word) : (jumpTo s a x).reply = s.reply := rfl

/-! ### retire -/

@[simp] theorem retire_sch (s : State) (a : AgentId) (i : Instr) : (retire s a i).sch = s.sch := rfl
@[simp] theorem retire_now (s : State) (a : AgentId) (i : Instr) : (retire s a i).now = s.now := rfl
@[simp] theorem retire_mem (s : State) (a : AgentId) (i : Instr) : (retire s a i).mem = s.mem := rfl
@[simp] theorem retire_cache (s : State) (a : AgentId) (i : Instr) : (retire s a i).cache = s.cache := rfl
@[simp] theorem retire_cores (s : State) (a : AgentId) (i : Instr) : (retire s a i).cores = s.cores := rfl
@[simp] theorem retire_seqs (s : State) (a : AgentId) (i : Instr) : (retire s a i).seqs = s.seqs := rfl
@[simp] theorem retire_groups (s : State) (a : AgentId) (i : Instr) : (retire s a i).groups = s.groups := rfl
@[simp] theorem retire_parts (s : State) (a : AgentId) (i : Instr) : (retire s a i).parts = s.parts := rfl
@[simp] theorem retire_dregs (s : State) (a : AgentId) (i : Instr) : (retire s a i).dregs = s.dregs := rfl
@[simp] theorem retire_ops (s : State) (a : AgentId) (i : Instr) : (retire s a i).ops = s.ops := rfl
@[simp] theorem retire_store (s : State) (a : AgentId) (i : Instr) : (retire s a i).store = s.store := rfl
@[simp] theorem retire_boot (s : State) (a : AgentId) (i : Instr) : (retire s a i).boot = s.boot := rfl
@[simp] theorem retire_power (s : State) (a : AgentId) (i : Instr) : (retire s a i).power = s.power := rfl
@[simp] theorem retire_peers (s : State) (a : AgentId) (i : Instr) : (retire s a i).peers = s.peers := rfl
@[simp] theorem retire_msix (s : State) (a : AgentId) (i : Instr) : (retire s a i).msix = s.msix := rfl
@[simp] theorem retire_reply (s : State) (a : AgentId) (i : Instr) : (retire s a i).reply = s.reply := rfl

/-! ### setCore -/

@[simp] theorem setCore_sch (s : State) (n : Nat) (k : Core) : (setCore s n k).sch = s.sch := rfl
@[simp] theorem setCore_now (s : State) (n : Nat) (k : Core) : (setCore s n k).now = s.now := rfl
@[simp] theorem setCore_mem (s : State) (n : Nat) (k : Core) : (setCore s n k).mem = s.mem := rfl
@[simp] theorem setCore_cache (s : State) (n : Nat) (k : Core) : (setCore s n k).cache = s.cache := rfl
@[simp] theorem setCore_ctxs (s : State) (n : Nat) (k : Core) : (setCore s n k).ctxs = s.ctxs := rfl
@[simp] theorem setCore_seqs (s : State) (n : Nat) (k : Core) : (setCore s n k).seqs = s.seqs := rfl
@[simp] theorem setCore_groups (s : State) (n : Nat) (k : Core) : (setCore s n k).groups = s.groups := rfl
@[simp] theorem setCore_parts (s : State) (n : Nat) (k : Core) : (setCore s n k).parts = s.parts := rfl
@[simp] theorem setCore_dregs (s : State) (n : Nat) (k : Core) : (setCore s n k).dregs = s.dregs := rfl
@[simp] theorem setCore_ops (s : State) (n : Nat) (k : Core) : (setCore s n k).ops = s.ops := rfl
@[simp] theorem setCore_store (s : State) (n : Nat) (k : Core) : (setCore s n k).store = s.store := rfl
@[simp] theorem setCore_boot (s : State) (n : Nat) (k : Core) : (setCore s n k).boot = s.boot := rfl
@[simp] theorem setCore_power (s : State) (n : Nat) (k : Core) : (setCore s n k).power = s.power := rfl
@[simp] theorem setCore_peers (s : State) (n : Nat) (k : Core) : (setCore s n k).peers = s.peers := rfl
@[simp] theorem setCore_msix (s : State) (n : Nat) (k : Core) : (setCore s n k).msix = s.msix := rfl
@[simp] theorem setCore_reply (s : State) (n : Nat) (k : Core) : (setCore s n k).reply = s.reply := rfl

/-! ### setSeq -/

@[simp] theorem setSeq_sch (s : State) (n : Nat) (q : SeqSt) : (setSeq s n q).sch = s.sch := rfl
@[simp] theorem setSeq_now (s : State) (n : Nat) (q : SeqSt) : (setSeq s n q).now = s.now := rfl
@[simp] theorem setSeq_mem (s : State) (n : Nat) (q : SeqSt) : (setSeq s n q).mem = s.mem := rfl
@[simp] theorem setSeq_cache (s : State) (n : Nat) (q : SeqSt) : (setSeq s n q).cache = s.cache := rfl
@[simp] theorem setSeq_ctxs (s : State) (n : Nat) (q : SeqSt) : (setSeq s n q).ctxs = s.ctxs := rfl
@[simp] theorem setSeq_cores (s : State) (n : Nat) (q : SeqSt) : (setSeq s n q).cores = s.cores := rfl
@[simp] theorem setSeq_groups (s : State) (n : Nat) (q : SeqSt) : (setSeq s n q).groups = s.groups := rfl
@[simp] theorem setSeq_parts (s : State) (n : Nat) (q : SeqSt) : (setSeq s n q).parts = s.parts := rfl
@[simp] theorem setSeq_dregs (s : State) (n : Nat) (q : SeqSt) : (setSeq s n q).dregs = s.dregs := rfl
@[simp] theorem setSeq_ops (s : State) (n : Nat) (q : SeqSt) : (setSeq s n q).ops = s.ops := rfl
@[simp] theorem setSeq_store (s : State) (n : Nat) (q : SeqSt) : (setSeq s n q).store = s.store := rfl
@[simp] theorem setSeq_boot (s : State) (n : Nat) (q : SeqSt) : (setSeq s n q).boot = s.boot := rfl
@[simp] theorem setSeq_power (s : State) (n : Nat) (q : SeqSt) : (setSeq s n q).power = s.power := rfl
@[simp] theorem setSeq_peers (s : State) (n : Nat) (q : SeqSt) : (setSeq s n q).peers = s.peers := rfl
@[simp] theorem setSeq_msix (s : State) (n : Nat) (q : SeqSt) : (setSeq s n q).msix = s.msix := rfl
@[simp] theorem setSeq_reply (s : State) (n : Nat) (q : SeqSt) : (setSeq s n q).reply = s.reply := rfl

/-! ### setDreg -/

@[simp] theorem setDreg_sch (s : State) (o : Nat) (x : Word) : (setDreg s o x).sch = s.sch := rfl
@[simp] theorem setDreg_now (s : State) (o : Nat) (x : Word) : (setDreg s o x).now = s.now := rfl
@[simp] theorem setDreg_mem (s : State) (o : Nat) (x : Word) : (setDreg s o x).mem = s.mem := rfl
@[simp] theorem setDreg_cache (s : State) (o : Nat) (x : Word) : (setDreg s o x).cache = s.cache := rfl
@[simp] theorem setDreg_ctxs (s : State) (o : Nat) (x : Word) : (setDreg s o x).ctxs = s.ctxs := rfl
@[simp] theorem setDreg_cores (s : State) (o : Nat) (x : Word) : (setDreg s o x).cores = s.cores := rfl
@[simp] theorem setDreg_seqs (s : State) (o : Nat) (x : Word) : (setDreg s o x).seqs = s.seqs := rfl
@[simp] theorem setDreg_groups (s : State) (o : Nat) (x : Word) : (setDreg s o x).groups = s.groups := rfl
@[simp] theorem setDreg_parts (s : State) (o : Nat) (x : Word) : (setDreg s o x).parts = s.parts := rfl
@[simp] theorem setDreg_ops (s : State) (o : Nat) (x : Word) : (setDreg s o x).ops = s.ops := rfl
@[simp] theorem setDreg_store (s : State) (o : Nat) (x : Word) : (setDreg s o x).store = s.store := rfl
@[simp] theorem setDreg_boot (s : State) (o : Nat) (x : Word) : (setDreg s o x).boot = s.boot := rfl
@[simp] theorem setDreg_power (s : State) (o : Nat) (x : Word) : (setDreg s o x).power = s.power := rfl
@[simp] theorem setDreg_peers (s : State) (o : Nat) (x : Word) : (setDreg s o x).peers = s.peers := rfl
@[simp] theorem setDreg_msix (s : State) (o : Nat) (x : Word) : (setDreg s o x).msix = s.msix := rfl
@[simp] theorem setDreg_reply (s : State) (o : Nat) (x : Word) : (setDreg s o x).reply = s.reply := rfl

/-! ### setPart -/

@[simp] theorem setPart_sch (s : State) (p : Nat) (x : Part) : (setPart s p x).sch = s.sch := by unfold setPart; split <;> rfl
@[simp] theorem setPart_now (s : State) (p : Nat) (x : Part) : (setPart s p x).now = s.now := by unfold setPart; split <;> rfl
@[simp] theorem setPart_mem (s : State) (p : Nat) (x : Part) : (setPart s p x).mem = s.mem := by unfold setPart; split <;> rfl
@[simp] theorem setPart_cache (s : State) (p : Nat) (x : Part) : (setPart s p x).cache = s.cache := by unfold setPart; split <;> rfl
@[simp] theorem setPart_ctxs (s : State) (p : Nat) (x : Part) : (setPart s p x).ctxs = s.ctxs := by unfold setPart; split <;> rfl
@[simp] theorem setPart_cores (s : State) (p : Nat) (x : Part) : (setPart s p x).cores = s.cores := by unfold setPart; split <;> rfl
@[simp] theorem setPart_seqs (s : State) (p : Nat) (x : Part) : (setPart s p x).seqs = s.seqs := by unfold setPart; split <;> rfl
@[simp] theorem setPart_groups (s : State) (p : Nat) (x : Part) : (setPart s p x).groups = s.groups := by unfold setPart; split <;> rfl
@[simp] theorem setPart_dregs (s : State) (p : Nat) (x : Part) : (setPart s p x).dregs = s.dregs := by unfold setPart; split <;> rfl
@[simp] theorem setPart_ops (s : State) (p : Nat) (x : Part) : (setPart s p x).ops = s.ops := by unfold setPart; split <;> rfl
@[simp] theorem setPart_store (s : State) (p : Nat) (x : Part) : (setPart s p x).store = s.store := by unfold setPart; split <;> rfl
@[simp] theorem setPart_boot (s : State) (p : Nat) (x : Part) : (setPart s p x).boot = s.boot := by unfold setPart; split <;> rfl
@[simp] theorem setPart_power (s : State) (p : Nat) (x : Part) : (setPart s p x).power = s.power := by unfold setPart; split <;> rfl
@[simp] theorem setPart_peers (s : State) (p : Nat) (x : Part) : (setPart s p x).peers = s.peers := by unfold setPart; split <;> rfl
@[simp] theorem setPart_msix (s : State) (p : Nat) (x : Part) : (setPart s p x).msix = s.msix := by unfold setPart; split <;> rfl
@[simp] theorem setPart_reply (s : State) (p : Nat) (x : Part) : (setPart s p x).reply = s.reply := by unfold setPart; split <;> rfl

/-! ### updPart -/

@[simp] theorem updPart_sch (s : State) (p : Nat) (f : Part → Part) : (updPart s p f).sch = s.sch := setPart_sch s p _
@[simp] theorem updPart_now (s : State) (p : Nat) (f : Part → Part) : (updPart s p f).now = s.now := setPart_now s p _
@[simp] theorem updPart_mem (s : State) (p : Nat) (f : Part → Part) : (updPart s p f).mem = s.mem := setPart_mem s p _
@[simp] theorem updPart_cache (s : State) (p : Nat) (f : Part → Part) : (updPart s p f).cache = s.cache := setPart_cache s p _
@[simp] theorem updPart_ctxs (s : State) (p : Nat) (f : Part → Part) : (updPart s p f).ctxs = s.ctxs := setPart_ctxs s p _
@[simp] theorem updPart_cores (s : State) (p : Nat) (f : Part → Part) : (updPart s p f).cores = s.cores := setPart_cores s p _
@[simp] theorem updPart_seqs (s : State) (p : Nat) (f : Part → Part) : (updPart s p f).seqs = s.seqs := setPart_seqs s p _
@[simp] theorem updPart_groups (s : State) (p : Nat) (f : Part → Part) : (updPart s p f).groups = s.groups := setPart_groups s p _
@[simp] theorem updPart_dregs (s : State) (p : Nat) (f : Part → Part) : (updPart s p f).dregs = s.dregs := setPart_dregs s p _
@[simp] theorem updPart_ops (s : State) (p : Nat) (f : Part → Part) : (updPart s p f).ops = s.ops := setPart_ops s p _
@[simp] theorem updPart_store (s : State) (p : Nat) (f : Part → Part) : (updPart s p f).store = s.store := setPart_store s p _
@[simp] theorem updPart_boot (s : State) (p : Nat) (f : Part → Part) : (updPart s p f).boot = s.boot := setPart_boot s p _
@[simp] theorem updPart_power (s : State) (p : Nat) (f : Part → Part) : (updPart s p f).power = s.power := setPart_power s p _
@[simp] theorem updPart_peers (s : State) (p : Nat) (f : Part → Part) : (updPart s p f).peers = s.peers := setPart_peers s p _
@[simp] theorem updPart_msix (s : State) (p : Nat) (f : Part → Part) : (updPart s p f).msix = s.msix := setPart_msix s p _
@[simp] theorem updPart_reply (s : State) (p : Nat) (f : Part → Part) : (updPart s p f).reply = s.reply := setPart_reply s p _

/-! ### setPreg -/

@[simp] theorem setPreg_sch (s : State) (p o : Nat) (x : Word) : (setPreg s p o x).sch = s.sch := setPart_sch s p _
@[simp] theorem setPreg_now (s : State) (p o : Nat) (x : Word) : (setPreg s p o x).now = s.now := setPart_now s p _
@[simp] theorem setPreg_mem (s : State) (p o : Nat) (x : Word) : (setPreg s p o x).mem = s.mem := setPart_mem s p _
@[simp] theorem setPreg_cache (s : State) (p o : Nat) (x : Word) : (setPreg s p o x).cache = s.cache := setPart_cache s p _
@[simp] theorem setPreg_ctxs (s : State) (p o : Nat) (x : Word) : (setPreg s p o x).ctxs = s.ctxs := setPart_ctxs s p _
@[simp] theorem setPreg_cores (s : State) (p o : Nat) (x : Word) : (setPreg s p o x).cores = s.cores := setPart_cores s p _
@[simp] theorem setPreg_seqs (s : State) (p o : Nat) (x : Word) : (setPreg s p o x).seqs = s.seqs := setPart_seqs s p _
@[simp] theorem setPreg_groups (s : State) (p o : Nat) (x : Word) : (setPreg s p o x).groups = s.groups := setPart_groups s p _
@[simp] theorem setPreg_dregs (s : State) (p o : Nat) (x : Word) : (setPreg s p o x).dregs = s.dregs := setPart_dregs s p _
@[simp] theorem setPreg_ops (s : State) (p o : Nat) (x : Word) : (setPreg s p o x).ops = s.ops := setPart_ops s p _
@[simp] theorem setPreg_store (s : State) (p o : Nat) (x : Word) : (setPreg s p o x).store = s.store := setPart_store s p _
@[simp] theorem setPreg_boot (s : State) (p o : Nat) (x : Word) : (setPreg s p o x).boot = s.boot := setPart_boot s p _
@[simp] theorem setPreg_power (s : State) (p o : Nat) (x : Word) : (setPreg s p o x).power = s.power := setPart_power s p _
@[simp] theorem setPreg_peers (s : State) (p o : Nat) (x : Word) : (setPreg s p o x).peers = s.peers := setPart_peers s p _
@[simp] theorem setPreg_msix (s : State) (p o : Nat) (x : Word) : (setPreg s p o x).msix = s.msix := setPart_msix s p _
@[simp] theorem setPreg_reply (s : State) (p o : Nat) (x : Word) : (setPreg s p o x).reply = s.reply := setPart_reply s p _

/-! ### Contexts, cores, sequencers -/

@[simp] theorem getCtx_setCtx (s : State) (a : AgentId) (c : Ctx) : getCtx (setCtx s a c) a = c := by
  simp [getCtx, setCtx]

theorem getCtx_setCtx_other (s : State) {a b : AgentId} (c : Ctx) (h : ctxKey b ≠ ctxKey a) :
    getCtx (setCtx s a c) b = getCtx s b := by
  simp [getCtx, setCtx, kget_kput_other _ _ _ h]

@[simp] theorem setCtx_setCtx (s : State) (a : AgentId) (c d : Ctx) : setCtx (setCtx s a c) a d = setCtx s a d := by
  simp [setCtx]

@[simp] theorem getCtx_updCtx (s : State) (a : AgentId) (f : Ctx → Ctx) : getCtx (updCtx s a f) a = f (getCtx s a) := by
  simp [updCtx]

theorem getCtx_updCtx_other (s : State) {a b : AgentId} (f : Ctx → Ctx) (h : ctxKey b ≠ ctxKey a) :
    getCtx (updCtx s a f) b = getCtx s b := by simp [updCtx, getCtx_setCtx_other s _ h]

/-- Two changes of one context are one. -/
@[simp] theorem updCtx_updCtx (s : State) (a : AgentId) (f g : Ctx → Ctx) :
    updCtx (updCtx s a f) a g = updCtx s a fun c => g (f c) := by simp [updCtx]

@[simp] theorem updCtx_setCtx (s : State) (a : AgentId) (c : Ctx) (f : Ctx → Ctx) :
    updCtx (setCtx s a c) a f = setCtx s a (f c) := by simp [updCtx]

@[simp] theorem getCore_setCore (s : State) (n : Nat) (k : Core) : getCore (setCore s n k) n = k := by
  simp [getCore, setCore]

theorem getCore_setCore_other (s : State) {n m : Nat} (k : Core) (h : m ≠ n) : getCore (setCore s n k) m = getCore s m := by
  simp [getCore, setCore, kget_kput_other _ _ _ h]

@[simp] theorem getSeq_setSeq (s : State) (n : Nat) (q : SeqSt) : getSeq (setSeq s n q) n = q := by
  simp [getSeq, setSeq]

theorem getSeq_setSeq_other (s : State) {n m : Nat} (q : SeqSt) (h : m ≠ n) : getSeq (setSeq s n q) m = getSeq s m := by
  simp [getSeq, setSeq, kget_kput_other _ _ _ h]

@[simp] theorem getCtx_setCore (s : State) (n : Nat) (k : Core) (a : AgentId) : getCtx (setCore s n k) a = getCtx s a := rfl
@[simp] theorem getCtx_setSeq (s : State) (n : Nat) (q : SeqSt) (a : AgentId) : getCtx (setSeq s n q) a = getCtx s a := rfl
@[simp] theorem getCtx_setDreg (s : State) (o : Nat) (x : Word) (a : AgentId) : getCtx (setDreg s o x) a = getCtx s a := rfl
@[simp] theorem getCore_setCtx (s : State) (a : AgentId) (c : Ctx) (n : Nat) : getCore (setCtx s a c) n = getCore s n := rfl
@[simp] theorem getSeq_setCtx (s : State) (a : AgentId) (c : Ctx) (n : Nat) : getSeq (setCtx s a c) n = getSeq s n := rfl
@[simp] theorem getPart_setCtx (s : State) (a : AgentId) (c : Ctx) (p : Nat) : getPart (setCtx s a c) p = getPart s p := rfl
@[simp] theorem getPart_setCore (s : State) (n : Nat) (k : Core) (p : Nat) : getPart (setCore s n k) p = getPart s p := rfl
@[simp] theorem preg_setCtx (s : State) (a : AgentId) (c : Ctx) (p o : Nat) : preg (setCtx s a c) p o = preg s p o := rfl
@[simp] theorem getSeq_setCore (s : State) (n m : Nat) (k : Core) : getSeq (setCore s n k) m = getSeq s m := rfl

@[simp] theorem getPart_setPart (s : State) (p : Nat) (x : Part) (h : p < 8) : getPart (setPart s p x) p = x := by
  simp [getPart, setPart, h]

theorem getPart_setPart_other (s : State) {p q : Nat} (x : Part) (h : q ≠ p) : getPart (setPart s p x) q = getPart s q := by
  unfold getPart setPart
  split
  · split
    · rename_i h1 h2
      simp [Vector.getElem_set, Ne.symm h]
    · rfl
  · rfl

@[simp] theorem getPart_updPart (s : State) (p : Nat) (f : Part → Part) (h : p < 8) :
    getPart (updPart s p f) p = f (getPart s p) := by simp [updPart, h]

/-- A register of a partition block reads as it was written. -/
@[simp] theorem preg_setPreg (s : State) (p o : Nat) (x : Word) (h : p < 8) : preg (setPreg s p o x) p o = x := by
  simp [preg, setPreg, h]

theorem preg_setPreg_other (s : State) {p o r : Nat} (x : Word) (h : r ≠ o) : preg (setPreg s p o x) p r = preg s p r := by
  by_cases hp : p < 8
  · simp [preg, setPreg, hp, kget_kput_other _ _ _ h]
  · simp [preg, setPreg, updPart, setPart, hp]

@[simp] theorem dreg_setDreg (s : State) (o : Nat) (x : Word) : dreg (setDreg s o x) o = x := by simp [dreg, setDreg]

theorem dreg_setDreg_other (s : State) {o r : Nat} (x : Word) (h : r ≠ o) : dreg (setDreg s o x) r = dreg s r := by
  simp [dreg, setDreg, kget_kput_other _ _ _ h]

/-! ### Registers of a context -/

@[simp] theorem setS_life (c : Ctx) (r : Nat) (x : Word) : (setS c r x).life = c.life := by unfold setS; split <;> rfl
@[simp] theorem setS_fr (c : Ctx) (r : Nat) (x : Word) : (setS c r x).fr = c.fr := by unfold setS; split <;> rfl
@[simp] theorem setS_csr (c : Ctx) (r : Nat) (x : Word) : (setS c r x).csr = c.csr := by unfold setS; split <;> rfl
@[simp] theorem setS_trap (c : Ctx) (r : Nat) (x : Word) : (setS c r x).trap = c.trap := by unfold setS; split <;> rfl
@[simp] theorem setS_eng (c : Ctx) (r : Nat) (x : Word) : (setS c r x).eng = c.eng := by unfold setS; split <;> rfl
@[simp] theorem setS_arch_v (c : Ctx) (r : Nat) (x : Word) : (setS c r x).arch.v = c.arch.v := by unfold setS; split <;> rfl
@[simp] theorem setS_arch_m (c : Ctx) (r : Nat) (x : Word) : (setS c r x).arch.m = c.arch.m := by unfold setS; split <;> rfl
@[simp] theorem setS_arch_k (c : Ctx) (r : Nat) (x : Word) : (setS c r x).arch.k = c.arch.k := by unfold setS; split <;> rfl
@[simp] theorem setS_arch_acc (c : Ctx) (r : Nat) (x : Word) : (setS c r x).arch.acc = c.arch.acc := by unfold setS; split <;> rfl
@[simp] theorem setS_arch_pg (c : Ctx) (r : Nat) (x : Word) : (setS c r x).arch.pg = c.arch.pg := by unfold setS; split <;> rfl
@[simp] theorem setS_arch_rings (c : Ctx) (r : Nat) (x : Word) : (setS c r x).arch.rings = c.arch.rings := by unfold setS; split <;> rfl
@[simp] theorem setS_arch_nests (c : Ctx) (r : Nat) (x : Word) : (setS c r x).arch.nests = c.arch.nests := by unfold setS; split <;> rfl
@[simp] theorem setV_life (c : Ctx) (r : Nat) (x : VReg) : (setV c r x).life = c.life := by unfold setV; split <;> rfl
@[simp] theorem setV_fr (c : Ctx) (r : Nat) (x : VReg) : (setV c r x).fr = c.fr := by unfold setV; split <;> rfl
@[simp] theorem setV_csr (c : Ctx) (r : Nat) (x : VReg) : (setV c r x).csr = c.csr := by unfold setV; split <;> rfl
@[simp] theorem setV_trap (c : Ctx) (r : Nat) (x : VReg) : (setV c r x).trap = c.trap := by unfold setV; split <;> rfl
@[simp] theorem setV_eng (c : Ctx) (r : Nat) (x : VReg) : (setV c r x).eng = c.eng := by unfold setV; split <;> rfl
@[simp] theorem setV_arch_s (c : Ctx) (r : Nat) (x : VReg) : (setV c r x).arch.s = c.arch.s := by unfold setV; split <;> rfl
@[simp] theorem setV_arch_m (c : Ctx) (r : Nat) (x : VReg) : (setV c r x).arch.m = c.arch.m := by unfold setV; split <;> rfl
@[simp] theorem setV_arch_k (c : Ctx) (r : Nat) (x : VReg) : (setV c r x).arch.k = c.arch.k := by unfold setV; split <;> rfl
@[simp] theorem setV_arch_acc (c : Ctx) (r : Nat) (x : VReg) : (setV c r x).arch.acc = c.arch.acc := by unfold setV; split <;> rfl
@[simp] theorem setV_arch_pg (c : Ctx) (r : Nat) (x : VReg) : (setV c r x).arch.pg = c.arch.pg := by unfold setV; split <;> rfl
@[simp] theorem setV_arch_rings (c : Ctx) (r : Nat) (x : VReg) : (setV c r x).arch.rings = c.arch.rings := by unfold setV; split <;> rfl
@[simp] theorem setV_arch_nests (c : Ctx) (r : Nat) (x : VReg) : (setV c r x).arch.nests = c.arch.nests := by unfold setV; split <;> rfl
@[simp] theorem setM_life (c : Ctx) (r : Nat) (x : MaskReg) : (setM c r x).life = c.life := by unfold setM; split <;> rfl
@[simp] theorem setM_fr (c : Ctx) (r : Nat) (x : MaskReg) : (setM c r x).fr = c.fr := by unfold setM; split <;> rfl
@[simp] theorem setM_csr (c : Ctx) (r : Nat) (x : MaskReg) : (setM c r x).csr = c.csr := by unfold setM; split <;> rfl
@[simp] theorem setM_trap (c : Ctx) (r : Nat) (x : MaskReg) : (setM c r x).trap = c.trap := by unfold setM; split <;> rfl
@[simp] theorem setM_eng (c : Ctx) (r : Nat) (x : MaskReg) : (setM c r x).eng = c.eng := by unfold setM; split <;> rfl
@[simp] theorem setM_arch_s (c : Ctx) (r : Nat) (x : MaskReg) : (setM c r x).arch.s = c.arch.s := by unfold setM; split <;> rfl
@[simp] theorem setM_arch_v (c : Ctx) (r : Nat) (x : MaskReg) : (setM c r x).arch.v = c.arch.v := by unfold setM; split <;> rfl
@[simp] theorem setM_arch_k (c : Ctx) (r : Nat) (x : MaskReg) : (setM c r x).arch.k = c.arch.k := by unfold setM; split <;> rfl
@[simp] theorem setM_arch_acc (c : Ctx) (r : Nat) (x : MaskReg) : (setM c r x).arch.acc = c.arch.acc := by unfold setM; split <;> rfl
@[simp] theorem setM_arch_pg (c : Ctx) (r : Nat) (x : MaskReg) : (setM c r x).arch.pg = c.arch.pg := by unfold setM; split <;> rfl
@[simp] theorem setM_arch_rings (c : Ctx) (r : Nat) (x : MaskReg) : (setM c r x).arch.rings = c.arch.rings := by unfold setM; split <;> rfl
@[simp] theorem setM_arch_nests (c : Ctx) (r : Nat) (x : MaskReg) : (setM c r x).arch.nests = c.arch.nests := by unfold setM; split <;> rfl
@[simp] theorem setK_life (c : Ctx) (r : Nat) (x : KBind) : (setK c r x).life = c.life := by unfold setK; split <;> rfl
@[simp] theorem setK_fr (c : Ctx) (r : Nat) (x : KBind) : (setK c r x).fr = c.fr := by unfold setK; split <;> rfl
@[simp] theorem setK_csr (c : Ctx) (r : Nat) (x : KBind) : (setK c r x).csr = c.csr := by unfold setK; split <;> rfl
@[simp] theorem setK_trap (c : Ctx) (r : Nat) (x : KBind) : (setK c r x).trap = c.trap := by unfold setK; split <;> rfl
@[simp] theorem setK_eng (c : Ctx) (r : Nat) (x : KBind) : (setK c r x).eng = c.eng := by unfold setK; split <;> rfl
@[simp] theorem setK_arch_s (c : Ctx) (r : Nat) (x : KBind) : (setK c r x).arch.s = c.arch.s := by unfold setK; split <;> rfl
@[simp] theorem setK_arch_v (c : Ctx) (r : Nat) (x : KBind) : (setK c r x).arch.v = c.arch.v := by unfold setK; split <;> rfl
@[simp] theorem setK_arch_m (c : Ctx) (r : Nat) (x : KBind) : (setK c r x).arch.m = c.arch.m := by unfold setK; split <;> rfl
@[simp] theorem setK_arch_acc (c : Ctx) (r : Nat) (x : KBind) : (setK c r x).arch.acc = c.arch.acc := by unfold setK; split <;> rfl
@[simp] theorem setK_arch_pg (c : Ctx) (r : Nat) (x : KBind) : (setK c r x).arch.pg = c.arch.pg := by unfold setK; split <;> rfl
@[simp] theorem setK_arch_rings (c : Ctx) (r : Nat) (x : KBind) : (setK c r x).arch.rings = c.arch.rings := by unfold setK; split <;> rfl
@[simp] theorem setK_arch_nests (c : Ctx) (r : Nat) (x : KBind) : (setK c r x).arch.nests = c.arch.nests := by unfold setK; split <;> rfl
@[simp] theorem setRing_life (c : Ctx) (r : Nat) (x : Ring) : (setRing c r x).life = c.life := by unfold setRing; split <;> rfl
@[simp] theorem setRing_fr (c : Ctx) (r : Nat) (x : Ring) : (setRing c r x).fr = c.fr := by unfold setRing; split <;> rfl
@[simp] theorem setRing_csr (c : Ctx) (r : Nat) (x : Ring) : (setRing c r x).csr = c.csr := by unfold setRing; split <;> rfl
@[simp] theorem setRing_trap (c : Ctx) (r : Nat) (x : Ring) : (setRing c r x).trap = c.trap := by unfold setRing; split <;> rfl
@[simp] theorem setRing_eng (c : Ctx) (r : Nat) (x : Ring) : (setRing c r x).eng = c.eng := by unfold setRing; split <;> rfl
@[simp] theorem setRing_arch_s (c : Ctx) (r : Nat) (x : Ring) : (setRing c r x).arch.s = c.arch.s := by unfold setRing; split <;> rfl
@[simp] theorem setRing_arch_v (c : Ctx) (r : Nat) (x : Ring) : (setRing c r x).arch.v = c.arch.v := by unfold setRing; split <;> rfl
@[simp] theorem setRing_arch_m (c : Ctx) (r : Nat) (x : Ring) : (setRing c r x).arch.m = c.arch.m := by unfold setRing; split <;> rfl
@[simp] theorem setRing_arch_k (c : Ctx) (r : Nat) (x : Ring) : (setRing c r x).arch.k = c.arch.k := by unfold setRing; split <;> rfl
@[simp] theorem setRing_arch_acc (c : Ctx) (r : Nat) (x : Ring) : (setRing c r x).arch.acc = c.arch.acc := by unfold setRing; split <;> rfl
@[simp] theorem setRing_arch_pg (c : Ctx) (r : Nat) (x : Ring) : (setRing c r x).arch.pg = c.arch.pg := by unfold setRing; split <;> rfl
@[simp] theorem setRing_arch_nests (c : Ctx) (r : Nat) (x : Ring) : (setRing c r x).arch.nests = c.arch.nests := by unfold setRing; split <;> rfl
@[simp] theorem setNest_life (c : Ctx) (r : Nat) (x : NestDesc) : (setNest c r x).life = c.life := by unfold setNest; split <;> rfl
@[simp] theorem setNest_fr (c : Ctx) (r : Nat) (x : NestDesc) : (setNest c r x).fr = c.fr := by unfold setNest; split <;> rfl
@[simp] theorem setNest_csr (c : Ctx) (r : Nat) (x : NestDesc) : (setNest c r x).csr = c.csr := by unfold setNest; split <;> rfl
@[simp] theorem setNest_trap (c : Ctx) (r : Nat) (x : NestDesc) : (setNest c r x).trap = c.trap := by unfold setNest; split <;> rfl
@[simp] theorem setNest_eng (c : Ctx) (r : Nat) (x : NestDesc) : (setNest c r x).eng = c.eng := by unfold setNest; split <;> rfl
@[simp] theorem setNest_arch_s (c : Ctx) (r : Nat) (x : NestDesc) : (setNest c r x).arch.s = c.arch.s := by unfold setNest; split <;> rfl
@[simp] theorem setNest_arch_v (c : Ctx) (r : Nat) (x : NestDesc) : (setNest c r x).arch.v = c.arch.v := by unfold setNest; split <;> rfl
@[simp] theorem setNest_arch_m (c : Ctx) (r : Nat) (x : NestDesc) : (setNest c r x).arch.m = c.arch.m := by unfold setNest; split <;> rfl
@[simp] theorem setNest_arch_k (c : Ctx) (r : Nat) (x : NestDesc) : (setNest c r x).arch.k = c.arch.k := by unfold setNest; split <;> rfl
@[simp] theorem setNest_arch_acc (c : Ctx) (r : Nat) (x : NestDesc) : (setNest c r x).arch.acc = c.arch.acc := by unfold setNest; split <;> rfl
@[simp] theorem setNest_arch_pg (c : Ctx) (r : Nat) (x : NestDesc) : (setNest c r x).arch.pg = c.arch.pg := by unfold setNest; split <;> rfl
@[simp] theorem setNest_arch_rings (c : Ctx) (r : Nat) (x : NestDesc) : (setNest c r x).arch.rings = c.arch.rings := by unfold setNest; split <;> rfl
@[simp] theorem setAccRow_life (c : Ctx) (t i : Nat) (x : VReg) : (setAccRow c t i x).life = c.life := rfl
@[simp] theorem setAccRow_fr (c : Ctx) (t i : Nat) (x : VReg) : (setAccRow c t i x).fr = c.fr := rfl
@[simp] theorem setAccRow_csr (c : Ctx) (t i : Nat) (x : VReg) : (setAccRow c t i x).csr = c.csr := rfl
@[simp] theorem setAccRow_trap (c : Ctx) (t i : Nat) (x : VReg) : (setAccRow c t i x).trap = c.trap := rfl
@[simp] theorem setAccRow_eng (c : Ctx) (t i : Nat) (x : VReg) : (setAccRow c t i x).eng = c.eng := rfl
@[simp] theorem setAccRow_arch_s (c : Ctx) (t i : Nat) (x : VReg) : (setAccRow c t i x).arch.s = c.arch.s := rfl
@[simp] theorem setAccRow_arch_v (c : Ctx) (t i : Nat) (x : VReg) : (setAccRow c t i x).arch.v = c.arch.v := rfl
@[simp] theorem setAccRow_arch_m (c : Ctx) (t i : Nat) (x : VReg) : (setAccRow c t i x).arch.m = c.arch.m := rfl
@[simp] theorem setAccRow_arch_k (c : Ctx) (t i : Nat) (x : VReg) : (setAccRow c t i x).arch.k = c.arch.k := rfl
@[simp] theorem setAccRow_arch_pg (c : Ctx) (t i : Nat) (x : VReg) : (setAccRow c t i x).arch.pg = c.arch.pg := rfl
@[simp] theorem setAccRow_arch_rings (c : Ctx) (t i : Nat) (x : VReg) : (setAccRow c t i x).arch.rings = c.arch.rings := rfl
@[simp] theorem setAccRow_arch_nests (c : Ctx) (t i : Nat) (x : VReg) : (setAccRow c t i x).arch.nests = c.arch.nests := rfl

/-- s0 reads as 0 (R100). -/
@[simp] theorem getS_zero (c : Ctx) : getS c 0 = 0 := by simp [getS]

/-- A register that is not s0 reads as it was written. -/
theorem getS_setS_same (c : Ctx) (r : Nat) (x : Word) (h : 0 < r ∧ r < 32) : getS (setS c r x) r = x := by
  simp [getS, setS, h]

/-- A write of s0 is discarded (R100). -/
@[simp] theorem setS_zero (c : Ctx) (x : Word) : setS c 0 x = c := by simp [setS]

/-- A write leaves every other scalar register alone. -/
theorem getS_setS_other (c : Ctx) {r q : Nat} (x : Word) (h : q ≠ r) : getS (setS c r x) q = getS c q := by
  unfold getS setS
  split
  · split
    · rename_i h1 h2
      simp [Vector.getElem_set, Ne.symm h]
    · rfl
  · rfl

/-- A vector register reads as it was written. -/
theorem getV_setV_same (c : Ctx) (r : Nat) (x : VReg) (h : r < 30) : getV (setV c r x) r = x := by simp [getV, setV, h]

theorem getV_setV_other (c : Ctx) {r q : Nat} (x : VReg) (h : q ≠ r) : getV (setV c r x) q = getV c q := by
  unfold getV setV
  split
  · split
    · rename_i h1 h2
      simp [Vector.getElem_set, Ne.symm h]
    · rfl
  · rfl

theorem getM_setM_same (c : Ctx) (r : Nat) (x : MaskReg) (h : r < 8) : getM (setM c r x) r = x := by simp [getM, setM, h]

theorem getK_setK_same (c : Ctx) (r : Nat) (x : KBind) (h : r < 8) : getK (setK c r x) r = x := by simp [getK, setK, h]

theorem getRing_setRing_same (c : Ctx) (r : Nat) (x : Ring) (h : r < 8) : getRing (setRing c r x) r = x := by
  simp [getRing, setRing, h]

/-! ### Engines of a context -/

@[simp] theorem getE_setE (g : Engines) (e : Engine) (x : EngineSt) : getE (setE g e x) e = x := by cases e <;> rfl

theorem getE_setE_other (g : Engines) {e d : Engine} (x : EngineSt) (h : d ≠ e) : getE (setE g e x) d = getE g d := by
  cases e <;> cases d <;> first | rfl | exact absurd rfl h

@[simp] theorem setE_setE (g : Engines) (e : Engine) (x y : EngineSt) : setE (setE g e x) e y = setE g e y := by
  cases e <;> rfl

@[simp] theorem setE_getE (g : Engines) (e : Engine) : setE g e (getE g e) = g := by cases e <;> rfl

@[simp] theorem setE_tok (g : Engines) (e : Engine) (x : EngineSt) : (setE g e x).tok = g.tok := by cases e <;> rfl
@[simp] theorem setE_qin (g : Engines) (e : Engine) (x : EngineSt) : (setE g e x).qin = g.qin := by cases e <;> rfl
@[simp] theorem setE_qout (g : Engines) (e : Engine) (x : EngineSt) : (setE g e x).qout = g.qout := by cases e <;> rfl
@[simp] theorem setE_reply (g : Engines) (e : Engine) (x : EngineSt) : (setE g e x).reply = g.reply := by cases e <;> rfl
@[simp] theorem setE_lmarks (g : Engines) (e : Engine) (x : EngineSt) : (setE g e x).lmarks = g.lmarks := by cases e <;> rfl
@[simp] theorem setE_smarks (g : Engines) (e : Engine) (x : EngineSt) : (setE g e x).smarks = g.smarks := by cases e <;> rfl
@[simp] theorem setE_barrier (g : Engines) (e : Engine) (x : EngineSt) : (setE g e x).barrier = g.barrier := by cases e <;> rfl
@[simp] theorem setE_event (g : Engines) (e : Engine) (x : EngineSt) : (setE g e x).event = g.event := by cases e <;> rfl

end Sys2Proof.Machine
end

