-- ==== Sys2Proof/Laws/Control.lean ====
section
/-! SUPPORT. What a control word does once it passes its checks, and what a routed engine word does once it runs to its end. -/

namespace Sys2Proof.Machine

open Sys2Proof.Safety

/-- The two parts of `ready`. -/
theorem ready_iff (s : State) (i : Instr) :
    ready s i = true ↔ (getCtx s s.sch.cur).life.status = .running
      ∧ routeCheck (isSeq s.sch.cur) (getCtx s s.sch.cur) i = none := by
  simp [ready, cx]

/-- A control word that passes its checks has its own effect. -/
theorem control_ready {s : State} {i : Instr} (h : ready s i = true) (body : State → AgentId → Ctx → State) :
    control i s body = .next (body s s.sch.cur (cx s)) := by
  rw [ready_iff] at h
  simp [control, h.1, h.2, cx]

/-- A word that fails a check of R132 takes the trap of the first that fails. -/
theorem control_trap {s : State} {i : Instr} {cause : Nat} {det : Word}
    (hr : (cx s).life.status = .running) (h : routeCheck (isSeq s.sch.cur) (cx s) i = some (cause, det))
    (body : State → AgentId → Ctx → State) :
    control i s body = .next (raiseAt s s.sch.cur .routing (engOf (rawOf i)) cause 0 det) := by
  simp only [cx] at hr h
  simp [control, hr, h]

/-- The front end past a word does not depend on the registers. -/
@[simp] theorem pastWord_setS (b : Bool) (c : Ctx) (r : Nat) (x : Word) (i : Instr) (n : Nat) :
    pastWord b (setS c r x) i n = pastWord b c i n := by simp [pastWord]

@[simp] theorem bodyOf_setCtx (s : State) (a b : AgentId) (c : Ctx) (n : Nat) : bodyOf (setCtx s a c) b n = bodyOf s b n := by
  cases b <;> simp [bodyOf]

/-- Moving past a word, on the context it runs on. -/
theorem retire_cur (s : State) (i : Instr) :
    retire s s.sch.cur i = setCtx s s.sch.cur { cx s with fr := pastFront s i } := by
  simp [retire, updCtx, pastFront, bodyLen, cx]
  all_goals rfl

/-- Writing a scalar register and moving past the word. -/
theorem retire_writeS (s : State) (i : Instr) (d : Nat) (x : Word) :
    retire (writeS s s.sch.cur d x) s.sch.cur i = stateAfter s i d x := by
  simp [retire, writeS, updCtx, stateAfter, ctxAfter, pastFront, bodyLen, cx]
  all_goals rfl

/-- A three-register word that passes its checks (R161). -/
theorem alu3_ready {s : State} {i : Instr} (h : ready s i = true) (d a b : BitVec 5) (f : Word → Word → Word) :
    alu3 i s d a b f
      = .next (stateAfter s i (effReg (cx s) 1 d) (f (getS (cx s) (effReg (cx s) 2 a)) (getS (cx s) (effReg (cx s) 3 b)))) := by
  simp [alu3, control_ready h, retire_writeS]

/-- A two-register word that passes its checks (R161). -/
theorem alu2_ready {s : State} {i : Instr} (h : ready s i = true) (d a : BitVec 5) (f : Word → Word) :
    alu2 i s d a f = .next (stateAfter s i (effReg (cx s) 1 d) (f (getS (cx s) (effReg (cx s) 2 a)))) := by
  simp [alu2, control_ready h, retire_writeS]

/-- An immediate word that passes its checks (R163). -/
theorem aluI_ready {s : State} {i : Instr} (h : ready s i = true) (d a : BitVec 5) (m : BitVec 11)
    (f : Word → Word → Word) :
    aluI i s d a m f
      = .next (stateAfter s i (effReg (cx s) 1 d) (f (getS (cx s) (effReg (cx s) 2 a)) (effImm (cx s) m))) := by
  simp [aluI, control_ready h, retire_writeS]

/-- Going on at an address. -/
theorem jumpTo_cur (s : State) (t : Word) :
    jumpTo s s.sch.cur t = setCtx s s.sch.cur { cx s with fr := { Front.reset with pc := t } } := by
  simp [jumpTo, updFr, updCtx, cx]

/-- Writing a scalar register and going on at an address. -/
theorem jumpTo_writeS (s : State) (d : Nat) (x t : Word) :
    jumpTo (writeS s s.sch.cur d x) s.sch.cur t
      = setCtx s s.sch.cur { setS (cx s) d x with fr := { Front.reset with pc := t } } := by
  simp [jumpTo, writeS, updFr, updCtx, cx]

end Sys2Proof.Machine
end

