-- ==== Sys2Proof/Laws/Memory.lean ====
section
/-! SUPPORT. What the operations over memory leave: the canonical form, the bytes they wrote and the rest of the state, one lemma for
each operation. -/

namespace Sys2Proof.Machine

open Sys2Proof.Safety

/-! ### Marks and caches -/

@[simp] theorem clearMarks_dram (s : State) (sp : ErrSpace) (u a n : Nat) : (clearMarks s sp u a n).mem.dram = s.mem.dram := rfl
@[simp] theorem clearMarks_host (s : State) (sp : ErrSpace) (u a n : Nat) : (clearMarks s sp u a n).mem.host = s.mem.host := rfl
@[simp] theorem clearMarks_peer (s : State) (sp : ErrSpace) (u a n : Nat) : (clearMarks s sp u a n).mem.peer = s.mem.peer := rfl
@[simp] theorem clearMarks_scratch (s : State) (sp : ErrSpace) (u a n : Nat) :
    (clearMarks s sp u a n).mem.scratch = s.mem.scratch := rfl
@[simp] theorem clearMarks_seqScratch (s : State) (sp : ErrSpace) (u a n : Nat) :
    (clearMarks s sp u a n).mem.seqScratch = s.mem.seqScratch := rfl
@[simp] theorem clearMarks_ctxs (s : State) (sp : ErrSpace) (u a n : Nat) : (clearMarks s sp u a n).ctxs = s.ctxs := rfl

/-- Clearing no mark changes nothing. -/
theorem clearMarks_none {s : State} (h : s.mem.errs = []) (sp : ErrSpace) (u a n : Nat) : clearMarks s sp u a n = s := by
  obtain ⟨sch, now, ⟨d, ho, pe, sc, sq, pr, er⟩, r⟩ := s
  simp only at h
  subst h
  rfl

@[simp] theorem countPin_mem (s : State) (pa : Nat) (hit ovfl : Bool) : (countPin s pa hit ovfl).mem = s.mem := by
  unfold countPin
  split
  · rfl
  · split <;> rfl

@[simp] theorem l2Hit_mem (s : State) (p : Option Nat) (pa m : Nat) (w : Bool) : (l2Hit s p pa m w).mem = s.mem := by
  unfold l2Hit
  dsimp only
  repeat' (first | rfl | split)

/-- A step changes no byte of any memory, but perhaps error marks and what is noted of release sequences. -/
def keepsBytes (s t : State) : Prop := t.mem = { s.mem with promo := t.mem.promo, errs := t.mem.errs }

theorem keepsBytes_of_eq {s t : State} (h : t.mem = s.mem) : keepsBytes s t := by
  unfold keepsBytes
  rw [h]

theorem keepsBytes_trans {s t u : State} (h : keepsBytes s t) (k : keepsBytes t u) : keepsBytes s u := by
  unfold keepsBytes at *
  rw [k, h]

theorem keepsBytes_fields {s t : State} (h : keepsBytes s t) : t.mem.dram = s.mem.dram ∧ t.mem.host = s.mem.host
    ∧ t.mem.peer = s.mem.peer ∧ t.mem.scratch = s.mem.scratch ∧ t.mem.seqScratch = s.mem.seqScratch
    ∧ t.mem.buf = s.mem.buf := by
  unfold keepsBytes at h
  rw [h]
  exact ⟨rfl, rfl, rfl, rfl, rfl, rfl⟩

@[simp] theorem countClass_mem (s : State) (i n : Nat) : (countClass s i n).mem = s.mem := by
  unfold countClass
  split <;> rfl

@[simp] theorem countCorr_mem (s : State) (sp : ErrSpace) (u a n : Nat) : (countCorr s sp u a n).mem = s.mem :=
  countClass_mem _ _ _

theorem dramFill_keeps (s : State) (line : Nat) : keepsBytes s (dramFill s line) := by
  unfold dramFill
  split
  · rfl
  · exact keepsBytes_trans (keepsBytes_of_eq (countCorr_mem s .dram 0 line 128)) rfl

/-- Where no memory holds an error mark a read of a line of DRAM leaves none (R438). -/
theorem dramFill_none {s : State} (h : s.mem.errs = []) (line : Nat) : dramFill s line = s := by simp [dramFill, h]

/-- An install changes no byte of any memory (R124). -/
theorem l2Install_keeps (s : State) (p : Option Nat) (pa m : Nat) (d : Bool) : keepsBytes s (l2Install s p pa m d) := by
  unfold l2Install
  dsimp only
  split
  · exact keepsBytes_of_eq (countCorr_mem _ _ _ _ _)
  · refine keepsBytes_trans (dramFill_keeps s (pa / 128 * 128)) (keepsBytes_of_eq ?_)
    split <;> simp

/-- Where no memory holds an error mark it changes nothing of the memories (R124, R438). -/
theorem l2Install_mem {s : State} (h : s.mem.errs = []) (p : Option Nat) (pa m : Nat) (d : Bool) :
    (l2Install s p pa m d).mem = s.mem := by
  unfold l2Install
  rw [dramFill_none h]
  dsimp only
  split
  · exact countCorr_mem _ _ _ _ _
  · split <;> simp

theorem l2Errors_keeps (s : State) (pa : Nat) : keepsBytes s (l2Errors s pa) := by
  unfold l2Errors
  split
  · rfl
  · dsimp only
    split
    · rfl
    · refine keepsBytes_trans ?_ (t := countClass _ 5 _) rfl
      refine keepsBytes_trans ?_ (keepsBytes_of_eq (countClass_mem _ _ _))
      split
      · rfl
      · split
        · rfl
        · split
          · exact dramFill_keeps _ _
          · rfl

theorem moveMarks_keeps {s t : State} (u : State) (h : keepsBytes s t) : keepsBytes s (moveMarks u t) := by
  unfold moveMarks
  split
  · exact h
  · refine keepsBytes_trans h (keepsBytes_trans (t := { t with mem := { t.mem with errs := t.mem.errs.flatMap (movedMark u t) } }) rfl
      (keepsBytes_of_eq (countClass_mem _ _ _)))

/-- Where no memory holds an error mark no mark moves. -/
theorem moveMarks_none {t : State} (u : State) (h : t.mem.errs = []) : moveMarks u t = t := by simp [moveMarks, h]

/-- An access to a line of the L2 changes no byte of any memory (R124). -/
theorem l2Access_keeps (s : State) (p : Option Nat) (pa m : Nat) (w pf : Bool) : keepsBytes s (l2Access s p pa m w pf) := by
  refine keepsBytes_trans (l2Errors_keeps s pa) (moveMarks_keeps _ ?_)
  split
  · refine keepsBytes_of_eq ?_
    rw [l2Hit_mem]; split <;> simp
  · exact l2Install_keeps _ _ _ _ _

/-- Where no memory holds an error mark it changes nothing of the memories (R124, R438). -/
theorem l2Access_mem {s : State} (h : s.mem.errs = []) (p : Option Nat) (pa m : Nat) (w pf : Bool) :
    (l2Access s p pa m w pf).mem = s.mem := by
  have he : l2Errors s pa = s := by simp [l2Errors, h]
  unfold l2Access
  dsimp only
  rw [he]
  have hm : ∀ t : State, t.mem = s.mem → (moveMarks s t).mem = s.mem := fun t ht => by
    rw [moveMarks_none s (by rw [ht, h]), ht]
  apply hm
  split
  · rw [l2Hit_mem]; split <;> simp
  · exact l2Install_mem h p pa m w

/-- A fold of steps that each keep the bytes keeps them. -/
theorem foldl_keeps {α : Type} (f : State → α → State) (hf : ∀ s x, keepsBytes s (f s x)) (l : List α) (s : State) :
    keepsBytes s (l.foldl f s) := by
  induction l generalizing s with
  | nil => rfl
  | cons x r ih => exact keepsBytes_trans (hf s x) (ih (f s x))

/-- A fold of steps that each keep the memories keeps them. -/
theorem foldl_mem {α : Type} (f : State → α → State) (m : Stores) (hf : ∀ s x, s.mem = m → (f s x).mem = m) (l : List α) (s : State)
    (h : s.mem = m) : (l.foldl f s).mem = m := by
  induction l generalizing s with
  | nil => exact h
  | cons x r ih => exact ih (f s x) (hf s x h)

theorem l2Range_keeps (s : State) (p : Option Nat) (pa n m : Nat) (w pf : Bool) : keepsBytes s (l2Range s p pa n m w pf) :=
  foldl_keeps _ (fun s x => l2Access_keeps s p x m w pf) _ s

theorem l2Range_mem {s : State} (h : s.mem.errs = []) (p : Option Nat) (pa n m : Nat) (w pf : Bool) :
    (l2Range s p pa n m w pf).mem = s.mem :=
  foldl_mem _ s.mem (fun _ x hu => (l2Access_mem (by rw [hu]; exact h) p x m w pf).trans hu) _ s rfl

/-! ### Places -/

/-- The canonical form depends on the bytes alone. -/
theorem memoriesCanonical_keeps {s t : State} (h : keepsBytes s t) (hs : memoriesCanonical s) : memoriesCanonical t := by
  unfold memoriesCanonical at *
  rw [h]
  exact hs

/-- The canonical form depends on the memories alone. -/
theorem memoriesCanonical_congr {s t : State} (h : t.mem = s.mem) (hs : memoriesCanonical s) : memoriesCanonical t :=
  memoriesCanonical_keeps (keepsBytes_of_eq h) hs

theorem endPromo_keeps (s : State) (l : Loc) (n : Nat) : keepsBytes s (endPromo s l n) := by
  unfold endPromo
  split <;> rfl

/-- What a write at a place leaves of the memories: the bytes are written to the memory its TYPE names. -/
theorem locWrite_mem (s : State) (l : Loc) (bs : List Byte) :
    (locWrite s l bs).mem = { s.mem with
      dram := if l.typ = 0 then mwrite s.mem.dram l.pa bs else s.mem.dram
      host := if l.typ = 1 then mwrite s.mem.host l.pa bs else s.mem.host
      peer := if l.typ ≠ 0 ∧ l.typ ≠ 1 then mwrite s.mem.peer (peerKey l.peer l.pa) bs else s.mem.peer
      promo := (locWrite s l bs).mem.promo, errs := (locWrite s l bs).mem.errs } := by
  obtain ⟨u, hu⟩ : ∃ u, u = endPromo s l bs.length := ⟨_, rfl⟩
  have h : keepsBytes s u := hu ▸ endPromo_keeps s l bs.length
  obtain ⟨v, hv⟩ : ∃ v, v = if u.mem.errs.isEmpty then u
      else [ErrSpace.dram, .l2, .l2tag, .l2unit].foldl (fun s sp => clearMarks s sp 0 l.pa bs.length) u := ⟨_, rfl⟩
  have k : keepsBytes s v := by
    rw [hv]
    split
    · exact h
    · exact keepsBytes_trans h rfl
  obtain ⟨a, b, c, d, e, g⟩ := keepsBytes_fields h
  obtain ⟨a', b', c', d', e', g'⟩ := keepsBytes_fields k
  unfold locWrite
  rw [← hu]
  dsimp only
  rw [← hv]
  by_cases h0 : l.typ = 0
  · simp [h0, a', b', c', d', e', g']
  · by_cases h1 : l.typ = 1
    · simp [h1, a, b, c, d, e, g]
    · simp [h0, h1, a, b, c, d, e, g]

/-- A write at a place keeps every memory in its canonical form. -/
theorem memoriesCanonical_locWrite {s : State} (l : Loc) (bs : List Byte) (h : memoriesCanonical s) :
    memoriesCanonical (locWrite s l bs) := by
  obtain ⟨hd, hh, hp, hs, hq⟩ := h
  unfold memoriesCanonical
  rw [locWrite_mem]
  refine ⟨?_, ?_, ?_, hs, hq⟩
  · dsimp only; split
    · exact Memory.wf_mwrite bs l.pa hd
    · exact hd
  · dsimp only; split
    · exact Memory.wf_mwrite bs l.pa hh
    · exact hh
  · dsimp only; split
    · exact Memory.wf_mwrite bs _ hp
    · exact hp

/-- A place holds what was last written to it. -/
theorem locRead_locWrite_same {s : State} (l : Loc) (bs : List Byte) (h : memoriesCanonical s) :
    locRead (locWrite s l bs) l bs.length = bs := by
  obtain ⟨hd, hh, hp, -, -⟩ := h
  unfold locRead
  rw [locWrite_mem]
  by_cases h0 : l.typ = 0
  · simp only [h0, if_true]
    exact mread_mwrite_same bs l.pa hd
  · by_cases h1 : l.typ = 1
    · simp only [h1, if_true]
      exact mread_mwrite_same bs l.pa hh
    · simp only [h0, h1, if_false, ne_eq, not_false_eq_true, and_self, if_true]
      exact mread_mwrite_same bs _ hp

/-- A write at a place leaves the contexts, the cores and the scratchpads alone. -/
theorem locWrite_frame (s : State) (l : Loc) (bs : List Byte) :
    (locWrite s l bs).ctxs = s.ctxs ∧ (locWrite s l bs).cores = s.cores ∧ (locWrite s l bs).cache = s.cache
      ∧ (locWrite s l bs).mem.scratch = s.mem.scratch ∧ (locWrite s l bs).mem.seqScratch = s.mem.seqScratch := by
  unfold locWrite endPromo
  dsimp only
  repeat' (first | exact ⟨rfl, rfl, rfl, rfl, rfl⟩ | split)

theorem memoriesCanonical_piecesWrite (ps : List (Loc × Nat)) {s : State} (bs : List Byte) (h : memoriesCanonical s) :
    memoriesCanonical (piecesWrite s ps bs) := by
  induction ps generalizing s bs with
  | nil => exact h
  | cons p r ih => exact ih _ (memoriesCanonical_locWrite p.1 _ h)

/-! ### Scratchpads -/

/-- A write of the scratchpad keeps the canonical form. -/
theorem memoriesCanonical_padWrite {s : State} (a : AgentId) (off : Nat) (bs : List Byte) (h : memoriesCanonical s) :
    memoriesCanonical (padWrite s a off bs) := by
  obtain ⟨hd, hh, hp, hs, hq⟩ := h
  unfold padWrite
  cases a <;> (dsimp only; split <;>
    first
      | exact ⟨hd, hh, hp, Memory.wf_mwrite bs _ hs, hq⟩
      | exact ⟨hd, hh, hp, hs, Memory.wf_mwrite bs _ hq⟩)

/-- A write of the scratchpad leaves the contexts, the cores and every other memory alone. -/
theorem padWrite_frame (s : State) (a : AgentId) (off : Nat) (bs : List Byte) :
    (padWrite s a off bs).ctxs = s.ctxs ∧ (padWrite s a off bs).cores = s.cores ∧ (padWrite s a off bs).cache = s.cache
      ∧ (padWrite s a off bs).mem.dram = s.mem.dram ∧ (padWrite s a off bs).mem.host = s.mem.host
      ∧ (padWrite s a off bs).mem.peer = s.mem.peer := by
  unfold padWrite
  cases a <;> (dsimp only; split <;> exact ⟨rfl, rfl, rfl, rfl, rfl, rfl⟩)

/-- The window holds what was last written to it. -/
theorem padRead_padWrite_same {s : State} (a : AgentId) (off : Nat) (bs : List Byte) (h : memoriesCanonical s) :
    padRead (padWrite s a off bs) a off bs.length = bs := by
  obtain ⟨-, -, -, hs, hq⟩ := h
  unfold padRead padWrite
  cases a <;> (dsimp only [padOf]; split <;>
    first
      | exact mread_mwrite_same bs _ hs
      | exact mread_mwrite_same bs _ hq)

end Sys2Proof.Machine
end

