-- ==== Sys2Proof/Tests/Slice0.lean ====
section
/-! SUPPORT. Tests: terms that WellFormed refuses, words written out from their encodings, single steps whose results are worked
out by hand from the rules, and for each statement a state and operands that meet its hypotheses. -/

namespace Sys2Proof.Tests

set_option Elab.async false

open Sys2Proof.Machine Sys2Proof.Safety Sys2Proof.Claims

/-! ### States -/

/-- A spore that has just been picked up into bank A of core 0, in an enabled partition whose first 2 MiB of addresses are mapped. -/
def base : State := placeWord State.reset 0

/-- A change of the current context. -/
def here (f : Ctx → Ctx) (s : State) : State := updCtx s s.sch.cur f

/-- Scalar registers set. -/
def regs (l : List (Nat × Word)) (s : State) : State := here (fun c => l.foldl (fun c x => setS c x.1 x.2) c) s

/-- Bytes at an address of the page that is mapped at 0. -/
def bytesAt (a : Nat) (bs : List Byte) (s : State) : State :=
  { s with mem := { s.mem with dram := mwrite s.mem.dram (0x200000 + a) bs } }

/-- The state that an instruction leaves; the state itself where it stops. -/
def after (i : Instr) (s : State) : State :=
  match exec i s with
  | .next t => t
  | _ => s

/-- A scalar register of the current context. -/
def reg (s : State) (r : Nat) : Word := getS (cx s) r

/-- Registers of a partition block set. -/
def block (p : Nat) (l : List (Nat × Word)) (s : State) : State := l.foldl (fun s x => setPreg s p x.1 x.2) s

/-- s2 = 100, s3 = −7, s4 = 0x8000_0000_0000_0001. -/
def ints : State := regs [(2, 100), (3, -7), (4, 0x8000000000000001)] base

/-! ### Ill-formed terms -/

/-- One operand outside each limit. -/
theorem test_illFormed : ∀ i ∈ ([.amo true 1 2 3 5 0, .amo true 1 2 3 0 7, .amoa true 1 2 3 5 0, .amoa true 1 2 3 0 7,
    .amor true 1 2 3 5 0, .amor true 1 2 3 0 7, .amoar true 1 2 3 5 0, .amoar true 1 2 3 0 7, .amop true 1 2 3 5 0,
    .amop true 1 2 3 1 7, .amop true 1 2 3 0 0, .cas true 1 2 3 5 0, .cas true 1 2 3 0 5, .cas true 1 2 3 0 4,
    .fence true false 5 0, .prefl true 3 1 0, .waitgeLocal true 16 1, .waitge true 1 2 5, .signalLocal true 16 1,
    .signal true 1 2 5, .nest true 8 1 0, .vadd true 0 0 30 1 2, .vadd true 0 0 1 31 2, .vadd true 0 0 1 2 31,
    .vcmpeq true 0 0 8 1 2, .vmlogic true 0 0 1 8 2, .vmlogic true 0 0 1 2 8, .vmpopc true 0 0 8, .vmfirst true 0 0 8,
    .viota true 0 0 1 8, .vargmin true 0 0 31, .vtopn true 0 0 3 1, .vpack true 0 0 1 2 8, .vaccrd true 0 0 30 0 0,
    .vaccwr true 0 0 0 0 31, .sbind true 0 8 1, .sbind true 0 1 8, .sisect true 0 8 1 2, .sisect true 0 1 2 2,
    .sunion true 0 1 8 2, .ssub true 0 1 2 8, .smadd true 0 1 2 2, .scount true 0 8, .sreset true 0 8,
    .mma true 0 0 0 0 3 0 true false 0, .mma true 0 0 0 0 0 0 true false 1, .mdrain true 0 0 0 3 0, .mlat true 0 0 0 3 0,
    .lgo true 0 8 0 0 false false, .lsbind true 0 0 0 6, .sgo true 0 8 0 0 false false, .xext 1 true 5 false 0,
    .xext 1 true 6 false 0, .xext 0 true 0 false 0] : List Instr), i.wellFormed = false := by decide +kernel

/-- One place that does not exist, for each kind of place that a step of the device names. -/
theorem test_illPlaced : ∀ i ∈ ([.wordStart (.bank 384 false) .v, .wordComplete (.seq 32) .l, .broadcastDelivery 24 false 0,
    .pickup 8, .launch 8 0, .launch 0 4, .bar2Read 9 0 8, .ecnt 11, .lbport 16, .rgcfgWrite (.bank 0 false) 8 0, .unitfail 8,
    .streamStop 32, .labenInboundRequest ⟨256, 0, .read 8⟩, .laneFail 16 1, .powerStateEntry (.cluster 24)] : List Instr),
    i.wellFormed = false := by decide +kernel

/-! ### Words -/

/-- The words of NOP to MAXU in the order of the table, written out from their encodings. -/
theorem test_decode_nop : ∀ x ∈ ([
    (0x10200000, .nop true),
    (0x10565E40, .add true 22 11 25),
    (0x10765E40, .sub true 22 11 25),
    (0x10965E40, .and true 22 11 25),
    (0x10B65E40, .or true 22 11 25),
    (0x10D65E40, .xor true 22 11 25),
    (0x10F65E40, .andn true 22 11 25),
    (0x11165E40, .shl true 22 11 25),
    (0x11365E40, .shr true 22 11 25),
    (0x11565E40, .shra true 22 11 25),
    (0x11765E40, .rotr true 22 11 25),
    (0x11965E40, .mul true 22 11 25),
    (0x11B65E40, .mulhs true 22 11 25),
    (0x11D65E40, .mulhu true 22 11 25),
    (0x11F65E40, .div true 22 11 25),
    (0x12165E40, .divu true 22 11 25),
    (0x12365E40, .rem true 22 11 25),
    (0x12565E40, .remu true 22 11 25),
    (0x12765E40, .min true 22 11 25),
    (0x12965E40, .max true 22 11 25),
    (0x12B65E40, .minu true 22 11 25),
    (0x12D65E40, .maxu true 22 11 25)
  ] : List (Nat × Instr)), decodeWord x.1 = .ok x.2 ∧ x.2.wellFormed = true := by decide +kernel

/-- The words of SLT to LDB in the order of the table, written out from their encodings. -/
theorem test_decode_slt : ∀ x ∈ ([
    (0x12F65E40, .slt true 22 11 25),
    (0x13165E40, .sltu true 22 11 25),
    (0x13365E40, .seq true 22 11 25),
    (0x13565800, .clz true 22 11),
    (0x13765800, .ctz true 22 11),
    (0x13965800, .popc true 22 11),
    (0x13B65800, .brev true 22 11),
    (0x13D6582D, .sext true 22 11 45),
    (0x13F6582D, .zext true 22 11 45),
    (0x14165D9D, .addi true 22 11 1437),
    (0x14365D9D, .andi true 22 11 1437),
    (0x14565D9D, .ori true 22 11 1437),
    (0x14765D9D, .xori true 22 11 1437),
    (0x1496582D, .shli true 22 11 45),
    (0x14B6582D, .shri true 22 11 45),
    (0x14D6582D, .shrai true 22 11 45),
    (0x14F65D9D, .slti true 22 11 1437),
    (0x15165D9D, .sltui true 22 11 1437),
    (0x15365D9D, .seqi true 22 11 1437),
    (0x1556B38F, .lui true 22 45967),
    (0x1576B38F, .auipc true 22 45967),
    (0x16165D9D, .ldb true 22 11 1437)
  ] : List (Nat × Instr)), decodeWord x.1 = .ok x.2 ∧ x.2.wellFormed = true := by decide +kernel

/-- The words of LDBU to BGE in the order of the table, written out from their encodings. -/
theorem test_decode_ldbu : ∀ x ∈ ([
    (0x16365D9D, .ldbu true 22 11 1437),
    (0x16565D9D, .ldh true 22 11 1437),
    (0x16765D9D, .ldhu true 22 11 1437),
    (0x16965D9D, .ldw true 22 11 1437),
    (0x16B65D9D, .ldwu true 22 11 1437),
    (0x16D65D9D, .ldd true 22 11 1437),
    (0x16F65D9D, .stb true 22 11 1437),
    (0x17165D9D, .sth true 22 11 1437),
    (0x17365D9D, .stw true 22 11 1437),
    (0x17565D9D, .std true 22 11 1437),
    (0x17765E53, .amo true 22 11 25 2 3),
    (0x17965E53, .amoa true 22 11 25 2 3),
    (0x17B65E53, .amor true 22 11 25 2 3),
    (0x17D65E53, .amoar true 22 11 25 2 3),
    (0x17F65E53, .amop true 22 11 25 2 3),
    (0x18165E53, .cas true 22 11 25 2 3),
    (0x182000ED, .fence true false 3 45),
    (0x18425D9D, .prefl true 2 11 1437),
    (0x19165D9D, .beq true 22 11 1437),
    (0x19365D9D, .bne true 22 11 1437),
    (0x19565D9D, .blt true 22 11 1437),
    (0x19765D9D, .bge true 22 11 1437)
  ] : List (Nat × Instr)), decodeWord x.1 = .ok x.2 ∧ x.2.wellFormed = true := by decide +kernel

/-- The words of BLTU to CSRR in the order of the table, written out from their encodings. -/
theorem test_decode_bltu : ∀ x ∈ ([
    (0x19965D9D, .bltu true 22 11 1437),
    (0x19B65D9D, .bgeu true 22 11 1437),
    (0x19D6B38F, .jal true 22 45967),
    (0x19F65D9D, .jalr true 22 11 1437),
    (0x1A000000, .yield true),
    (0x1A200000, .exit true),
    (0x1A40B59D, .spawn true 22 1437),
    (0x1A60B59D, .cont true 22 1437),
    (0x1A804AE0, .waitgeLocal true 9 11),
    (0x1A80B2C3, .waitge true 22 11 3),
    (0x1AA04AE0, .signalLocal true 9 11),
    (0x1AA0B2C4, .signal true 22 11 4),
    (0x1AD60000, .popr true 22),
    (0x1AF60000, .peekr true 22),
    (0x1B165E56, .fork true 22 11 25 5 2),
    (0x1B20B2C0, .msend true 22 11),
    (0x1B565800, .mrecv true 22 11),
    (0x1B655D9D, .nest true 5 11 1437),
    (0x1B965819, .cstore true 22 11 25),
    (0x1BA0B2EE, .l2pin true 22 11 11 2),
    (0x1BC0002C, .l2unpin true 11),
    (0x1C16059D, .csrr true 22 1437)
  ] : List (Nat × Instr)), decodeWord x.1 = .ok x.2 ∧ x.2.wellFormed = true := by decide +kernel

/-- The words of CSRW to VOR in the order of the table, written out from their encodings. -/
theorem test_decode_csrw : ∀ x ∈ ([
    (0x1C365D9D, .csrw true 22 11 1437),
    (0x1C565D9D, .csrs true 22 11 1437),
    (0x1C765D9D, .csrc true 22 11 1437),
    (0x1C80059D, .ecall true 1437),
    (0x1CA0059D, .ebreak true 1437),
    (0x1CC00000, .eret true),
    (0x1CE00000, .wfe true),
    (0x1D165E4B, .tlbinv true 22 11 25 11),
    (0x1D200000, .sev true),
    (0x3B02D979, .vadd true 11 5 22 11 25),
    (0x3B06D979, .vsub true 11 5 22 11 25),
    (0x3B0AD979, .vaddsat true 11 5 22 11 25),
    (0x3B0ED979, .vsubsat true 11 5 22 11 25),
    (0x3B12D979, .vavg true 11 5 22 11 25),
    (0x3B16D979, .vmul true 11 5 22 11 25),
    (0x3B1AD979, .vmulhi true 11 5 22 11 25),
    (0x3B1ED979, .vmac true 11 5 22 11 25),
    (0x3B22D979, .vmin true 11 5 22 11 25),
    (0x3B26D979, .vmax true 11 5 22 11 25),
    (0x3B2AD960, .vabs true 11 5 22 11),
    (0x3B2ED979, .vand true 11 5 22 11 25),
    (0x3B32D979, .vor true 11 5 22 11 25)
  ] : List (Nat × Instr)), decodeWord x.1 = .ok x.2 ∧ x.2.wellFormed = true := by decide +kernel

/-- The words of VXOR to VCMPLT in the order of the table, written out from their encodings. -/
theorem test_decode_vxor : ∀ x ∈ ([
    (0x3B36D979, .vxor true 11 5 22 11 25),
    (0x3B3AD979, .vshl true 11 5 22 11 25),
    (0x3B3ED979, .vshr true 11 5 22 11 25),
    (0x3B42D979, .vfadd true 11 5 22 11 25),
    (0x3B46D979, .vfsub true 11 5 22 11 25),
    (0x3B4AD979, .vfmul true 11 5 22 11 25),
    (0x3B4ED979, .vfma true 11 5 22 11 25),
    (0x3B52D979, .vfms true 11 5 22 11 25),
    (0x3B56D979, .vfmin true 11 5 22 11 25),
    (0x3B5AD979, .vfmax true 11 5 22 11 25),
    (0x3B5ED960, .vfabs true 11 5 22 11),
    (0x3B62D960, .vfneg true 11 5 22 11),
    (0x3B66D960, .vcvt true 11 5 22 11),
    (0x3B6AD960, .vwiden true 11 5 22 11),
    (0x3B6ED960, .vnarrow true 11 5 22 11),
    (0x3B72D979, .vwmul true 11 5 22 11 25),
    (0x3B76D979, .vwmac true 11 5 22 11 25),
    (0x3B79582B, .vaccrd true 11 2 22 1 11),
    (0x3B7D582B, .vaccwr true 11 2 22 1 11),
    (0x3B829979, .vcmpeq true 11 5 6 11 25),
    (0x3B869979, .vcmpne true 11 5 6 11 25),
    (0x3B8A9979, .vcmplt true 11 5 6 11 25)
  ] : List (Nat × Instr)), decodeWord x.1 = .ok x.2 ∧ x.2.wellFormed = true := by decide +kernel

/-- The words of VCMPLE to VRCP in the order of the table, written out from their encodings. -/
theorem test_decode_vcmple : ∀ x ∈ ([
    (0x3B8E9979, .vcmple true 11 5 6 11 25),
    (0x3B92D979, .vsel true 11 5 22 11 25),
    (0x3B969865, .vmlogic true 11 5 6 3 5),
    (0x3B9A80C0, .vmpopc true 11 5 6),
    (0x3B9E80C0, .vmfirst true 11 5 6),
    (0x3BA2D979, .vperm true 11 5 22 11 25),
    (0x3BA6D80B, .vbcast true 11 5 22 11),
    (0x3BAAD8C0, .viota true 11 5 22 6),
    (0x3BAED960, .vredsum true 11 5 22 11),
    (0x3BB2D960, .vredmin true 11 5 22 11),
    (0x3BB6D960, .vredmax true 11 5 22 11),
    (0x3BBA82C0, .vargmin true 11 5 22),
    (0x3BBED979, .vslide true 11 5 22 11 25),
    (0x3BC2D960, .vtopn true 11 5 22 11),
    (0x3BC6D979, .vspread true 11 5 22 11 25),
    (0x3BCAD966, .vpack true 11 5 22 11 6),
    (0x3BCED966, .vunpack true 11 5 22 11 6),
    (0x3BD2D979, .vhash true 11 5 22 11 25),
    (0x3BD6D960, .vpopcnt true 11 5 22 11),
    (0x3BDAD979, .vxorpc true 11 5 22 11 25),
    (0x3BDED979, .vlut true 11 5 22 11 25),
    (0x3BE2D960, .vrcp true 11 5 22 11)
  ] : List (Nat × Instr)), decodeWord x.1 = .ok x.2 ∧ x.2.wellFormed = true := by decide +kernel

/-- The words of VRSQ to MLATLD in the order of the table, written out from their encodings. -/
theorem test_decode_vrsq : ∀ x ∈ ([
    (0x3BE6D960, .vrsq true 11 5 22 11),
    (0x3BEAD979, .vrcpref true 11 5 22 11 25),
    (0x3BEED979, .vrsqref true 11 5 22 11 25),
    (0x3BF2D960, .vexp2 true 11 5 22 11),
    (0x3BF6D960, .vlog2 true 11 5 22 11),
    (0x3BF81860, .sbind true 11 6 3),
    (0x3BF89865, .sisect true 11 6 3 5),
    (0x3BF91865, .sunion true 11 6 3 5),
    (0x3BF99865, .ssub true 11 6 3 5),
    (0x3BFA1865, .smadd true 11 6 3 5),
    (0x3BFA80A0, .scount true 11 5),
    (0x3BFB1400, .sreset true 11 5),
    (0x3BFC02C0, .vreply true 11 22),
    (0x5B06C005, .mldb true 11 22 5),
    (0x5B080000, .mswap true 11),
    (0x5B0EADCD, .mma true 11 2 5 3 1 6 false true 5),
    (0x5B12C005, .mscq true 11 22 false 5),
    (0x5B140002, .mzero true 11 2),
    (0x5B1ACB09, .mdrain true 11 22 11 2 1),
    (0x5B1ECB05, .mgo true 11 22 11 5),
    (0x5B22CB02, .matt true 11 22 11 false 2),
    (0x5B26CB00, .mlatld true 11 22 11 false)
  ] : List (Nat × Instr)), decodeWord x.1 = .ok x.2 ∧ x.2.wellFormed = true := by decide +kernel

/-- The words of MLAT to SSBIND in the order of the table, written out from their encodings. -/
theorem test_decode_mlat : ∀ x ∈ ([
    (0x5B2ACB09, .mlat true 11 22 11 2 1),
    (0x5B2EC000, .mbjoin true 11 22 false),
    (0x5B300000, .mbleave true 11 false),
    (0x5B36C005, .mpop true 11 22 5),
    (0x5B380000, .mquiet true 11),
    (0x7B06CB64, .lcp true 11 22 11 6 false true),
    (0x7B08AB64, .lgo true 11 5 11 6 false true),
    (0x7B0ECB61, .lgath true 11 22 11 6 false true),
    (0x7B12CB00, .lpref true 11 22 11),
    (0x7B16CB00, .lq true 11 22 11 false),
    (0x7B1ACB00, .lqx true 11 22 11),
    (0x7B1EC005, .lring true 11 22 5),
    (0x7B200006, .lmark true 11 6),
    (0x7B26CB05, .lsbind true 11 22 11 5),
    (0x7B2ACB00, .lhint true 11 22 11),
    (0x9B06CB64, .scp true 11 22 11 6 false true),
    (0x9B08CB64, .sgo true 11 6 11 6 false true),
    (0x9B0ECB60, .sscat true 11 22 11 6 false),
    (0x9B12CB61, .sq true 11 22 11 6 false true),
    (0x9B16C005, .sring true 11 22 5),
    (0x9B180006, .smark true 11 6),
    (0x9B1ECB00, .ssbind true 11 22 11 false)
  ] : List (Nat × Instr)), decodeWord x.1 = .ok x.2 ∧ x.2.wellFormed = true := by decide +kernel

/-- The words of SFLUSH to XSCA in the order of the table, written out from their encodings. -/
theorem test_decode_sflush : ∀ x ∈ ([
    (0x9B22CB61, .sflush true 11 22 11 6 false true),
    (0x9B26CB00, .szero true 11 22 11),
    (0xBB06C060, .tcvt true 11 22 6 false),
    (0xBB0ACB60, .tcopy true 11 22 11 6 false),
    (0xBB0ECB60, .trope true 11 22 11 6 false),
    (0xBB12CB60, .tsplice true 11 22 11 6 false),
    (0xBB16CB60, .tfill true 11 22 11 6 false),
    (0xBB1ACB60, .tkvapp true 11 22 11 6 false),
    (0xBB1EC060, .tchk true 11 22 6 false),
    (0xDB06CB60, .qsearch true 11 22 11 6 false),
    (0xDB0ACB60, .qfetch true 11 22 11 6 false),
    (0xDB0ECB60, .qinsert true 11 22 11 6 false),
    (0xDB12CB60, .qdelete true 11 22 11 6 false),
    (0xDB16CB60, .qwalk true 11 22 11 6 false),
    (0xDB1AC000, .qcancel true 11 22),
    (0xDB1EC000, .qstat true 11 22),
    (0xDB22CB60, .qsnap true 11 22 11 6 false),
    (0xE0B6B38F, .xext 5 true 3 false 45967),
    (0xE1005B5E, .xrep 45 5 3 6),
    (0xF2B2F366, .xcall true 22 11 25 358),
    (0xE35D7A9C, .xlimm 6126236),
    (0xE4000016, .xsca 22)
  ] : List (Nat × Instr)), decodeWord x.1 = .ok x.2 ∧ x.2.wellFormed = true := by decide +kernel

/-- Reserved words are refused by name: word 0, the reserved engine field 0x7 below, a control opcode without meaning. -/
theorem test_decodeRefuses : decodeWord 0 ≠ .ok (.nop true) ∧ (decodeWord 0x00000000).isOk = false
    ∧ (decodeWord 0xF0000000).isOk = false ∧ (decodeWord 0x0FE00000).isOk = false := by decide +kernel

/-! ### Integer words, branches and jumps -/

/-- R161 to R163, with s2 = 100, s3 = −7, s4 = 0x8000_0000_0000_0001 and s0 = 0. -/
theorem test_integer : ∀ x ∈ ([
    (.add true 5 2 3, 93), (.sub true 5 2 3, 107), (.and true 5 2 3, 96), (.or true 5 2 3, -3), (.xor true 5 2 3, -99),
    (.andn true 5 2 3, 4), (.shl true 5 4 2, 0x1000000000), (.shr true 5 4 2, 0x8000000), (.shra true 5 4 2, -0x8000000),
    (.rotr true 5 4 2, 0x18000000), (.mul true 5 2 3, -700), (.mulhs true 5 2 3, -1), (.mulhu true 5 2 3, 99),
    (.div true 5 2 3, -14), (.div true 5 2 0, -1), (.div true 5 3 2, 0), (.divu true 5 3 2, 0x28F5C28F5C28F5C),
    (.divu true 5 2 0, -1), (.rem true 5 3 2, -7), (.rem true 5 2 0, 100), (.remu true 5 3 2, 9), (.remu true 5 2 0, 100),
    (.min true 5 2 3, -7), (.max true 5 2 3, 100), (.minu true 5 2 3, 100), (.maxu true 5 2 3, -7), (.slt true 5 3 2, 1),
    (.sltu true 5 3 2, 0), (.seq true 5 2 2, 1), (.clz true 5 2, 57), (.clz true 5 0, 64), (.ctz true 5 2, 2), (.popc true 5 2, 3),
    (.brev true 5 4, 0x8000000000000001), (.sext true 5 2 6, -28), (.sext true 5 2 7, 100), (.zext true 5 3 3, 9),
    (.addi true 5 2 0x7FF, 99), (.andi true 5 3 12, 8), (.ori true 5 2 3, 103), (.xori true 5 2 0x7FF, -101),
    (.shli true 5 2 60, 0x4000000000000000), (.shri true 5 4 63, 1), (.shrai true 5 4 62, -2), (.slti true 5 3 0, 1),
    (.sltui true 5 2 101, 1), (.seqi true 5 3 0x7F9, 1), (.lui true 5 0x8000, -0x80000000), (.auipc true 5 1, 0x10100)] :
    List (Instr × Word)), reg (after x.1 ints) 5 = x.2 := by decide +kernel

/-- R100: a write to s0 has no effect. -/
theorem test_zero_register : reg (after (.add true 0 2 3) ints) 0 = 0 ∧ (cx (after (.add true 0 2 3) ints)).fr.pc = 0x104 := by
  decide +kernel

/-- The words of `test_integer` and their kind meet the hypotheses of IntegerWords. -/
theorem witness_integerWords : ∀ i ∈ ([.add true 5 2 3, .div true 5 2 0, .sext true 5 2 6, .slti true 0 3 0, .lui true 5 0x8000,
    .auipc true 31 1, .brev true 5 4] : List Instr), ready ints i = true ∧ (integerResult (cx ints) i).isSome = true := by
  decide +kernel

/-- R171, R172: taken and not taken, a backward offset, a link register, a misaligned target and one beyond 48 bits. -/
theorem test_branches : ∀ x ∈ ([(.beq true 2 2 0x10, 0x140), (.beq true 2 3 0x10, 0x104), (.bne true 2 3 0x7FF, 0xFC),
    (.blt true 3 2 1, 0x104), (.bge true 3 2 5, 0x104), (.bltu true 2 3 5, 0x114), (.bgeu true 2 3 5, 0x104),
    (.jal true 1 0x20, 0x180), (.jalr true 1 2 0, 100)] : List (Instr × Word)), (cx (after x.1 ints)).fr.pc = x.2 := by
  decide +kernel

theorem test_link : reg (after (.jal true 1 0x20) ints) 1 = 0x104
    ∧ reg (after (.jalr true 1 3 0) ints) 1 = 0 ∧ (cx (after (.jalr true 1 3 0) ints)).trap.tcause.toNat % 256 = 5
    ∧ (cx (after (.jalr true 1 4 3) ints)).trap.tcause.toNat % 256 = 6 := by decide +kernel

theorem witness_branchesAndJumps :
    (∀ i ∈ ([.beq true 2 2 0x10, .beq true 2 3 0x10, .bgeu true 3 2 0] : List Instr),
      ready ints i = true ∧ (branchOf (cx ints) i).isSome = true)
    ∧ ready ints (.jal true 1 0x20) = true ∧ ready ints (.jalr true 1 3 0) = true := by decide +kernel

/-- R143 to R148: a prefix, and a call of a loaded body. -/
def withBody : State := { base with cores := [(0, { getCore base 0 with cstore := [(3, [0x10410000], true)] })] }

theorem test_prefix : (cx (after (.xlimm 5) base)).fr.pfx.limm = some 5 ∧ (cx (after (.xlimm 5) base)).fr.grp.count = 1
    ∧ (cx (after (.xcall true 3 0 0 7) withBody)).fr.mac.isSome = true := by decide +kernel

theorem witness_nopPrefixAndCallWords : ready base (.nop true) = true
    ∧ (cx base).life.status = .running ∧ (cx base).trap.smode = false ∧ (curGroup (cx base).fr).count < 8
    ∧ (prefixesWith (cx base).fr (.xext 1 false 0 false 0)).isSome = true ∧ (prefixesWith (cx base).fr (.xsca 3)).isSome = true
    ∧ withBody.sch.cur = .bank 0 false ∧ (cx withBody).fr.pfx = Prefixes.reset ∧ (cx withBody).fr.grp.count < 8
    ∧ (28 : BitVec 5).toNat ≤ 28 ∧ bodyOf withBody withBody.sch.cur 3 ≠ [] := by decide +kernel

/-! ### Loads, stores, atomics -/

/-- s2 = 0x1000; bytes 81 82 … 88 at address 0x1000; s3 = 2. -/
def mems : State := bytesAt 0x1000 [0x81, 0x82, 0x83, 0x84, 0x85, 0x86, 0x87, 0x88] (regs [(2, 0x1000), (3, 2), (4, 0x8887868584838281)] base)

/-- Eight bytes at an address of the mapped page. -/
def quad (s : State) (a : Nat) : Nat := leVal (mread s.mem.dram (0x200000 + a) 8)

/-- A control word's access passes its checks. -/
def passes (s : State) (va : Word) (n : Nat) (k : AccKind) : Bool :=
  match ctlCheck s s.sch.cur va n n k with
  | .ok _ _ => true
  | _ => false

/-- R8, R164. -/
theorem test_loads : ∀ x ∈ ([(.ldb true 5 2 0, -127), (.ldbu true 5 2 1, 0x82), (.ldh true 5 2 2, -31613), (.ldhu true 5 2 0, 0x8281),
    (.ldw true 5 2 4, -0x7778797B), (.ldwu true 5 2 0, 0x84838281), (.ldd true 5 2 0, 0x8887868584838281)] : List (Instr × Word)),
    reg (after x.1 mems) 5 = x.2 := by decide +kernel

theorem test_stores : ∀ x ∈ ([(.stb true 3 2 3, 0x8887868502838281), (.sth true 3 2 2, 0x8887868500028281),
    (.stw true 3 2 4, 0x0000000284838281), (.std true 3 2 0, 2)] : List (Instr × Nat)),
    quad (after x.1 mems) 0x1000 = x.2 := by decide +kernel

/-- R166 to R168: the new value in memory, and the old one in s5. -/
theorem test_atomics : ∀ x ∈ ([(.amo true 5 2 3 0 0, 2), (.amoa true 5 2 3 0 1, 0x8887868584838283), (.amor true 5 2 3 0 2, 0),
    (.amoar true 5 2 3 0 3, 0x8887868584838283), (.amop true 5 2 3 1 4, 0x8887868584838283), (.amo true 5 2 3 0 5, 2),
    (.amo true 5 2 3 0 6, 0x8887868584838281), (.signal true 2 3 0, 0x8887868584838283)] : List (Instr × Nat)),
    quad (after x.1 mems) 0x1000 = x.2 ∧ (x.1 = .signal true 2 3 0 ∨ reg (after x.1 mems) 5 = 0x8887868584838281) := by
  decide +kernel

theorem test_cas : quad (after (.cas true 4 2 3 0 0) mems) 0x1000 = 2 ∧ quad (after (.cas true 3 2 4 0 0) mems) 0x1000 = 0x8887868584838281
    ∧ reg (after (.cas true 3 2 4 0 0) mems) 3 = 0x8887868584838281 := by decide +kernel

theorem test_access_traps : (cx (after (.ldh true 5 2 1) mems)).trap.tcause.toNat % 256 = 5
    ∧ (cx (after (.ldh true 5 2 1) mems)).trap.tva = 0x1001 ∧ (cx (after (.ldb true 5 4 0) mems)).trap.tcause.toNat % 256 = 6
    ∧ (cx (after (.ldb true 5 4 0) mems)).trap.smode = true := by decide +kernel

/-- Accesses are buffered; a store of a 2 to address 0x1000 waits, and then a load of that byte into s5 behind it. -/
def buffering : State := { mems with sch := { mems.sch with buffer := true } }
def holding : State := after (.stb true 3 2 0) buffering
def holdingTwo : State := after (.ldb true 5 2 0) holding

/-- R317, R318: memory has the old byte until the store is performed; the load of that byte may not be performed before it, and then takes
the new one; a FENCE performs both. -/
theorem test_buffered : quad holdingTwo 0x1000 = 0x8887868584838281 ∧ holdingTwo.mem.buf.length = 2 ∧ performNth holdingTwo 1 = holdingTwo
    ∧ quad (performNth holdingTwo 0) 0x1000 = 0x8887868584838202 ∧ reg (performNth (performNth holdingTwo 0) 0) 5 = 2
    ∧ reg (after (.fence true false 4 63) holdingTwo) 5 = 2 := by decide +kernel

/-- R318: a load of another byte may come first, a second store may not. -/
theorem test_bufferOrder : reg (performNth (after (.ldb true 5 2 1) holding) 1) 5 = 0xFFFFFFFFFFFFFF82
    ∧ (performNth (after (.stb true 3 2 1) holding) 1).mem.buf.length = 2 := by decide +kernel

theorem witness_buffered : ready buffering (.stb true 3 2 0) = true ∧ buffering.sch.buffer = true ∧ memoriesCanonical buffering
    ∧ buffering.mem.errs = [] ∧ passes buffering 0x1000 1 .write = true ∧ ready holding (.ldb true 5 2 0) = true
    ∧ passes holding 0x1000 1 .read = true ∧ holding.mem.buf = [⟨0, ⟨0, 0, 0x201000, false⟩, .store [2]⟩]
    ∧ ready holding (.fence true false 4 63) = true ∧ drained (cx holding).eng 63 = true := by
  unfold memoriesCanonical; decide +kernel

/-- The next step performs an access of the buffer. -/
def performing (s : State) (k : Nat) : State := { s with sch := { s.sch with agenda := [.perform k] } }

theorem witness_bufferedAccesses : (performing holdingTwo 0).sch.agenda = [.perform 0] ∧ holdingTwo.mem.errs = []
    ∧ memoriesCanonical holdingTwo ∧ holdingTwo.mem.buf[0]? = some ⟨0, ⟨0, 0, 0x201000, false⟩, .store [2]⟩
    ∧ holdingTwo.mem.buf[1]? = some ⟨0, ⟨0, 0, 0x201000, false⟩, .load 5 1 true⟩
    ∧ accessesMeet ⟨0, ⟨0, 0, 0x201000, false⟩, .store [2]⟩ ⟨0, ⟨0, 0, 0x201000, false⟩, .load 5 1 true⟩ = true := by
  unfold memoriesCanonical; decide +kernel

/-- R122, R168: an acquire at cluster scope empties the data cache, one at core scope does not. -/
theorem test_acquire : (getCore (after (.amoa true 5 2 3 1 0) (after (.ldb true 5 2 0) mems)) 0).dcache = []
    ∧ (getCore (after (.amoa true 5 2 3 0 0) (after (.ldb true 5 2 0) mems)) 0).dcache.length = 1 := by decide +kernel

theorem witness_loadsStoresAtomics :
    (∀ i ∈ ([.ldb true 5 2 0, .ldd true 0 2 0, .stb true 3 2 7, .std true 3 2 0, .amo true 5 2 3 0 6, .cas true 3 2 4 0 0,
      .signal true 2 3 0] : List Instr), ready mems i = true
        ∧ ((loadOf i).isSome || (storeOf i).isSome || (atomicOf (cx mems) i).isSome) = true)
    ∧ memoriesCanonical mems ∧ mems.mem.errs = []
    ∧ passes mems 0x1000 8 .read = true ∧ passes mems 0x1000 8 .write = true ∧ passes mems 0x1000 8 .rmw = true := by
  unfold memoriesCanonical; decide +kernel

theorem witness_misalignedAccessTraps : ready mems (.ldh true 5 2 1) = true
    ∧ accessOf (cx mems) (.ldh true 5 2 1) = some (0x1001, 2) ∧ (cx mems).fr.abort = none ∧ (0x1001 : Word).toNat % 2 ≠ 0
    ∧ ready mems (.ldb true 5 4 0) = true ∧ accessOf (cx mems) (.ldb true 5 4 0) = some (0x8887868584838281, 1)
    ∧ 2 ^ 48 ≤ (0x8887868584838281 : Word).toNat := by decide +kernel

/-! ### Fences, counters, replies, events -/

/-- A vector word waits in its queue. -/
def busyEngine : State := here (fun c => { c with eng := setE c.eng .v { getE c.eng .v with
  queue := [⟨.vreply true 0 0, 0, 0, 0, captureOf c (.vreply true 0 0) 0⟩] } }) base

theorem test_fence : (cx (after (.fence true true 4 63) base)).fr.pc = 0x104 ∧ (cx (after (.fence true false 0 63) busyEngine)).fr.stall = .fence
    ∧ (cx (after (.fence true false 0 55) busyEngine)).fr.pc = 0x104 := by decide +kernel

theorem witness_prefetchFenceAndRetentionWords : ready base (.prefl true 2 2 0) = true ∧ ready base (.fence true true 4 63) = true
    ∧ drained (cx base).eng 63 = true ∧ ready busyEngine (.fence true false 0 63) = true ∧ drained (cx busyEngine).eng 63 = false
    ∧ base.sch.cur = .bank 0 false ∧ base.mem.errs = [] := by decide +kernel

/-- Counter 3 holds 5, the reply queue one entry, s6 = 5, s7 = 6; both banks of core 1 are empty. -/
def events : State := here (fun c => { addPg c 3 5 with eng := { c.eng with reply := [0x77] } })
  (regs [(6, 5), (7, 6)] base)

theorem test_counters : (cx (after (.waitgeLocal true 3 6) events)).fr.pc = 0x104
    ∧ (cx (after (.waitgeLocal true 3 7) events)).fr.stall = .waitgeLocal ∧ getPg (cx (after (.signalLocal true 15 6) events)) 15 = 5
    ∧ getPg (cx (after (.signalLocal true 3 6) events)) 3 = 10 := by decide +kernel

theorem test_replies : reg (after (.popr true 5) events) 5 = 0x77 ∧ (cx (after (.popr true 5) events)).eng.reply = []
    ∧ (cx (after (.popr true 5) base)).fr.stall = .popr ∧ reg (after (.peekr true 5) base) 5 = -1
    ∧ reg (after (.peekr true 5) events) 5 = 0x77 := by decide +kernel

theorem test_events : (cx (after (.wfe true) (after (.sev true) base))).fr.pc = 0x108 ∧ (cx (after (.wfe true) base)).fr.stall = .wfe := by
  decide +kernel

theorem witness_counterReplyAndEventWords : ready events (.waitgeLocal true 3 6) = true
    ∧ (src (cx events) 3 6).toNat ≤ (getPg (cx events) (effReg (cx events) 2 3)).toNat ∧ ready events (.signalLocal true 15 6) = true
    ∧ effReg (cx events) 2 15 < 16 ∧ ready events (.popr true 5) = true ∧ (cx events).eng.reply = [0x77]
    ∧ ready base (.popr true 5) = true ∧ (cx base).eng.reply = [] ∧ ready events (.peekr true 0) = true ∧ ready base (.wfe true) = true
    ∧ ready base (.sev true) = true := by decide +kernel

/-! ### Nests, control store, pins -/

/-- A nest of one level at 0x1000 and one of none at 0x1080; a body of one word at 0x1100; entry 3 is granted; pin 2 and four ways
are granted; s2 = 0x1000, s3 = 256. -/
def tables : State :=
  block 0 [(0x038, 4), (0x030, 0xFFFF0004), (0x040, 8)]
    (bytesAt 0x1100 [0, 0, 0x41, 0x10] (bytesAt 0x1000 (leList 29 (64 * 2 ^ 128) ++ [1] ++ leList 2 0 ++ leList 4 4 ++ leList 8 64 ++ leList 84 0)
      (regs [(2, 0x1000), (3, 256), (4, 0x1100)] base)))

/-- The access of a descriptor passes its checks. -/
def readable (s : State) (va : Word) (n al : Nat) : Bool := (rangeRead s va n al).isSome

theorem test_cstore : (getCore (after (.cstore true 3 4 0) tables) 0).cstore.length = 1
    ∧ (cx (after (.cstore true 4 4 0) tables)).trap.tcause.toNat % 256 = 6
    ∧ (cx (after (.cstore true 3 2 0) tables)).trap.tcause.toNat % 256 = 0x0F := by decide +kernel

theorem test_nest_malformed : (cx (after (.nest true 5 2 0x80) tables)).trap.tcause.toNat % 256 = 0x12
    ∧ (cx (after (.nest true 5 2 0x80) tables)).trap.tdet = 5 := by decide +kernel

theorem test_pin : getPin (after (.l2pin true 2 3 2 3) tables) 2 = ⟨true, 0x201000, 256, 4, 0, 0, 0, 0, [12, 13, 14, 15]⟩
    ∧ (cx (after (.l2pin true 2 3 1 3) tables)).trap.smode = true
    ∧ (getPin (after (.l2unpin true 2) (after (.l2pin true 2 3 2 3) tables)) 2).act = false := by decide +kernel

theorem witness_nestAndControlStoreWords : ready tables (.nest true 5 2 0) = true ∧ readable tables 0x1000 128 8 = true
    ∧ ready tables (.cstore true 3 4 0) = true ∧ readable tables 0x1100 4 4 = true ∧ bodyOk (cx tables).csr.vfmt Prefixes.reset 0 [0x10410000] = true
    ∧ (cx tables).trap.smode = false ∧ bit (preg tables 0 0x040).toNat 3 = true ∧ bit (preg tables 0 0x040).toNat 4 = false := by
  decide +kernel

theorem witness_retentionWords : ready tables (.l2pin true 2 3 2 3) = true ∧ (256 : Word).toNat % 128 = 0
    ∧ (match ctlCheck tables tables.sch.cur 0x1000 0 128 .touch with
      | .ok l s' => decide (l.typ = 0) && (match tlbFind s' (coreTlb tables.sch.cur) 0 0x1000 with
        | some t => decide (0x1000 + 256 ≤ t.base + t.size)
        | none => false)
      | _ => false) = true
    ∧ bit (preg tables 0 0x038).toNat 2 = true ∧ waysTaken tables 2 none + 4 ≤ 12
    ∧ waysTaken tables 2 (some 0) + 4 ≤ wbits (preg tables 0 0x030) 3 0 ∧ ready tables (.l2unpin true 2) = true
    ∧ tables.mem.errs = [] ∧ ready tables (.l2unpin true 3) = true ∧ bit (preg tables 0 0x038).toNat 3 = false := by decide +kernel

/-! ### CSR words -/

/-- s2 = 0x155, and the ring CSR of ring 3. -/
def csrs : State := regs [(2, 0x155), (3, 6)] base

theorem test_csr : reg (after (.csrr true 5 0x003) (after (.csrw true 0 2 0x003) csrs)) 5 = 0x155
    ∧ reg (after (.csrr true 5 0x001) (after (.csrw true 0 2 0x001) csrs)) 5 = 0x15
    ∧ reg (after (.csrr true 5 0x000) (after (.csrw true 0 3 0x000) csrs)) 5 = 0
    ∧ reg (after (.csrr true 5 0x003) (after (.csrc true 0 3 0x003) (after (.csrw true 0 2 0x003) csrs))) 5 = 0x151
    ∧ (cx (after (.csrr true 5 0x400) csrs)).trap.tcause.toNat % 256 = 4 := by decide +kernel

theorem witness_csrWords : ∀ i ∈ ([.csrr true 5 0x003, .csrw true 0 2 0x01B, .csrs true 5 2 0x001, .csrc true 5 2 0x002] : List Instr),
    ready csrs i = true ∧ (csrOf csrs i).isSome = true := by decide +kernel

theorem witness_csrValues : csrMask 0x018 = some 0x8FFF7FFF000FFFE0 ∧ csrMask 0x403 = some 0xFFFFFFFFFFFFFFFC := by decide +kernel

/-! ### Traps and returns -/

/-- In a handler at 0x200, whose trap was at 0x180. -/
def handler : State := here (fun c => { c with trap := { c.trap with smode := true, stvec := 0x200, tepc := 0x180, tcause := 0x0C } }) base

/-- User mode with a handler at 0x200. -/
def user : State := here (fun c => { c with trap := { c.trap with stvec := 0x200 } }) base

theorem test_ecall : (cx (after (.ecall true 9) user)).fr.pc = 0x200 ∧ (cx (after (.ecall true 9) user)).trap.tepc = 0x104
    ∧ (cx (after (.ecall true 9) user)).trap.twpc = 0x100 ∧ (cx (after (.ecall true 9) user)).trap.tdet = 9
    ∧ (cx (after (.ecall true 9) user)).trap.smode = true ∧ (cx (after (.ebreak true 9) user)).trap.tcause = 0x0D := by
  decide +kernel

theorem test_eret : (cx (after (.eret true) handler)).fr.pc = 0x180 ∧ (cx (after (.eret true) handler)).trap.smode = false
    ∧ (cx (after (.eret true) base)).trap.tcause.toNat % 256 = 4 := by decide +kernel

theorem test_double_trap : (cx (after (.ecall true 9) handler)).life.status ≠ .running
    ∧ (cx (after (.ecall true 9) handler)).trap.tepc = 0x180 := by decide +kernel

theorem witness_privilegeTraps : ∀ x ∈ ([(.eret true, user), (.tlbinv true 1 2 3 0, user), (.csrr true 1 0x402, user),
    (.csrw true 0 1 0x402, user), (.csrw true 0 1 0x005, user)] : List (Instr × State)),
    (cx x.2).life.status = .running ∧ (cx x.2).fr.mac = none ∧ (cx x.2).fr.pfx = Prefixes.reset ∧ isSeq x.2.sch.cur = false
      ∧ badStatic false Prefixes.reset (cx x.2).csr.vfmt (rawOf x.1) = false ∧ badCsr false (rawOf x.1) = false
      ∧ (cx x.2).trap.smode = false := by decide +kernel

theorem witness_trapEntryAndDoubleTrap : (getCtx user (.bank 0 false)).trap.smode = false ∧ atWord (getCtx user (.bank 0 false))
    ∧ Origin.control ≠ .engine ∧ (getCtx handler (.bank 0 false)).trap.smode = true := by unfold atWord; decide +kernel

/-- The word at 0x100 has still to take its ACCESS when a trap of an engine is entered first; and the handler of that trap. -/
def denied : State := here (fun c => { c with fr := { c.fr with abort := some false } }) user
def deniedHandler : State := raiseAt denied (.bank 0 false) .bank 2 6 0 0

theorem witness_trapEntryAndReturn_denied : (getCtx denied (.bank 0 false)).trap.smode = false ∧ atWord (getCtx denied (.bank 0 false))
    ∧ (getCtx denied (.bank 0 false)).fr.abort ≠ none ∧ ready deniedHandler (.eret true) = true
    ∧ (cx deniedHandler).trap.denied.isSome = true ∧ bit (cx deniedHandler).trap.tret.toNat 8 = false ∧ (cx deniedHandler).trap.fpend = false
    ∧ bit (cx deniedHandler).trap.tcause.toNat 24 = false := by
  unfold atWord; decide +kernel

/-- R346: after the return the word takes its ACCESS, at its own address. -/
theorem test_denied : (cx deniedHandler).fr.pc = 0x200 ∧ (cx (after (.eret true) deniedHandler)).fr.pc = 0x100
    ∧ (cx (after (.eret true) deniedHandler)).fr.abort = some false
    ∧ (cx (after (.ldd true 5 2 0) (after (.eret true) deniedHandler))).trap.tcause.toNat % 256 = 6
    ∧ (cx (after (.ldd true 5 2 0) (after (.eret true) deniedHandler))).trap.tepc = 0x100 := by decide +kernel

/-- Words that a handler may not run, of each engine and of each form. -/
def notHandled : List Instr := [.ecall true 9, .ebreak true 9, .yield true, .exit true, .spawn true 2 0, .waitge true 2 3 0, .xlimm 5,
  .xrep 3 2 1 7, .vadd true 0 0 5 1 2, .mswap true 0, .lq true 0 4 5 false, .sq true 0 2 0 3 false false, .tchk true 0 12 3 false,
  .qstat true 0 10]

theorem witness_handlerMayNot : (∀ i ∈ notHandled, handlerMayNot i) ∧ (cx handler).life.status = .running ∧ (cx handler).fr.mac = none
    ∧ (cx handler).fr.pfx = Prefixes.reset ∧ isSeq handler.sch.cur = false ∧ (cx handler).trap.smode = true :=
  ⟨by
    simp only [notHandled, List.forall_mem_cons, List.not_mem_nil, false_implies, implies_true, handlerMayNot]
    decide +kernel, by decide +kernel, by decide +kernel, by decide +kernel,
    by decide +kernel, by decide +kernel⟩

/-- R339, R347. -/
theorem test_handlerMayNot : ∀ i ∈ notHandled, (cx (after i handler)).life.status = .halting ∨ (cx (after i handler)).life.status = .empty := by
  decide +kernel

theorem witness_environmentCalls : user.sch.cur = .bank 0 false ∧ ready user (.ecall true 9) = true
    ∧ ready user (.ebreak true 0x7FF) = true ∧ (cx user).trap.smode = false ∧ bit (preg user 0 0).toNat 8 = false := by decide +kernel

/-- Trap records are logged: a ring of 64 entries at 0x1000 with room, and a full one. -/
def logs : State := block 0 [(0x000, 0x101), (0x058, 0x1000), (0x060, 6), (0x068, 65), (0x070, 2)] user
def fullLog : State := block 0 [(0x068, 66)] logs

theorem witness_environmentCalls_logged : (∀ s ∈ [logs, fullLog], s.sch.cur = .bank 0 false ∧ ready s (.ecall true 9) = true
      ∧ (cx s).trap.smode = false ∧ bit (preg s 0 0).toNat 8 = true ∧ s.mem.errs = [] ∧ memoriesCanonical s)
    ∧ (preg logs 0 0x068).toNat + 2 ^ 32 - (preg logs 0 0x070).toNat ≠ 2 ^ 32 + 64
    ∧ ((preg fullLog 0 0x068).toNat + 2 ^ 32 - (preg fullLog 0 0x070).toNat) % 2 ^ 32 = 64
    ∧ (match (xlate logs sysTlb 0 (asidBase logs 0) 0x1040 .write false).1 with
      | .ok l => l == ⟨0, 0, 0x201040, false⟩
      | _ => false) = true := by unfold memoriesCanonical; decide +kernel

/-- R350: entry 65 of 64 lies at 0x1040, with TEPC first and TWPC at byte 8. -/
theorem test_trapRing : mread (after (.ecall true 9) logs).mem.dram 0x201040 16 = leList 8 0x104 ++ leList 8 0x100
    ∧ (after (.ecall true 9) fullLog).mem = fullLog.mem := by decide +kernel

/-- A handler that ends its spore. -/
def ending : State := here (fun c => { c with trap := { c.trap with tret := 0x100 } }) handler

theorem witness_trapReturns : ready handler (.eret true) = true ∧ bit (cx handler).trap.tret.toNat 8 = false
    ∧ (cx handler).trap.fpend = false ∧ bit (cx handler).trap.tcause.toNat 24 = false ∧ ready ending (.eret true) = true
    ∧ bit (cx ending).trap.tret.toNat 8 = true ∧ (cx ending).trap.fpend = false
    ∧ quiet (trapReturn ending ending.sch.cur) ending.sch.cur = true
    ∧ trapPending (getCtx (trapReturn ending ending.sch.cur) ending.sch.cur) = false := by decide +kernel

/-! ### Spores -/

/-- A compute stage with room for four items, of one window unit, that may spawn into stage 1. -/
def stage0 : StageDesc := ⟨0x100, 0, 1, 1, 2, 1, 0, 0, 4, 3, 0, 0, 0, 0, 2, 0, 0, 0, 0, 0⟩

/-- A launch of two stages under tag 9. -/
def launched : Instance := ⟨5, 9, 0, [11, 12, 13, 14], 0, [stage0, stage0], [(0, 3)], [⟨3, 1, true, false⟩, ⟨3, 1, false, false⟩], 0, []⟩

/-- The spore of the current bank is item 7 of stage 0; item 8 of the stage is READY. -/
def spores : State :=
  here (fun c => { c with life := { c.life with item := 7, inst := 5, rcd := { Spore.reset with tag := 9 } } })
    (updPart (regs [(2, 0x1000), (3, 2), (4, 3)] (bytesAt 0x1000 (leList 8 2) base)) 0 fun q => { q with
      insts := [launched]
      items := [⟨7, 5, 0, .onCore 0 false, { Spore.reset with tag := 9 }, 0, none, none⟩,
        ⟨8, 5, 0, .ready 3 8, { Spore.reset with tag := 9, prio := 2, resume := 0x100, arg0 := 77 }, 3, none, none⟩] })

/-- A yield is requested of it. -/
def asked : State := here (fun c => { c with life := { c.life with yieldReq := true } }) spores

theorem test_yield : (cx (after (.yield true) spores)).fr.pc = 0x104 ∧ (cx (after (.yield true) asked)).life.status = .empty
    ∧ ((findItem (getPart (after (.yield true) asked) 0) 7).map fun x => (x.rcd.resume, x.rcd.reason)) = some (0x104, 1) := by
  decide +kernel

theorem test_exit : (cx (after (.exit true) spores)).life.status = .empty
    ∧ findItem (getPart (after (.exit true) spores) 0) 7 = none := by decide +kernel

theorem test_waitge : (cx (after (.waitge true 2 3 0) spores)).fr.pc = 0x104
    ∧ ((findItem (getPart (after (.waitge true 2 4 0) spores) 0) 7).map fun x => (x.st, x.rcd.resume)) = some (.waiting 0x1000 0 3, 0x104) := by
  decide +kernel

theorem witness_suspensionWords : (∀ i ∈ ([.yield true, .exit true, .waitge true 2 3 0, .waitge true 2 4 0] : List Instr),
      ready spores i = true) ∧ ready asked (.yield true) = true ∧ (cx asked).life.yieldReq = true
    ∧ spores.sch.cur = .bank 0 false ∧ (cx spores).life.part < 8 ∧ maySuspend spores = true ∧ maySuspend asked = true
    ∧ quiet spores spores.sch.cur = true ∧ trapPending (cx spores) = false ∧ (cx spores).life.drain = .none
    ∧ spores.mem.errs = [] ∧ asked.mem.errs = [] ∧ spores.mem.buf = [] ∧ asked.mem.buf = []
    ∧ passes spores 0x1000 8 .read = true ∧ slotHeld asked ∧ slotHeld spores := by unfold slotHeld slotHeldBy; decide +kernel

/-- An image for stage 1 at 0x1040, one for stage 2, which is none, at 0x1080. -/
def images : State := regs [(2, 0x1040)] (bytesAt 0x1040 (leList 8 0x200 ++ leList 8 1 ++ leList 8 42 ++ leList 40 0 ++ leList 8 0 ++ leList 8 2) spores)

theorem test_spawn : (getPart (after (.spawn true 2 0) images) 0).items.length = 3
    ∧ (cx (after (.spawn true 2 0x40) images)).trap.tcause.toNat % 256 = 9
    ∧ (cx (after (.spawn true 2 0x40) images)).trap.tdet = 2 := by decide +kernel

/-- Sequencer 5 is granted and free; the entry of its stream is at 0x300. -/
def forks : State := regs [(2, 0x300), (3, 99)] (block 0 [(0x020, 0x20)] base)

theorem test_fork : reg (after (.fork true 5 2 3 1 1) forks) 5 = 0x100008005
    ∧ (getCtx (after (.fork true 5 2 3 1 1) forks) (.seq 5)).fr.pc = 0x300
    ∧ getS (getCtx (after (.fork true 5 2 3 1 1) forks) (.seq 5)) 10 = 99
    ∧ reg (after (.fork true 6 2 3 1 1) (after (.fork true 5 2 3 1 1) forks)) 6 = 0 := by decide +kernel

theorem witness_spawnAndFork : ready images (.spawn true 2 0) = true ∧ (cx images).life.drain = .none
    ∧ readable images 0x1040 64 64 = true ∧ (spawnTarget (getPart images 0) 5 0 1).isSome = true
    ∧ queueRoom (getPart images 0) 5 1 = true ∧ readable images 0x1080 64 64 = true ∧ spawnTarget (getPart images 0) 5 0 2 = none
    ∧ ready forks (.fork true 5 2 3 1 1) = true ∧ forks.sch.cur = .bank 0 false ∧ (0x300 : Word).toNat % 4 = 0
    ∧ bit (preg forks 0 0x020).toNat 5 = true ∧ (getCtx forks (.seq 5)).life.status = .empty ∧ (getSeq forks 5).up = [] := by
  decide +kernel

/-! ### Mailboxes and streams -/

/-- A stream on sequencer 5; s2 its handle, s3 = −1; one message in each mailbox. -/
def streams : State :=
  let s := regs [(2, 0x100008005), (3, -1)] (after (.fork true 5 2 3 1 1) forks)
  bytesAt 0x1000 (leList 8 0x100008005 ++ leList 8 1) (setSeq s 5 { getSeq s 5 with up := [0x55], down := [0x66] })

/-- The same, with the sequencer as the current context. -/
def onSeq : State :=
  let s := streams
  updCtx { s with sch := { s.sch with cur := .seq 5 } } (.seq 5) fun c => setS (setS c 2 0x100008005) 3 (-1)

theorem test_mailboxes : (getSeq (after (.msend true 2 3) streams) 5).down = [0x66, 0x7FFFFFFFFFFFFFFF]
    ∧ reg (after (.mrecv true 7 2) streams) 7 = 0x55 ∧ (cx (after (.mrecv true 7 2) (after (.mrecv true 7 2) streams))).fr.stall = .mailbox
    ∧ (getSeq (after (.msend true 2 3) onSeq) 5).up = [0x55, 0x7FFFFFFFFFFFFFFF] ∧ reg (after (.mrecv true 7 2) onSeq) 7 = 0x66 := by
  decide +kernel

/-- The stream has stopped. -/
def stopped : State := regs [(2, 0x1000)] (updCtx streams (.seq 5) fun c => { c with life := { c.life with status := .stopped } })

theorem test_cont : (getCtx (after (.cont true 2 0) stopped) (.seq 5)).life.status = .running
    ∧ (getCtx (after (.cont true 2 0) stopped) (.seq 5)).life.drain = .none
    ∧ (cx (after (.cont true 2 0x10) stopped)).trap.tcause.toNat % 256 = 6 := by decide +kernel

theorem witness_mailboxesAndStreams : streams.sch.cur = .bank 0 false ∧ ready streams (.msend true 2 3) = true
    ∧ ready streams (.mrecv true 7 2) = true ∧ staleHandle streams 0 (src (cx streams) 2 2) = false
    ∧ seqFree streams (handleSeq (src (cx streams) 2 2)) = false ∧ (getSeq streams 5).up = [0x55] ∧ (getSeq streams 5).pendMsg = []
    ∧ onSeq.sch.cur = .seq 5 ∧ ready onSeq (.msend true 2 3) = true ∧ ready onSeq (.mrecv true 7 2) = true
    ∧ src (cx onSeq) 2 2 = (cx onSeq).csr.sqid ∧ (getSeq onSeq 5).up.length < 8 ∧ ready stopped (.cont true 2 0) = true
    ∧ readable stopped 0x1000 16 16 = true ∧ (getCtx stopped (.seq 5)).life.status = .stopped
    ∧ (getCtx stopped (.seq 5)).life.drain ≠ .exit := by decide +kernel

/-- The core has taken the one message from above; the stream has filled that mailbox; the stream has ended and its mailbox is empty. -/
def drainedUp : State := after (.mrecv true 7 2) streams
def fullUp : State := setSeq onSeq 5 { getSeq onSeq 5 with up := List.replicate 8 0x55 }
def endedSeq : State := updCtx drainedUp (.seq 5) fun _ => Ctx.reset

theorem witness_mailboxes_waits : (∀ s ∈ [drainedUp, endedSeq], s.sch.cur = .bank 0 false ∧ ready s (.mrecv true 7 2) = true
      ∧ staleHandle s 0 (src (cx s) 2 2) = false ∧ (getSeq s (handleSeq (src (cx s) 2 2))).up = [])
    ∧ seqFree drainedUp (handleSeq (src (cx drainedUp) 2 2)) = false ∧ seqFree endedSeq (handleSeq (src (cx endedSeq) 2 2)) = true
    ∧ ready endedSeq (.msend true 2 3) = true ∧ fullUp.sch.cur = .seq 5 ∧ ready fullUp (.msend true 2 3) = true
    ∧ src (cx fullUp) 2 2 = (cx fullUp).csr.sqid ∧ 8 ≤ (getSeq fullUp 5).up.length := by decide +kernel

/-- R181. -/
theorem test_mailboxes_waits : (cx (after (.msend true 2 3) fullUp)).fr.stall = .mailbox
    ∧ (cx (after (.mrecv true 7 2) endedSeq)).trap.tcause.toNat % 256 = 6
    ∧ (cx (after (.msend true 2 3) endedSeq)).trap.tcause.toNat % 256 = 6 := by decide +kernel

/-- Supervisor mode, with identifier 0 in s2. -/
theorem witness_invalidateTranslations : ready handler (.tlbinv true 2 0 0 5) = true ∧ (src (cx handler) 1 2).toNat < 512
    ∧ asidOk handler (cx handler).life.part (src (cx handler) 1 2).toNat = true := by decide +kernel

/-- The operations that TLBINV and the host's TICMD leave. -/
theorem witness_invalidationDone : ((after (.tlbinv true 2 0 0 5) handler).ops.map fun x => (x.2.body, x.2.part, x.2.ctr))
      = [(.inval 0 0 0 false, 0, .loc 5)]
    ∧ ((after (.ticmd 0 3) { handler with boot := { handler.boot with ready := true } }).ops.map fun x => (x.2.body, x.2.part))
      = [(.inval 0 0 3 true, 0)] := by decide +kernel

/-- An invalidation that completes while a store of two bytes to address 0x201000 waits. -/
def invalBuffered : State :=
  let s := after (.tlbinv true 2 0 0 5) handler
  { s with mem := { s.mem with buf := [⟨0, ⟨0, 0, 0x201000, false⟩, .store [7, 8]⟩] } }

theorem witness_invalidationDone_buffered : (invalBuffered.ops.map fun x => (x.1, x.2.body)) = [(0, .inval 0 0 0 false)]
    ∧ invalBuffered.mem.errs = [] ∧ (invalBuffered.mem.buf.map fun x => (x.loc.typ, x.act)) = [(0, .store [7, 8])]
    ∧ (invalBuffered.mem.buf.map fun x => x.loc.pa) = [0x201000]
    ∧ mread (after (.tlbInvalDone 0) invalBuffered).mem.dram 0x201000 2 = [7, 8] ∧ (after (.tlbInvalDone 0) invalBuffered).mem.buf = [] := by
  decide +kernel

theorem test_tlbinv : (after (.tlbinv true 2 0 0 5) handler).ops.length = 1
    ∧ getPg (cx (after (.tlbInvalDone 0) (after (.tlbinv true 2 0 0 5) handler))) 5 = 1 := by decide +kernel

/-! ### Vector words -/

/-- An element of a vector register of the current context. -/
def lane32 (s : State) (r k : Nat) : Nat := (groupVal (cx s) r 1) / 2 ^ (32 * k) % 2 ^ 32

/-- The pairs f0 f1 = I32 FP32, f2 f3 = I8 I16, f4 f5 = I16 I8, f6 f7 = FP16 FP32; v1 = 5, −3, 7, 0 … and v2 = 2, 2, 2, 0 … as I32,
v3 = 1.0, 2.0, 0 … as FP32; m0 and m1 hold bits 0 and 2. -/
def vecs : State :=
  here (fun c =>
    let c := setGroup c 1 (5 + 2 ^ 32 * (2 ^ 32 - 3) + 2 ^ 64 * 7) 1
    let c := setGroup c 2 (2 + 2 ^ 32 * 2 + 2 ^ 64 * 2) 1
    let c := setGroup c 3 (0x3F800000 + 2 ^ 32 * 0x40000000) 1
    let c := setM (setM c 1 5) 0 5
    { c with csr := { c.csr with vfmt := 0x0F0E020404020F06 } }) base

/-- R196, R210: two elements of v5. -/
theorem test_vector_integer : ∀ x ∈ ([(.vadd true 0 0 5 1 2, 7, 2 ^ 32 - 1), (.vsub true 0 0 5 1 2, 3, 2 ^ 32 - 5),
    (.vaddsat true 0 0 5 1 2, 7, 2 ^ 32 - 1), (.vsubsat true 0 0 5 1 2, 3, 2 ^ 32 - 5), (.vavg true 0 0 5 1 2, 4, 0),
    (.vmul true 0 0 5 1 2, 10, 2 ^ 32 - 6), (.vmulhi true 0 0 5 1 2, 0, 2 ^ 32 - 1), (.vmac true 0 0 5 1 2, 10, 2 ^ 32 - 6),
    (.vmin true 0 0 5 1 2, 2, 2 ^ 32 - 3), (.vmax true 0 0 5 1 2, 5, 2), (.vabs true 0 0 5 1, 5, 3), (.vand true 0 0 5 1 2, 0, 0),
    (.vor true 0 0 5 1 2, 7, 2 ^ 32 - 1), (.vxor true 0 0 5 1 2, 7, 2 ^ 32 - 1), (.vshl true 0 0 5 1 2, 20, 2 ^ 32 - 12),
    (.vshr true 0 0 5 1 2, 1, 2 ^ 32 - 1), (.vpopcnt true 0 0 5 1, 2, 31), (.vxorpc true 0 0 5 1 2, 3, 32),
    (.vsel true 0 0 5 1 2, 5, 2), (.vbcast true 0 0 5 1, 5, 5), (.viota true 0 0 5 1, 0, 1), (.vslide true 0 0 5 1 2, 5, 2 ^ 32 - 3),
    (.vperm true 0 0 5 1 2, 7, 5), (.vredsum true 0 0 5 1, 9, 0), (.vredmin true 0 0 5 1, 2 ^ 32 - 3, 0),
    (.vredmax true 0 0 5 1, 7, 0), (.vpack true 0 0 5 1 1, 5, 7), (.vunpack true 0 0 5 1 1, 5, 0)] : List (Instr × Nat × Nat)),
    lane32 (after x.1 vecs) 5 0 = x.2.1 ∧ lane32 (after x.1 vecs) 5 1 = x.2.2 := by decide +kernel

/-- R197, R198, R211 to R214. -/
theorem test_vector_floating : ∀ x ∈ ([(.vfadd true 0 1 6 3 3, 0x40000000, 0x40800000), (.vfsub true 0 1 6 3 3, 0, 0),
    (.vfmul true 0 1 6 3 3, 0x3F800000, 0x40800000), (.vfma true 0 1 6 3 3, 0x3F800000, 0x40800000),
    (.vfms true 0 1 6 3 3, 0xBF800000, 0xC0800000), (.vfmin true 0 1 6 3 0, 0, 0), (.vfmax true 0 1 6 3 0, 0x3F800000, 0x40000000),
    (.vfabs true 0 1 6 3, 0x3F800000, 0x40000000), (.vfneg true 0 1 6 3, 0xBF800000, 0xC0000000),
    (.vcvt true 0 0 6 1, 0x40A00000, 0xC0400000), (.vwiden true 0 2 6 1, 5, 0), (.vnarrow true 0 4 6 2, 0x20002, 2),
    (.vwmul true 0 2 6 1 2, 10, 0), (.vwmac true 0 2 6 1 2, 10, 0), (.vlut true 0 2 6 1 2, 0x20000, 0x20002),
    (.vrcp true 0 1 6 3, 0x3F800000, 0x3F000000), (.vexp2 true 0 1 6 3, 0x40000000, 0x40800000),
    (.vlog2 true 0 1 6 3, 0, 0x3F800000), (.vrcpref true 0 1 6 3 3, 0x3F800000, 0xC0800000),
    (.vrsqref true 0 1 6 3 3, 0x3F800000, 0xC0A00000)] : List (Instr × Nat × Nat)),
    lane32 (after x.1 vecs) 6 0 = x.2.1 ∧ lane32 (after x.1 vecs) 6 1 = x.2.2 := by decide +kernel

/-- R201, R202, R205, R208, R219: masks and reply entries, whose bits 63:61 are 1. -/
theorem test_vector_masks : (getM (cx (after (.vcmplt true 0 0 3 1 2) vecs)) 3).toNat % 8 = 2
    ∧ (getM (cx (after (.vcmpeq true 0 0 3 1 2) vecs)) 3).toNat % 16 = 8 ∧ (getM (cx (after (.vmlogic true 0 0 3 1 0) vecs)) 3) = 0
    ∧ (cx (after (.vmpopc true 0 0 1) vecs)).eng.reply = [0x2000000000000002]
    ∧ (cx (after (.vmfirst true 0 0 1) vecs)).eng.reply = [0x2000000000000000]
    ∧ (cx (after (.vargmin true 0 0 1) vecs)).eng.reply = [0x20000001FFFFFFFD]
    ∧ (cx (after (.vpack true 0 0 5 1 1) vecs)).eng.reply = [0x2000000000000002]
    ∧ (cx (after (.vreply true 0 2) vecs)).eng.reply = [0x2000000200000002] := by decide +kernel

/-- R199, R200. -/
theorem test_accumulator_rows : lane32 (after (.vaccrd true 0 3 5 0 7) (after (.vaccwr true 0 3 7 0 1) vecs)) 5 1 = 2 ^ 32 - 3
    ∧ lane32 (after (.vaccrd true 0 3 5 0 6) (after (.vaccwr true 0 3 7 0 1) vecs)) 5 1 = 0 := by decide +kernel

/-- R206, R207, with N = 2 before the word: two of 5, −3, 7 by magnitude with their index bytes, and back. -/
theorem test_vector_compress : lane32 (after (.vtopn true 0 0 6 1) (after (.xext 0 false 7 false 2) vecs)) 6 0 = 5
    ∧ lane32 (after (.vtopn true 0 0 6 1) (after (.xext 0 false 7 false 2) vecs)) 6 1 = 7
    ∧ lane32 (after (.vtopn true 0 0 6 1) (after (.xext 0 false 7 false 2) vecs)) 7 0 = 0x200
    ∧ lane32 (after (.vspread true 0 0 5 6 7) (after (.xext 0 false 7 false 2) (after (.vtopn true 0 0 6 1) (after (.xext 0 false 7 false 2) vecs)))) 5 2 = 7 := by
  decide +kernel

/-- R36: a word in a format it does not take. -/
theorem test_vector_format : vecRes (vecSees vecs (.vfadd true 0 0 5 1 2) (.vfadd true 0 0 5 1 2)) (.vfadd true 0 0 5 1 2)
    = .error 0x10 := by decide +kernel

/-- The word and its place meet the hypotheses of VectorWords. -/
def vecOk (s : State) (i : Instr) : Bool :=
  starts s i i && engineOf i == .v && !streamWord i && (match vecRes (vecSees s i i) i with
    | .ok o => o.trap.isNone && decide ((cx s).eng.reply.length + o.reply.toList.length ≤ 16)
    | .error _ => false)

theorem witness_vectorWords : vecs.mem.errs = []
    ∧ (∀ i ∈ ([.vadd true 0 0 5 1 2, .vfma true 0 1 6 3 3, .vcvt true 0 0 6 1,
      .vhash true 0 0 5 1 2, .vrsq true 0 1 6 3, .vreply true 0 1, .vaccwr true 0 3 7 0 1, .vadd true 0 0 31 1 2] : List Instr),
      vecOk vecs i = true ∧ usesQin (rawOf i) false = false ∧ (cx vecs).eng.qout.length < 8
        ∧ (vecTile i).all (fun t => !tileBusy (cx vecs).eng t vecs.sch.uid) = true) := by decide +kernel

theorem witness_vectorFormats : vecTakes (vecSees vecs (.vadd true 0 0 5 1 2) (.vadd true 0 0 5 1 2)) (.vadd true 0 0 5 1 2)
    ∧ vecTakes (vecSees vecs (.vfadd true 0 1 5 1 2) (.vfadd true 0 1 5 1 2)) (.vfadd true 0 1 5 1 2)
    ∧ vecTakes (vecSees vecs (.vwmul true 0 6 6 1 2) (.vwmul true 0 6 6 1 2)) (.vwmul true 0 6 6 1 2)
    ∧ replyFits vecs 1 :=
  ⟨⟨.sint 32, by decide +kernel, rfl⟩, ⟨.flt .fp32, by decide +kernel, rfl⟩,
   ⟨.flt .fp16, .flt .fp32, by decide +kernel, by decide +kernel, rfl⟩, by unfold replyFits; decide +kernel⟩

theorem witness_vectorElements : vFmt (vecSees vecs (.vadd true 0 0 5 1 2) (.vadd true 0 0 5 1 2)) 0 = some (.sint 32)
    ∧ (∀ k, ∃ x, lane (vecSees vecs (.vadd true 0 0 5 1 2) (.vadd true 0 0 5 1 2)) (.sint 32) k (.vadd true 0 0 5 1 2) = some (5, x))
    ∧ (∀ k, ∃ x, maskLane (vecSees vecs (.vcmplt true 0 0 3 1 2) (.vcmplt true 0 0 3 1 2)) (.sint 32) k (.vcmplt true 0 0 3 1 2)
        = some (3, x))
    ∧ vFmt (vecSees vecs (.vcmplt true 0 1 3 3 3) (.vcmplt true 0 1 3 3 3)) 1 = some (.flt .fp32)
    ∧ (∀ k, ∃ x, maskLane (vecSees vecs (.vcmplt true 0 1 3 3 3) (.vcmplt true 0 1 3 3 3)) (.flt .fp32) k (.vcmplt true 0 1 3 3 3)
        = some (3, x)) :=
  ⟨by decide +kernel, fun _ => ⟨_, rfl⟩, fun _ => ⟨_, rfl⟩, by decide +kernel, fun _ => ⟨_, rfl⟩⟩

/-- v3 holds 1.0, 2.0, a NaN, −0 and then 0; m3 is full. -/
def nans : State := here (fun c => setM (setGroup c 3 (0x3F800000 + 2 ^ 32 * 0x40000000 + 2 ^ 64 * 0x7FC00000 + 2 ^ 96 * 0x80000000) 1) 3 (-1)) vecs

/-- R103, R201: 1.0 < 1.0 fails, so does a comparison with a NaN, which sets NV; −0 = 0; the bits past the 128 elements are cleared. -/
theorem test_vector_compares : (getM (cx (after (.vcmplt true 0 1 3 3 3) nans)) 3) = 0
    ∧ (cx (after (.vcmplt true 0 1 3 3 3) nans)).csr.fflags.toNat % 2 ^ 5 ≠ 0
    ∧ (getM (cx (after (.vcmpeq true 0 1 3 3 3) nans)) 3).toNat = 2 ^ 128 - 1 - 4
    ∧ (cx (after (.vcmpeq true 0 1 3 3 3) nans)).csr.fflags = 0
    ∧ (getM (cx (after (.vcmpeq true 0 1 3 3 0) nans)) 3).toNat % 16 = 8 := by decide +kernel

/-- A vector queue with a word in it, and a full one. -/
def fullEngine : State := here (fun c => { c with eng := setE c.eng .v { getE c.eng .v with
  queue := List.replicate 64 ⟨.vreply true 0 0, 0, 0, 0, captureOf c (.vreply true 0 0) 0⟩ } }) base

theorem witness_routedWords : (∀ s ∈ [busyEngine, fullEngine], engineWord (.vreply true 0 1) = true
      ∧ ready s (.vreply true 0 1) = true ∧ effInstr (cx s).fr (.vreply true 0 1) = some (.vreply true 0 1))
    ∧ (getE (cx busyEngine).eng .v).queue.length < 64 ∧ (getE (cx busyEngine).eng .v).queue ≠ []
    ∧ 64 ≤ (getE (cx fullEngine).eng .v).queue.length := by decide +kernel

theorem witness_engineWordCompletes : completes vecs (.vadd true 0 0 5 1 2) (.vadd true 0 0 5 1 2) = true
    ∧ completes vecs (.vreply true 0 1) (.vreply true 0 1) = true := by decide +kernel

/-! ### Words of the load, store and transform engines and of the streams -/

/-- The stream TLBs of bank A of core 0 hold the mapped page. -/
def mapped (s : State) : State :=
  { s with cache := { s.cache with tlb := (List.range 6).map fun e => ⟨engineTlb (.bank 0 false) e, 0, 0, 0x200000, 0x2001E1⟩ } }

/-- Bytes at an offset of the window. -/
def padAs (a : Nat) (bs : List Byte) (s : State) : State := { s with mem := { s.mem with scratch := mwrite s.mem.scratch a bs } }

/-- A byte run 1, 2, 3 … -/
def count (n : Nat) : List Byte := (List.range n).map fun k => BitVec.ofNat 8 (k + 1)

/-- Records of a key and an FP32 value. -/
def recs (l : List (Nat × Nat)) : List Byte := (l.map fun x => leList 4 x.1 ++ leList 4 x.2).flatten

/-- s2 = 0x1000 with 32 bytes there, s3 names 32 bytes at offset 0x100, s4 = 0x200, s5 = 1, s6 = 0x400 with 16 offsets; ring 1 holds 2
of its 4 slots; nest 0 moves 32 bytes twice. -/
def movs : State :=
  mapped (bytesAt 0x1000 (count 32) (padAs 0x200 (count 32) (padAs 0x400 ((List.range 16).map fun _ => leList 4 0x200).flatten
    (here (fun c =>
      let c := setRing c 1 ⟨BitVec.ofNat 64 (2 ^ 63 + 3 * 2 ^ 48 + 0x4000), 3, 1, 2⟩
      let c := setNest c 0 ⟨0x1000, 0x600, 0, 0, 32, [⟨2, 0, 64⟩]⟩
      { c with eng := { c.eng with qout := [0x0807060504030201] } })
    (regs [(2, 0x1000), (3, 0x2000100), (4, 0x200), (5, 1), (6, 0x400)] base)))))

/-- k0, k1 and k6 are the streams of the worked example of R218, k2 has only rising keys; s8 binds 16 records of a U32 key and an FP32
value, s9 = 0x800. -/
def strs : State :=
  padAs 0x800 (recs [(3, 0x3F800000), (8, 0x40000000), (8, 0x41100000), (12, 0x40800000)])
    (padAs 0x900 (recs [(8, 0x3F000000), (10, 0x3FC00000)])
    (here (fun c => setK (setK (setK (setK c 0 (.input 0x800 0 15 4 0 none)) 1 (.input 0x900 0 15 2 0 none))
      2 (.input 0x800 0 15 2 0 none)) 6 (.output 0xA00 0 15 16 0))
    (regs [(8, 0xF0000000010), (9, 0x800)] base)))

/-- Descriptors: s10 of a copy of s13 = 9 bytes from 0x1000 to 0x1003, s11 of a fill of 16 bytes at 0x1200 with s2, s12 of the nine
digits at 0x10E0. -/
def trans : State :=
  mapped (bytesAt 0x1000 (count 9) (bytesAt 0x1080 (leList 8 0x1000 ++ leList 8 0x1003)
    (bytesAt 0x10A0 (leList 8 0x1200 ++ leList 8 16) (bytesAt 0x10C0 (leList 8 0x10E0 ++ leList 8 9)
    (bytesAt 0x10E0 [0x31, 0x32, 0x33, 0x34, 0x35, 0x36, 0x37, 0x38, 0x39]
    (regs [(2, 0x1000), (10, 0x1080), (11, 0x10A0), (12, 0x10C0), (13, 9)] base))))))

/-- Bytes of the window. -/
def pad (s : State) (off n : Nat) : List Byte := padRead s (.bank 0 false) off n

/-- Bytes of the mapped page. -/
def bytes (s : State) (a n : Nat) : List Byte := mread s.mem.dram (0x200000 + a) n

/-- R261 to R263: LCP copies 32 bytes to offset 0x100, SCP zeros back to 0x1000, LGO two units to 0x600 and 0x640. -/
theorem test_copies : pad (after (.lcp true 0 2 3 3 false false) movs) 0x100 33 = count 32 ++ [0]
    ∧ getPg (cx (after (.lcp true 0 2 3 3 false false) movs)) 3 = 1
    ∧ bytes (after (.scp true 0 2 3 3 false false) movs) 0x1000 32 = List.replicate 32 0
    ∧ pad (after (.lgo true 0 0 0 3 false false) movs) 0x640 33 = count 32 ++ [0]
    ∧ bytes (after (.sgo true 0 0 0 3 false false) movs) 0x1000 32 = List.replicate 32 0 := by decide +kernel

/-- R264, R265. -/
theorem test_queues : (cx (after (.lq true 0 4 5 false) movs)).eng.qin = [BitVec.ofNat 4096 (leVal (count 32))]
    ∧ ((cx (after (.lqx true 0 6 5) movs)).eng.qin.map fun x => x.toNat % 65536) = [0x201]
    ∧ pad (after (.sq true 0 4 5 3 false true) movs) 0x200 9 = count 8 ++ [0] := by decide +kernel

/-- R116: of 4 slots, 2 held from slot 3 on; one more, and one less. -/
theorem test_rings : getRing (cx (after (.lring true 0 5 1) movs)) 1 = ⟨BitVec.ofNat 64 (2 ^ 63 + 3 * 2 ^ 48 + 0x4000), 3, 2, 3⟩
    ∧ getRing (cx (after (.sring true 0 5 1) movs)) 1 = ⟨BitVec.ofNat 64 (2 ^ 63 + 3 * 2 ^ 48 + 0x4000), 0, 1, 1⟩ := by decide +kernel

/-- R277, R278, R218; the worked example of R218 with its reply entry. -/
theorem test_streams : getK (cx (after (.lsbind true 0 9 8 2) strs)) 2 = .input 0x800 0 15 16 0 none
    ∧ getK (cx (after (.ssbind true 0 9 8 true) strs)) 7 = .output 0x800 0 15 16 0
    ∧ getK (cx (after (.sreset true 0 0) strs)) 0 = .unbound
    ∧ (cx (after (.scount true 0 1) strs)).eng.reply = [0x2000000000000002]
    ∧ getK (cx (after (.sbind true 0 5 6) strs)) 5 = .input 0xA00 0 15 0 0 none
    ∧ (cx (after (.smadd true 0 6 0 1) strs)).eng.reply = [0x2000000100000004]
    ∧ pad (after (.smadd true 0 6 0 1) strs) 0xA00 32 = recs [(3, 0x3F800000), (8, 0x40200000), (10, 0x3FC00000), (12, 0x40800000)]
    ∧ pad (after (.sisect true 0 6 0 1) strs) 0xA00 16 = recs [(8, 0x40000000), (0, 0)]
    ∧ (cx (after (.sunion true 0 6 0 1) strs)).eng.reply = [0x2000000100000004]
    ∧ pad (after (.ssub true 0 6 0 1) strs) 0xA00 16 = recs [(3, 0x3F800000), (12, 0x40800000)] := by decide +kernel

/-- R270, R280: zeros over the window; a copy, a fill and the checksum of the nine digits. -/
theorem test_transfers : pad (after (.szero true 0 4 3) (regs [(3, 32)] movs)) 0x200 4 = List.replicate 4 0
    ∧ bytes (after (.tcopy true 0 10 13 3 false) trans) 0x1000 12 = [1, 2, 3, 1, 2, 3, 4, 5, 6, 7, 8, 9]
    ∧ bytes (after (.tfill true 0 11 2 3 false) trans) 0x1200 17 = [0, 0x10, 0, 0, 0, 0, 0, 0, 0, 0x10, 0, 0, 0, 0, 0, 0, 0]
    ∧ (cx (after (.tchk true 0 12 3 false) trans)).eng.reply = [0xA0000000E3069283] := by decide +kernel

/-- s4 = 5; one entry of a table at 0x1100 with one slot in block 0x1400, an angle at 0x1120, and the descriptors of TCVT in s10, TROPE
in s11, TSPLICE in s12 and TKVAPP in s13. -/
def caches : State :=
  mapped (bytesAt 0x1100 (leList 8 0x1401 ++ leList 4 0 ++ leList 4 1) (bytesAt 0x1120 (leList 4 0x20000000)
    (bytesAt 0x1160 (leList 8 0x1001 ++ leList 8 0x1500 ++ leList 8 0 ++ leList 4 1 ++ [2, 15, 0])
    (bytesAt 0x1180 (leList 8 0x1100 ++ leList 8 0x1120 ++ leList 2 1 ++ leList 2 32 ++ [2])
    (bytesAt 0x11A0 (leList 8 0x1100 ++ leList 8 0x1100 ++ leList 4 1 ++ leList 4 0 ++ leList 2 0 ++ leList 2 1 ++ [2])
    (bytesAt 0x11C0 (leList 8 0x1100 ++ leList 8 0x1000 ++ leList 8 0 ++ leList 4 1 ++ leList 2 1)
    (bytesAt 0x1440 [0x80, 0x3F, 0, 0] (bytesAt 0x1000 [7, 1]
    (regs [(4, 5), (5, 0x10002), (10, 0x1160), (11, 0x1180), (12, 0x11A0), (13, 0x11C0)] base)))))))))

/-- R281 to R284; pair 1 of the worked example after R284, and one entry inserted before another. -/
theorem test_transforms : bytes (after (.tcvt true 0 10 3 false) caches) 0x1500 4 = [0, 0, 0x80, 0x3F]
    ∧ bytes (after (.trope true 0 11 4 3 false) caches) 0x1440 4 = [0x35, 0xBF, 0x35, 0xBF]
    ∧ (cx (after (.trope true 0 11 4 3 false) caches)).eng.reply = [0xA000000000000000]
    ∧ (cx (after (.tsplice true 0 12 4 3 false) caches)).eng.reply = [0xA000000000000002]
    ∧ bytes (after (.tsplice true 0 12 4 3 false) caches) 0x1108 16 = [0, 0, 0, 0, 1, 0, 0, 0, 1, 0x14, 0, 0, 0, 0, 0, 0]
    ∧ bytes (after (.tsplice true 0 12 4 3 false) caches) 0x1118 8 = [5, 0, 0, 0, 1, 0, 0, 0]
    ∧ bytes (after (.tkvapp true 0 13 5 3 false) caches) 0x1402 2 = [7, 1]
    ∧ bytes (after (.tkvapp true 0 13 5 3 false) caches) 0x1108 8 = [0, 0, 0, 0, 2, 0, 0, 0] := by decide +kernel

theorem witness_copyWords :
    (∀ i ∈ ([.lcp true 0 2 3 3 false false, .scp true 0 2 3 3 false false] : List Instr), starts movs i i = true ∧ calm movs i 0
      ∧ counterOk movs i ∧ copyUnits movs i = some [(0x1000, 0x100)])
    ∧ copyFits movs (.lcp true 0 2 3 3 false false) ∧ copyFits movs (.scp true 0 2 3 3 false false) ∧ inWindow movs 0x100 32
    ∧ loadedUnits movs [(0x1000, 0x100)] = some [(0x100, count 32)]
    ∧ storedUnits movs [(0x1000, 0x100)] = some [([(⟨0, 0, 0x201000, false⟩, 32)], List.replicate 32 0)]
    ∧ starts movs (.lgo true 0 0 0 3 false false) (.lgo true 0 0 0 3 false false) = true
    ∧ copyFits movs (.lgo true 0 0 0 3 false false)
    ∧ copyUnits movs (.lgo true 0 0 0 3 false false) = some [(0x1000, 0x600), (0x1000, 0x640)] := by
  unfold calm copyFits counterOk memoriesCanonical replyFits inWindow
  dsimp only
  and_intros <;> decide +kernel

theorem witness_queueWords :
    (∀ i ∈ ([.lq true 0 4 5 false, .lqx true 0 6 5, .sq true 0 4 5 3 false true, .sq true 0 2 0 3 false false] : List Instr),
      starts movs i i = true ∧ calm movs i 0)
    ∧ (cap movs (.lq true 0 4 5 false)).sb.toNat = 1 ∧ (cap movs (.lq true 0 4 5 false)).sa.toNat % 32 = 0
    ∧ (∀ us ∈ entryUnits movs (.lq true 0 4 5 false), ∀ o ∈ us, inWindow movs o 32)
    ∧ (cap movs (.lqx true 0 6 5)).sa.toNat % 4 = 0 ∧ inWindow movs 0x400 64
    ∧ (∀ us ∈ entryUnits movs (.lqx true 0 6 5), ∀ o ∈ us, inWindow movs o 32 ∧ o % 32 = 0)
    ∧ (cx movs).eng.qin = [] ∧ (cx movs).eng.qout.length = 1 ∧ inWindow movs 0x200 512
    ∧ counterOk movs (.sq true 0 4 5 3 false true) ∧ wbits (cap movs (.sq true 0 4 5 3 false true)).sb 63 21 = 0
    ∧ counterOk movs (.sq true 0 2 0 3 false false) ∧ (cap movs (.sq true 0 2 0 3 false false)).sb = 0 := by
  unfold calm counterOk memoriesCanonical replyFits inWindow; decide +kernel

theorem witness_ringAndBindingWords :
    (∀ i ∈ ([.lring true 0 5 1, .sring true 0 5 1] : List Instr), starts movs i i = true ∧ calm movs i 1)
    ∧ ringUsable (cx movs) 1 = true ∧ (getRing (cx movs) 1).count + (ringOwed (cx movs).eng 1).1 + 1 ≤ ringN (getRing (cx movs) 1)
    ∧ 1 ≤ (getRing (cx movs) 1).count - (ringOwed (cx movs).eng 1).2
    ∧ (∀ i ∈ ([.lsbind true 0 9 8 2, .ssbind true 0 9 8 true, .sbind true 0 5 6, .sreset true 0 0, .scount true 0 1] : List Instr),
      starts strs i i = true ∧ calm strs i 1)
    ∧ wbits (cap strs (.lsbind true 0 9 8 2)).sb 63 45 = 0 ∧ wbits (cap strs (.lsbind true 0 9 8 2)).sb 39 36 = 0
    ∧ badRecord (wbits (cap strs (.lsbind true 0 9 8 2)).sb 35 32) (wbits (cap strs (.lsbind true 0 9 8 2)).sb 44 40) = false
    ∧ inWindow strs 0x800 (16 * 8) := by
  unfold calm memoriesCanonical replyFits inWindow; decide +kernel

theorem witness_streamSetOperations :
    (∀ i ∈ ([.sisect true 0 6 2 1, .sunion true 0 6 2 1, .ssub true 0 6 2 1, .smadd true 0 6 2 1] : List Instr),
      starts strs i i = true ∧ calm strs i 1 ∧ setRegs i = some (6, 2, 1))
    ∧ getK (cx strs) 6 = .output 0xA00 0 15 16 0 ∧ getK (cx strs) 2 = .input 0x800 0 15 2 0 none
    ∧ getK (cx strs) 1 = .input 0x900 0 15 2 0 none
    ∧ (recordsFrom strs 0x800 0 15 2 0).map (fun x => x.1) = [3, 8] ∧ (recordsFrom strs 0x900 0 15 2 0).map (fun x => x.1) = [8, 10] := by
  unfold calm memoriesCanonical replyFits; decide +kernel

/-- s2 = 0x1000 and ranges of 128 bytes in s3 and s4, which names evict-first. -/
def ranges : State := mapped (regs [(2, 0x1000), (3, 128), (4, 0x10000000080), (5, 32)] base)

/-- R267, R269: a prefetched line, its mark, and its end by a flush that drops it. -/
theorem test_lines : (after (.lpref true 0 2 4) ranges).cache.l2 ≠ [] ∧ (after (.lhint true 0 2 4) ranges).cache.l2 = []
    ∧ getPg (cx (after (.sflush true 0 2 3 7 false true) ranges)) 7 = 1 := by decide +kernel

theorem witness_cacheAndZeroWords :
    (∀ i ∈ ([.lpref true 0 2 4, .lhint true 0 2 4, .sflush true 0 2 3 7 false true, .szero true 0 2 5] : List Instr),
      starts ranges i i = true ∧ calm ranges i 0 ∧ counterOk ranges i)
    ∧ wbits (cap ranges (.lpref true 0 2 4)).sb 63 42 = 0 ∧ wbits (cap ranges (.lpref true 0 2 4)).sb 41 40 = 1
    ∧ wbits (cap ranges (.sflush true 0 2 3 7 false true)).sb 63 40 = 0
    ∧ (cap ranges (.szero true 0 2 5)).sa.toNat % 32 = 0 ∧ inWindow ranges 0x1000 32 := by
  unfold calm counterOk memoriesCanonical replyFits inWindow; decide +kernel

/-- A store mark 3, and a load mark 3, that stand started. -/
def sMarked : State := after (.smark true 0 3) base
def lMarked : State := after (.lmark true 0 3) base

/-- A started word that stands for none. -/
def noFlight : Flight := ⟨⟨.nop true, 0, 0, 0, captureOf (cx base) (.nop true) 0⟩, [], .none, none, .none, .none, .none, none, none, []⟩

theorem test_marks : (cx sMarked).eng.smarks[3] = 1 ∧ (cx (after (.lmark true 0 3) sMarked)).eng.s.flying = []
    ∧ (cx (after (.smark true 0 3) lMarked)).eng.l.flying = [] ∧ (cx (after (.smark true 0 4) lMarked)).eng.l.flying ≠ [] := by
  decide +kernel

theorem witness_marks : sMarked.mem.errs = [] ∧ lMarked.mem.errs = [] ∧ starts sMarked (.lmark true 0 3) (.lmark true 0 3) = true ∧ starts lMarked (.smark true 0 3) (.smark true 0 3) = true
    ∧ (∃ g, (cx sMarked).eng.s.flying = [g] ∧ g.fin = some Finish.plain ∧ g.ring1 = .none ∧ g.ring2 = .none ∧ g.ring3 = .none)
    ∧ (∃ g, (cx lMarked).eng.l.flying = [g] ∧ g.fin = some Finish.plain ∧ g.ring1 = .none ∧ g.ring2 = .none ∧ g.ring3 = .none) :=
  ⟨by decide +kernel, by decide +kernel, by decide +kernel, by decide +kernel, ⟨(cx sMarked).eng.s.flying.headD noFlight, by decide +kernel⟩, ⟨(cx lMarked).eng.l.flying.headD noFlight, by decide +kernel⟩⟩

theorem witness_transferWords :
    (∀ i ∈ ([.tcopy true 0 10 13 3 false, .tfill true 0 11 2 3 false, .tchk true 0 12 3 false] : List Instr),
      starts trans i i = true ∧ calm trans i 1 ∧ counterOk trans i ∧ (descOf trans i).isSome = true
        ∧ (transferOf trans i ((descOf trans i).getD [])).isSome = true) := by
  unfold calm counterOk memoriesCanonical replyFits; decide +kernel

theorem witness_transformWords : caches.mem.errs = []
    ∧ (∀ i ∈ ([.tcvt true 0 10 3 false, .trope true 0 11 4 3 false, .tsplice true 0 12 4 3 false, .tkvapp true 0 13 5 3 false] :
      List Instr), completes caches i i = true) := by decide +kernel

/-- Two pieces share no byte, as a test. -/
def apartT (x y : Loc × Nat) : Bool :=
  decide (min x.1.typ 2 ≠ min y.1.typ 2) || decide (apart.key x.1 + x.2 ≤ apart.key y.1) || decide (apart.key y.1 + y.2 ≤ apart.key x.1)

theorem apart_of_apartT {x y : Loc × Nat} (h : apartT x y = true) : apart x y := by
  simpa [apart, apartT, or_assoc] using h

/-- The pieces of a list share no byte with one another, as a test. -/
def apartAll : List (Loc × Nat) → Bool
  | [] => true
  | x :: l => l.all (apartT x) && apartAll l

theorem pairwise_of_apartAll (l : List (Loc × Nat)) (h : apartAll l = true) : l.Pairwise apart := by
  induction l with
  | nil => exact .nil
  | cons x l ih =>
    simp only [apartAll, Bool.and_eq_true, List.all_eq_true] at h
    exact .cons (fun y m => apart_of_apartT (h.1 y m)) (ih h.2)

/-- The edit of a word exists and its pieces stand apart, as a test. -/
def editOk (s : State) (j : Instr) : Bool :=
  match descOf s j with
  | none => false
  | some d =>
    match editOf s j d with
    | none => false
    | some x => apartAll (x.writes.map fun w => w.1).flatten
        && x.reads.all fun r => (x.writes.map fun w => w.1).flatten.all (apartT r)

theorem edit_of_editOk {s : State} {j : Instr} (h : editOk s j = true) :
    ∃ d x, descOf s j = some d ∧ editOf s j d = some x ∧ allApart x.writes
      ∧ ∀ r, r ∈ x.reads → ∀ w, w ∈ x.writes → ∀ p, p ∈ w.1 → apart r p := by
  unfold editOk at h
  split at h
  · cases h
  · rename_i d hd
    split at h
    · cases h
    · rename_i x hx
      simp only [Bool.and_eq_true, List.all_eq_true] at h
      exact ⟨d, x, hd, hx, pairwise_of_apartAll _ h.1, fun r hr w hw p hp =>
        apart_of_apartT (h.2 r hr p (List.mem_flatten.2 ⟨_, List.mem_map.2 ⟨w, hw, rfl⟩, hp⟩))⟩

theorem witness_editWords_calm : ∀ i ∈ ([.tcvt true 0 10 3 false, .trope true 0 11 4 3 false, .tsplice true 0 12 4 3 false,
      .tkvapp true 0 13 5 3 false] : List Instr),
      starts caches i i = true ∧ engineOf i = .t ∧ calm caches i 1 ∧ counterOk caches i ∧ editOk caches i = true := by
  unfold calm counterOk memoriesCanonical replyFits; decide +kernel

theorem witness_editWords : ∀ i ∈ ([.tcvt true 0 10 3 false, .trope true 0 11 4 3 false, .tsplice true 0 12 4 3 false,
      .tkvapp true 0 13 5 3 false] : List Instr),
      starts caches i i = true ∧ engineOf i = .t ∧ calm caches i 1 ∧ counterOk caches i
        ∧ ∃ d x, descOf caches i = some d ∧ editOf caches i d = some x ∧ allApart x.writes
          ∧ ∀ r, r ∈ x.reads → ∀ w, w ∈ x.writes → ∀ p, p ∈ w.1 → apart r p := fun i m =>
  let h := witness_editWords_calm i m
  ⟨h.1, h.2.1, h.2.2.1, h.2.2.2.1, edit_of_editOk h.2.2.2.2⟩

/-! ### Matrix words -/

/-- Bank A of core 0 owns the matrix operand state; pair 0 is I8 × I8. Rings 0 and 1 hold one slot of 16 KiB each, with the lines
3, −2, 0 … of A and 5, 7, 0 … of B, ring 2 two of four slots of 32 bytes; nest 0 names those blocks. s2 = 32, s3 = 1, s4 = 0x10000,
s5 drains as I8 from I32, s6 gives the pitches of MGO, s7 = 0x1000, s8 the shape 32 × 1, s9 = 0x11000 with the descriptor of MATT. -/
def mats : State :=
  let s := mapped (here (fun c =>
    let c := setRing c 0 ⟨BitVec.ofNat 64 (2 ^ 63 + 511 * 2 ^ 32), 0, 0, 1⟩
    let c := setRing c 1 ⟨BitVec.ofNat 64 (2 ^ 63 + 511 * 2 ^ 32 + 0x4000), 0, 0, 1⟩
    let c := setRing c 2 ⟨BitVec.ofNat 64 (2 ^ 63 + 3 * 2 ^ 48 + 0x8000), 0, 2, 2⟩
    let c := setNest c 0 ⟨0, 0x4000, 0, 0, 1, [⟨1, 0, 0⟩]⟩
    let c := setAccRow c 1 0 (BitVec.ofNat 4096 (5 + 2 ^ 32 * (2 ^ 32 - 6)))
    { c with csr := { c.csr with mfmt := 0x0505 } })
    (regs [(2, 32), (3, 1), (4, 0x10000), (5, 0x22), (6, 0x8000080), (7, 0x1000), (8, 0x10020), (9, 0x11000)] base))
  let s := padAs 0 [3, 0xFE] (padAs 0x4000 [5, 7] (padAs 0x8000 [9, 8] (padAs 0x10000 [0x40, 0x40, 0x80, 0x3F]
    (padAs 0x11004 ([0xFF, 0xFF, 0xFF, 0xFF] ++ List.replicate 8 0 ++ leList 4 32 ++ [1]) (padAs 0x1101C [1] s)))))
  let k := getCore s 0
  setCore s 0 { k with owner := some false, mat := { k.mat with
    shadow := some ⟨[1], [], 0, 0x0505, 0, 1⟩
    wk := some ⟨32, 1, [0x3F80, 0x4000] ++ List.replicate 30 0⟩
    wv := some ⟨32, 1, List.replicate 32 0⟩ } }

/-- Element (0, 0) of a tile. -/
def acc00 (s : State) (t : Nat) : Nat := (getAccRow (cx s) t 0).toNat % 2 ^ 32

/-- R230 to R232, R239: a scale queue, a shadow block, the exchange, a cleared tile, a popped slot. -/
theorem test_matrix_state : (matOf (after (.mscq true 0 3 false 2) mats)).scaleA = [9]
    ∧ (getRing (cx (after (.mscq true 0 3 true 2) mats)) 2).count = 1
    ∧ (((matOf (after (.mldb true 0 0 1) mats)).shadow.map fun x => x.bytes.take 3) = some [5, 7, 0])
    ∧ (matOf (after (.mswap true 0) mats)).resident = some ⟨[1], [], 0, 0x0505, 0, 1⟩ ∧ (matOf (after (.mswap true 0) mats)).shadow = none
    ∧ acc00 mats 1 = 5 ∧ acc00 (after (.mzero true 0 1) mats) 1 = 0 ∧ (getRing (cx (after (.mpop true 0 3 2) mats)) 2).head = 1
    ∧ ((matOf (after (.mlatld true 0 7 8 true) mats)).wv.map fun x => (x.dc, x.d)) = some (32, 1) := by decide +kernel

/-- R234: an element of a product of two values, from 0 and from 5; R247: 3.0 × 1.0 + 1.0 × 2.0 = 5.0. -/
theorem test_matrix_products :
    mmaTile ⟨.sint 8, false, .sint 8, false⟩ [[[3], [0xFE]]] [[[5], [7]]] (fun _ => []) (fun _ => []) [[0]] = ([[1]], 0)
    ∧ mmaTile ⟨.sint 8, false, .sint 8, false⟩ [[[3], [0xFE]]] [[[5], [7]]] (fun _ => []) (fun _ => []) [[5]] = ([[6]], 0)
    ∧ (mmaTile ⟨.flt .e4m3, false, .flt .e4m3, false⟩ [[[0x38], [0x40]]] [[[0x40], [0xB8]]] (fun _ => []) (fun _ => []) [[0]]).1 = [[0]]
    ∧ acc00 (after (.mlat true 0 4 0 0 2) mats) 2 = 0x40A00000 := by decide +kernel

/-- R241, R248: 5 and −6 drained as I8, and a table of one entry that is not valid. -/
theorem test_matrix_drain : drainBytes (.sint 8) (drainCodes true false (.sint 8) ⟨0, 0, 0⟩ false [(5, 0), (2 ^ 32 - 6, 1)]).1
      = [5, 0xFA] ++ List.replicate 14 0 ++ List.replicate 112 0
    ∧ (cx (after (.matt true 0 7 9 true 3) mats)).eng.reply.map (fun x => x.toNat / 2 ^ 61) = [2] := by decide +kernel

theorem witness_matrixStateWords : ksorted (cx mats).arch.acc = true
    ∧ (∀ i ∈ ([.mzero true 0 3, .mswap true 0, .mscq true 0 3 false 2, .mldb true 0 0 1, .mpop true 0 3 2, .mlatld true 0 7 8 true,
      .mbjoin true 0 0 false, .mbleave true 0 false, .mquiet true 0] : List Instr), starts mats i i = true ∧ calm mats i 0)
    ∧ (3 : BitVec 2).toNat < (cx mats).life.tiles ∧ vecBusy (cx mats).eng 3 mats.sch.uid = false ∧ (matOf mats).shadow ≠ none
    ∧ (scaleQ (matOf mats) false).length + 1 ≤ 4096 ∧ ringHolds mats 2 1 ∧ slotsFor (cx mats) 2 1 = 1
    ∧ pairOf (pairCode (cap mats (.mldb true 0 0 1)) 0) = some ⟨.sint 8, false, .sint 8, false⟩ ∧ ringHolds mats 1 1
    ∧ slotsFor (cx mats) 1 (16 * 128 * 8) = 1 ∧ (heldLong mats .m .read 0x1000 64).isSome = true
    ∧ joinRefused mats mats.sch.cur false 0 = false ∧ inGroup mats mats.sch.cur = false ∧ 0 < ringN (getRing (cx mats) 2)
    ∧ (groupsOfBank (quieted mats) mats.sch.cur).all (fun kg => (quietLate (agentCore mats.sch.cur) kg.2).isEmpty) = true := by
  unfold calm memoriesCanonical replyFits ringHolds; decide +kernel

theorem witness_ownsMatrix : ownsMatrix mats := ⟨⟨0, false, by decide +kernel, by decide +kernel⟩, by decide +kernel⟩

theorem witness_denseMatrixProduct : starts mats (.mma true 0 3 0 1 1 0 true false 0) (.mma true 0 3 0 1 1 0 true false 0) = true
    ∧ calm mats (.mma true 0 3 0 1 1 0 true false 0) 0
    ∧ pairOf (pairCode (cap mats (.mma true 0 3 0 1 1 0 true false 0)) 0) = some ⟨.sint 8, false, .sint 8, false⟩
    ∧ ringHolds mats 0 (slotsFor (cx mats) 0 (16 * 128 * 8)) ∧ ringHolds mats 1 (slotsFor (cx mats) 1 (16 * 128 * 8)) := by
  unfold calm memoriesCanonical replyFits ringHolds; decide +kernel

/-- The same with a resident block, 5, 7, 0 … in each column's 128 places, of pair 0 and ring 1, and 3 in the first place of A. -/
def resid : State :=
  let k := getCore mats 0
  setCore mats 0 { k with mat := { k.mat with resident := some ⟨[5, 7], [], 0, 0x0505, 0, 1⟩ } }

/-- Ring 2 holds one slot: of OP metadata, one record of each list, place 0 of line 0, and in A's a second one of place 255, out of
range (`bad`); of RW metadata, row 0 with one entry of column 0, and with `bad` row 1 malformed. -/
def sparse (rw bad : Bool) : State :=
  here (fun c => setRing c 2 ⟨BitVec.ofNat 64 (2 ^ 63 + 511 * 2 ^ 32 + 0x8000), 0, 0, 1⟩)
    (padAs 0x8000 (if rw then [0, 0, 1, 0, if bad then 0 else 1] ++ (0 :: (List.replicate 126 [1, 0]).flatten) ++ List.replicate 32 0
      else if bad then [2, 0, 1, 0, 0, 0, 0xFF, 0, 0, 0] else [1, 0, 1, 0, 0, 0, 0, 0]) mats)

/-- Products of IP with a resident block and of the sparse forms. -/
def ipWord : Instr := .mma true 0 3 0 1 0 0 true false 0
def opWord : Instr := .mma true 0 3 0 1 1 0 true true 2
def rwWord : Instr := .mma true 0 3 0 1 2 0 true true 2

/-- The reply without its kind. -/
def replied (i : Instr) (s : State) : List Nat := (cx (after i s)).eng.reply.map fun x => x.toNat % 2 ^ 61

/-- R236 to R238: 3 × 5 from the lines that the records and the row pointers of the two blocks give; a record out of range is counted
and gives no product, a malformed row is counted with its number. -/
theorem test_sparseProducts :
    mmaTile ⟨.sint 8, false, .sint 8, false⟩ [gatherK 32 (opRecords (.sint 8) [0, 0] [3] 1 32).1 0]
      [gatherK 32 (opRecords (.sint 8) [0, 0] [5] 1 32).1 0] (fun _ => []) (fun _ => []) [[0]] = ([[15]], 0)
    ∧ replied opWord (sparse false false) = [0xFF00000000] ∧ replied opWord (sparse false true) = [0xFF00010000]
    ∧ replied rwWord (sparse true false) = [0x1FF00000000] ∧ replied rwWord (sparse true true) = [0x10100000001] := by decide +kernel

theorem witness_residentAndSparseProduct : (∀ x ∈ ([(resid, ipWord), (sparse false false, opWord), (sparse true false, rwWord),
      (sparse true true, rwWord)] : List (State × Instr)), starts x.1 x.2 x.2 = true ∧ calm x.1 x.2 1 ∧ ksorted (cx x.1).arch.acc = true
      ∧ 3 < (cx x.1).life.tiles ∧ vecBusy (cx x.1).eng 3 x.1.sch.uid = false
      ∧ pairOf (pairCode (cap x.1 x.2) 0) = some ⟨.sint 8, false, .sint 8, false⟩ ∧ ringHolds x.1 0 1 ∧ ringHolds x.1 1 1 ∧ ringHolds x.1 2 1
      ∧ (cap x.1 x.2).sat = false ∧ getMat x.1 x.1.sch.cur = matOf x.1 ∧ inGroup x.1 x.1.sch.cur = false ∧ (getCore x.1 0).owner = some false)
    ∧ (matOf resid).resident = some ⟨[5, 7], [], 0, 0x0505, 0, 1⟩ ∧ pairOf 0x0505 = some ⟨.sint 8, false, .sint 8, false⟩
    ∧ slotsFor (cx resid) 0 (16 * 128 * 8) = 1 ∧ slotsFor (cx (sparse false false)) 2 8 = 1 ∧ slotsFor (cx (sparse true false)) 2 290 = 1 := by
  unfold calm memoriesCanonical replyFits ringHolds; decide +kernel

theorem witness_tileAndDrainWords : (∀ i ∈ ([.mma true 0 1 0 1 1 0 true false 0, .mgo true 0 0 6 0, .mlat true 0 4 0 0 2,
      .matt true 0 7 9 true 3, .mdrain true 0 4 5 0 1] : List Instr), completes mats i i = true)
    ∧ starts mats (.mdrain true 0 4 5 0 1) (.mdrain true 0 4 5 0 1) = true ∧ calm mats (.mdrain true 0 4 5 0 1) 0
    ∧ fmtOfCode (wbits (cap mats (.mdrain true 0 4 5 0 1)).sb 4 0) = some (.sint 8)
    ∧ wbits (cap mats (.mdrain true 0 4 5 0 1)).sb 63 6 = 0 ∧ inWindow mats 0x10000 (128 * 128) := by
  unfold calm memoriesCanonical replyFits inWindow; decide +kernel

/-- The table of MATT names one valid slot, in the block 0x1400 of zeros. -/
def mats1 : State := bytesAt 0x1000 (leList 8 0x1401 ++ leList 4 0 ++ leList 4 1) mats

/-- The ranges and forms that TileResults asks of an MGO, an MLAT of kind 0 and a MATT, as tests. -/
def mgoOk (s : State) (j : Instr) : Bool :=
  match pairOf (pairCode (cap s j) (wbits (cap s j).sa 4 2)) with
  | none => false
  | some p => !p.mxa && !p.mxb && (nestAll (cap s j).nest).all fun o => (List.range 128).all fun l =>
      decide (mgoLineA o.1 (wbits (cap s j).sb 19 0) l % 32 = 0) && decide (mgoLineB (cap s j).nest o.2 (wbits (cap s j).sb 39 20) l % 32 = 0)
        && decide (0 ≤ mgoLineB (cap s j).nest o.2 (wbits (cap s j).sb 39 20) l)
        && decide (mgoLineA o.1 (wbits (cap s j).sb 19 0) l + ksOf p * storedW p.fa / 8 ≤ 0x10000)
        && decide ((mgoLineB (cap s j).nest o.2 (wbits (cap s j).sb 39 20) l).toNat + ksOf p * storedW p.fb / 8 ≤ 0x10000)

theorem witness_tileResults_mgo : starts mats (.mgo true 0 0 6 0) (.mgo true 0 0 6 0) = true ∧ calm mats (.mgo true 0 0 6 0) 1
    ∧ wbits (cap mats (.mgo true 0 0 6 0)).sa 1 0 < (cx mats).life.tiles ∧ vecBusy (cx mats).eng 0 mats.sch.uid = false
    ∧ wbits (cap mats (.mgo true 0 0 6 0)).sa 63 6 = 0 ∧ wbits (cap mats (.mgo true 0 0 6 0)).sb 63 40 = 0
    ∧ (cap mats (.mgo true 0 0 6 0)).nest.levels ≠ [] ∧ (nestAll (cap mats (.mgo true 0 0 6 0)).nest).length = 1
    ∧ wbits (cap mats (.mgo true 0 0 6 0)).sb 19 0 % 32 = 0 ∧ wbits (cap mats (.mgo true 0 0 6 0)).sb 39 20 % 32 = 0
    ∧ mgoOk mats (.mgo true 0 0 6 0) = true ∧ inWindow mats 0 0x10000 := by
  unfold calm memoriesCanonical replyFits inWindow; decide +kernel

theorem witness_tileResults_mlat : starts mats (.mlat true 0 4 0 0 2) (.mlat true 0 4 0 0 2) = true
    ∧ calm mats (.mlat true 0 4 0 0 2) 1 ∧ (matOf mats).wk.isSome = true ∧ (2 : BitVec 2).toNat < (cx mats).life.tiles
    ∧ vecBusy (cx mats).eng 2 mats.sch.uid = false ∧ (cap mats (.mlat true 0 4 0 0 2)).sb = 0
    ∧ (cap mats (.mlat true 0 4 0 0 2)).sa.toNat = 0x10000 ∧ inWindow mats 0x10000 64 := by
  unfold calm memoriesCanonical replyFits inWindow; decide +kernel

theorem witness_tileResults_matt :
    let j := Instr.matt true 0 7 9 true 3
    let d := mattDesc (padRead mats1 mats1.sch.cur (cap mats1 j).sb.toNat 32)
    starts mats1 j j = true ∧ calm mats1 j 1 ∧ ((matOf mats1).wv.map fun x => x.dc) = some d.dc ∧ badMatt d = false
    ∧ (3 : BitVec 2).toNat < (cx mats1).life.tiles ∧ vecBusy (cx mats1).eng 3 mats1.sch.uid = false
    ∧ (cap mats1 j).sb.toNat = 0x11000 ∧ inWindow mats1 0x11000 32 ∧ d.qoff % 32 = 0
    ∧ inWindow mats1 d.qoff (d.rows * ((2 * (d.dc + d.dr) + 31) / 32 * 32)) ∧ d.statoff = 0xFFFFFFFF
    ∧ (cap mats1 j).sa.toNat % 16 = 0
    ∧ ((everyOf ((List.range d.e).map fun n => held mats1 .m .read ((cap mats1 j).sa.toNat + 16 * n) 16)).map fun es =>
        let ents := (usableEntries (es.map fun ls => entryOf (piecesRead mats1 ls))).1
        (ents.length, (everyOf (ents.map fun e => everyOf ((List.range e.count).map fun n =>
          heldLong mats1 .m .read (e.block + n * (latentBytes d.dc d.lfmt + 2 * d.dr)) (latentBytes d.dc d.lfmt + 2 * d.dr)))).isSome))
      = some (1, true) := by
  unfold calm memoriesCanonical replyFits inWindow; decide +kernel

/-! ### Words of the query engine, gathers and scatters -/

/-- Descriptors: s2 of a search, s3 of a log batch and s4 of a fetch whose status is at s5; s6 = 0x1300; s9 of a gather of two rows. -/
def asks : State :=
  mapped (bytesAt 0x1000 (leList 8 0x1200 ++ leList 8 0x1280 ++ [1, 0, 1, 0, 1, 0, 1])
    (bytesAt 0x1040 (leList 8 0x1200 ++ leList 8 0x1248 ++ [1])
    (bytesAt 0x1080 (leList 8 0x1200 ++ leList 8 0x1208 ++ leList 8 0x1280 ++ leList 4 0 ++ [1, 0, 2])
    (bytesAt 0x1208 (leList 8 0x1400)
    (padAs 0x200 ([0, 1, 0, 0, 2, 0, 0, 0, 0, 3, 0, 0, 0, 4, 0, 0, 4, 0, 0, 0, 8]) (padAs 0x104 [5]
    (regs [(2, 0x1000), (3, 0x1040), (4, 0x1080), (5, 0x1300), (6, 0x1300), (9, 0x200), (10, 3)] base)))))))

theorem test_queries : (after (.qsearch true 0 2 0 0 false) asks).ops.map (fun x => x.1) = [1]
    ∧ (cx (after (.qsearch true 0 2 0 0 false) asks)).eng.q.flying.length = 1
    ∧ (cx (after (.qinsert true 0 3 0 0 false) asks)).eng.q.flying = []
    ∧ (cx (after (.qstat true 0 10) asks)).eng.reply = [0xC000000000000023]
    ∧ (cx (after (.qcancel true 0 10) asks)).eng.reply = [0xC000000000000000]
    ∧ (cx (after (.lgath true 0 2 9 0 false false) asks)).eng.l.flying.length = 1 := by decide +kernel

theorem witness_forwardedQueryWords : (∀ i ∈ ([.qsearch true 0 2 0 0 false, .qfetch true 0 4 5 0 false, .qinsert true 0 3 0 0 false,
      .qdelete true 0 3 0 0 false, .qwalk true 0 6 0 0 false, .qsnap true 0 6 0 0 false] : List Instr),
      starts asks i i = true ∧ calm asks i 0 ∧ counterOk asks i ∧ (forwarded asks i i).isSome = true)
    ∧ (∀ i ∈ ([.qstat true 0 10, .qcancel true 0 10] : List Instr), starts asks i i = true ∧ calm asks i 1)
    ∧ (cap asks (.qstat true 0 10)).sa = 3 := by
  unfold calm counterOk memoriesCanonical replyFits; decide +kernel

/-- Stack engine 0 has 1,024 walks queued. -/
def fullWalks : State := { asks with ops := (List.range 1024).map fun k => (k, ⟨some 0, .q, 0, 0, 0, .none, 0, 0, true, false, false, .walk 0 1 []⟩) }

/-- R288: a full queue, and one with room for one more. -/
theorem witness_forwardedQueryWords_full : receiverFull fullWalks 0 (.walk 0x1300 1 []) = true
    ∧ receiverFull { fullWalks with ops := fullWalks.ops.tail } 0 (.walk 0x1300 1 []) = false
    ∧ receiverFull asks 0 (.walk 0x1300 1 []) = false := by decide +kernel

/-- The states in which QSEARCH and QFETCH are accepted and complete. -/
theorem witness_commandWordsComplete : (∀ i ∈ ([.qsearch true 0 2 0 0 false, .qfetch true 0 4 5 0 false, .qinsert true 0 3 0 0 false,
      .qdelete true 0 3 0 0 false, .qwalk true 0 6 0 0 false, .qsnap true 0 6 0 0 false, .qstat true 0 10, .qcancel true 0 10] : List Instr),
      starts asks i i = true ∧ calm asks i 1 ∧ counterOk asks i)
    ∧ starts mats (.mbleave true 0 false) (.mbleave true 0 false) = true ∧ calm mats (.mbleave true 0 false) 1
    ∧ (cx handler).life.part < 8
    ∧ (∀ i ∈ ([.qsearch true 0 2 0 0 false, .qfetch true 0 4 5 0 false, .qinsert true 0 3 0 0 false, .qwalk true 0 6 0 0 false] :
      List Instr), ((forwarded asks i i).map fun x => receiverFull asks (cx asks).life.part x.2.body) = some false) := by
  unfold calm counterOk memoriesCanonical replyFits; decide +kernel

/-- QSEARCH takes operation 1 and completes when it is accepted, QFETCH the same. -/
theorem test_commandWordsComplete :
    (cx (after (.wordComplete (.bank 0 false) .q) (after (.searchAccept (asks.sch.uid + 1)) (after (.qsearch true 0 2 0 0 false) asks)))).eng.q.flying = []
    ∧ (cx (after (.wordComplete (.bank 0 false) .q) (after (.fetchAccept (asks.sch.uid + 1)) (after (.qfetch true 0 4 5 0 false) asks)))).eng.q.flying = []
    ∧ (cx (after (.mbleave true 0 false) mats)).eng.m.queue = [] := by decide +kernel

theorem witness_gathersAndScatters_start : (∀ i ∈ ([.lgath true 0 2 9 0 false true, .sscat true 0 2 9 0 false] : List Instr),
      starts asks i i = true ∧ calm asks i 0 ∧ counterOk asks i ∧ (cap asks i).sb = 0x200
        ∧ gatherFits asks i (padRead asks asks.sch.cur 0x200 32))
    ∧ inWindow asks 0x200 32 ∧ badGather (padRead asks asks.sch.cur 0x200 32) false = false
    ∧ badGather (padRead asks asks.sch.cur 0x200 32) true = false := by
  unfold calm counterOk memoriesCanonical replyFits gatherFits inWindow; decide +kernel

/-! ### Withdrawals -/

/-- Items of tag 9: queued, a spore that waits on a counter, one that is suspended, one on bank A of core 0, and a command; the fifth is
of another tag. -/
def tagged : State :=
  let sp := { Spore.reset with tag := 9 }
  updPart spores 0 fun q => { q with items := [⟨7, 5, 0, .onCore 0 false, sp, 0, none, none⟩, ⟨8, 5, 0, .queued, sp, 0, none, none⟩,
    ⟨9, 5, 0, .waiting 0x1000 0 3, { sp with reason := 2 }, 0, none, none⟩, ⟨10, 5, 1, .ready 3 8, { sp with reason := 1 }, 0, none, none⟩,
    ⟨11, 5, 0, .queued, Spore.reset, 0, none, none⟩] }

/-- One item of tag 9 alone: a queued one, whose stage has a counter at 0x1000, and a command of a search with its status at 0x1100. -/
def tagged1 (k : Nat) (st : ItemState) : State :=
  updPart (bytesAt 0x1088 (leList 8 0x1100) spores) 0 fun q => { q with
    insts := [{ launched with descs := [{ stage0 with kind := k, v40 := 0x1080, v48 := 0x1000, donectr := if k = 0 then 0x1000 else 0 }, stage0] }]
    items := [⟨7, 5, 0, st, { Spore.reset with tag := 9, task := 0x1080 }, 0, none, none⟩] }

/-- R30, R301, R370: one item removed and two of each stage never created, three cancelled, none finished before; the waiting spore
becomes READY, and where their records have lost their pages the two suspended ones halt. -/
theorem test_withdrawal : (withdrawTag tagged 0 9).1 = (5, 3, 0)
    ∧ ((getPart (withdrawTag tagged 0 9).2 0).items.map fun x => (x.id, x.rcd.cancel))
      = [(7, false), (9, true), (10, true), (11, false)]
    ∧ (findItem (getPart (withdrawTag tagged 0 9).2 0) 9).map (fun x => x.st) = some (.ready tagged.now 9)
    ∧ (cx (withdrawTag tagged 0 9).2).life.withdrawn = true
    ∧ ((getPart (withdrawTag (updPart tagged 0 fun q => { q with lost := [0] }) 0 9).2 0).items.map fun x => x.id) = [7, 11]
    ∧ quad (withdrawTag (tagged1 0 .queued) 0 9).2 0x1000 = quad spores 0x1000 + 1
    ∧ quad (withdrawTag (tagged1 1 .command) 0 9).2 0x1000 = quad spores 0x1000 + 1 := by decide +kernel

theorem witness_withdrawal : ((getPart tagged 0).items.map fun x => x.id).Nodup
    ∧ (∀ x ∈ [tagged1 0 .queued, tagged1 1 .command], ((getPart x 0).items.map fun y => y.id).Nodup
      ∧ ((getPart x 0).items.filter fun y => y.rcd.tag == 9) = (getPart x 0).items ∧ (getPart x 0).items.length = 1
      ∧ (findInst (getPart x 0) 5).isSome = true ∧ (findStage (getPart x 0) 5 0).isSome = true)
    ∧ ((getPart asks 0).items.filter fun y => y.rcd.tag == 9) = [] := by decide +kernel

/-- A scatter whose word says WAIT = 1 stays in flight; one with WAIT = 0 completes (R274). -/
def waiting1 : State := padAs 0x21D [1] asks

theorem test_scatterWaits : (cx (after (.sscat true 0 2 9 0 false) waiting1)).eng.s.flying.length = 1
    ∧ (cx (after (.sscat true 0 2 9 0 false) asks)).eng.s.flying = [] := by decide +kernel

/-! ### The whole machine -/

/-- R131: ADD s5, s2, s3 placed where the next step fetches it. -/
def placed : State := State.reset.withFetchWord 32 0x104510C0

/-- A state that answers. -/
def answers (o : Host.Outcome State Fault Refusal) : Bool :=
  match o with
  | .next _ => true
  | _ => false

/-- The state a step leaves; the state itself where it stops. -/
def next (s : State) : State :=
  match step s with
  | .next t => t
  | _ => s

theorem test_step : (cx (next placed)).fr.pc = 0x104 ∧ decodeTableWord 32 0x104510C0 = some (.add true 5 2 3)
    ∧ next (State.reset.withFetchWord 0 0) ≠ State.reset := by decide +kernel

theorem witness_stepKeepsMemoryCanonical : memoriesCanonical placed ∧ answers (step placed) = true := by
  unfold memoriesCanonical; decide +kernel

theorem witness_decodeEncode : ∀ i ∈ ([.add true 5 2 3, .vadd false 9 2 31 30 5, .mma true 2 1 7 0 2 5 true false 0,
    .xrep 3 2 1 7] : List Instr), i.wellFormed = true ∧ (encodeWord i).isSome = true := by decide +kernel

/-- The state in which the placed word is fetched, and one in which the word of a body is next. -/
def turn : State := turnOf placed (.bank 0 false) []
def called : State :=
  let s := after (.xcall true 3 0 0 7) withBody
  { s with sch := { s.sch with agenda := [.control (.bank 0 false)] } }

theorem witness_runsHere : runsHere turn (.bank 0 false) ∧ runsHere (turnOf called (.bank 0 false) []) (.bank 0 false) :=
  ⟨⟨by decide +kernel, by decide +kernel, by decide +kernel, trivial⟩, ⟨by decide +kernel, by decide +kernel, by decide +kernel, trivial⟩⟩

/-- A load into s5 waits in the buffer. -/
def loading (s : State) : State := { s with mem := { s.mem with buf := [⟨0, ⟨0, 0, 0x201000, false⟩, .load 5 8 false⟩] } }

/-- The fetch reads the placed word, in a line that no instruction cache holds. -/
def fetchesAdd (u : State) : Bool :=
  match ctlCheck u (.bank 0 false) 0x100 4 4 .fetch with
  | .ok l v => l == ⟨0, 0, 0x200100, false⟩ && (match decode (locRead v l 4) with
      | .ok (i, []) => i == .add true 5 2 3
      | _ => false) && (kfind (getCore v 0).icache (l.pa / 128)).isNone
  | _ => false

theorem witness_stepRunsDecoded : placed.sch.agenda = [.control (.bank 0 false)] ∧ turn.mem.errs = [] ∧ (cx turn).fr.mac = none
    ∧ fetchesAdd turn = true
    ∧ called.sch.agenda = [.control (.bank 0 false)]
    ∧ (∃ m, (cx (turnOf called (.bank 0 false) [])).fr.mac = some m
      ∧ (bodyOf (turnOf called (.bank 0 false) []) (.bank 0 false) m.entry)[m.idx]? = some 0x10410000)
    ∧ decodeWord 0x10410000 = .ok (.add true 1 0 0)
    ∧ (performOwn (loading turn) (.bank 0 false)).mem.buf = [] ∧ waitsForAccesses (loading turn) (.bank 0 false) (.add true 5 2 3) = true
    ∧ waitsForAccesses (loading turn) (.bank 0 false) (.add true 1 2 3) = false
    ∧ waitsForAccesses turn (.bank 0 false) (.csrw true 0 1 0) = true :=
  ⟨by decide +kernel, by decide +kernel, by decide +kernel, by decide +kernel, by decide +kernel,
    ⟨((cx (turnOf called (.bank 0 false) [])).fr.mac).getD ⟨0, 0, 0, 0, 0, 0, GroupSt.reset⟩, by decide +kernel⟩, by decide +kernel, by decide +kernel⟩

/-! ### Steps of the device: words, banks, groups, stages -/

/-- Bank A of core 0. -/
def A0 : AgentId := .bank 0 false

/-- The vector engine is idle with one word in its queue; and has finished that word, which has still to leave. -/
def finished : State := here (fun c => { c with eng := setE (setE c.eng .v (EngineSt.reset)) .v { EngineSt.reset with
  flying := [{ noFlight with fin := some Finish.plain }] } }) base

/-- The head word of an engine starts and meets no stop. -/
def wouldStart (s : State) (a : AgentId) (e : Engine) : Bool :=
  match (getE (getCtx s a).eng e).queue with
  | w :: _ =>
    let u := claimFor (queueParity s a w).2 a e true
    mayStart (getCtx s a) a e w && !(queueParity s a w).1 && u.2 && (match (runHead u.1 a e w).1 with
      | .ok _ => true
      | _ => false)
  | [] => false

theorem witness_wordsAtEngines : (getE (getCtx busyEngine A0).eng .v).flying = [] ∧ wouldStart busyEngine A0 .v = true
    ∧ (getE (getCtx finished A0).eng .v).flying = [{ noFlight with fin := some Finish.plain }]
    ∧ hasRoom (getCtx finished A0) Finish.plain = true ∧ engineTurn finished A0 .v = true ∧ isMark noFlight.w = false := by decide +kernel

theorem test_wordsAtEngines : (cx (after (.wordStart A0 .v) busyEngine)).eng.v.queue = []
    ∧ (cx (after (.wordComplete A0 .v) finished)).eng.v.flying = [] := by decide +kernel

/-- POPR waits and so does a vector word that pops a token. -/
def stalls : State := after (.popr true 5) (after (.vreply true 2 0) base)

/-- A vector word is held by a FORMAT trap. -/
def heldTrap : State := here (fun c => { c with eng := setE c.eng .v { EngineSt.reset with held := some ⟨16, 5, 6, 0x30000000, 0x200, 1, false, false⟩ } }) base

/-- The spore stands at YIELD, at EXIT, at WFE. -/
def atYield : State := here (fun c => { c with life := { c.life with drain := .yield } }) asked
def atExit : State := here (fun c => { c with life := { c.life with drain := .exit } }) spores
def atWfe : State := here (fun c => { c with fr := { c.fr with stall := .wfe } }) base

theorem witness_bankEvents : tokenStalled stalls A0 = true
    ∧ (let c := getCtx asked A0
      c.life.status = .running ∧ c.life.yieldReq = true ∧ c.trap.smode = false ∧ trapPending c = false ∧ c.life.drain = .none
        ∧ c.life.part < 8)
    ∧ firstHeld (getCtx heldTrap A0).eng = some (.v, ⟨16, 5, 6, 0x30000000, 0x200, 1, false, false⟩) ∧ (getCtx heldTrap A0).trap.smode = false
    ∧ yields atYield A0 ∧ slotHeldBy atYield A0 ∧ yields { atYield with ctxs := (here (fun c => { c with life := { c.life with drain := .leaveYield } }) asked).ctxs } A0 ∧ (getCtx atYield A0).life.part < 8 ∧ (getCtx atExit A0).life.status = .running
    ∧ (getCtx atExit A0).life.drain = .exit ∧ quiet atExit A0 = true ∧ trapPending (getCtx atExit A0) = false
    ∧ (getCtx atWfe A0).life.status = .running ∧ (getCtx atWfe A0).fr.stall = .wfe ∧ (getCtx atWfe A0).fr.mac = none
    ∧ (getCtx atWfe A0).fr.pfx = Prefixes.reset := by unfold yields slotHeldBy; decide +kernel

/-- R91, R349: bit 43 names the vector engine's token wait. -/
theorem test_bankEvents : (cx (after (.tokdead A0) stalls)).trap.tcause.toNat % 256 = 10
    ∧ (cx (after (.tokdead A0) stalls)).trap.tdet = 0x80000000000 ∧ (cx (after (.yieldlate A0) asked)).trap.tcause.toNat % 256 = 11
    ∧ (cx (after (.trapEntry A0) heldTrap)).trap.twpc = 0x200 ∧ (cx (after (.suspend A0) atYield)).life.status = .empty
    ∧ (cx (after (.exitRetire A0) atExit)).life.status = .empty ∧ (cx (after (.wfeTimeout A0) atWfe)).fr.pc = 0x104 := by
  decide +kernel

/-- Bank A of core 0 is the one member of group 2 of operand A and waits for 32 scale bytes from ring 2. -/
def cast : State :=
  let s := after (.mscq true 0 2 false 2) { mats with sch := { mats.sch with eager := false } }
  { s with groups := [(groupKey 0 false 2, ⟨1, true, [⟨0, false, none, 0, false, false⟩]⟩)] }

/-- The member has needed another byte count before. -/
def castOdd : State := { cast with groups := [(groupKey 0 false 2, ⟨1, true, [⟨0, false, none, 0, true, false⟩]⟩)] }

theorem witness_broadcastDelivery : kfind cast.groups (groupKey 0 false 2) = some ⟨1, true, [⟨0, false, none, 0, false, false⟩]⟩
    ∧ memberRead cast false ⟨0, false, none, 0, false, false⟩ = some (2, 32) ∧ cast.mem.errs = []
    ∧ memberRead castOdd false ⟨0, false, none, 0, true, false⟩ = some (2, 32) := by decide +kernel

theorem test_broadcastDelivery : ((kfind (after (.broadcastDelivery 0 false 2) cast).groups (groupKey 0 false 2)).map fun g =>
    g.members.map fun m => m.got.map fun b => b.take 3) = some [some [9, 8, 0]]
    ∧ ((kfind (after (.broadcastDelivery 0 false 2) cast).groups (groupKey 0 false 2)).map fun g => g.members.map fun m => m.own)
      = some [true]
    ∧ (after (.broadcastDelivery 0 false 2) castOdd).groups = castOdd.groups := by decide +kernel

/-- A stage of five items. -/
def gatedStage : StageDesc := { stage0 with items := 5, bound := 9 }

/-- Stage 1 of the launch is gated; item 10 waits there, item 11 waits for the counter at 0x1000, item 12 for room for the image at
0x1040. -/
def gated : State := updPart { images with sch := { images.sch with uid := 20 } } 0 fun q => { q with
  insts := [{ launched with
    descs := [gatedStage, { stage0 with gate0 := 0x1000, thr0 := 2 }]
    stages := [⟨5, 1, true, false⟩, ⟨3, 1, false, false⟩] }]
  items := q.items ++ [⟨10, 5, 1, .queued, Spore.reset, 0, none, none⟩, ⟨11, 5, 0, .waiting 0x1000 0 2, Spore.reset, 0, none, none⟩,
    ⟨12, 5, 0, .spawnwait 0x1040, Spore.reset, 0, none, none⟩] }

theorem witness_stageEvents : partOn gated 0 = true ∧ (findInst (getPart gated 0) 5).isSome = true
    ∧ (findStage (getPart gated 0) 5 0).isSome = true ∧ findStageSt (getPart gated 0) 5 0 = some ⟨5, 1, true, false⟩
    ∧ queueRoom (getPart gated 0) 5 0 = true ∧ findStageSt (getPart gated 0) 5 1 = some ⟨3, 1, false, false⟩
    ∧ (gateHolds gated 0 0 0x1000 2).1 = true ∧ (gateHolds (gateHolds gated 0 0 0x1000 2).2 0 0 0 0).1 = true
    ∧ (findItem (getPart gated 0) 11).map (fun x => x.st) = some (.waiting 0x1000 0 2)
    ∧ (findItem (getPart gated 0) 12).map (fun x => x.st) = some (.spawnwait 0x1040)
    ∧ (devReadS gated sysTlb 0 0 0x1000 8 true).1.isOk = true ∧ (devReadS gated sysTlb 0 0 0x1040 64 true).1.isOk = true
    ∧ (∀ y ∈ (getPart gated 0).items, y.id < gated.sch.uid) ∧ (spawnTarget (getPart gated 0) 5 0 1).isSome = true
    ∧ queueRoom (getPart gated 0) 5 1 = true := by decide +kernel

/-- The slot of an item can be written. -/
def slotRoom (s : State) (p id : Nat) : Bool :=
  match findItem (getPart s p) id with
  | some x => x.place.all fun va => (devWrite s sysTlb p (instAsid (getPart s p) x.inst) va (recordBytes x.rcd) false 0).isOk
  | none => true

theorem slotWritable_of {s : State} {p id : Nat} (h : slotRoom s p id = true) : slotWritable s p id := by
  intro x va hx hp
  simp only [slotRoom, hx, hp, Option.all_some] at h
  cases hw : devWrite s sysTlb p (instAsid (getPart s p) x.inst) va (recordBytes x.rcd) false 0 with
  | ok u => exact ⟨u, rfl⟩
  | error e => simp [hw, Except.isOk, Except.toBool] at h

/-- The image at 0x1040. -/
def heldImage : List Byte := leList 8 0x200 ++ leList 8 1 ++ leList 8 42 ++ leList 40 0

/-- The new items of stages 0 and 1 stand in slots at 64 and at 0, the first two being free. -/
theorem witness_stageEvents_slots :
    (let i := { launched with descs := [gatedStage, { stage0 with gate0 := 0x1000, thr0 := 2 }],
                              stages := [⟨5, 1, true, false⟩, ⟨3, 1, false, false⟩] }
    let u := (appendItem (updStage gated 0 5 0 fun y => { y with made := y.made + 1 }) 0 5 0 (itemRecord i 0 gatedStage 1) .queued
      (dieCoord i.levels.reverse 1)).2
    findInst (getPart gated 0) 5 = some i ∧ findStage (getPart gated 0) 5 0 = some gatedStage ∧ slotWritable u 0 20
      ∧ ((findItem (getPart u 0) 20).bind fun x => x.place) = some 0)
    ∧ (devReadS gated sysTlb 0 0 0x1040 64 true).1.toOption = some heldImage
    ∧ slotWritable (appendItem (devReadS gated sysTlb 0 0 0x1040 64 true).2 0 5 1 (imageSpore heldImage 9 0) .queued none).2 0 20
    ∧ ((findItem (getPart gated 0) 11).map fun x => x.place) = some none
    ∧ ((findItem (getPart gated 0) 12).map fun x => x.place) = some none ∧ (getPart gated 0).lost = [] :=
  ⟨⟨by decide +kernel, by decide +kernel, slotWritable_of (by decide +kernel), by decide +kernel⟩,
    by decide +kernel, slotWritable_of (by decide +kernel), by decide +kernel, by decide +kernel, by decide +kernel⟩

theorem test_stageEvents : (getPart (after (.itemCreate 0 5 0) gated) 0).items.length = 6
    ∧ stageOpen (getPart (after (.gateTest 0 5 1) gated) 0) 5 1 = true
    ∧ ((findItem (getPart (after (.waitEntryTest 0 11) gated) 0) 11).map fun x => (readySince x).isSome) = some true
    ∧ ((findItem (getPart (after (.spawnImageEnqueue 0 12) gated) 0) 20).map fun x => (x.stage, x.rcd.resume)) = some (1, 0x200) := by
  decide +kernel

/-- A stage of searches, open, with one item, whose descriptor is at 0x1000. -/
def searches : State := updPart (bytesAt 0x1000 (leList 8 0x1200 ++ leList 8 0x1280 ++ [1, 0, 1, 0, 1, 0, 1]) spores) 0 fun q => { q with
  insts := [{ launched with descs := [{ stage0 with entry := 0x1000, kind := 1 }], stages := [⟨1, 1, true, false⟩] }]
  items := [⟨9, 5, 0, .command, { Spore.reset with tag := 9 }, 0, none, none⟩] }

/-- Every bank of cluster 0 runs a spore with a full window, with priority 0. -/
def crowded : State :=
  (List.range 32).foldl (fun s k => setCtx s (keyAgent k) { getCtx spores A0 with
    life := { (getCtx spores A0).life with winUnits := 32, tiles := 2, item := 100 + k } })
    (updPart spores 0 fun q => { q with insts := [{ launched with descs := [{ stage0 with window := 32, tiles := 2 }, stage0] }] })

theorem witness_schedulerEvents : (∃ x d i, pickChoice spores 0 x d i 1 false ∧ x.id = 8)
    ∧ memoriesCanonical spores ∧ partOn searches 0 = true
    ∧ ((getPart searches 0).items.find? (fun x => x.inst == 5 && x.stage == 0 && x.st == .command)).isSome = true
    ∧ stageOpen (getPart searches 0) 5 0 = true
    ∧ ((searchItem searches 0 { launched with descs := [{ stage0 with entry := 0x1000, kind := 1 }], stages := [⟨1, 1, true, false⟩] }
      { stage0 with entry := 0x1000, kind := 1 } 0x1000).1.isSome = true)
    ∧ ((findItem (getPart spores 0) 8).map fun x => (readySince x).isSome) = some true
    ∧ partOn crowded 0 = true
    ∧ ((firstChosen (getPart crowded 0) ((readyItems (getPart crowded 0)).filter fun y =>
        (pickCore crowded 0 y.1 y.2 false).isNone && !yieldAsked crowded y.1.id && !(victims crowded 0 y.1 y.2).isEmpty)).map
          fun y => firstVictim (victims crowded 0 y.1 y.2)) = some (some 31)
    ∧ (getCtx crowded (keyAgent 31)).life.yieldReq = false := by
  refine ⟨⟨(findItem (getPart spores 0) 8).getD ⟨0, 0, 0, .queued, Spore.reset, 0, none, none⟩, stage0, launched, ?_, ?_⟩, ?_⟩
  · unfold pickChoice; decide +kernel
  · decide +kernel
  · unfold memoriesCanonical; decide +kernel

/-- The picked spore has its record in the item and no carry; the query engine of the search stage has room; the record of an aged
spore can be written. -/
theorem witness_schedulerEvents_records :
    (match loadSpore spores 0 0 ((findItem (getPart spores 0) 8).getD ⟨0, 0, 0, .queued, Spore.reset, 0, none, none⟩) with
      | (.ok (r, bs), _) => r.cvalid == false && bs == [] && r.arg0 == 77
      | _ => false) = true
    ∧ (let r := searchItem searches 0 { launched with descs := [{ stage0 with entry := 0x1000, kind := 1 }],
                                                        stages := [⟨1, 1, true, false⟩] } { stage0 with entry := 0x1000, kind := 1 } 0x1000
      r.1.map fun o => receiverFull r.2 0 o.body) = some false
    ∧ searches.mem.errs = [] ∧ (getPart spores 0).lost = []
    ∧ slotWritable (updItem spores 0 8 (older spores 0)) 0 8 :=
  ⟨by decide +kernel, by decide +kernel, by decide +kernel, by decide +kernel, slotWritable_of (by decide +kernel)⟩

theorem test_schedulerEvents : getS (getCtx (after (.pickup 0) spores) (.bank 1 false)) 10 = 77
    ∧ (getCtx (after (.pickup 0) spores) (.bank 1 false)).fr.pc = 0x100
    ∧ (after (.stageItemIssue 0 5 0) searches).ops.length = 1
    ∧ ((findItem (getPart (after (.aging 0 8) { spores with now := 1000003 }) 0) 8).map fun x => x.rcd.prio) = some 3
    ∧ (getCtx (after (.yieldRequest 0) crowded) (keyAgent 31)).life.yieldFor = some 8 := by decide +kernel

/-! ### The host, the gathers and the partitions -/

/-- The device is ready for commands. -/
def readied (s : State) : State := { s with boot := { s.boot with ready := true } }

/-- Bank A of core 0 is frozen at a word, and the one outstanding fault record names it. -/
def frozen : State :=
  readied (here (fun c => { c with life := { c.life with status := .frozen }, fr := { c.fr with stall := .fault } })
    (updPart base 0 fun q => { q with recs := [⟨7, 0, 5, 1, 1, [.bank 0 false], true⟩] }))

/-- An open batch of one event. -/
def batched : State := updPart base 0 fun q => { q with batch := some [⟨.bank 0 false, 0, 5, 1⟩] }

theorem witness_faultAnswers : (∃ r, oneFault frozen 0 0 false r ∧ r.fid = 7) ∧ hasAbort (getCtx frozen A0) = false
    ∧ (∀ r ∈ (getPart frozen 0).recs, r.fid ≠ 8) ∧ (getPart batched 0).batch = some [⟨.bank 0 false, 0, 5, 1⟩]
    ∧ 1 ≤ maxEvents batched 0 := by
  refine ⟨⟨⟨7, 0, 5, 1, 1, [.bank 0 false], true⟩, ?_, rfl⟩, ?_⟩
  · unfold oneFault; decide +kernel
  · decide +kernel

theorem test_faultAnswers : (cx (after (.fansRetry 0 false 7) frozen)).life.status = .running
    ∧ (cx (after (.fansAbort 0 false 7) frozen)).fr.abort = some false
    ∧ (getPart (after (.fansAbort 0 false 8) frozen) 0).recs.length = 1
    ∧ ((getPart (after (.faultBatchClose 0) batched) 0).recs.map fun r => (r.fid, r.page, r.pages)) = [(1, 5, 1)]
    ∧ (after (.ticmd 0 3) frozen).ops.length = 1 := by decide +kernel

/-- Two rows of four bytes at 0x1000 and an element beyond the limit: a gather, and a scatter that adds I32 values. -/
def gather (scatter : Bool) : GatherOp := ⟨scatter, 0x1000, 0x100, 0x200, 4, 4, 2, false, 0, if scatter then 1 else 0, if scatter then 6 else 0,
  false, [1, 0, 5], [.todo, .todo, .todo], if scatter then [[2, 0, 0, 0], [3, 0, 0, 0], [4, 0, 0, 0]] else List.replicate 3 []⟩

/-- Rows of 32 bytes, each a unit of its own; and rows of four of which one is still missing. -/
def wide : GatherOp := { gather false with rowb := 32 }
def lastRow : GatherOp := { gather false with st := [.todo, .done 0, .done 3], rows := [[], [1, 2, 3, 4], [0, 0, 0, 0]] }

/-- The operation of a word of bank A of core 0. -/
def opOf (b : OpBody) : Op := ⟨some 0, .l, 0, 0, 0, .none, 0, 0, true, false, false, b⟩

def rowsOf (g : GatherOp) : State := bytesAt 0x1000 [1, 2, 3, 4, 5, 6, 7, 8] { base with ops := [(1, opOf (.gather g))] }
def rows (scatter : Bool) : State := rowsOf (gather scatter)

theorem witness_gathersAndScatters : (∀ k ∈ [0, 2], elemReady (rows false) 1 k (opOf (.gather (gather false))) (gather false))
    ∧ elemReady (rows true) 1 0 (opOf (.gather (gather true))) (gather true)
    ∧ (findRow (rows false) (opOf (.gather (gather false))) (gather false) 0).1 = .ok [(⟨0, 0, 0x201004, false⟩, 4)]
    ∧ (findRow (rows false) (opOf (.gather (gather false))) (gather false) 2).1 = .code 3
    ∧ (findRow (rows true) (opOf (.gather (gather true))) (gather true) 0).1 = .ok [(⟨0, 0, 0x201004, false⟩, 4)]
    ∧ (findRow (rowsOf wide) (opOf (.gather wide)) wide 0).1 = .ok [(⟨0, 0, 0x201004, false⟩, 32)]
    ∧ unitReady { wide with st := [.done 0, .todo, .todo] } 8 = true ∧ statusUnit wide 8 = false
    ∧ unitReady { gather false with st := [.done 0, .todo, .todo] } 8 = false := by
  refine ⟨?_, ?_, ?_⟩
  · intro k hk
    have h : k = 0 ∨ k = 2 := by simpa using hk
    obtain rfl | rfl := h <;>
      exact ⟨by decide +kernel, rfl, by decide +kernel, by decide +kernel, by decide +kernel, ⟨1, by decide +kernel⟩, by decide +kernel,
        by unfold memoriesCanonical; decide +kernel⟩
  · exact ⟨by decide +kernel, rfl, by decide +kernel, by decide +kernel, by decide +kernel, ⟨1, by decide +kernel⟩, by decide +kernel,
      by unfold memoriesCanonical; decide +kernel⟩
  · decide +kernel

/-- R112: the unit of three rows shows none of them before the last is settled. -/
theorem test_gathers : pad (after (.gatherElementRead 1 0) (rows false)) 0x100 4 = pad (rows false) 0x100 4
    ∧ pad (after (.gatherElementRead 1 0) (rowsOf wide)) 0x100 4 = [5, 6, 7, 8]
    ∧ pad (after (.gatherElementRead 1 0) (rowsOf lastRow)) 0x100 12 = [5, 6, 7, 8, 1, 2, 3, 4, 0, 0, 0, 0]
    ∧ bytes (after (.scatterElement 1) (rows true)) 0x1004 4 = [7, 6, 7, 8] := by decide +kernel

/-- The last element of a scatter; gathers and scatters of no element. -/
def lastScatter : GatherOp := { gather true with st := [.todo, .done 0, .done 3] }
def noRows (scatter : Bool) : GatherOp := { gather scatter with idx := [], st := [], rows := [] }

/-- The word of bank A of core 0 waits for the operation, an LGATH whose reply entry the last element gives. -/
def waitsFor (e : Engine) (j : Instr) (s : State) : State :=
  here (fun c => { c with eng := setE c.eng e { getE c.eng e with
    flying := [⟨⟨j, 0, 0, 0, captureOf c j 0⟩, [], .none, none, .none, .none, .none, some 1, none, []⟩] } }) s

theorem witness_gathersAndScatters_end : (∀ g ∈ [lastRow, lastScatter], kfind (rowsOf g).ops 1 = some (opOf (.gather g))
      ∧ ksorted (rowsOf g).ops = true ∧ elemSt g 0 = .todo ∧ (∀ j, j < g.st.length → j ≠ 0 → settled (elemSt g j) = true)
      ∧ (rowsOf g).mem.errs = [] ∧ memoriesCanonical (rowsOf g)
      ∧ elemOutcome (rowsOf g) (opOf (.gather g)) g 0 = some (0, [(⟨0, 0, 0x201004, false⟩, 4)]))
    ∧ ∀ b : Bool, (kfind (rowsOf (noRows b)).ops 1) = some (opOf (.gather (noRows b))) ∧ (noRows b).st = [] ∧ ksorted (rowsOf (noRows b)).ops = true
      ∧ memoriesCanonical (rowsOf (noRows b)) := by
  unfold memoriesCanonical; decide +kernel

/-- R273, R274: one element, number 2, is not OK, with status 3; the word may complete; the scatter's row is added. -/
theorem test_gathersEnd : pad (after (.gatherElementRead 1 0) (rowsOf lastRow)) 0x200 8 = leList 4 1 ++ leList 4 (2 + 3 * 2 ^ 30)
    ∧ (after (.gatherElementRead 1 0) (rowsOf lastRow)).ops = []
    ∧ ((cx (after (.gatherElementRead 1 0) (waitsFor .l (.lgath true 0 2 9 0 false true) (rowsOf lastRow)))).eng.l.flying.map fun f =>
        f.fin.isSome) = [true]
    ∧ bytes (after (.scatterElement 1) (rowsOf lastScatter)) 0x1004 4 = [7, 6, 7, 8]
    ∧ pad (after (.scatterElement 1) (rowsOf lastScatter)) 0x200 8 = leList 4 1 ++ leList 4 (2 + 3 * 2 ^ 30)
    ∧ pad (after (.gatherElementRead 1 0) (rowsOf (noRows false))) 0x200 4 = [0, 0, 0, 0] := by decide +kernel

/-- Ring 0 of partition 0 is enabled with 16 entries at host address 0 and 16 completions at 0x10000; its doorbell stands at 1, and
entry 1 is `e`. -/
def ring (e : List Byte) : State :=
  let s := readied (block 0 [(0x400, 0x8000), (0x408, 4), (0x420, 0x9000), (0x428, 4), (0x440, 1)] base)
  let s := updHRing s 0 0 fun q => { q with d := 1, sqLog := 4, cqBase := 0x10000, cqLog := 4 }
  { s with mem := { s.mem with host := mwrite s.mem.host 128 (leList 4 1 ++ e) } }

/-- A NOP, a withdrawal of tag 9, a launch in an identifier that is not the partition's, one of one stage at 0x1080, an entry of
kind 3, and a withdrawal and a launch with a reserved byte that is not 0. -/
def nopEntry : State := ring (leList 4 0 ++ leList 8 0x77)
def withdrawEntry : State := ring (leList 4 2 ++ leList 8 0x77 ++ leList 48 0 ++ leList 4 9)
def refusedLaunch : State := ring (leList 4 1 ++ leList 8 0x77 ++ leList 48 0 ++ leList 8 0x1080 ++ leList 8 0x1200 ++ leList 4 9 ++ [1, 0, 1])
def goodLaunch : State :=
  bytesAt 0x1080 (leList 8 0x100 ++ [0, 1, 1, 0] ++ leList 12 0 ++ leList 4 4)
    (ring (leList 4 1 ++ leList 8 0x77 ++ leList 48 0 ++ leList 8 0x1080 ++ leList 8 0x1200 ++ leList 4 9 ++ [1]))
def badKind : State := ring (leList 4 3 ++ leList 8 0x77)
def badWithdraw : State := ring (leList 4 0x102 ++ leList 8 0x77 ++ leList 48 0 ++ leList 4 9)
def badLaunch : State := ring (leList 4 0x101 ++ leList 8 0x77 ++ leList 48 0 ++ leList 8 0x1080 ++ leList 8 0x1200 ++ leList 4 9 ++ [1])

/-- The entry the ring reads. -/
def entryOf (s : State) : List Byte := (lookRing s 0 0).1.getD []

/-- A completion is owed and may be written. -/
def owing : State := updHRing nopEntry 0 0 fun q => { q with owed := [⟨1, 0x77, 0, 1, 0, 0, none⟩] }

theorem witness_ringEntries : (∀ s ∈ [nopEntry, withdrawEntry, refusedLaunch, goodLaunch, badKind, badWithdraw, badLaunch], ringReads s 0 0 (entryOf s))
    ∧ fieldAt (entryOf nopEntry) 4 1 = 0 ∧ fieldAt (entryOf badKind) 4 1 = 3 ∧ fieldAt (entryOf withdrawEntry) 4 1 = 2
    ∧ badEntry (entryOf withdrawEntry) = false ∧ memoriesCanonical (withdrawTag withdrawEntry 0 9).2
    ∧ fieldAt (entryOf refusedLaunch) 4 1 = 1 ∧ badEntry (entryOf refusedLaunch) = false ∧ fieldAt (entryOf goodLaunch) 4 1 = 1
    ∧ badEntry (entryOf goodLaunch) = false
    ∧ (launchRecord refusedLaunch 0 0 ((entryOf refusedLaunch).drop 64)).1 = (3, 0, none)
    ∧ memoriesCanonical (launchRecord refusedLaunch 0 0 ((entryOf refusedLaunch).drop 64)).2
    ∧ expanded (getPart (launchRecord goodLaunch 0 0 ((entryOf goodLaunch).drop 64)).2 0)
        (launchRecord goodLaunch 0 0 ((entryOf goodLaunch).drop 64)).1.2.2 = false
    ∧ badEntry (entryOf badWithdraw) = true ∧ fieldAt (entryOf badWithdraw) 4 1 = 2
    ∧ badEntry (entryOf badLaunch) = true ∧ fieldAt (entryOf badLaunch) 4 1 = 1
    ∧ (getHRing owing 0 0).owed.length = 1 ∧ (getHRing owing 0 0).act = .none ∧ cqFree owing 0 0 = true
    ∧ memoriesCanonical owing := by
  unfold ringReads memoriesCanonical
  and_intros <;> decide +kernel

/-- The status and the kind of the first completion. -/
def statusOf (s : State) : List Byte := mread s.mem.host (0x10000 + 32 + 16) 2

theorem test_ringEntries : statusOf (after (.nopEntry 0 0) nopEntry) = [0, 0] ∧ statusOf (after (.nopEntry 0 0) badKind) = [4, 3]
    ∧ statusOf (after (.withdraw 0 0) withdrawEntry) = [0, 2] ∧ statusOf (after (.launch 0 0) refusedLaunch) = [3, 1]
    ∧ statusOf (after (.withdraw 0 0) badWithdraw) = [4, 2] ∧ statusOf (after (.launch 0 0) badLaunch) = [4, 1]
    ∧ (getPart (after (.launch 0 0) goodLaunch) 0).insts.length = 1 ∧ (getHRing (after (.launch 0 0) goodLaunch) 0 0).owed.length = 1
    ∧ mread (after (.launchCompletion 0 0) owing).mem.host 0x10020 9 = [1, 0, 0, 0, 1, 0, 0, 0, 0x77] := by decide +kernel

/-- The ring stands still for want of a free completion, with its registers at 16 entries each; and one whose completion is owed. -/
def stoppedRing : State :=
  updHRing (block 0 [(0x418, 2 ^ 33 + 5), (0x438, 16)] nopEntry) 0 0 fun q => { q with d := 5 }

/-- Message 4 is delayed; IRQST shows sources 0 and 8, and IRQMASK hides source 8. -/
def irqs : State := updHRing (block 0 [(0x600, 0x101), (0x608, 0x100)] nopEntry) 0 0 fun q => { q with modPend := true, lastMsg := some 0 }

theorem witness_ringControlAndInterrupts : stoppedRing.boot.ready = true ∧ (getHRing stoppedRing 0 0).owed = []
    ∧ (getHRing stoppedRing 0 0).act = .none ∧ (getHRing stoppedRing 0 0).d.toNat = sqLast stoppedRing 0 0
    ∧ sqStop stoppedRing 0 0 = true ∧ sqOverrun stoppedRing 0 0 = false
    ∧ (bits (ringReg stoppedRing 0 0 0x38) 31 0 + 1 + 2 ^ 32 - 1) % 2 ^ 32 ≤ 2 ^ (getHRing stoppedRing 0 0).cqLog
    ∧ ringGood stoppedRing 0 0 ∧ ¬ ringGood base 0 0 ∧ (getHRing base 0 0).owed = [] ∧ (getHRing owing 0 0).owed ≠ []
    ∧ irqs.boot.ready = true ∧ (getHRing irqs 0 0).modPend = true ∧ 0 + 2 * bits (ringReg irqs 0 0 0x40) 31 16 ≤ irqs.now
    ∧ ((List.range 12).filter fun k => bit (preg irqs 0 0x608).toNat k && !bit (0 : Word).toNat k && bit (preg irqs 0 0x600).toNat k)
        = [8] := by
  unfold ringGood; decide +kernel

theorem test_ringControl : (getHRing (after (.sqdb 0 0 9) stoppedRing) 0 0).d = 9 ∧ (getHRing (after (.sqdb 0 0 4) stoppedRing) 0 0).d = 5
    ∧ sqStop (after (.cqhead 0 0 1) stoppedRing) 0 0 = false ∧ ringOn (after (.ringDisable 0 0 0) nopEntry) 0 0 = false
    ∧ sqLast (after (.rebase 0 0 3) (block 0 [(0x408, 0x700000004)] nopEntry)) 0 0 = 6
    ∧ ringOn (after (.ringEnable 0 0 1) base) 0 0 = false ∧ (getHRing (after (.rebase 0 0 3) owing) 0 0).act = .rebase
    ∧ preg (after (.irqst 0 0x100) irqs) 0 0x600 = 1 ∧ (after (.irqmask 0 0) irqs).msix.length = irqs.msix.length + 1
    ∧ (after (.irqModeration 0 0) irqs).msix.length = irqs.msix.length + 1 := by decide +kernel

/-- Function 1 is bound to partition 0; the debug window of function 0 stands at 0x201000; bytes in a scratchpad of a core and of a
sequencer. -/
def hosted : State :=
  let s := readied (setDreg (setDreg (bytesAt 0x1000 [1, 2, 3] base) 0x1000 8) 0x1008 0x201000)
  { s with mem := { s.mem with scratch := [(2 ^ 20 + 4, 9)], seqScratch := [(2 ^ 18, 8)] } }

/-- The window of function 0 stands past the last byte of the device's DRAM. -/
def beyond : State := setDreg hosted 0x1008 0x8000000000

theorem witness_hostAccess : hosted.boot.ready = true ∧ hosted.mem.errs = [] ∧ bindsTwice 0x98 = false ∧ bindsBusy hosted 0x98 = false
    ∧ memoriesCanonical hosted ∧ hostTarget hosted 0 0 2 = .dram 0x201000 ∧ hostTarget hosted 0 0x80100004 1 = .scratch 1 4
    ∧ hostTarget hosted 0 0x98040000 1 = .seqScratch 1 0 ∧ hostTarget hosted 2 0 1 = .nothing
    ∧ hostTarget hosted 1 0x98040000 1 = .refused ∧ vfPart hosted 1 = some 0 ∧ hostTarget beyond 0 0 1 = .refused ∧ beyond.boot.ready = true
    ∧ beyond.mem.errs = [] := by unfold memoriesCanonical; decide +kernel

theorem test_hostAccess : dreg (after (.vfbind 0x98) hosted) 0x1000 = 0x98 ∧ (after (.bar2Read 0 0 2) hosted).reply = .data [1, 2]
    ∧ (after (.bar2Read 0 0x80100004 1) hosted).reply = .data [9] ∧ (after (.bar2Read 0 0x98040000 1) hosted).reply = .data [8]
    ∧ bytes (after (.bar2Write 0 1 [7]) hosted) 0x1000 3 = [1, 7, 3]
    ∧ preg (after (.bar2Write 1 0x98040000 [7]) hosted) 0 0x618 = 1
    ∧ preg (after (.bar2Read 1 0x98040000 1) hosted) 0 0x618 = 1 ∧ (after (.bar2Read 1 0x98040000 1) hosted).reply = .data [0]
    ∧ dreg (after (.bar2Read 0 0 1) beyond) 0x1010 = 1 := by decide +kernel

/-- Partition 1 has its block in order; partition 2 wants the cluster of partition 0; partition 0 is draining with no work left, and
is disabled. -/
def blocks : State := block 1 [(0x008, 2), (0x010, 2), (0x028, 1), (0x048, 0x100), (0x060, 6), (0x210, 6), (0x308, 7)]
  (block 2 [(0x008, 1), (0x010, 4), (0x028, 2), (0x048, 0x100), (0x060, 6), (0x210, 6), (0x308, 7)] hosted)
def draining : State := setDreg (block 0 [(0x000, 0x3000), (0x008, 1)] (readied State.reset)) 0x1000 8
/-- A reset of function 1 waits for the one bank of the partition that is not empty. -/
def waitsReset : State := updPart (setDreg (block 0 [(0x000, 0x3000), (0x600, 5)] (readied base)) 0x1000 8) 0 fun q => { q with flr := [1] }
def disabled : State := setDreg (block 0 [(0x000, 0), (0x008, 1), (0x600, 5)] (readied State.reset)) 0x1000 8

theorem witness_partitionControl : blocks.boot.ready = true
    ∧ (∀ p ∈ [1, 2, 3], partOn blocks p = false ∧ partStatus blocks p ≠ 3) ∧ badValue blocks 1 = false ∧ conflict blocks 1 = false
    ∧ badValue blocks 2 = false ∧ conflict blocks 2 = true ∧ badValue blocks 3 = true ∧ partOn blocks 0 = true
    ∧ partOn draining 0 = false ∧ partStatus draining 0 = 3 ∧ workLeft draining 0 = false ∧ (getPart draining 0).flr = []
    ∧ vfPart disabled 1 = some 0 ∧ partOn disabled 0 = false ∧ partStatus disabled 0 ≠ 3 ∧ (getPart disabled 0).flr.contains 1 = false
    ∧ vfPart blocks 1 = some 0 ∧ banksEmpty disabled 0 = true ∧ banksEmpty blocks 0 = false ∧ (getPart waitsReset 0).flr = [1]
    ∧ banksEmpty waitsReset 0 = false ∧ (getCtx waitsReset (.bank 0 false)).life.part = 0
    ∧ banksEmpty (freeBank waitsReset 0 false) 0 = true := by decide +kernel

theorem test_partitionControl : partOn (after (.partitionEnable 1 1) blocks) 1 = true
    ∧ partStatus (after (.partitionEnable 2 1) blocks) 2 = 1 ∧ partStatus (after (.partitionEnable 3 1) blocks) 3 = 2
    ∧ partStatus (after (.partitionDisable 0 0) blocks) 0 = 3 ∧ partStatus (after (.disableComplete 0) draining) 0 = 0
    ∧ preg (after (.functionLevelReset 1) disabled) 0 0x600 = 0 ∧ (getPart (after (.functionLevelReset 1) blocks) 0).flr = [1]
    ∧ preg (freeBank waitsReset 0 false) 0 0x600 = 0 ∧ (getPart (freeBank waitsReset 0 false) 0).flr = [] := by
  decide +kernel

/-- Registers that a read clears hold 5. -/
def counts : State := setDreg (setDreg (setDreg
  (block 0 [(0x078, 5), (0x228, 5), (0x320, 5), (0x340, 0x500), (0x618, 0x300000005)] hosted) 0x1010 5) 0x3018 5) 0x2108 0x30005

theorem witness_registerAccess : counts.boot.ready = true ∧ blockField 0x048 = some (0xFFFFFFFFFFFC, true) ∧ vfPart counts 1 = some 0
    ∧ partOn counts 0 = true ∧ partOn disabled 0 = false ∧ blockField 0x070 = some (0xFFFFFFFF, false) ∧ vfPart disabled 1 = some 0
    ∧ (getCtx movs A0).life.status = .running ∧ ringBusy (getCtx movs A0).eng 7 = false := by decide +kernel

/-- The host reads DEVID and DEVSTAT of a device that has just powered up. -/
def reads (off : Nat) : State :=
  { State.reset with sch := { State.reset.sch with agenda := [.read 0 off] } }

/-- R432, R433: form 0, stepping 0, of architecture 0x5371; READY 0. -/
theorem witness_registerAccess_reads : (reads 0).sch.agenda = [.read 0 0] ∧ (reads 8).sch.agenda = [.read 0 8]
    ∧ (next (reads 0)).reply = .data [0, 1, 0x71, 0x53, 0, 0, 0, 0] ∧ (next (reads 8)).reply = .data (leList 8 (devstat State.reset)) := by
  decide +kernel

theorem test_registerAccess : (∀ i ∈ ([.trlost 0, .frlost 0, .erlost 0, .hstat 0, .ecnt 3] : List Instr),
      (after i counts).reply = .data [5, 0, 0, 0, 0, 0, 0, 0])
    ∧ preg (after (.trlost 0) counts) 0 0x078 = 0 ∧ (after (.rsstat 0) counts).reply = .data [0, 5, 0, 0, 0, 0, 0, 0]
    ∧ preg (after (.hstat 1) counts) 0 0x618 = 0x300000000 ∧ dreg (after (.lbport 1) counts) 0x2108 = 0x30000
    ∧ preg (after (.registerWrite 1 0x070 0x100000003) counts) 0 0x070 = 3
    ∧ preg (after (.registerWrite 0 0x100048 0x1007) disabled) 0 0x048 = 0x1004
    ∧ preg (after (.registerWrite 1 0x048 0x1007) counts) 0 0x048 = 0
    ∧ (getRing (cx (after (.rgcfgWrite A0 7 (-1)) movs)) 7).cfg = 0x8FFF7FFF000FFFE0 := by decide +kernel

/-! ### The retrieval store -/

/-- An index of 256-bit codes on unit 0, of generation 3, whose entry node 1 refers to node 2. -/
def index (st : IdxState) : Index := ⟨0, 0, st, 3, 256, 2, [0], 0, 1, 0, 2, 1024, [⟨0, 0, [⟨1, false, 0, 0, [(2, 1)]⟩, ⟨2, false, 0, 16, []⟩]⟩], [], 0,
  none, false, false, false⟩

/-- Unit 0 is formatted and granted, and slot 4 holds that index. -/
def withStore (st : IdxState) : State :=
  let s := readied (block 0 [(0x018, 1)] base)
  putIndex (setUnit s 0 { getUnit s 0 with indexGib := 16, marks := [(.index, 9, true)], mounting := false }) 4 (index st)

/-- Partition 0 has one command queued: its block stands at 0x1000 and its image at 0x1100. -/
def cmd (st : IdxState) (op unit slot len arg : Nat) (img : List Byte) : State :=
  bytesAt 0x1000 (leList 1 op ++ leList 1 unit ++ leList 2 slot ++ leList 4 0 ++ leList 8 0x1100 ++ leList 8 len ++ leList 8 arg)
    (bytesAt 0x1100 img (updPart (withStore st) 0 fun q => { q with cmds := [0x1000] }))

/-- The block of the command, and the machine once it has been read. -/
def blockOf (s : State) : List Byte :=
  match (devReadS s sysTlb 0 (asidBase s 0) 0x1000 64 false).1 with
  | .ok b => b
  | .error _ => []
def blockRead (s : State) : State := (devReadS s sysTlb 0 (asidBase s 0) 0x1000 64 false).2

/-- The image of the command, and the machine once it has been read too. -/
def imageOf (s : State) : List Byte := (cmdImage (blockRead s) 0 (blockOf s)).1.getD []
def imageRead (s : State) : State := (cmdImage (blockRead s) 0 (blockOf s)).2

/-- The command is held. -/
def isHeld (s : State) (op : Nat) : Bool :=
  partOn s 0 && (getPart s 0).cmds == [0x1000] && (devReadS s sysTlb 0 (asidBase s 0) 0x1000 64 false).1.isOk && fieldAt (blockOf s) 0 1 == op
    && fieldAt (blockOf s) 4 4 == 0 && fieldAt (blockOf s) 32 24 == 0

/-- STATUS of the block after the command. -/
def statusAt (s : State) : Nat := leVal (bytes s 0x103C 1)

def header : List Byte := [0x49, 0x56, 0x4B, 0x45, 0x41, 0x4E, 0x44, 1, 0, 1, 2, 1] ++ List.replicate 44 0 ++ leList 8 1024 ++ List.replicate 32 0

theorem witness_provisioningCommands :
    isHeld (cmd .free 1 0 0 0 16 []) 1 = true ∧ (getUnit (cmd .free 1 0 0 0 16 []) 0).failed = false
    ∧ isHeld (cmd .built 2 0 7 96 0 header) 2 = true ∧ slotOf (cmd .built 2 0 7 96 0 header) 7 = freeIndex 0
    ∧ (headerIndex 0 (imageRead (cmd .built 2 0 7 96 0 header)).sch.uid 0 (imageOf (cmd .built 2 0 7 96 0 header))).map (fun y => y.place) = some [0]
    ∧ isHeld (cmd .building 3 0 4 8 0 [5]) 3 = true ∧ slotOf (cmd .building 3 0 4 8 0 [5]) 4 = index .building
    ∧ parseNodes (index .building) 2 (leList 8 5) = some [⟨5, false, 0, 0, []⟩]
    ∧ (placeNodes (cmd .building 3 0 4 8 0 [5]) (index .building) [⟨5, false, 0, 0, []⟩] ⟨[], []⟩).map (fun n => n.id) = [5]
    ∧ isHeld (cmd .built 9 1 2 2 77 [6, 7]) 9 = true ∧ objectUnit (cmd .built 9 1 2 2 77 [6, 7]) 0 77 = some 0
    ∧ isHeld (cmd .built 10 0 0 0 77 []) 10 = true ∧ isHeld (cmd .built 11 0 0 0 0 []) 11 = true
    ∧ (withStore .built).boot.ready = true := by decide +kernel

/-- Programming does not fail, no index stands on the unit that is formatted, and what is added fits. -/
theorem witness_provisioningCommands_room : flashFails (cmd .free 1 0 0 0 16 []) [0] = false
    ∧ (∀ kx ∈ (cmd .free 1 0 0 0 16 []).store.indexes, kx.2.st = .free)
    ∧ (let z := imageRead (cmd .built 2 0 7 96 0 header)
      (headerIndex 0 z.sch.uid 0 (imageOf (cmd .built 2 0 7 96 0 header))).map fun y => regionFits (putIndex z 7 y) 0) = some true
    ∧ (let s := imageRead (cmd .building 3 0 4 8 0 [5])
      let x := index .building
      regionFits (putIndex s 4 { x with versions := [{ curVersion x with
        nodes := (curVersion x).nodes ++ placeNodes s x [⟨5, false, 0, 0, []⟩] ⟨[], []⟩ }] }) 0 = true)
    ∧ (let s := imageRead (cmd .built 9 1 2 2 77 [6, 7])
      let o : KvObj := ⟨0, 0, 77, 2, 1, 0, objectBody 77 2 1 [6, 7]⟩
      objectRun s 0 (bodyPages o).length + (bodyPages o).length ≤ objectPages s 0
        ∧ regionFits { s with store := { s.store with objects := s.store.objects ++ [o] } } 0 = true)
    ∧ objectUnit (cmd .built 10 0 0 0 77 []) 0 77 = some 0 := by decide +kernel

theorem test_provisioningCommands : statusAt (after (.format 0) (cmd .free 1 0 0 0 16 [])) = 0
    ∧ statusAt (after (.format 0) (cmd .free 1 0 0 0 15 [])) = 1 ∧ statusAt (after (.format 0) (cmd .free 1 1 0 0 16 [])) = 2
    ∧ (slotOf (after (.create 0) (cmd .built 2 0 7 96 0 header)) 7).st = .building
    ∧ ((curVersion (slotOf (after (.putnodes 0) (cmd .building 3 0 4 8 0 [5])) 4)).nodes.map fun n => (n.id, n.page)) = [(1, 0), (2, 0), (5, 1)]
    ∧ ((after (.putobj 0) (cmd .built 9 1 2 2 77 [6, 7])).store.objects.map fun o => (o.id, o.page, o.data.drop 64)) = [(77, 0, [6, 7])]
    ∧ (after (.delobj 0) (after (.putobj 0) (updPart (cmd .built 9 1 2 2 77 [6, 7]) 0 fun q => { q with cmds := [0x1000, 0x1000] }))).store.objects.length = 1
    ∧ (getUnit (after (.clearbad 0) (cmd .built 11 0 0 0 0 [])) 0).marks = []
    ∧ (getPart (after (.rscmd 0 0x1043) (withStore .built)) 0).cmds = [0x1040] := by decide +kernel

theorem witness_provisioningAndIndexCommands : (∀ x ∈ ([(4, .building), (5, .built), (6, .mounted), (7, .built), (8, .mounted),
      (4, .mounted)] : List (Nat × IdxState)), isHeld (cmd x.2 x.1 0 4 0 0 []) x.1 = true ∧ slotOf (cmd x.2 x.1 0 4 0 0 []) 4 = index x.2) := by
  decide +kernel

theorem test_indexCommands : (slotOf (after (.seal 0) (cmd .building 4 0 4 0 0 [])) 4).st = .built
    ∧ (slotOf (after (.mount 0) (cmd .built 5 0 4 0 0 [])) 4).gen = 4 ∧ (slotOf (after (.unmount 0) (cmd .mounted 6 0 4 0 0 [])) 4).st = .built
    ∧ (slotOf (after (.drop 0) (cmd .built 7 0 4 0 0 [])) 4).st = .free ∧ (slotOf (after (.merge 0) (cmd .mounted 8 0 4 0 0 [])) 4).merge.isSome = true
    ∧ statusAt (after (.seal 0) (cmd .mounted 4 0 4 0 0 [])) = 3 := by decide +kernel

/-- The slot belongs to partition 1; and the unit is no longer granted. -/
def others (op : Nat) (st : IdxState) : State := putIndex (cmd st op 0 4 0 0 []) 4 { index st with owner := 1 }
def ungranted (op : Nat) (st : IdxState) : State := block 0 [(0x018, 0)] (cmd st op 0 4 0 0 [])

theorem witness_indexCommands_notGranted : isHeld (others 4 .building) 4 = true ∧ (slotOf (others 4 .building) 4).owner = 1
    ∧ (∀ x ∈ ([(3, .building), (5, .built), (6, .mounted)] : List (Nat × IdxState)), isHeld (ungranted x.1 x.2) x.1 = true
      ∧ ((slotOf (ungranted x.1 x.2) 4).place.any fun u => !bit (preg (ungranted x.1 x.2) 0 0x018).toNat u) = true) := by decide +kernel

/-- R355, R414: NOTGRANTED; an index may still be unmounted. -/
theorem test_indexCommands_notGranted : statusAt (after (.seal 0) (others 4 .building)) = 2 ∧ statusAt (after (.mount 0) (ungranted 5 .built)) = 2
    ∧ statusAt (after (.putnodes 0) (ungranted 3 .building)) = 2 ∧ (slotOf (after (.unmount 0) (ungranted 6 .mounted)) 4).st = .built := by
  decide +kernel

/-! ### Searches and fetches -/

/-- An operation in flight over the mounted index. -/
def flight (b : OpBody) : State := { withStore .mounted with ops := [(1, opOf b)] }

/-- A search for two nodes near code 0 in slot 4: not yet accepted, accepted, in its first round, and finished. -/
def search0 : SearchOp := ⟨4, 0x30004, 0, 0x1200, 2, 2, 1, 1, true, false, 0, none, 0, 0, [], [], [], [], 0, 0, [], [], none⟩
def search1 : SearchOp := { search0 with accepted := true, pin := some (index .mounted) }
def search2 : SearchOp := { search1 with c := [(0, 1)], seen := [1], front := [1] }
def search3 : SearchOp := { search1 with c := [(0, 1), (1, 2)], seen := [1, 2], x := [1], rounds := 1, status := some 0 }

/-- The search of an operation, after a step. -/
def searchNow (s : State) : SearchOp :=
  match kfind s.ops 1 with
  | some ⟨_, _, _, _, _, _, _, _, _, _, _, .search g⟩ => g
  | _ => search0

theorem witness_searchAndFetchSteps_search : (∀ g ∈ [search0, search1, search2, search3], ksorted (flight (.search g)).ops = true
      ∧ kfind (flight (.search g)).ops 1 = some (opOf (.search g)))
    ∧ search0.accepted = false ∧ receiverFull (flight (.search search0)) 0 (.search search0) = false ∧ (handleIndex (flight (.search search0)) 0 0x30004) = some (index .mounted)
    ∧ searchesOn (flight (.search search1)) 0 < 64 ∧ search2.c ≠ [] ∧ search2.rounds + 1 = search2.hops
    ∧ (writeParts (flight (.search search3)) (unitTlb 0) (opOf (.search search3)) [(0x1220, leList 8 1), (0x1228, leList 8 2),
        (0x1200, searchHeader search3 2 0)]).1 = true := by decide +kernel

theorem test_searchSteps : (searchNow (after (.searchAccept 1) (flight (.search search0)))).pin = some (index .mounted)
    ∧ (searchNow (after (.searchRound 1) (flight (.search search1)))).c = [(0, 1)]
    ∧ (searchNow (after (.searchRound 1) (flight (.search search2)))).c = [(0, 1), (1, 2)]
    ∧ (searchNow (after (.searchRound 1) (flight (.search search2)))).status = some 0
    ∧ bytes (after (.searchEnd 1) (flight (.search search3))) 0x1200 8 = [2, 0, 0, 0, 0, 0, 1, 0]
    ∧ bytes (after (.searchEnd 1) (flight (.search search3))) 0x1228 8 = [2, 0, 0, 0, 0, 1, 0, 0] := by decide +kernel

/-- An operation of a word, with a counter: local counter 5, or the 8 bytes at 0x1800. -/
def counted (c : Ctr) (b : OpBody) : State := { withStore .mounted with ops := [(1, { opOf b with ctr := c })] }

/-- The finished search, whose first record would lie past the pages that are mapped while its header lies inside. -/
def tooFar : SearchOp := { search3 with res := 0x1FFFE0 }

theorem witness_searchAndFetchSteps_counters : (∀ c ∈ [Ctr.loc 5, .mem 0x1800], ksorted (counted c (.search search3)).ops = true
      ∧ (kfind (counted c (.search search3)).ops 1).map (fun o => o.ctr) = some c)
    ∧ (writeParts (flight (.search tooFar)) (unitTlb 0) (opOf (.search tooFar)) [(0x200000, leList 8 1), (0x200008, leList 8 2),
        (0x1FFFE0, searchHeader tooFar 2 0)]).1 = false := by decide +kernel

/-- R95, R293: the counters take 1; a search whose records cannot be written leaves a header of STATUS 4 with none. -/
theorem test_searchEnds : getPg (cx (after (.searchEnd 1) (counted (.loc 5) (.search search3)))) 5 = 1
    ∧ leVal (bytes (after (.searchEnd 1) (counted (.mem 0x1800) (.search search3))) 0x1800 8) = 1
    ∧ bytes (after (.searchEnd 1) (counted (.loc 5) (.search search3))) 0x1228 8 = [2, 0, 0, 0, 0, 1, 0, 0]
    ∧ bytes (after (.searchEnd 1) (flight (.search tooFar))) 0x1FFFE0 5 = [0, 0, 0, 0, 4] := by decide +kernel

/-- A fetch of an absent object and of one whose pages have been read. -/
def absent0 : FetchObj := ⟨88, 0x1400, none, none, 64, false, [], false, none⟩
def present0 : FetchObj := ⟨77, 0x1500, some 0, some ⟨0, 0, 77, 2, 1, 0, objectBody 77 2 1 [6, 7]⟩, 1, true, [], false, none⟩
def fetch0 : FetchOp := ⟨0x1280, 10, 2, 0x1300, false, 0, [absent0, { absent0 with id := 77 }]⟩
def fetch1 : FetchOp := { fetch0 with accepted := true, objs := [absent0, present0] }
/-- An object whose slots have another size, one with a page that could not be read, one whose first page is marked, and one whose
block cannot be written. -/
def odd0 : FetchObj := { present0 with body := some ⟨0, 0, 77, 4, 1, 0, objectBody 77 4 1 [6, 7, 8, 9]⟩ }
def bad0 : FetchObj := { present0 with bad := true }
def gone0 : FetchObj := { present0 with begun := false }
def lost0 : FetchObj := { present0 with block := 0x40000000 }
def fetchOne (x : FetchObj) : FetchOp := { fetch1 with objs := [absent0, x] }
/-- The fetch has been withdrawn. -/
def cancelled (g : FetchOp) : State := { withStore .mounted with ops := [(1, { opOf (.fetch g) with withdrawn := true })] }
/-- The first page of the unit's object region is marked. -/
def goneFlight : State := setUnit (flight (.fetch (fetchOne gone0))) 0 { getUnit (flight (.fetch (fetchOne gone0))) 0 with marks := [(.object, 0, true)] }
def fetch2 : FetchOp := { fetch1 with objs := [{ absent0 with st := some 2 }, { present0 with st := some 0 }] }

theorem witness_searchAndFetchSteps_fetch : (∀ g ∈ [fetch0, fetch1, fetch2], ksorted (flight (.fetch g)).ops = true
      ∧ kfind (flight (.fetch g)).ops 1 = some (opOf (.fetch g))) ∧ fetch0.accepted = false
    ∧ (devWrite (flight (.fetch fetch1)) (unitTlb 0) 0 0 0x1280 (entryBytes fetch1 0 absent0 0) true 0 (some 0)).isOk = true
    ∧ (devWrite (flight (.fetch fetch1)) (unitTlb 0) 0 0 0x1500 [6, 7] true 0 (some 0)).isOk = true
    ∧ (devWrite (flight (.fetch fetch1)) (unitTlb 0) 0 0 0x1290 (entryBytes fetch1 1 present0 3) true 0 (some 0)).isOk = true
    ∧ (∀ x ∈ fetch2.objs, x.st.isSome = true) ∧ receiverFull (flight (.fetch fetch0)) 0 (.fetch fetch0) = false := by decide +kernel

theorem witness_searchAndFetchSteps_codes : (odd0.bad = false ∧ (odd0.body.map fun b => b.slotb) = some 4 ∧ fetch1.slotb = 2)
    ∧ (bad0.bad = true ∧ bad0.wait = []) ∧ (gone0.begun = false
      ∧ (gone0.body.map fun b => (bodyPages b).any (pageGone goneFlight 0 .object)) = some true)
    ∧ (devWrite (flight (.fetch (fetchOne lost0))) (unitTlb 0) 0 0 0x40000000 [6, 7] true 0 (some 0)).isOk = false
    ∧ (∀ x ∈ [odd0, bad0, gone0, lost0], x.st = none ∧ x.unit = some 0 ∧ (fetchOne x).objs[1]? = some x)
    ∧ kfind (cancelled fetch0).ops 1 = some { opOf (.fetch fetch0) with withdrawn := true } := by decide +kernel

theorem test_fetchSteps : bytes (after (.fetchObjectEnd 1 0) (flight (.fetch fetch1))) 0x1280 16 = [0, 0x14, 0, 0, 0, 0, 0, 0, 10, 0, 0, 0, 64, 0, 0, 0]
    ∧ bytes (after (.fetchObjectEnd 1 1) (flight (.fetch fetch1))) 0x1290 13 = [3, 0x15, 0, 0, 0, 0, 0, 0, 74, 0, 0, 0, 1]
    ∧ bytes (after (.fetchObjectEnd 1 1) (flight (.fetch fetch1))) 0x1500 2 = [6, 7]
    ∧ bytes (after (.fetchEnd 1) (flight (.fetch fetch2))) 0x1300 10 = [1, 0, 1, 0, 0, 0, 1, 0, 2, 0]
    ∧ (after (.fetchAccept 1) (flight (.fetch fetch0))).ops.length = 1 := by decide +kernel

/-- The state of the second object of the fetch. -/
def endOf (s : State) : Option Nat :=
  match kfind s.ops 1 with
  | some ⟨_, _, _, _, _, _, _, _, _, _, _, .fetch g⟩ => (g.objs[1]?).bind fun x => x.st
  | _ => none

/-- R297: the codes, and the entry of an unreadable object with no flags. -/
theorem test_fetchCodes : endOf (after (.fetchObjectEnd 1 1) (flight (.fetch (fetchOne odd0)))) = some 3 ∧ endOf (after (.fetchObjectEnd 1 1) (flight (.fetch (fetchOne bad0)))) = some 1
    ∧ endOf (after (.fetchObjectEnd 1 1) goneFlight) = some 1 ∧ endOf (after (.fetchObjectEnd 1 1) (flight (.fetch (fetchOne lost0)))) = some 5
    ∧ endOf (after (.fetchObjectEnd 1 1) (cancelled (fetchOne gone0))) = some 4
    ∧ bytes (after (.fetchObjectEnd 1 1) (flight (.fetch (fetchOne bad0)))) 0x1290 13 = [0, 0x15, 0, 0, 0, 0, 0, 0, 74, 0, 0, 0, 1] := by
  decide +kernel

/-! ### Logs, walks, pages, merges -/

/-- Two deletes at 0x1000, one of an identifier out of range, for position 0x1040. -/
def deletes (n : Nat) : State := bytesAt 0x1000 (leList 8 2 ++ leList 8 (2 ^ 40)) (flight (.log ⟨0x30004, true, 0x1000, 0x1040, n, some 0⟩))

/-- The same batch for a handle that names no index; and for one whose log has room for none. -/
def lostBatch : State := bytesAt 0x1000 (leList 8 2) (flight (.log ⟨0x30005, true, 0x1000, 0x1040, 1, none⟩))
def fullBatch : State := putIndex (deletes 1) 4 { index .mounted with logpos := 1024 }

/-- The first of two walker records at 0x1100: two rows of four bytes at 0x1000 and an index list at 0x1080, to 0x1200. -/
def walks : State :=
  bytesAt 0x1100 (leList 6 0x1000 ++ leList 2 4 ++ leList 6 0x1080 ++ leList 2 2 ++ leList 6 0x1200)
    (bytesAt 0x1080 (leList 4 1 ++ leList 4 0) (bytesAt 0x1000 [1, 2, 3, 4, 5, 6, 7, 8] (flight (.walk 0x1100 2 []))))

theorem witness_logWalkAndStoreSteps : handleIndex (deletes 1) 0 0x30004 = some (index .mounted)
    ∧ (devReadS (deletes 1) (unitTlb 0) 0 0 0x1000 8 true (some 0)).1.isOk = true ∧ (devReadS (deletes 2) (unitTlb 0) 0 0 0x1000 16 true (some 0)).1.isOk = true
    ∧ ksorted (deletes 1).ops = true ∧ ksorted (flight (.snap 0x1200 0x30004 (some 0))).ops = true ∧ ksorted walks.ops = true
    ∧ (unitRead walks (walkerTlb 0) (opOf (.walk 0x1100 2 [])) 0x1100 32).1.isSome = true
    ∧ (let w := walkRec (bytes walks 0x1100 32)
      badWalkRec w = false ∧ w.idx = 0x1080 ∧ w.out = 0x1200 ∧ w.wgt = 0)
    ∧ (unitRead walks (walkerTlb 0) (opOf (.walk 0x1100 2 [])) 0x1080 8).1.isSome = true
    ∧ (unitRead walks (walkerTlb 0) (opOf (.walk 0x1100 2 [])) 0 0).1.isSome = true
    ∧ (sysPieces walks (walkerTlb 0) 0 0 0x1200 .write true (pieceFuel 8) 8).1.isOk = true := by decide +kernel

theorem witness_logWalkAndStoreSteps_rejects : handleIndex lostBatch 0 0x30005 = none ∧ ksorted lostBatch.ops = true
    ∧ (handleIndex fullBatch 0 0x30004).isSome = true ∧ ksorted fullBatch.ops = true
    ∧ (devReadS fullBatch (unitTlb 0) 0 0 0x1000 8 true (some 0)).1.isOk = true := by decide +kernel

/-- A batch whose list is not mapped; batches, a snapshot and a walk with a local counter and one in memory; the walk's second record is
done. -/
def farBatch : State := flight (.log ⟨0x30004, true, 0x40000000, 0x1040, 1, some 0⟩)
def batchOn (c : Ctr) : State := bytesAt 0x1000 (leList 8 2) (counted c (.log ⟨0x30004, true, 0x1000, 0x1040, 1, some 0⟩))
def snapOn (c : Ctr) : State := counted c (.snap 0x1200 0x30004 (some 0))
def walkOn (c : Ctr) : State := { walks with ops := [(1, { opOf (.walk 0x1100 2 [1]) with ctr := c })] }

theorem witness_logWalkAndStoreSteps_counters : (handleIndex farBatch 0 0x30004).isSome = true
    ∧ (devReadS farBatch (unitTlb 0) 0 0 0x40000000 8 true (some 0)).1.isOk = false
    ∧ ∀ c ∈ [Ctr.loc 5, .mem 0x1800], handleIndex (batchOn c) 0 0x30004 = some (index .mounted)
      ∧ (devReadS (batchOn c) (unitTlb 0) 0 0 0x1000 8 true (some 0)).1.isOk = true
      ∧ (∀ s ∈ [batchOn c, snapOn c, walkOn c], ksorted s.ops = true ∧ (kfind s.ops 1).map (fun o => o.ctr) = some c) := by decide +kernel

/-- R95, R299, R300, R304: positions, version and rows stand in memory and the counters have taken 1; an unreadable batch takes its add
and reports nothing. -/
theorem test_logWalkCounters : (∀ x ∈ ([(.logAppend 1, batchOn (.loc 5)), (.qsnapRead 1, snapOn (.loc 5)), (.walkRecord 1 0, walkOn (.loc 5)),
      (.logAppend 1, { farBatch with ops := (counted (.loc 5) (.log ⟨0x30004, true, 0x40000000, 0x1040, 1, some 0⟩)).ops })] : List (Instr × State)),
      getPg (cx (after x.1 x.2)) 5 = 1 ∧ (after x.1 x.2).ops = [])
    ∧ leVal (bytes (after (.logAppend 1) (batchOn (.mem 0x1800))) 0x1800 8) = 1
    ∧ bytes (after (.logAppend 1) (batchOn (.mem 0x1800))) 0x1040 8 = leList 8 0
    ∧ bytes (after (.qsnapRead 1) (snapOn (.mem 0x1800))) 0x1200 16 = leList 16 0
    ∧ bytes (after (.walkRecord 1 0) (walkOn (.loc 5))) 0x1200 8 = [5, 6, 7, 8, 1, 2, 3, 4]
    ∧ bytes (after (.logAppend 1) farBatch) 0x1040 8 = leList 8 0 := by decide +kernel

/-- R299: the position of the batch, LOGFULL, NOINDEX. -/
theorem test_logReports : bytes (after (.logAppend 1) (deletes 1)) 0x1040 8 = leList 8 0
    ∧ bytes (after (.logAppend 1) fullBatch) 0x1040 8 = leList 8 0xFFFFFFFFFFFFFF02
    ∧ bytes (after (.logAppend 1) lostBatch) 0x1040 8 = leList 8 0xFFFFFFFFFFFFFF01 := by decide +kernel

theorem test_logAndWalk : (slotOf (after (.logAppend 1) (deletes 1)) 4).log = [⟨0, 2, none⟩]
    ∧ (slotOf (after (.logAppend 1) (deletes 2)) 4).log = [] ∧ bytes (after (.logAppend 1) (deletes 2)) 0x1040 8 = leList 8 0xFFFFFFFFFFFFFF03
    ∧ bytes (after (.qsnapRead 1) (flight (.snap 0x1200 0x30005 none))) 0x1200 5 = [255, 255, 255, 255, 0]
    ∧ bytes (after (.walkRecord 1 0) walks) 0x1200 8 = [5, 6, 7, 8, 1, 2, 3, 4] := by decide +kernel

/-- Page 0 of unit 0 is being read; the second attempt after eight that failed. -/
def reading (attempt : Nat) : State := { withStore .mounted with store := { (withStore .mounted).store with
  reads := [(6, ⟨0, .index, 0, attempt, 1, 0, 4, 0, 0, 0⟩)] } }

/-- The log has grown to the limit; the merge of it has read its pages. -/
def full : Index := { index .mounted with log := [⟨0, 2, none⟩], logpos := 512 }
def mergeable : State := putIndex (withStore .mounted) 4 full
def merged : State := putIndex (withStore .mounted) 4 { full with merge := some ⟨512, 0, true, [], false⟩ }
/-- A merge that a command asks for; one that met an unreadable page; one that finds no room. -/
def asked8 : State := putIndex (withStore .mounted) 4 { full with merge := some ⟨0, 0, false, [], false⟩ }
def unread : State := putIndex (withStore .mounted) 4 { full with merge := some ⟨512, 0, true, [], true⟩ }
def cramped : State := setUnit merged 0 { getUnit merged 0 with indexGib := 0 }

theorem witness_storeSteps : (∀ n ∈ [0, 8], (kfind (reading n).store.reads 6).isSome = true ∧ ksorted (reading n).store.reads = true
      ∧ pageGone (reading n) 0 .index 0 = false)
    ∧ full.st = .mounted ∧ full.merge = none ∧ full.mergeHold = false
    ∧ mergeAt mergeable full ≤ full.logpos - (curVersion full).logbase
    ∧ (retained merged 4 { full with merge := some ⟨512, 0, true, [], false⟩ }).length < 4
    ∧ (let fresh := placeNodes merged full ((mergeRun full 512).ns.filter fun n => (mergeRun full 512).changed.contains n.id) ⟨[], []⟩
      publishFits merged 4 full (nextIndex merged 4 full 512 fresh) fresh = true)
    ∧ (∀ n ∈ (curVersion full).nodes, (getUnit merged (nodeUnit full n.id)).failed = false)
    ∧ (let x := { full with merge := some ⟨512, 0, true, [], false⟩ }
      let fresh := placeNodes cramped x ((mergeRun x 512).ns.filter fun n => (mergeRun x 512).changed.contains n.id) ⟨[], []⟩
      publishFits cramped 4 x (nextIndex cramped 4 x 512 fresh) fresh = false)
    ∧ ((kfind asked8.store.indexes 4).bind fun x => x.merge.map fun m => m.started) = some false
    ∧ (getUnit (withStore .built) 0).failed = false := by decide +kernel

theorem test_storeSteps : (after (.pageReadAttempt 6 true) (reading 0)).store.reads = []
    ∧ ((kfind (after (.pageReadAttempt 6 false) (reading 0)).store.reads 6).map fun r => r.attempt) = some 1
    ∧ (getUnit (after (.pageReadAttempt 6 false) (reading 8)) 0).marks = [(.index, 9, true), (.index, 0, true)]
    ∧ ((slotOf (after (.mergeStart 4) mergeable) 4).merge.map fun m => m.m) = some 512
    ∧ (curVersion (slotOf (after (.mergePublish 4) merged) 4)).num = 1
    ∧ ((curVersion (slotOf (after (.mergePublish 4) merged) 4)).nodes.map fun n => n.tomb) = [false, true]
    ∧ (getUnit (after (.unitfail 0) (withStore .built)) 0).failed = true
    ∧ ((slotOf (after (.mergeStart 4) asked8) 4).merge.map fun m => (m.m, m.started)) = some (512, true)
    ∧ (slotOf (after (.mergePublish 4) unread) 4).mergeHold = true ∧ (slotOf (after (.mergePublish 4) cramped) 4).regionFull = true := by
  decide +kernel

/-! ### Streams, peers, bring-up, power -/

/-- The stream has met an uncorrectable error; it is at its EXIT; a context waits for a peer; port 1 has four lanes; a window of 4 KiB
is open to peers 0 to 255. -/
def upset : State := setSeq streams 5 { getSeq streams 5 with uncorr := some (0x40, 0x200040) }
def leaving : State := updCtx streams (.seq 5) fun c => { c with life := { c.life with drain := .exit } }
def waits : State := here (fun c => { c with fr := { c.fr with stall := .laben } }) base
def linked : State := setDreg (block 0 [(0x620, 0x201000), (0x628, 0x1000), (0x630, 0x1FF00)] (bytesAt 0x1000 [1, 2, 3] (readied base)))
  0x2108 0x40005

theorem witness_streamAndPeerEvents : (getSeq upset 5).uncorr = some (0x40, 0x200040) ∧ (getSeq upset 5).skip = false ∧ (getCtx upset (.seq 5)).life.status = .running
    ∧ (getCtx upset (.seq 5)).life.drain = .none ∧ (getSeq upset 5).pendMsg = [] ∧ (getSeq upset 5).up.length < 8
    ∧ (getCtx leaving (.seq 5)).life.status = .running ∧ (getCtx leaving (.seq 5)).life.drain = .exit ∧ quiet leaving (.seq 5) = true
    ∧ (getSeq leaving 5).pendMsg = [] ∧ (getSeq leaving 5).up.length < 8
    ∧ (∀ x ∈ ([(⟨3, 0x201000, .read 2⟩, some 0), (⟨3, 0x201FFF, .write [1]⟩, some 0), (⟨3, 0x201000, .amo 0 1 false⟩, some 0),
      (⟨3, 0x201000, .cas 0 1 true⟩, some 0), (⟨3, 0x202000, .read 1⟩, none)] : List (PeerReq × Option Nat)), inboundPart linked x.1 = x.2)
    ∧ linked.boot.ready = true ∧ linked.mem.errs = [] ∧ memoriesCanonical linked ∧ (getCtx waits A0).fr.stall = .laben
    ∧ 2 < wbits (dreg linked 0x2108) 18 16 := by unfold memoriesCanonical; decide +kernel

theorem test_streamAndPeerEvents : (getSeq (after (.streamStop 5) upset) 5).up.length = 2
    ∧ (getCtx (after (.streamExit 5) leaving) (.seq 5)).life.status = .empty
    ∧ (after (.labenInboundRequest ⟨3, 0x201000, .read 2⟩) linked).reply = .data [1, 2]
    ∧ bytes (after (.labenInboundRequest ⟨3, 0x201000, .amo 1 1 true⟩) linked) 0x1000 3 = [2, 2, 3]
    ∧ (after (.labenInboundRequest ⟨3, 0x202000, .read 1⟩) linked).reply = .refused
    ∧ (cx (after (.labenTimeout A0 true) waits)).fr.abort = some true ∧ dreg (after (.laneFail 1 2) linked) 0x2108 = 0x20005 := by
  decide +kernel

/-- An image of version 1, whose key no slot of the fuses names; bring-up in a phase; an attestation under way. -/
def image : Image := ⟨[], 1, [], [], []⟩
def phase (n : Nat) : State := { base with boot := { Boot.reset with powered := true, phase := n, image0 := some image } }
def stuck : State := { base with boot := { Boot.reset with powered := true, phase := 3, fail := 2 } }
def attesting : State := { readied base with boot := { (readied base).boot with atBuf := some 0x2000 } }

theorem witness_bringUp : State.reset.boot.powered = false
    ∧ (∀ n ∈ [1, 2, 3, 4, 5, 6, 7], (phase n).boot.powered = true ∧ (phase n).boot.ready = false ∧ (phase n).boot.fail = 0
      ∧ (phaseFails n).contains 0 = true) ∧ (phaseFails 2).contains 1 = true ∧ stuck.boot.fail = 2 := by decide +kernel

theorem test_bringUp : (after .powerGood State.reset).boot.phase = 1 ∧ (after (.bringupPhaseComplete 1 0) (phase 2)).boot.fail = 1
    ∧ (after (.bringupPhaseComplete 0 0) (phase 3)).boot.fail = 2 ∧ (after (.bringupPhaseComplete 0 0) (phase 5)).mem.dram = []
    ∧ (after (.bringupPhaseComplete 0 0) (phase 7)).boot.ready = true ∧ (after (.rcvimg 0 1) stuck).boot = stuck.boot
    ∧ (after .powerLoss (phase 7)).boot.image0 = some image ∧ (after .powerLoss (phase 7)).ctxs = [] := by decide +kernel

/-- Partition 0 holds cluster 0, which is idle, with a tolerance of 2 µs; one in A1 whose exit is wanted, or under way; a line with an
error that can be corrected. -/
def idle : State := block 0 [(0x000, 1), (0x008, 1), (0x640, 2)] (readied State.reset)
def asleep : State := { spores with power := { spores.power with clusters := [(0, 1)] } }
def waking : State := { asleep with power := { asleep.power with exits := [(.cluster 0, 0)] } }
def marked : State := { base with mem := { base.mem with errs := [⟨.dram, 0, 5, true⟩, ⟨.dram, 0, 6, false⟩] } }

theorem witness_powerAndOtherEvents : attesting.boot.atBuf = some 0x2000 ∧ memoriesCanonical attesting ∧ (readied base).boot.ready = true
    ∧ exiting idle (.cluster 0) = false ∧ unitPower idle (.cluster 0) < entryTarget idle (.cluster 0)
    ∧ unitPower asleep (.cluster 0) ≠ 0 ∧ exiting asleep (.cluster 0) = false ∧ unitWanted asleep (.cluster 0) = true
    ∧ waking.power.exits.find? (fun e => e.1 == .cluster 0) = some (.cluster 0, 0) ∧ (clusterPart waking 0).isSome = true
    ∧ base.sch.cur = .bank 0 false ∧ (cx base).life.status = .running ∧ (cx base).trap.smode = false ∧ (cx base).fr.mac = none
    ∧ (cx base).fr.pfx = Prefixes.reset ∧ engOf (0 : IWord).toNat ≠ 7 := by unfold memoriesCanonical; decide +kernel

theorem test_powerAndOtherEvents : (after (.atcmd 0x3005) (readied base)).boot.atBuf = some 0x3000
    ∧ wbits (dreg (after (.atcmd 0x3005) attesting) 0x48) 43 40 = 1 ∧ (after .attestDone attesting).boot.nextLeaf = 1
    ∧ preg (after (.lattol 0 0x500000007) idle) 0 0x640 = 7 ∧ unitPower (after (.powerStateEntry (.cluster 0)) idle) (.cluster 0) = 1
    ∧ exiting (after (.powerStateExit (.cluster 0)) asleep) (.cluster 0) = true
    ∧ unitPower (after (.powerExitComplete (.cluster 0)) waking) (.cluster 0) = 0
    ∧ (after (.patrolScrub 1) marked).mem.errs = [⟨.dram, 0, 6, false⟩]
    ∧ (cx (after (.illegalWord 0x12345678) base)).trap.tdet = 0x12345678 := by decide +kernel

end Sys2Proof.Tests
end

section
/-! SUPPORT. What a host read or write of a register leaves (R9, R353, R354, R435): the value that is answered, the field that the
read clears, and the one register that a write changes. -/

namespace Sys2Proof.Machine

open Sys2Proof.Claims

/-! ### A field of a register that has been cleared -/

/-- A field that has been set to 0 reads as 0. -/
theorem bits_setBits_zero (x hi lo : Nat) : bits (setBits x hi lo 0) hi lo = 0 := by
  have hle : 2 ^ lo * (x / 2 ^ lo % 2 ^ (hi + 1 - lo)) ≤ x :=
    (Nat.mul_le_mul_left _ (Nat.mod_le _ _)).trans (Nat.mul_div_le _ _)
  simp only [bits, setBits, Nat.zero_mod, Nat.zero_mul, Nat.add_zero]
  rw [Nat.mul_comm, Nat.sub_mul_div_of_le _ _ _ hle]
  exact Nat.sub_mod_eq_zero_of_mod_eq (Nat.mod_mod _ _).symm

/-- A register with a field set to 0 still fits in 64 bits. -/
theorem toNat_setBits_zero (x : Word) (hi lo : Nat) :
    (BitVec.ofNat 64 (setBits x.toNat hi lo 0)).toNat = setBits x.toNat hi lo 0 := by
  have hle : setBits x.toNat hi lo 0 ≤ x.toNat := by simp [setBits]
  exact Nat.mod_eq_of_lt (hle.trans_lt x.isLt)

/-- The cleared field of a register reads 0 (R9). -/
theorem wbits_setBits_zero (x : Word) (hi lo : Nat) : wbits (BitVec.ofNat 64 (setBits x.toNat hi lo 0)) hi lo = 0 := by
  rw [wbits, toNat_setBits_zero, bits_setBits_zero]

/-- Clearing bits 15:0 leaves the bits above them (R9). -/
theorem wbits_setBits_above (x : Word) :
    wbits (BitVec.ofNat 64 (setBits x.toNat 15 0 0)) 63 16 = wbits x 63 16 := by
  rw [wbits, toNat_setBits_zero]
  simp only [wbits, bits, setBits]
  omega

/-! ### Reads -/

@[simp] theorem preg_answered (s : State) (x : Reply) (p o : Nat) : preg (answered s x) p o = preg s p o := rfl
@[simp] theorem dreg_answered (s : State) (x : Reply) (o : Nat) : dreg (answered s x) o = dreg s o := rfl

/-- After READY a read is answered with the value, and `clr` is done (R9). -/
theorem readClear_ready {s : State} (h : s.boot.ready = true) (val : Word) (clr : State → State) :
    readClear s val clr = answered (clr s) (.data (leList 8 val.toNat)) := by simp [readClear, h]

/-- Such a read clears, when what it does beside the answer keeps the memories. -/
theorem cleared_readClear {s : State} (h : s.boot.ready = true) (val : Word) {clr : State → State}
    (hm : (clr s).mem = s.mem) : cleared s (readClear s val clr) val := by
  rw [readClear_ready h]
  exact ⟨rfl, hm⟩

/-- A register of a partition block that a read clears whole. -/
theorem readWhole_cleared {s : State} {p : Nat} (hp : p < 8) (h : s.boot.ready = true) (off : Nat) :
    cleared s (readWhole s p off) (preg s p off) ∧ preg (readWhole s p off) p off = 0 := by
  refine ⟨cleared_readClear h _ (setPreg_mem s p off 0), ?_⟩
  rw [readWhole, readClear_ready h]
  simp [hp]

/-- A read of RSSTAT answers DROPPED and the number of queued commands, and clears DROPPED (R412). -/
theorem readBlock_rsstat {s : State} {p : Nat} (hp : p < 8) (h : s.boot.ready = true) :
    cleared s (readBlock s p 0x340) (BitVec.ofNat 64 (wbits (preg s p 0x340) 15 8 * 256 + (getPart s p).cmds.length))
      ∧ wbits (preg (readBlock s p 0x340) p 0x340) 15 8 = 0 := by
  refine ⟨cleared_readClear h _ (setPreg_mem s p _ _), ?_⟩
  simp only [readBlock, readClear_ready h, preg_answered, preg_setPreg _ _ _ _ hp]
  exact wbits_setBits_zero _ _ _

/-- A read of HSTAT of a partition block clears BADACC and keeps what stands above it (R425). -/
theorem readBlock_hstat {s : State} {p : Nat} (hp : p < 8) (h : s.boot.ready = true) :
    cleared s (readBlock s p 0x618) (preg s p 0x618) ∧ wbits (preg (readBlock s p 0x618) p 0x618) 15 0 = 0
      ∧ wbits (preg (readBlock s p 0x618) p 0x618) 63 16 = wbits (preg s p 0x618) 63 16 := by
  refine ⟨cleared_readClear h _ (setPreg_mem s p _ _), ?_⟩
  simp only [readBlock, readClear_ready h, preg_answered, preg_setPreg _ _ _ _ hp]
  exact ⟨wbits_setBits_zero _ _ _, wbits_setBits_above _⟩

/-- A partition that a virtual function is bound to exists, and the function is one of the eight (R416). -/
theorem vfPart_some {s : State} {fn p : Nat} (h : vfPart s fn = some p) : 1 ≤ fn ∧ fn ≤ 8 := by
  simp only [vfPart, Option.ite_none_right_eq_some] at h
  exact ⟨h.1.1, h.1.2.1⟩

/-- HSTAT of a partition block is read through its own function and, as 16 + p, through the physical one (R353, R417). -/
theorem execHstat_block {s : State} {fn p : Nat} (h : vfPart s fn = some p ∨ fn = 16 + p) :
    execHstat fn s = .next (readBlock s p 0x618) := by
  rcases h with h | rfl
  · obtain ⟨h1, h8⟩ := vfPart_some h
    have h0 : fn ≠ 0 := by omega
    have h16 : ¬ 16 ≤ fn := by omega
    simp [execHstat, h0, h16, readBar0, h]
  · simp [execHstat]

/-- A read of a device register whose bits 15:0 count what a read clears: HSTAT and LBPORT (R425, R428). -/
theorem readDevice_low {s : State} (h : s.boot.ready = true) {off : Nat}
    (ho : off = 0x1010 ∨ (0x2100 ≤ off ∧ off < 0x2180 ∧ off % 8 = 0)) :
    cleared s (readDevice s off) (dreg s off) ∧ wbits (dreg (readDevice s off) off) 15 0 = 0
      ∧ wbits (dreg (readDevice s off) off) 63 16 = wbits (dreg s off) 63 16 := by
  have hread : readDevice s off
      = readClear s (dreg s off) fun s => setDreg s off (BitVec.ofNat 64 (setBits (dreg s off).toNat 15 0 0)) := by
    have h0 : off ≠ 0 := by omega
    have h8 : off ≠ 8 := by omega
    simp [readDevice, h0, h8, ho]
  rw [hread]
  refine ⟨cleared_readClear h _ rfl, ?_⟩
  simp only [readClear_ready h, dreg_answered, dreg_setDreg]
  exact ⟨wbits_setBits_zero _ _ _, wbits_setBits_above _⟩

/-- A read of a counter of the error classes clears it (R439). -/
theorem readDevice_ecnt {s : State} (h : s.boot.ready = true) {i : Nat} (hi : i ≤ 10) :
    cleared s (readDevice s (0x3000 + 8 * i)) (dreg s (0x3000 + 8 * i))
      ∧ dreg (readDevice s (0x3000 + 8 * i)) (0x3000 + 8 * i) = 0 := by
  have hread : readDevice s (0x3000 + 8 * i)
      = readClear s (dreg s (0x3000 + 8 * i)) fun s => setDreg s (0x3000 + 8 * i) 0 := by
    have h0 : 0x3000 + 8 * i ≠ 0 := by omega
    have h8 : 0x3000 + 8 * i ≠ 8 := by omega
    have hlow : ¬ (0x3000 + 8 * i = 0x1010 ∨ (0x2100 ≤ 0x3000 + 8 * i ∧ 0x3000 + 8 * i < 0x2180 ∧ (0x3000 + 8 * i) % 8 = 0)) := by
      omega
    have hin : 0x3000 ≤ 0x3000 + 8 * i ∧ 0x3000 + 8 * i < 0x3080 ∧ (0x3000 + 8 * i) % 8 = 0 := by omega
    rw [readDevice, if_neg h0, if_neg h8, if_neg hlow, if_pos hin]
  rw [hread]
  refine ⟨cleared_readClear h _ rfl, ?_⟩
  rw [readClear_ready h]
  simp

/-- DEVID and DEVSTAT answer before READY too, and their reads change nothing else (R432, R433, R435). -/
theorem readDevice_identity (s : State) {off x : Nat} (h : (off = 0 ∧ x = devid s.boot) ∨ (off = 8 ∧ x = devstat s)) :
    readDevice s off = answered s (.data (leList 8 x)) := by
  rcases h with ⟨rfl, rfl⟩ | ⟨rfl, rfl⟩ <;> simp [readDevice]

/-- A host read that stands first on the agenda is the next step (log 2). -/
theorem step_read {s : State} {fn off : Nat} {r : List Move} (h : s.sch.agenda = .read fn off :: r) :
    step s = .next (readBar0 (advance { s with sch := { s.sch with agenda := r } }) fn off) := by
  simp [step, nextMove, h]

/-- The physical function reads the device registers below the partition blocks (R417). -/
theorem readBar0_device (s : State) {off : Nat} (h : off < 0x100000) : readBar0 s 0 off = readDevice s off := by
  simp [readBar0, h]

/-! ### Writes -/

/-- A register with writable bits in a partition block is none of those that have a step of their own, and lies in the block (R353). -/
theorem blockField_off {off mask : Nat} {cfg : Bool} (h : blockField off = some (mask, cfg)) :
    off ≠ 0x100 ∧ off ≠ 0x238 ∧ ¬ (0x400 ≤ off ∧ off < 0x600 ∧ off % 8 = 0) ∧ off < 0x1000 := by
  unfold blockField at h
  split at h
  case h_30 => cases h
  all_goals decide

/-- A write of such a register holds the bits that it has, unless it is locked (R353, R354). -/
theorem blockWrite_field (s : State) (p : Nat) {off mask : Nat} {cfg : Bool} (h : blockField off = some (mask, cfg)) (val : Word) :
    blockWrite s p off val = if cfg && partOn s p then s else setPreg s p off (val &&& BitVec.ofNat 64 mask) := by
  obtain ⟨h100, h238, hring, -⟩ := blockField_off h
  simp only [blockWrite, if_neg h100, if_neg h238, if_neg hring, h]

/-- A register of a partition block is written through the physical function and through the function bound to the partition (R417). -/
theorem execRegisterWrite_block {s : State} {fn p off : Nat} {val : Word} {i : Instr} (hp : p < 8) (hr : s.boot.ready = true)
    (hoff : off < 0x1000) (hvf : vfPart s fn = some p)
    (hi : i = .registerWrite 0 (0x100000 + 0x1000 * p + off) val ∨ i = .registerWrite fn off val) :
    exec i s = .next (blockWrite s p off val) := by
  rcases hi with rfl | rfl
  · change execRegisterWrite 0 _ val s = _
    have hlow : ¬ 0x100000 + 0x1000 * p + off < 0x100000 := by omega
    have hhigh : 0x100000 + 0x1000 * p + off < 0x108000 := by omega
    have hdiv : (0x100000 + 0x1000 * p + off - 0x100000) / 0x1000 = p := by omega
    have hmod : (0x100000 + 0x1000 * p + off) % 0x1000 = off := by omega
    simp only [execRegisterWrite, hr, Bool.not_true, Bool.false_eq_true, if_false, if_true, if_neg hlow, if_pos hhigh, hdiv, hmod]
  · change execRegisterWrite fn off val s = _
    have h0 : fn ≠ 0 := by have := vfPart_some hvf; omega
    simp [execRegisterWrite, hr, h0, hvf, hoff]

/-- RGCFGn takes the write of a running bank when no routed word names the ring (R118). -/
theorem execRgcfgWrite_free {s : State} {a : AgentId} {n : Nat} (hn : n < 8) (ha : isSeq a = false)
    (hr : (getCtx s a).life.status = .running) (hb : ringBusy (getCtx s a).eng n = false) (val : Word) :
    execRgcfgWrite a n val s = .next (setCtx s a (setRing (getCtx s a) n (rgcfgRing val))) := by
  simp [execRgcfgWrite, hn, ha, hr, hb]

end Sys2Proof.Machine
end

section

namespace Sys2Proof.Proofs

open Sys2Proof Sys2Proof.Machine Sys2Proof.Claims

/-- Settles O34: each read is one `readClear` on one register, each write one `blockWrite`. -/
theorem registerAccess : Obligations.RegisterAccess := by
  unfold Obligations.RegisterAccess
  refine ⟨fun s p hp hr => ⟨?_, ?_, ?_, ?_, fun fn hfn => ?_⟩, fun s r off x ha hx => ?_,
    fun s hr => ⟨?_, fun i hi => ?_, fun i hi => ?_⟩, fun s fn p off mask cfg val hp hr hf hvf i hi => ?_,
    fun s a n val hn ha hs hb => ?_⟩
  · exact ⟨readWhole s p 0x078, rfl, readWhole_cleared hp hr 0x078⟩
  · exact ⟨readWhole s p 0x228, rfl, readWhole_cleared hp hr 0x228⟩
  · exact ⟨readWhole s p 0x320, rfl, readWhole_cleared hp hr 0x320⟩
  · exact ⟨readBlock s p 0x340, rfl, readBlock_rsstat hp hr⟩
  · exact ⟨readBlock s p 0x618, execHstat_block hfn, readBlock_hstat hp hr⟩
  · let u := advance { s with sch := { s.sch with agenda := r } }
    have hoff : off < 0x100000 := by omega
    refine ⟨answered u (.data (leList 8 x)), ?_, rfl, rfl, rfl, rfl⟩
    rw [step_read ha, readBar0_device _ hoff, readDevice_identity u hx]
  · obtain ⟨hc, hlow, -⟩ := readDevice_low hr (off := 0x1010) (.inl rfl)
    exact ⟨readDevice s 0x1010, rfl, hc, hlow⟩
  · have h16 : i < 16 := by omega
    refine ⟨readDevice s (0x3000 + 8 * i), ?_, readDevice_ecnt hr hi⟩
    change execEcnt i s = _
    rw [execEcnt, if_pos h16]
  · exact ⟨readDevice s (0x2100 + 8 * i), rfl, readDevice_low hr (.inr (by omega))⟩
  · obtain ⟨-, -, -, hoff⟩ := blockField_off hf
    refine ⟨_, execRegisterWrite_block hp hr hoff hvf hi, ?_⟩
    rw [blockWrite_field s p hf]
    split
    · rfl
    · exact ⟨rfl, preg_setPreg _ _ _ _ hp⟩
  · exact ⟨_, execRgcfgWrite_free hn ha hs hb val, getCtx_setCtx _ _ _, rfl⟩

end Sys2Proof.Proofs
end

section
/-! SUPPORT. What an access of the device to memory leaves: translations, L2 lines, error marks, their counts and the interrupt that
reports one may change, and nothing else of the machine (R123 to R129, R380 to R386, R438 to R440). -/

namespace Sys2Proof.Machine

/-! ### The frame of an access -/

/-- The state with what any access may change put aside: memories, caches, device registers, partitions and messages. -/
def beside (s : State) : State :=
  { s with mem := State.reset.mem, cache := State.reset.cache, dregs := [], parts := State.reset.parts, msix := [] }

/-- What an access of the device leaves: all that lies beside memories, caches and device registers, and of each partition all but
IRQST (R427, R440). -/
structure AccessKeeps (s t : State) : Prop where
  beside : beside t = beside s
  part : ∀ p, { getPart t p with regs := [] } = { getPart s p with regs := [] }
  preg : ∀ p o, o ≠ 0x600 → preg t p o = preg s p o

/-- What a read leaves besides: every memory, where no memory holds an error mark (R438). -/
structure ReadKeeps (s t : State) : Prop extends AccessKeeps s t where
  mem : s.mem.errs = [] → t.mem = s.mem

namespace AccessKeeps

variable {s t u : State}

theorem refl (s : State) : AccessKeeps s s := ⟨rfl, fun _ => rfl, fun _ _ _ => rfl⟩

theorem trans (h : AccessKeeps s t) (k : AccessKeeps t u) : AccessKeeps s u :=
  ⟨k.beside.trans h.beside, fun p => (k.part p).trans (h.part p), fun p o ho => (k.preg p o ho).trans (h.preg p o ho)⟩

/-- A step that leaves the partitions alone. -/
theorem of_parts (hb : Machine.beside t = Machine.beside s) (hp : t.parts = s.parts) : AccessKeeps s t := by
  have hq : ∀ p, getPart t p = getPart s p := fun p => by simp only [getPart, hp]
  exact ⟨hb, fun p => by rw [hq], fun p o _ => by simp only [Machine.preg, hq]⟩

theorem sch (h : AccessKeeps s t) : t.sch = s.sch := (congrArg State.sch h.beside :)
theorem ctxs (h : AccessKeeps s t) : t.ctxs = s.ctxs := (congrArg State.ctxs h.beside :)
theorem items (h : AccessKeeps s t) (p : Nat) : (getPart t p).items = (getPart s p).items :=
  (congrArg Part.items (h.part p) :)

/-- Caches may change. -/
theorem withCache (h : AccessKeeps s t) (c : Caches) : AccessKeeps s { t with cache := c } := h.trans (.of_parts rfl rfl)

/-- Memories may change. -/
theorem withMem (h : AccessKeeps s t) (m : Stores) : AccessKeeps s { t with mem := m } := h.trans (.of_parts rfl rfl)

theorem getCtx (h : AccessKeeps s t) (a : AgentId) : getCtx t a = getCtx s a := by simp only [Machine.getCtx, h.ctxs]

/-- A fold of accesses is one. -/
theorem foldl {α : Type} {f : State → α → State} (hf : ∀ s x, AccessKeeps s (f s x)) (l : List α) (s : State) :
    AccessKeeps s (l.foldl f s) := by
  induction l generalizing s with
  | nil => exact .refl s
  | cons x r ih => exact (hf s x).trans (ih _)

end AccessKeeps

namespace ReadKeeps

variable {s t u : State}

theorem refl (s : State) : ReadKeeps s s := ⟨.refl s, fun _ => rfl⟩

theorem trans (h : ReadKeeps s t) (k : ReadKeeps t u) : ReadKeeps s u :=
  ⟨h.toAccessKeeps.trans k.toAccessKeeps, fun he => (k.mem (by rw [h.mem he, he])).trans (h.mem he)⟩

theorem foldl {α : Type} {f : State → α → State} (hf : ∀ s x, ReadKeeps s (f s x)) (l : List α) (s : State) :
    ReadKeeps s (l.foldl f s) := by
  induction l generalizing s with
  | nil => exact .refl s
  | cons x r ih => exact (hf s x).trans (ih _)

/-- The state that a reading operation answers. -/
theorem of_answer {α : Type} {x : α × State} {a : α} (h : ReadKeeps s x.2) (hx : x = (a, t)) : ReadKeeps s t := by
  rw [hx] at h
  exact h

/-- Caches may change. -/
theorem withCache (h : ReadKeeps s t) (c : Caches) : ReadKeeps s { t with cache := c } :=
  ⟨h.toAccessKeeps.withCache c, h.mem⟩

end ReadKeeps

/-! ### Error counts and logs -/

theorem countClass_accessKeeps (s : State) (cls n : Nat) : AccessKeeps s (countClass s cls n) := by
  unfold countClass
  split
  · exact .refl s
  · exact .of_parts rfl rfl

theorem countCorr_accessKeeps (s : State) (sp : ErrSpace) (u a n : Nat) : AccessKeeps s (countCorr s sp u a n) :=
  countClass_accessKeeps _ _ _

/-- IRQST is the one register of a partition that an access may write. -/
theorem setPreg_irqst_accessKeeps (s : State) (p : Nat) (x : Word) : AccessKeeps s (setPreg s p 0x600 x) := by
  by_cases hp : p < 8
  · refine ⟨by simp [beside, setPreg, updPart, setPart, hp], fun q => ?_, fun q o ho => ?_⟩
    · by_cases hq : q = p
      · subst hq
        simp [setPreg, hp]
      · rw [setPreg, updPart, getPart_setPart_other _ _ hq]
    · by_cases hq : q = p
      · subst hq
        exact preg_setPreg_other s x ho
      · rw [preg, setPreg, updPart, getPart_setPart_other _ _ hq, preg]
  · have : setPreg s p 0x600 x = s := by simp [setPreg, updPart, setPart, hp]
    rw [this]
    exact .refl s

theorem sendMsg_accessKeeps (s : State) (p vec : Nat) : AccessKeeps s (sendMsg s p vec) := by
  unfold sendMsg
  split
  · exact .of_parts rfl rfl
  · exact .refl s

theorem raiseIrq_accessKeeps (s : State) (p k vec : Nat) : AccessKeeps s (raiseIrq s p k vec) := by
  unfold raiseIrq
  dsimp only
  split
  · exact (setPreg_irqst_accessKeeps s p _).trans (sendMsg_accessKeeps _ _ _)
  · exact setPreg_irqst_accessKeeps s p _

@[simp] theorem raiseIrq_mem (s : State) (p k vec : Nat) : (raiseIrq s p k vec).mem = s.mem := by
  unfold raiseIrq sendMsg
  dsimp only
  repeat' split
  all_goals simp

theorem setDreg_accessKeeps (s : State) (o : Nat) (x : Word) : AccessKeeps s (setDreg s o x) := .of_parts rfl rfl

/-- The log of an uncorrectable error is the device's own: registers and an interrupt (R439, R440). -/
theorem logUncorr_readKeeps (s : State) (struct : Nat) (part : Option Nat) (core bank unit chan addr : Nat) :
    ReadKeeps s (logUncorr s struct part core bank unit chan addr) := by
  unfold logUncorr
  extract_lets u a rcd v
  have hu : AccessKeeps s u := setDreg_accessKeeps s _ _
  have hv : AccessKeeps s v ∧ v.mem = s.mem := by
    unfold v
    split
    · exact ⟨hu.trans (setDreg_accessKeeps _ _ _), rfl⟩
    · exact ⟨hu.trans ((setDreg_accessKeeps _ _ _).trans (setDreg_accessKeeps _ _ _)), rfl⟩
  obtain ⟨hk, hm⟩ := hv
  cases part with
  | some p => exact ⟨hk.trans (raiseIrq_accessKeeps v p 3 3), fun _ => (raiseIrq_mem v p 3 3).trans hm⟩
  | none =>
    refine ⟨hk.trans (.foldl (fun t p => ?_) _ v), fun _ => foldl_mem _ s.mem (fun t p ht => ?_) _ v hm⟩
    · split
      · exact raiseIrq_accessKeeps t p 3 3
      · exact .refl t
    · split
      · exact (raiseIrq_mem t p 3 3).trans ht
      · exact ht

theorem logMemErr_readKeeps (s : State) (part : Option Nat) (core bank : Nat) (e : ErrMark) :
    ReadKeeps s (logMemErr s part core bank e) := logUncorr_readKeeps _ _ _ _ _ _ _ _

/-! ### The L2 -/

theorem countPin_accessKeeps (s : State) (pa : Nat) (hit ovfl : Bool) : AccessKeeps s (countPin s pa hit ovfl) := by
  unfold countPin
  split
  · exact .refl s
  · split
    · exact (AccessKeeps.refl s).withCache _
    · exact .refl s

theorem dramFill_accessKeeps (s : State) (line : Nat) : AccessKeeps s (dramFill s line) := by
  unfold dramFill
  split
  · exact .refl s
  · exact (countCorr_accessKeeps s .dram 0 line 128).withMem _

theorem l2Install_accessKeeps (s : State) (part : Option Nat) (pa m : Nat) (d : Bool) :
    AccessKeeps s (l2Install s part pa m d) := by
  unfold l2Install
  dsimp only
  split
  · exact countCorr_accessKeeps _ _ _ _ _
  · have hf := (dramFill_accessKeeps s (pa / 128 * 128)).withCache
    split
    · exact hf _
    · exact (hf _).trans (countPin_accessKeeps _ _ _ _)

theorem l2Hit_accessKeeps (s : State) (part : Option Nat) (pa m : Nat) (w : Bool) : AccessKeeps s (l2Hit s part pa m w) := by
  have hc := (AccessKeeps.refl s).withCache
  unfold l2Hit
  extract_lets key frames
  split
  · exact .refl s
  · extract_lets clk cls l' fits
    split
    · exact hc _
    · split
      · exact hc _
      · exact hc _

theorem l2Errors_accessKeeps (s : State) (pa : Nat) : AccessKeeps s (l2Errors s pa) := by
  unfold l2Errors
  split
  · exact .refl s
  · dsimp only
    split
    · exact (AccessKeeps.refl s).withMem _
    · refine (AccessKeeps.trans ?_ (countClass_accessKeeps _ _ _)).withMem _
      split
      · exact .refl s
      · split
        · exact (AccessKeeps.refl s).withCache _
        · split
          · exact dramFill_accessKeeps _ _
          · exact .refl s

theorem moveMarks_accessKeeps (old new : State) : AccessKeeps new (moveMarks old new) := by
  unfold moveMarks
  split
  · exact .refl new
  · exact ((AccessKeeps.refl new).withMem _).trans (countClass_accessKeeps _ _ _)

/-- An access to a line of the L2 (R124). -/
theorem l2Access_readKeeps (s : State) (part : Option Nat) (pa m : Nat) (w pf : Bool) :
    ReadKeeps s (l2Access s part pa m w pf) := by
  refine ⟨?_, fun h => l2Access_mem h part pa m w pf⟩
  refine (l2Errors_accessKeeps s pa).trans (.trans ?_ (moveMarks_accessKeeps _ _))
  split
  · refine .trans ?_ (l2Hit_accessKeeps _ _ _ _ _)
    split
    · exact .refl _
    · exact countPin_accessKeeps _ _ _ _
  · exact l2Install_accessKeeps _ _ _ _ _

theorem l2Pieces_readKeeps (s : State) (part : Option Nat) (m : Nat) (w : Bool) (ps : List (Loc × Nat)) :
    ReadKeeps s (l2Pieces s part m w ps) :=
  .foldl (fun t x => by
    split
    · exact .foldl (fun u a => l2Access_readKeeps u part a _ w false) _ t
    · exact .refl t) ps s

/-! ### Translation -/

theorem walkL2_readKeeps (s : State) (p : Nat) (reads : List Nat) : ReadKeeps s (walkL2 s p reads) :=
  .foldl (fun t a => by
    refine .trans ?_ (l2Access_readKeeps _ _ _ _ _ _)
    split
    · exact logMemErr_readKeeps _ _ _ _ _
    · exact .refl t) reads s

theorem xlate_readKeeps (s : State) (cache p asid va : Nat) (kind : AccKind) (user : Bool) :
    ReadKeeps s (xlate s cache p asid va kind user).2 := by
  unfold xlate
  split
  · exact .refl s
  · split
    · exact .refl s
    · extract_lets w u src v
      have hu : ReadKeeps s u := walkL2_readKeeps s p w.reads
      have hv : ReadKeeps s v := by
        unfold v
        split
        · exact hu
        · exact hu.withCache _
      split
      · exact hv
      · exact hv
      · dsimp only
        split
        · exact hv
        · dsimp only
          split
          · exact hv
          · exact hv.withCache _

theorem sysPieces_readKeeps (cache p asid : Nat) (kind : AccKind) (user : Bool) (fuel : Nat) (s : State) (va len : Nat) :
    ReadKeeps s (sysPieces s cache p asid va kind user fuel len).2 := by
  induction fuel generalizing s va len with
  | zero => exact .refl s
  | succ fuel ih =>
    cases len with
    | zero => exact .refl s
    | succ len =>
      have hx := xlate_readKeeps s cache p asid va kind user
      simp only [sysPieces]
      split
      · rename_i l u hu
        have hu := hx.of_answer hu
        split
        · rename_i r v hv
          exact hu.trans ((ih _ _ _).of_answer hv)
        · exact hu.trans (ih _ _ _)
      · rename_i hu
        exact hx.of_answer hu

/-! ### Reads and writes of the device -/

theorem devReadE_readKeeps (s : State) (cache p asid va n : Nat) (user : Bool) :
    ReadKeeps s (devReadE s cache p asid va n user).2 := by
  have hx := sysPieces_readKeeps cache p asid .read user (pieceFuel n) s va n
  unfold devReadE
  split
  · rename_i hu
    exact hx.of_answer hu
  · rename_i ps u hu
    have hl := (hx.of_answer hu).trans (l2Pieces_readKeeps u (some p) 0 false ps)
    dsimp only
    split
    · rename_i e _
      exact hl.trans (logMemErr_readKeeps _ (some p) 0 0 e)
    · exact hl

theorem devReadS_readKeeps (s : State) (cache p asid va n : Nat) (user : Bool) :
    ReadKeeps s (devReadS s cache p asid va n user).2 := by
  unfold devReadS
  split <;> (rename_i hu; exact (devReadE_readKeeps s cache p asid va n user).of_answer hu)

theorem readSure_readKeeps (s : State) (cache p asid va n : Nat) (user : Bool) :
    ReadKeeps s (readSure s cache p asid va n user).2 := by
  unfold readSure
  split <;> (rename_i hu; exact (devReadE_readKeeps s cache p asid va n user).of_answer hu)

theorem locWrite_accessKeeps (s : State) (l : Loc) (bs : List Byte) : AccessKeeps s (locWrite s l bs) := by
  have he : AccessKeeps s (endPromo s l bs.length) := by
    unfold endPromo
    split
    · exact .refl s
    · exact (AccessKeeps.refl s).withMem _
  unfold locWrite
  dsimp only
  split
  · refine AccessKeeps.withMem ?_ _
    split
    · exact he
    · exact he.trans (.foldl (fun t sp => (AccessKeeps.refl t).withMem _) _ _)
  · split <;> exact he.withMem _

theorem piecesWrite_accessKeeps (ps : List (Loc × Nat)) (s : State) (bs : List Byte) : AccessKeeps s (piecesWrite s ps bs) := by
  induction ps generalizing s bs with
  | nil => exact .refl s
  | cons x r ih => exact (locWrite_accessKeeps s x.1 _).trans (ih _ _)

/-- A write of the device that no context makes. -/
theorem devWrite_accessKeeps {s u : State} {cache p asid va : Nat} {bs : List Byte} {user : Bool} {mark : Nat}
    (h : devWrite s cache p asid va bs user mark = .ok u) : AccessKeeps s u := by
  unfold devWrite at h
  split at h
  · rename_i ps v hv
    have hx := ((sysPieces_readKeeps cache p asid .write user _ s va _).of_answer hv).toAccessKeeps
    cases h
    exact hx.trans ((piecesWrite_accessKeeps ps v bs).trans (l2Pieces_readKeeps _ _ _ _ ps).toAccessKeeps)
  · cases h

end Sys2Proof.Machine
end

section
/-! SUPPORT. What the scheduler's own operations leave (R68 to R72, R364 to R373): items and their records, the spore that a pickup
loads, the context and the window that it finds, search items, and yield requests. -/

namespace Sys2Proof.Machine

open Sys2Proof.Claims

/-! ### Items -/

/-- A changed item is found as it was, changed. -/
theorem findItem_updItem (s : State) {p : Nat} (hp : p < 8) (id : Nat) {f : Item → Item} (hf : ∀ x, (f x).id = x.id) :
    findItem (getPart (updItem s p id f) p) id = (findItem (getPart s p) id).map f := by
  have hid : ((fun x : Item => x.id == id) ∘ fun x => if x.id == id then f x else x) = fun x => x.id == id := by
    funext x
    by_cases hx : x.id = id <;> simp [hx, hf]
  simp only [findItem, updItem, getPart_updPart _ _ _ hp, List.find?_map, hid]
  cases hfind : (getPart s p).items.find? fun x => x.id == id with
  | none => rfl
  | some x =>
    have hx : x.id = id := by simpa using List.find?_some hfind
    simp [hx]

/-- An item of a partition is found by its number, or one that shares it. -/
theorem findItem_of_mem {q : Part} {x : Item} (h : x ∈ q.items) : ∃ y, findItem q x.id = some y :=
  Option.isSome_iff_exists.mp (List.find?_isSome.mpr ⟨x, h, by simp⟩)

@[simp] theorem updItem_ctxs (s : State) (p id : Nat) (f : Item → Item) : (updItem s p id f).ctxs = s.ctxs := updPart_ctxs _ _ _
@[simp] theorem updItem_mem (s : State) (p id : Nat) (f : Item → Item) : (updItem s p id f).mem = s.mem := updPart_mem _ _ _

/-- Items change no slot's page. -/
theorem updItem_lost (s : State) {p : Nat} (hp : p < 8) (id : Nat) (f : Item → Item) :
    (getPart (updItem s p id f) p).lost = (getPart s p).lost := by simp [updItem, hp]

/-- A record beside its carry is written when its slot's page is there (R389). -/
theorem storeRecord_unplaced {s : State} {p id : Nat} {x : Item} (hx : findItem (getPart s p) id = some x) (hplace : x.place = none)
    (hlost : (getPart s p).lost.contains x.rcd.slot.toNat = false) :
    storeRecord s p id = updPart (clearMarks s .record p x.rcd.slot.toNat 1) p fun q =>
      { q with records := kput q.records x.rcd.slot.toNat (recordBytes x.rcd) } := by
  simp only [storeRecord, hx, hplace, hlost, Bool.false_eq_true, if_false]

/-- Such a write leaves contexts, scratchpads and items. -/
theorem storeRecord_unplaced_frame {s : State} {p id : Nat} {x : Item} (hp : p < 8) (hx : findItem (getPart s p) id = some x)
    (hplace : x.place = none) (hlost : (getPart s p).lost.contains x.rcd.slot.toNat = false) :
    (storeRecord s p id).ctxs = s.ctxs ∧ (storeRecord s p id).mem.scratch = s.mem.scratch
      ∧ (getPart (storeRecord s p id) p).items = (getPart s p).items := by
  rw [storeRecord_unplaced hx hplace hlost]
  refine ⟨by simp, by simp, ?_⟩
  rw [getPart_updPart _ _ _ hp]
  rfl

/-- A record that can be written leaves the items (R361, R389). -/
theorem storeRecord_items {s : State} {p id : Nat} {x : Item} (hp : p < 8) (hx : findItem (getPart s p) id = some x)
    (hw : slotWritable s p id) (hk : recordKept s p x) :
    (getPart (storeRecord s p id) p).items = (getPart s p).items := by
  cases hplace : x.place with
  | none => exact (storeRecord_unplaced_frame hp hx hplace (hk hplace)).2.2
  | some va =>
    obtain ⟨u, hu⟩ := hw x va hx hplace
    have hstore : storeRecord s p id = u := by simp only [storeRecord, hx, hplace, hu]
    rw [hstore]
    exact (devWrite_accessKeeps hu).items p

/-- The order of R372 chooses one of the spores it is given. -/
theorem firstChosen_mem {q : Part} {l : List (Item × StageDesc)} {y : Item × StageDesc} (h : firstChosen q l = some y) : y ∈ l := by
  induction l generalizing y with
  | nil => cases h
  | cons x r ih =>
    unfold firstChosen at h
    split at h
    · cases h
      exact List.mem_cons_self
    · rename_i z hz
      split at h
      · cases h
        exact List.mem_cons_of_mem _ (ih hz)
      · cases h
        exact List.mem_cons_self

/-- A READY spore is an item of its partition. -/
theorem mem_items_of_readyItems {q : Part} {y : Item × StageDesc} (h : y ∈ readyItems q) : y.1 ∈ q.items := by
  obtain ⟨x, hx, hy⟩ := List.mem_filterMap.mp h
  split at hy
  · obtain ⟨d, -, rfl⟩ := Option.map_eq_some_iff.mp hy
    exact hx
  · cases hy

/-! ### Loading a spore -/

theorem keptRead_accessKeeps (s : State) (p slot : Nat) (sp : ErrSpace) (bs : List Byte) : AccessKeeps s (keptRead s p slot sp bs).2 := by
  unfold keptRead
  split
  · exact .refl s
  · split
    · exact (logUncorr_readKeeps s 6 (some p) 0 0 0 0xFF 0).toAccessKeeps
    · exact countCorr_accessKeeps _ _ _ _ _

theorem readRecord_accessKeeps (s : State) (p asid : Nat) (x : Item) : AccessKeeps s (readRecord s p asid x).2 := by
  unfold readRecord
  split
  · exact (readSure_readKeeps _ _ _ _ _ _ _).toAccessKeeps
  · exact keptRead_accessKeeps _ _ _ _ _

/-- What a pickup reads of a spore: a record without a carry brings no byte (R68, R70). -/
theorem loadSpore_ok {s u : State} {p asid : Nat} {x : Item} {r : Spore} {bs : List Byte} (h : loadSpore s p asid x = (.ok (r, bs), u)) :
    AccessKeeps s u ∧ (r.cvalid = false → bs = []) := by
  have hr := readRecord_accessKeeps s p asid x
  unfold loadSpore at h
  split at h
  · cases h
  · rename_i rb v hv
    rw [hv] at hr
    dsimp only at h
    split at h
    · cases h
      exact ⟨hr, fun _ => rfl⟩
    · rename_i hc
      have hk := keptRead_accessKeeps v p x.rcd.slot.toNat .carry (kget [] (getPart v p).carries x.rcd.slot.toNat)
      split at h
      · cases h
      · rename_i cb w hw
        rw [hw] at hk
        cases h
        exact ⟨hr.trans hk, fun hn => absurd hn (by simpa using hc)⟩

/-! ### The context of a pickup -/

/-- A bank that takes a spore stands by while the core's other bank runs (R369). -/
def pickedStatus (s : State) (core : Nat) (b : Bool) : Status :=
  if (getCtx s (.bank core (!b))).life.status = .running ∨ (getCtx s (.bank core (!b))).life.status = .halting then .standby
  else .running

/-- The context of the bank after the pickup of a spore whose record is `r` (R70, R369). -/
def pickedBank (s : State) (p core : Nat) (b : Bool) (x : Item) (i : Instance) (d : StageDesc) (r : Spore) : Ctx :=
  let c := pickedCtx s p core b { x with rcd := r } i d s.sch.uid (getCtx s (.bank core b))
  { c with life := { c.life with status := pickedStatus s core b } }

/-- The item of a picked spore: on its bank, its handler no longer pending (R79). -/
def pickedItem (core : Nat) (b : Bool) (r : Spore) (y : Item) : Item :=
  { y with st := .onCore core b, rcd := { r with hpend := false }, place := none }

/-- The record of a picked spore is written beside its carry, when its page is there. -/
def settlePicked (s : State) (p core : Nat) (b : Bool) (id : Nat) (r : Spore) : State :=
  let s := updItem s p id (pickedItem core b r)
  if (getPart s p).lost.contains r.slot.toNat then s else storeRecord s p id

/-- A pickup whose record can be read (R70): the context, the window, the acquire, the item. -/
theorem pickUp_loaded {s u : State} {p core : Nat} {b : Bool} {x : Item} {i : Instance} {d : StageDesc} {r : Spore} {bs : List Byte}
    (h : loadSpore s p i.asid x = (.ok (r, bs), u)) :
    let c := pickedBank u p core b x i d r
    pickUp s p core b x i d
      = settlePicked (acquire (loadWindow (setCtx (freshUid u).2 (.bank core b) c) core c bs) (.bank core b) 3) p core b x.id r := by
  simp only [pickUp, h]
  rfl

section

variable (s : State) (p core : Nat) (b : Bool) (x : Item) (i : Instance) (d : StageDesc) (r : Spore)

/-- Whose spore it is, with its window and tiles (R70, R72). -/
theorem pickedBank_life : (pickedBank s p core b x i d r).life = { Life.reset with
    status := pickedStatus s core b, part := p, asid := i.asid, inst := x.inst, stage := x.stage, item := x.id
    rcd := { r with hpend := false }, winBase := if b then 2 ^ 20 - 16384 * d.window else 0, winUnits := d.window, tiles := d.tiles
    pickOrder := s.sch.uid } := by
  dsimp only [pickedBank, pickedCtx]
  split <;> simp [Life.reset]

/-- It begins at its handler when that is pending, else at its record's address (R70, R79). -/
theorem pickedBank_pc : (pickedBank s p core b x i d r).fr.pc
    = BitVec.ofNat 64 (if r.hpend && d.handler != 0 then d.handler else r.resume.toNat / 4 * 4) := by
  dsimp only [pickedBank, pickedCtx]
  split <;> simp [*]

/-- Its user CSRs: CARRY without reserved bits, SPSTAT, and the formats of its stage (R10, R68, R71, R107). -/
theorem pickedBank_csr : (pickedBank s p core b x i d r).csr = { UCsr.reset with
    carry := BitVec.ofNat 64 (if r.reason = 0 then d.carry * 2 ^ 16 else r.carry.toNat &&& carryMask), spstat := spstatOf r
    vfmt := BitVec.ofNat 64 d.v40 &&& fmtMask, mfmt := BitVec.ofNat 64 d.v48 &&& fmtMask
    mfmth := BitVec.ofNat 64 d.v56 &&& fmtMask } := by
  dsimp only [pickedBank, pickedCtx]
  split <;> simp

/-- It runs in user mode under the partition's trap vector, and SSCR stays (R92, R340). -/
theorem pickedBank_trap : let t := (pickedBank s p core b x i d r).trap
    t.smode = false ∧ t.stvec = preg s p 0x048 ∧ t.tokwd = tokwdReset ∧ t.sscr = (getCtx s (.bank core b)).trap.sscr := by
  dsimp only [pickedBank, pickedCtx]
  split <;> simp [TrapCsr.reset]

theorem pickedCtx_regs (n : Nat) (old : Ctx) : let c := pickedCtx s p core b x i d n old
    getS c 9 = x.rcd.task ∧ getS c 10 = x.rcd.arg0 ∧ getS c 11 = x.rcd.arg1 ∧ getS c 12 = x.rcd.arg2 ∧ getS c 13 = x.rcd.arg3 := by
  dsimp only [pickedCtx]
  split <;> simp [getS_setS_same, getS_setS_other]

/-- Its task and its arguments (R70). -/
theorem pickedBank_regs : let c := pickedBank s p core b x i d r
    getS c 9 = r.task ∧ getS c 10 = r.arg0 ∧ getS c 11 = r.arg1 ∧ getS c 12 = r.arg2 ∧ getS c 13 = r.arg3 :=
  pickedCtx_regs s p core b { x with rcd := r } i d s.sch.uid (getCtx s (.bank core b))

end

/-! ### The window of a pickup -/

theorem loadWindow_frame (s : State) (core : Nat) (c : Ctx) (bs : List Byte) :
    (loadWindow s core c bs).ctxs = s.ctxs ∧ (loadWindow s core c bs).parts = s.parts := by
  unfold loadWindow
  dsimp only
  split <;> exact ⟨rfl, rfl⟩

/-- A byte whose entries are all left out reads 0. -/
theorem mget_filter_out {m : Mem} {k : Nat} {keep : Host.Cell → Bool} (h : ∀ b, keep (k, b) = false) : mget (m.filter keep) k = 0 := by
  have hnone : kfind (m.filter keep) k = none := by
    induction m with
    | nil => rfl
    | cons e r ih =>
      obtain ⟨j, y⟩ := e
      rw [List.filter_cons]
      split
      · rename_i hj
        have hne : k ≠ j := by
          rintro rfl
          rw [h y] at hj
          cases hj
        simp only [kfind, if_neg hne, ih, ite_self]
      · exact ih
  rw [mget, kget, hnone]
  rfl

/-- Without a carry the window of a pickup is zero (R70). -/
theorem loadWindow_zero (s : State) (core : Nat) (c : Ctx) {k : Nat} (hk : k < winBytes c) :
    mget (loadWindow s core c []).mem.scratch (2 ^ 20 * core + c.life.winBase + k) = 0 := by
  unfold loadWindow
  dsimp only [mwrite]
  refine mget_filter_out fun _ => ?_
  have hlow : 2 ^ 20 * core + c.life.winBase ≤ 2 ^ 20 * core + c.life.winBase + k := Nat.le_add_right _ _
  have hhigh : 2 ^ 20 * core + c.life.winBase + k < 2 ^ 20 * core + c.life.winBase + winBytes c := by omega
  simp only [hlow, hhigh, decide_true, Bool.and_self, Bool.not_true]

/-- An acquire empties a data cache, and leaves contexts, memories and partitions (R122). -/
theorem acquire_frame (s : State) (a : AgentId) (scope : Nat) :
    (acquire s a scope).ctxs = s.ctxs ∧ (acquire s a scope).mem = s.mem ∧ (acquire s a scope).parts = s.parts := by
  unfold acquire
  split <;> exact ⟨rfl, rfl, rfl⟩

/-- The picked item is on its bank, and its record's place beside the carry changes no context and no scratchpad. -/
theorem settlePicked_frame {s : State} {p core : Nat} {b : Bool} {id : Nat} {r : Spore} (hp : p < 8) {y : Item}
    (hy : findItem (getPart s p) id = some y) :
    let t := settlePicked s p core b id r
    t.ctxs = s.ctxs ∧ t.mem.scratch = s.mem.scratch ∧ findItem (getPart t p) id = some (pickedItem core b r y) := by
  have hfind : findItem (getPart (updItem s p id (pickedItem core b r)) p) id = some (pickedItem core b r y) := by
    rw [findItem_updItem s hp id (f := pickedItem core b r) fun _ => rfl, hy]
    rfl
  unfold settlePicked
  dsimp only
  split
  · exact ⟨updItem_ctxs _ _ _ _, by rw [updItem_mem], hfind⟩
  · rename_i hlost
    obtain ⟨hc, hm, hi⟩ := storeRecord_unplaced_frame hp hfind rfl (by simpa [pickedItem] using hlost)
    exact ⟨hc.trans (updItem_ctxs _ _ _ _), by rw [hm, updItem_mem], by rw [findItem, hi]; exact hfind⟩

/-- A pickup gives the bank its context, a window of zeros unless a carry was saved, and the item its place (R70, R79). -/
theorem pickUp_spec {s u : State} {p core : Nat} {b : Bool} {x : Item} {i : Instance} {d : StageDesc} {r : Spore} {bs : List Byte}
    (hp : p < 8) (hx : x ∈ (getPart s p).items) (h : loadSpore s p i.asid x = (.ok (r, bs), u)) :
    let t := pickUp s p core b x i d
    let c := pickedBank u p core b x i d r
    getCtx t (.bank core b) = c
      ∧ (r.cvalid = false → ∀ k, k < winBytes c → mget t.mem.scratch (2 ^ 20 * core + c.life.winBase + k) = 0)
      ∧ ∃ y, findItem (getPart t p) x.id = some y ∧ y.st = .onCore core b := by
  obtain ⟨hk, hbs⟩ := loadSpore_ok h
  intro t c
  let w := loadWindow (setCtx (freshUid u).2 (.bank core b) c) core c bs
  obtain ⟨hwc, hwp⟩ := loadWindow_frame (setCtx (freshUid u).2 (.bank core b) c) core c bs
  obtain ⟨hac, ham, hap⟩ := acquire_frame w (.bank core b) 3
  have hpart : getPart (acquire w (.bank core b) 3) p = getPart u p := by
    simp only [getPart, hap, w, hwp]
    rfl
  obtain ⟨y, hy⟩ := findItem_of_mem hx
  have hy' : findItem (getPart (acquire w (.bank core b) 3) p) x.id = some y := by
    rw [hpart, findItem, hk.items]
    exact hy
  obtain ⟨htc, htm, hti⟩ := settlePicked_frame (core := core) (b := b) (r := r) hp hy'
  have ht : t = settlePicked (acquire w (.bank core b) 3) p core b x.id r := pickUp_loaded h
  rw [ht]
  refine ⟨?_, fun hc k hlt => ?_, _, hti, rfl⟩
  · rw [getCtx, htc, hac, hwc]
    exact getCtx_setCtx _ _ _
  · rw [htm, ham]
    have hb := hbs hc
    subst hb
    exact loadWindow_zero _ core c hlt

/-- PICKUP is the pickup of the spore that R372 chooses. -/
theorem execPickup_choice {s : State} {p core : Nat} {b : Bool} {x : Item} {d : StageDesc} {i : Instance}
    (h : pickChoice s p x d i core b) : execPickup p s = .next (pickUp s p core b x i d) ∧ x ∈ (getPart s p).items := by
  obtain ⟨hon, hfirst, hcore, hinst, hbank⟩ := h
  refine ⟨by simp [execPickup, hon, hfirst, hcore, hinst, hbank], ?_⟩
  exact mem_items_of_readyItems (List.mem_of_mem_filter (firstChosen_mem hfirst))

/-! ### Search items -/

theorem probesOk_readKeeps (p asid : Nat) (kind : AccKind) (l : List (Nat × Nat)) (s : State) :
    ReadKeeps s (probesOk p asid kind l s).2 := by
  induction l generalizing s with
  | nil => exact .refl s
  | cons x r ih =>
    have h := sysPieces_readKeeps sysTlb p asid kind true (pieceFuel x.2) s x.1 x.2
    unfold probesOk
    split
    · rename_i ps u hu
      exact (h.of_answer hu).trans (ih u)
    · rename_i hu
      exact h.of_answer hu

/-- The checks of a search item only read (R288). -/
theorem searchItem_readKeeps (s : State) (p : Nat) (i : Instance) (d : StageDesc) (sa : Nat) :
    ReadKeeps s (searchItem s p i d sa).2 := by
  have hread := fun t va n => devReadS_readKeeps t sysTlb p i.asid va n true
  have hprobe := fun l t => probesOk_readKeeps p i.asid .write l t
  unfold searchItem
  split
  · exact .refl s
  · split
    · rename_i hu
      exact (hread _ _ _).of_answer hu
    · rename_i bs u hu
      have hu := (hread _ _ _).of_answer hu
      dsimp only
      split
      · exact hu
      · cases handleIndex u p (BitVec.ofNat 64 d.v40) with
        | none =>
          dsimp only
          split <;> (rename_i hv; exact hu.trans ((hprobe _ _).of_answer hv))
        | some y =>
          have hw := hu.trans (hread u (fieldAt bs 0 8) (y.cb / 8))
          dsimp only
          split
          · exact hw
          · split <;> (rename_i hv; exact hw.trans ((hprobe _ _).of_answer hv))

/-- A search item whose checks pass and that its receiver has room for leaves its queue and becomes an operation (R366). -/
theorem issueItem_search {s v : State} {p : Nat} {x : Item} {i : Instance} {d : StageDesc} {o : Op} (hk : d.kind = 1)
    (ho : searchItem s p i d (itemSa d x.rcd.task) = (some o, v)) (hroom : receiverFull v p o.body = false) :
    issueItem s p x i d = (addOp (dropItem v p x.id) o).2 := by
  simp [issueItem, hk, ho, hroom]

/-- What becoming an operation leaves and changes (R366). -/
theorem addOp_dropItem {s : State} {p : Nat} (hp : p < 8) (id : Nat) (o : Op) :
    let t := (addOp (dropItem s p id) o).2
    t.mem = s.mem ∧ kfind t.ops s.sch.uid = some o ∧ (getPart t p).items = (getPart s p).items.filter fun y => y.id != id := by
  have hpart : getPart (addOp (dropItem s p id) o).2 p = getPart (dropItem s p id) p := rfl
  refine ⟨by simp [addOp, freshUid, dropItem], by simp [addOp, freshUid, dropItem], ?_⟩
  rw [hpart, dropItem, getPart_updPart _ _ _ hp]

/-- STAGE_ITEM_ISSUE is the issue of the first command item of an open stage (R366). -/
theorem execStageItemIssue_first {s : State} {p inst stage : Nat} {x : Item} {i : Instance} {d : StageDesc} (hon : partOn s p = true)
    (hx : (getPart s p).items.find? (fun x => x.inst == inst && x.stage == stage && x.st == .command) = some x)
    (hi : findInst (getPart s p) inst = some i) (hd : findStage (getPart s p) inst stage = some d)
    (hopen : stageOpen (getPart s p) inst stage = true) :
    execStageItemIssue p inst stage s = .next (issueItem s p x i d) := by
  simp only [execStageItemIssue, hx, hi, hd, hopen, hon, Bool.and_self, if_true]

/-! ### Aging and yield requests -/

/-- AGING: a READY spore whose time has come and that is below AGELIM is older, any other as it was (R371). -/
theorem execAging_ready {s : State} {p item : Nat} {x : Item} (hx : findItem (getPart s p) item = some x)
    (hr : (readySince x).isSome = true) :
    execAging p item s = .next (if x.aged + ageClk s p ≤ s.now ∧ x.rcd.prio.toNat < ageLimit s p then updRecord s p item (older s p)
      else s) := by
  simp only [execAging, hx, hr, Bool.true_and, Bool.and_eq_true, decide_eq_true_eq]

/-- A changed record that can be written leaves the item changed. -/
theorem findItem_updRecord {s : State} {p id : Nat} {x : Item} {f : Item → Item} (hp : p < 8) (hx : findItem (getPart s p) id = some x)
    (hf : ∀ y, (f y).id = y.id) (hw : slotWritable (updItem s p id f) p id) (hk : recordKept (updItem s p id f) p (f x)) :
    findItem (getPart (updRecord s p id f) p) id = some (f x) := by
  have hfind : findItem (getPart (updItem s p id f) p) id = some (f x) := by
    rw [findItem_updItem s hp id hf, hx]
    rfl
  rw [updRecord, findItem, storeRecord_items hp hfind hw hk]
  exact hfind

/-- A yield request that is posted stands in the life of its victim, which keeps its registers (R189, R373). -/
theorem postYield_asked {s : State} {a : AgentId} (h : (getCtx s a).life.yieldReq = false) (for_ : Option Nat) :
    let t := postYield s a for_
    (getCtx t a).life.yieldReq = true ∧ (getCtx t a).life.yieldFor = for_ ∧ t.mem = s.mem
      ∧ (getCtx t a).arch = (getCtx s a).arch := by
  have hctx : getCtx (postYield s a for_) a
      = { getCtx s a with
          life := { (getCtx s a).life with yieldReq := true, yieldFor := for_ }
          eng := { (getCtx s a).eng with event := true } } := by
    simp only [postYield, h, Bool.false_eq_true, if_false]
    rw [getCtx, setPreg_ctxs]
    exact getCtx_updCtx _ _ _
  have hmem : (postYield s a for_).mem = s.mem := by
    simp only [postYield, h, Bool.false_eq_true, if_false, setPreg_mem, updCtx_mem]
  dsimp only
  rw [hctx]
  exact ⟨rfl, rfl, hmem, rfl⟩

end Sys2Proof.Machine
end

section

namespace Sys2Proof.Proofs

open Sys2Proof Sys2Proof.Machine Sys2Proof.Safety Sys2Proof.Claims

/-- Settles O30: the pickup by the context it builds, the search item by its checks' frame, aging by the record it writes, the yield
request by the life it changes. -/
theorem schedulerEvents : Obligations.SchedulerEvents := by
  unfold Obligations.SchedulerEvents
  refine ⟨fun s p core b x d i r bs u hp hpick hload => ?_,
    fun s v p inst stage x i d o hp hon hx hi hd hopen hkind hsearch hroom herrs => ?_,
    fun s p item x hp hx hready hw hk => ?_, fun s p k x d hp hon hfirst hvictim hreq => ?_⟩
  · obtain ⟨hexec, hmem⟩ := execPickup_choice hpick
    obtain ⟨hctx, hzero, hitem⟩ := pickUp_spec (core := core) (b := b) (d := d) hp hmem hload
    obtain ⟨hkeep, -⟩ := loadSpore_ok hload
    have hlife := pickedBank_life u p core b x i d r
    have hcsr := pickedBank_csr u p core b x i d r
    obtain ⟨hsmode, hstvec, htokwd, hsscr⟩ := pickedBank_trap u p core b x i d r
    obtain ⟨htask, harg0, harg1, harg2, harg3⟩ := pickedBank_regs u p core b x i d r
    refine ⟨_, hexec, ?_⟩
    dsimp only
    rw [hctx]
    refine ⟨(congrArg Life.status hlife).trans ?_, congrArg Life.item hlife, congrArg Life.asid hlife,
      congrArg Life.winUnits hlife, congrArg Life.tiles hlife, hsmode, hstvec.trans (hkeep.preg p 0x048 (by decide)), htokwd,
      hsscr.trans (by rw [hkeep.getCtx]), pickedBank_pc u p core b x i d r, htask, harg0, harg1, harg2, harg3,
      congrArg UCsr.vfmt hcsr, congrArg UCsr.mfmt hcsr, congrArg UCsr.frnd hcsr, congrArg UCsr.fflags hcsr,
      fun hreason => (congrArg UCsr.carry hcsr).trans ?_, fun hcarry _ k hk => hzero hcarry k ?_, hitem⟩
    · simp only [pickedStatus, hkeep.getCtx]
    · rw [if_neg hreason]
      rfl
    · rwa [winBytes, hlife]
  · have hkeep := searchItem_readKeeps s p i d (itemSa d x.rcd.task)
    rw [hsearch] at hkeep
    obtain ⟨hm, hop, hitems⟩ := addOp_dropItem (s := v) hp x.id o
    refine ⟨_, (execStageItemIssue_first hon hx hi hd hopen).trans (congrArg _ (issueItem_search hkind hsearch hroom)),
      hm.trans (hkeep.mem herrs), ?_, ?_⟩
    · rw [← hkeep.sch]
      exact hop
    · rw [hitems, hkeep.items]
  · refine ⟨_, execAging_ready hx hready, ?_⟩
    split
    · have hk' : recordKept (updItem s p item (older s p)) p (older s p x) := fun hplace => by
        rw [updItem_lost s hp]
        exact hk hplace
      exact ⟨_, findItem_updRecord hp hx (fun _ => rfl) hw hk', rfl, rfl, rfl⟩
    · rfl
  · refine ⟨postYield s (keyAgent k) (some x.id), ?_, postYield_asked hreq _⟩
    change execYieldRequest p s = _
    simp only [execYieldRequest, hon, hfirst, hvictim, Bool.not_true, Bool.false_eq_true, if_false]

end Sys2Proof.Proofs
end

section
/-! SUPPORT. What routing does (R22, R23): an instruction whose word has the engine field of an engine is issued, and an issued word
goes to the tail of its queue or waits at a full one. -/

namespace Sys2Proof.Machine

open Sys2Proof.Safety

/-! ### Engine words -/

theorem b2n_le_one (b : Bool) : b2n b ≤ 1 := by cases b <;> decide

/-- The word of an instruction that has one is its raw word. -/
theorem rawOf_of_encodeWord {i : Instr} {w : Nat} (h : encodeWord i = some w) : rawOf i = w := by
  unfold rawOf
  split
  · cases h
  · rw [h, Option.getD_some]

/-- An instruction is an engine word when the engine field of its word is 1 to 6 (R22). -/
theorem engineWord_iff {i : Instr} {w : Nat} (h : encodeWord i = some w) :
    engineWord i = true ↔ 1 ≤ engOf w ∧ engOf w ≤ 6 := by
  simp [engineWord, rawOf_of_encodeWord h, h]

/-- A control word, whose engine field is 0, is no engine word (R131, R133). -/
theorem not_engineWord_of_control {i : Instr} {z : Bool} {base : Nat} {fs : List (Nat × Nat)}
    (h : encodeWord i = some (pack base ((b2n z, 28) :: fs))) (hfs : pack base fs < 2 ^ 28) : ¬ engineWord i = true := by
  have hz := b2n_le_one z
  have hfield : engOf (pack base ((b2n z, 28) :: fs)) = 0 := by
    rw [pack, engOf, bits]
    omega
  simp [engineWord_iff h, hfield]

/-- Words of engine field 7, such as XEXT and XCALL, are no engine words (R131, R143, R148). -/
theorem not_engineWord_of_prefix {i : Instr} {w : Nat} (h : encodeWord i = some w) (hlow : 7 * 2 ^ 29 ≤ w)
    (hhigh : w < 2 ^ 32) : ¬ engineWord i = true := by
  have hfield : engOf w = 7 := by
    rw [engOf, bits]
    omega
  simp [engineWord_iff h, hfield]

/-- An engine word is routed: control words and prefixes have another engine field, steps of the device have no word. -/
theorem exec_engineWord {i : Instr} (h : engineWord i = true) (s : State) : exec i s = issue i s := by
  cases i
  case nop | add | sub | and | or | xor | andn | shl | shr | shra | rotr | mul | mulhs | mulhu | div | divu | rem | remu | min |
    max | minu | maxu | slt | sltu | seq | clz | ctz | popc | brev | sext | zext | addi | andi | ori | xori | shli | shri |
    shrai | slti | sltui | seqi | lui | auipc | ldb | ldbu | ldh | ldhu | ldw | ldwu | ldd | stb | sth | stw | std | amo | amoa
    | amor | amoar | amop | cas | prefl | beq | bne | blt | bge | bltu | bgeu | jal | jalr | yield | exit | spawn | cont |
    waitgeLocal | waitge | signalLocal | signal | popr | peekr | fork | msend | mrecv | nest | cstore | l2pin | l2unpin | csrr |
    csrw | csrs | csrc | ecall | ebreak | eret | wfe | tlbinv | sev =>
    exact absurd h (not_engineWord_of_control rfl (by simp only [pack]; omega))
  case fence z f x e =>
    have hf := b2n_le_one f
    exact absurd h (not_engineWord_of_control rfl (by simp only [pack]; omega))
  case xext m z r t x =>
    have hz := b2n_le_one z
    have ht := b2n_le_one t
    exact absurd h (not_engineWord_of_prefix rfl (by simp only [pack]; omega) (by simp only [pack]; omega))
  case xcall z e t v x =>
    have hz := b2n_le_one z
    exact absurd h (not_engineWord_of_prefix rfl (by simp only [pack]; omega) (by simp only [pack]; omega))
  case xrep | xlimm | xsca =>
    exact absurd h (not_engineWord_of_prefix rfl (by simp only [pack]; omega) (by simp only [pack]; omega))
  case vadd | vsub | vaddsat | vsubsat | vavg | vmul | vmulhi | vmac | vmin | vmax | vabs | vand | vor | vxor | vshl | vshr |
    vfadd | vfsub | vfmul | vfma | vfms | vfmin | vfmax | vfabs | vfneg | vcvt | vwiden | vnarrow | vwmul | vwmac | vaccrd |
    vaccwr | vcmpeq | vcmpne | vcmplt | vcmple | vsel | vmlogic | vmpopc | vmfirst | vperm | vbcast | viota | vredsum | vredmin
    | vredmax | vargmin | vslide | vtopn | vspread | vpack | vunpack | vhash | vpopcnt | vxorpc | vlut | vrcp | vrsq | vrcpref |
    vrsqref | vexp2 | vlog2 | sbind | sisect | sunion | ssub | smadd | scount | sreset | vreply | mldb | mswap | mma | mscq |
    mzero | mdrain | mgo | matt | mlatld | mlat | mbjoin | mbleave | mpop | mquiet | lcp | lgo | lgath | lpref | lq | lqx |
    lring | lmark | lsbind | lhint | scp | sgo | sscat | sq | sring | smark | ssbind | sflush | szero | tcvt | tcopy | trope |
    tsplice | tfill | tkvapp | tchk | qsearch | qfetch | qinsert | qdelete | qwalk | qcancel | qstat | qsnap =>
    rfl
  all_goals exact absurd h Bool.false_ne_true

/-! ### Routing -/

/-- What a sequencer keeps to route a word again is no part of a context (R309). -/
@[simp] theorem getCtx_keepFront (s : State) (a b : AgentId) : getCtx (keepFront s a) b = getCtx s b := by
  cases a <;> rfl

@[simp] theorem keepFront_sch (s : State) (a : AgentId) : (keepFront s a).sch = s.sch := by cases a <;> rfl

/-- A routed word stands at the tail of its queue, with the number it is given and what routing captures for it (R23). -/
theorem enqueue_queue (s : State) (a : AgentId) (e : Engine) (i : Instr) (raw : Nat) :
    (getE (getCtx (enqueue s a e i raw) a).eng e).queue = (getE (getCtx s a).eng e).queue
      ++ [⟨i, BitVec.ofNat 32 raw, curPc (getCtx s a), s.sch.uid, captureOf (getCtx s a) i (rawOf i)⟩] := by
  simp only [enqueue, getCtx_updCtx, getE_setE]
  split <;> rfl

@[simp] theorem enqueue_eager (s : State) (a : AgentId) (e : Engine) (i : Instr) (raw : Nat) :
    (enqueue s a e i raw).sch.eager = s.sch.eager := rfl

/-- Moving past a word leaves the engines alone. -/
@[simp] theorem getCtx_retire_eng (s : State) (a : AgentId) (i : Instr) :
    (getCtx (retire s a i) a).eng = (getCtx s a).eng := by
  rw [retire, getCtx_updCtx]

/-- The queue of a routed word's engine is what it was and the word (R23). -/
theorem routed_queue (s : State) (i j : Instr) :
    (getE (getCtx (routed s i j) s.sch.cur).eng (Safety.engineOf j)).queue
      = (getE (cx s).eng (Safety.engineOf j)).queue ++ [queued s i j] := by
  rw [routed, getCtx_retire_eng, enqueue_queue]
  simp only [getCtx_keepFront, keepFront_sch]
  rfl

/-- A full queue holds the splitter (R23). -/
theorem issue_full {s : State} {i j : Instr} (hr : ready s i = true) (hj : effInstr (cx s).fr i = some j)
    (hfull : queueDepth ≤ (getE (cx s).eng (Safety.engineOf j)).queue.length) :
    issue i s = .next (stallAt s s.sch.cur .queueFull) := by
  obtain ⟨hrun, hroute⟩ := (ready_iff s i).1 hr
  simp only [cx, Safety.engineOf] at hj hfull
  simp [issue, hrun, hroute, hj, hfull]

/-- A word whose engine may not start it at once, or that is not to start in the step that routes it, is routed and no more (R23,
log 3). -/
theorem issue_routed {s : State} {i j : Instr} (hr : ready s i = true) (hj : effInstr (cx s).fr i = some j)
    (hroom : (getE (cx s).eng (Safety.engineOf j)).queue.length < queueDepth)
    (hwait : (getE (cx s).eng (Safety.engineOf j)).queue ≠ [] ∨ (getE (cx s).eng (Safety.engineOf j)).flying ≠ []
      ∨ s.sch.eager = false) :
    issue i s = .next (routed s i j) := by
  obtain ⟨hrun, hroute⟩ := (ready_iff s i).1 hr
  have hstart : (s.sch.eager && (getE (cx s).eng (Safety.engineOf j)).queue.isEmpty
      && (getE (cx s).eng (Safety.engineOf j)).flying.isEmpty) = false := by
    rcases hwait with h | h | h <;> simp [h]
  simp only [cx, Safety.engineOf] at hj hroom hstart
  simp [issue, hrun, hroute, hj, Nat.not_le.2 hroom, hstart, routed, Safety.engineOf, -Bool.and_eq_true]

end Sys2Proof.Machine
end

section

namespace Sys2Proof.Proofs

open Sys2Proof Sys2Proof.Machine Sys2Proof.Safety

/-- Settles O11: an engine word is issued, and `issue` has the two outcomes. -/
theorem routedWords : Obligations.RoutedWords := by
  unfold Obligations.RoutedWords
  intro s i j hword hready heff
  rw [exec_engineWord hword]
  exact ⟨fun hroom hwait => ⟨issue_routed hready heff hroom hwait, routed_queue s i j⟩, issue_full hready heff⟩

end Sys2Proof.Proofs
end

section
/-! SUPPORT. What the machine holds after reset: each map is empty, so what is read of it is the map's default. -/

namespace Sys2Proof.Machine

/-- At reset every context is an empty bank or a free sequencer. -/
@[simp] theorem getCtx_reset (a : AgentId) : getCtx State.reset a = Ctx.reset := rfl

@[simp] theorem getPart_reset (p : Nat) : getPart State.reset p = Part.reset := by
  simp [getPart, State.reset]

@[simp] theorem preg_reset (p off : Nat) : preg State.reset p off = pregReset off := by
  rw [preg, getPart_reset]
  rfl

@[simp] theorem getPin_reset (i : Nat) : getPin State.reset i = Pin.reset := by
  simp [getPin, State.reset]

@[simp] theorem getRing_reset (n : Nat) : getRing Ctx.reset n = Ring.reset := by
  simp [getRing, Ctx.reset, Arch.reset]

/-- A retention register that holds no pin reads 0 (R129). -/
theorem l2rs_reset (i : Nat) : l2rs State.reset i = 0 := by
  rw [l2rs, getPin_reset]
  rfl

theorem tstat_reset : tstat Ctx.reset = 0 := rfl
theorem rgptr_reset : rgptr Ring.reset = 0 := rfl

/-- SKEW0 to SKEW3 hold 0 (R113). -/
theorem skew_reset (k : Nat) : Ctx.reset.csr.skew.toList.getD k 0 = 0 := List.getElem?_getD_replicate_default_eq 0 4 k

/-- SSCR0 to SSCR3 hold 0 (R340). -/
theorem sscr_reset (k : Nat) : Ctx.reset.trap.sscr.toList.getD k 0 = 0 := List.getElem?_getD_replicate_default_eq 0 4 k

/-- Every CSR but TOKWD reads 0 at reset. -/
theorem csrRead_reset (a : AgentId) {n : Nat} (hn : n ≠ 0x418) : csrRead State.reset a n = 0 := by
  simp only [csrRead, getCtx_reset, getRing_reset, tstat_reset, rgptr_reset, l2rs_reset, skew_reset, sscr_reset, if_neg hn]
  simp [Ctx.reset, UCsr.reset, TrapCsr.reset, Ring.reset]

/-- TOKWD holds its reset value (R92). -/
theorem csrRead_reset_tokwd (a : AgentId) : csrRead State.reset a 0x418 = tokwdReset := rfl

/-- A partition is not enabled at reset: PCTL holds 0 (R353). -/
theorem partOn_reset (p : Nat) : partOn State.reset p = false := by
  rw [partOn, preg_reset]
  rfl

/-- No instruction is in the queue of an engine at reset. -/
theorem queue_reset (e : Engine) : (getE Ctx.reset.eng e).queue = [] := by cases e <;> rfl

end Sys2Proof.Machine
end

section

namespace Sys2Proof.Proofs

open Sys2Proof Sys2Proof.Machine

/-- Settles O20: every map of `State.reset` is empty, so that what is read is each map's default. -/
theorem resetState : Obligations.ResetState := by
  unfold Obligations.ResetState
  refine ⟨fun a => ⟨rfl, rfl, fun n hn => csrRead_reset a ?_, csrRead_reset_tokwd a, rfl, queue_reset⟩, rfl, rfl,
    fun off _ => rfl, preg_reset, fun p => ⟨partOn_reset p, ?_⟩, fun x => ⟨rfl, rfl, rfl, rfl, rfl⟩⟩
  · simp only [List.mem_cons, List.not_mem_nil, or_false] at hn
    omega
  · rw [getPart_reset]
    rfl

end Sys2Proof.Proofs
end

section
/-! SUPPORT. What a write of a control and status register leaves (R10, R186): the bits that the register has, and nothing of the general
registers and the mode. -/

namespace Sys2Proof.Machine

open Sys2Proof.Claims

/-- No write of a supervisor CSR changes the mode (R340). -/
@[simp] theorem tcsrWrite_smode (t : TrapCsr) (n : Nat) (x : Word) : (tcsrWrite t n x).smode = t.smode := by
  unfold tcsrWrite
  split_ifs <;> rfl

/-- A write of a CSR leaves the general registers and the mode (R10, R340). -/
theorem csrWrite_frame (c : Ctx) (n : Nat) (x : Word) :
    (csrWrite c n x).arch.s = c.arch.s ∧ (csrWrite c n x).trap.smode = c.trap.smode := by
  unfold csrWrite
  split_ifs <;> simp

/-- The low six bits, as FFLAGS holds them (R63). -/
theorem setWidth_mod64 (x : Word) : BitVec.setWidth 64 (BitVec.ofNat 32 (x.toNat % 64)) = x &&& 63#64 := by
  apply BitVec.eq_of_toNat_eq
  have hand : x.toNat &&& 63 = x.toNat % 64 := Nat.and_two_pow_sub_one_eq_mod x.toNat 6
  simp only [BitVec.toNat_setWidth, BitVec.toNat_ofNat, BitVec.toNat_and, Nat.reduceMod, Nat.reducePow, hand]
  omega

/-- A read-write CSR reads, after a write, the bits of its mask (R10): one case for each register that has one. -/
theorem csrRead_csrWrite (s : State) (a : AgentId) (x : Word) {n mask : Nat} (h : csrMask n = some mask) :
    csrRead (setCtx s a (csrWrite (getCtx s a) n x)) a n = x &&& BitVec.ofNat 64 mask := by
  have hones : x &&& 0xFFFFFFFFFFFFFFFF#64 = x := BitVec.and_allOnes
  unfold csrMask at h
  split at h <;> cases h
  all_goals
    simp [csrRead, csrWrite, ucsrWrite, tcsrWrite, rgcfgRing, keep, getRing_setRing_same, hones, setWidth_mod64]

/-- FRND holds a code up to 4 and ignores any other (R47). -/
theorem csrRead_frnd (s : State) (a : AgentId) (x : Word) :
    csrRead (setCtx s a (csrWrite (getCtx s a) 0x000 x)) a 0x000
      = if 5 ≤ x.toNat % 8 then csrRead s a 0x000 else BitVec.ofNat 64 (x.toNat % 8) := by
  have hwidth : BitVec.setWidth 64 (BitVec.ofNat 32 (x.toNat % 8)) = BitVec.ofNat 64 (x.toNat % 8) := by
    apply BitVec.eq_of_toNat_eq
    simp only [BitVec.toNat_setWidth, BitVec.toNat_ofNat]
    omega
  have hwrite : csrWrite (getCtx s a) 0x000 x
      = { getCtx s a with csr := { (getCtx s a).csr with frnd := frndWrite (getCtx s a).csr.frnd x } } := rfl
  have hread (t : State) : csrRead t a 0x000 = BitVec.setWidth 64 (getCtx t a).csr.frnd := rfl
  rw [hread, hread, hwrite, getCtx_setCtx, ← hwidth]
  exact apply_ite (BitVec.setWidth 64) _ _ _

/-- CARRY holds a length up to 256 and ignores any other (R68). -/
theorem csrRead_carry (s : State) (a : AgentId) (x : Word) :
    csrRead (setCtx s a (csrWrite (getCtx s a) 0x004 x)) a 0x004
      = if 256 < wbits x 24 16 then csrRead s a 0x004 else x &&& 0x1FF03FF := by
  have hwrite : csrWrite (getCtx s a) 0x004 x
      = { getCtx s a with csr := { (getCtx s a).csr with carry := carryWrite (getCtx s a).csr.carry x } } := rfl
  have hread (t : State) : csrRead t a 0x004 = (getCtx t a).csr.carry := rfl
  rw [hread, hread, hwrite, getCtx_setCtx]
  rfl

/-- TOKWD holds a period of 1,024 or more and ignores any other (R92). -/
theorem csrRead_tokwd (s : State) (a : AgentId) (x : Word) :
    csrRead (setCtx s a (csrWrite (getCtx s a) 0x418 x)) a 0x418
      = if wbits x 31 0 < 1024 then csrRead s a 0x418 else x &&& 0xFFFFFFFF := by
  have hwrite : csrWrite (getCtx s a) 0x418 x
      = { getCtx s a with trap := { (getCtx s a).trap with tokwd := tokwdWrite (getCtx s a).trap.tokwd x } } := rfl
  have hread (t : State) : csrRead t a 0x418 = (getCtx t a).trap.tokwd := rfl
  rw [hread, hread, hwrite, getCtx_setCtx]
  rfl

end Sys2Proof.Machine
end

section

namespace Sys2Proof.Proofs

open Sys2Proof Sys2Proof.Machine

/-- Settles O42: what each register holds is one case of the write, what the write leaves is its frame. -/
theorem csrValues : Obligations.CsrValues := by
  unfold Obligations.CsrValues
  exact ⟨fun s a n mask x h => ⟨csrRead_csrWrite s a x h, csrWrite_frame (getCtx s a) n x⟩,
    fun s a x => ⟨csrRead_frnd s a x, csrRead_carry s a x, csrRead_tokwd s a x⟩⟩

end Sys2Proof.Proofs
end

section
/-! SUPPORT. The elements that a vector word gives under its mask (R34, R194): the loop over the elements, one after another. -/

namespace Sys2Proof.Machine

open Sys2Proof.Claims

/-! ### The loop over the elements -/

/-- What the loop of R194 makes of element `i`: the operation's value, or 0 under Z, or the old element. -/
def maskedAt (e : VEnv) (w old : Nat) (res : Nat → Nat × Nat) (i : Nat) : Nat × Nat :=
  if vActive e i then res i else if e.cap.zero then (0, 0) else (old / 2 ^ (w * i) % 2 ^ w, 0)

theorem maskLoop_succ (e : VEnv) (w old : Nat) (res : Nat → Nat × Nat) (i n : Nat) :
    maskLoop e w old res i (n + 1)
      = ((maskedAt e w old res i).1 % 2 ^ w + 2 ^ w * (maskLoop e w old res (i + 1) n).1,
          (maskedAt e w old res i).2 ||| (maskLoop e w old res (i + 1) n).2) := rfl

/-- Element `k` of what the loop packs is what it makes of that element (R34, R194). -/
theorem maskLoop_elem (e : VEnv) (w old : Nat) (res : Nat → Nat × Nat) (i : Nat) {n k : Nat} (hk : k < n) :
    (maskLoop e w old res i n).1 / 2 ^ (w * k) % 2 ^ w = (maskedAt e w old res (i + k)).1 % 2 ^ w := by
  induction n generalizing i k with
  | zero => omega
  | succ n ih =>
    rw [maskLoop_succ]
    cases k with
    | zero => simp
    | succ k =>
      have hlow : (maskedAt e w old res i).1 % 2 ^ w < 2 ^ w := Nat.mod_lt _ (by positivity)
      rw [Nat.mul_succ, Nat.add_comm (w * k), pow_add, ← Nat.div_div_eq_div_mul, Nat.add_mul_div_left _ _ (by positivity),
        Nat.div_eq_of_lt hlow, Nat.zero_add, ih (i + 1) (by omega), Nat.add_right_comm, Nat.add_assoc]

/-- The packed elements take no more bits than theirs. -/
theorem maskLoop_lt (e : VEnv) (w old : Nat) (res : Nat → Nat × Nat) (i n : Nat) :
    (maskLoop e w old res i n).1 < 2 ^ (w * n) := by
  induction n generalizing i with
  | zero => simp [maskLoop]
  | succ n ih =>
    have hlow : (maskedAt e w old res i).1 % 2 ^ w < 2 ^ w := Nat.mod_lt _ (by positivity)
    rw [maskLoop_succ, Nat.mul_succ, Nat.add_comm (w * n), pow_add]
    calc _ < 2 ^ w + 2 ^ w * (maskLoop e w old res (i + 1) n).1 := by omega
      _ = 2 ^ w * ((maskLoop e w old res (i + 1) n).1 + 1) := by ring
      _ ≤ 2 ^ w * 2 ^ (w * n) := Nat.mul_le_mul_left _ (ih (i + 1))

/-- Where every element raises one flag or none, so does the loop: when a selected element raises it. -/
theorem maskLoop_flag (e : VEnv) (w old : Nat) {res : Nat → Nat × Nat} {nv : Nat → Bool} (h : ∀ k, (res k).2 = b2n (nv k)) (i n : Nat) :
    (maskLoop e w old res i n).2 = b2n ((List.range' i n).any fun k => vActive e k && nv k) := by
  have hor : ∀ p q : Bool, b2n p ||| b2n q = b2n (p || q) := by decide
  induction n generalizing i with
  | zero => rfl
  | succ n ih =>
    have hat : (maskedAt e w old res i).2 = b2n (vActive e i && nv i) := by
      unfold maskedAt
      split_ifs with hactive <;> simp [hactive, h]
      all_goals rfl
    rw [maskLoop_succ, hat, ih, hor]
    rfl

/-! ### Words on elements -/

/-- What a word with masking D writes to register `d` (R34, R194): each element is `x` of it, or 0 or the old element. -/
def WritesElements (e : VEnv) (g : Fmt) (d : Nat) (x : Nat → Nat) (v : VRes) : Prop :=
  ∃ r f, v = .ok ⟨.regs d 1 r, f, none, none⟩
    ∧ ∀ k, k < elemCount g → r / 2 ^ (storedW g * k) % 2 ^ storedW g
        = (if vActive e k then x k % 2 ^ storedW g
           else if e.cap.zero then 0 else vOld e d 1 / 2 ^ (storedW g * k) % 2 ^ storedW g)

theorem vElems_writes (e : VEnv) (g : Fmt) {d d' : Nat} {x : Nat → Nat} {res : Nat → Nat × Nat}
    (h : ∀ k, some (d, (res k).1) = some (d', x k)) : WritesElements e g d' x (vElems e g d 1 (elemCount g) res) := by
  obtain ⟨hd, -⟩ := Prod.mk.inj (Option.some.inj (h 0))
  have hx : ∀ k, (res k).1 = x k := fun k => (Prod.mk.inj (Option.some.inj (h k))).2
  subst hd
  refine ⟨_, _, rfl, fun k hk => ?_⟩
  rw [maskLoop_elem _ _ _ _ _ hk, Nat.zero_add, maskedAt, ← hx]
  split_ifs <;> simp

/-- A vector word's format selector stands in bits 17:15 of its word (R135). -/
theorem vFmt_selector {e : VEnv} {g : Fmt} {j : Instr} {z : Bool} {t : BitVec 4} {f : BitVec 3} {base : Nat} {fs : List (Nat × Nat)}
    (hfmt : vFmt e (selOf j) = some g)
    (h : encodeWord j = some (pack base ((b2n z, 28) :: (t.toNat, 24) :: (f.toNat, 15) :: fs)))
    (hlow : pack base fs % 2 ^ 18 < 2 ^ 15) : vFmt e f.toNat = some g := by
  have hsel : selOf j = f.toNat := by
    have hf := f.isLt
    rw [selOf, rawOf_of_encodeWord h]
    simp only [pack, bits]
    omega
  rwa [hsel] at hfmt

theorem vInt_writes {e : VEnv} {f d a b : Nat} {sat : Bool} {t : Nat → Int → Int → Int → Int} {g : Fmt} {d' : Nat} {x : Nat → Nat}
    (hf : vFmt e f = some g) (hg : isInt g = true)
    (h : ∀ k, some (d, (intInto g (t (fmtW g) (intValue g (elemAt g (vSrc e a 1) k)) (intValue g (vB e g (vSrc e b 1) k))
      (intValue g (elemAt g (vOld e d 1) k))) sat).1) = some (d', x k)) :
    WritesElements e g d' x (vInt e f d a b sat t) := by
  simp only [vInt, hf, hg, Bool.not_true, Bool.false_eq_true, if_false]
  exact vElems_writes e g h

/-- Flooring division by a power of two is the division of the integers (R36). -/
theorem floorShift_eq (x : Int) (k : Nat) : floorShift x k = x / 2 ^ k := by
  rw [floorShift, Int.fdiv_eq_ediv_of_nonneg _ (by positivity)]
  push_cast
  rfl

/-- The bits of an element of an integer format come back from its value (R33). -/
theorem ofSigned_intValue {g : Fmt} (hg : isInt g = true) (x : Nat) : ofSigned (fmtW g) (intValue g x) = x % 2 ^ fmtW g := by
  cases g with
  | flt | bin => cases hg
  | uint w =>
    simp only [ofSigned, intValue, fmtW]
    norm_cast
    simp
  | sint w =>
    have hpos : (0 : Int) < ((2 ^ w : Nat) : Int) := by positivity
    have hmod : toSigned w x % ((2 ^ w : Nat) : Int) = ((x % 2 ^ w : Nat) : Int) := by
      unfold toSigned
      dsimp only
      split_ifs with h0 h1
      · subst h0
        simp [Nat.mod_one]
      · norm_cast
        simp
      · rw [Int.sub_emod_right]
        norm_cast
        simp
    simp only [ofSigned, intValue, fmtW, hmod, Int.toNat_natCast]

/-- The shift amount is b read unsigned, at most the width (R196). -/
theorem shiftAmount_intValue {g : Fmt} (hg : isInt g = true) (x : Nat) :
    shiftAmount (fmtW g) (intValue g x) = min (fmtW g) (x % 2 ^ fmtW g) := by
  rw [shiftAmount, ofSigned_intValue hg]

theorem natAbs_eq_ite (x : Int) : (x.natAbs : Int) = if 0 ≤ x then x else -x := by omega


/-- VPOPCNT and VXORPC (R210). -/
theorem vPopcnt_writes {e : VEnv} {f d a b : Nat} {xor : Bool} {g : Fmt} {d' : Nat} {x : Nat → Nat}
    (hf : vFmt e f = some g) (hg : isInt g = true)
    (h : ∀ k, some (d, popBits (fmtW g) (if xor then elemAt g (vSrc e a 1) k ^^^ vB e g (vSrc e b 1) k else elemAt g (vSrc e a 1) k))
      = some (d', x k)) : WritesElements e g d' x (vPopcnt e f d a b xor) := by
  simp only [vPopcnt, hf, hg, Bool.not_true, Bool.false_eq_true, if_false]
  exact vElems_writes e g h

theorem vIota_writes {e : VEnv} {f d a : Nat} {g : Fmt} {d' : Nat} {x : Nat → Nat} (hf : vFmt e f = some g) (hg : isInt g = true)
    (h : ∀ k, some (d, ((List.range k).filter fun j => bit (getM e.c a).toNat j).length % 2 ^ fmtW g) = some (d', x k)) :
    WritesElements e g d' x (vIota e f d a) := by
  simp only [vIota, hf, hg, Bool.not_true, Bool.false_eq_true, if_false]
  exact vElems_writes e g h

theorem intLane_writes {e : VEnv} {g : Fmt} {j : Instr} {d : Nat} {x : Nat → Nat} (hg : isInt g = true)
    (hf : vFmt e (selOf j) = some g) (h : ∀ k, intLane e g k j = some (d, x k)) : WritesElements e g d x (vecRes e j) := by
  have h0 := h 0
  unfold intLane at h0
  unfold vecRes
  split at h0
  case h_17 => cases h0
  all_goals dsimp only
  case h_14 => exact vPopcnt_writes (vFmt_selector hf rfl (by simp only [pack]; omega)) hg h
  case h_15 => exact vPopcnt_writes (vFmt_selector hf rfl (by simp only [pack]; omega)) hg h
  case h_16 => exact vIota_writes (vFmt_selector hf rfl (by simp only [pack]; omega)) hg h
  all_goals refine vInt_writes (vFmt_selector hf rfl (by simp only [pack]; omega)) hg fun k => .trans ?_ (h k)
  case h_9 | h_10 => rfl
  case h_11 =>
    simp only [natAbs_eq_ite]
    rfl
  all_goals
    simp only [intLane, intLane.x, intLane.y, intLane.shift, floorShift_eq, shiftAmount_intValue hg, Nat.cast_pow, Nat.cast_ofNat,
      pow_one]

/-! ### Bitwise words, selection, broadcast and slide -/

theorem vBitwise_writes {e : VEnv} {f d a b : Nat} {t : Nat → Nat → Nat} {g : Fmt} {d' : Nat} {x : Nat → Nat}
    (hf : vFmt e f = some g)
    (h : ∀ k, some (d, t (elemAt g (vSrc e a 1) k) (vB e g (vSrc e b 1) k)) = some (d', x k)) :
    WritesElements e g d' x (vBitwise e f d a b t) := by
  simp only [vBitwise, hf]
  exact vElems_writes e g h

theorem vSelect_writes {e : VEnv} {f d a b : Nat} {g : Fmt} {d' : Nat} {x : Nat → Nat} (hf : vFmt e f = some g)
    (h : ∀ k, some (d, if bit (getM e.c (e.cap.imm % 8)).toNat k then elemAt g (vSrc e a 1) k else vB e g (vSrc e b 1) k)
      = some (d', x k)) : WritesElements e g d' x (vSelect e f d a b) := by
  simp only [vSelect, hf]
  exact vElems_writes e g h

theorem vBcast_writes {e : VEnv} {f d b : Nat} {g : Fmt} {d' : Nat} {x : Nat → Nat} (hf : vFmt e f = some g)
    (h : ∀ k, some (d, vB e g (vSrc e b 1) (e.cap.imm % elemCount g)) = some (d', x k)) :
    WritesElements e g d' x (vBcast e f d b) := by
  simp only [vBcast, hf]
  exact vElems_writes e g h

theorem vSlide_writes {e : VEnv} {f d a b : Nat} {g : Fmt} {d' : Nat} {x : Nat → Nat} (hf : vFmt e f = some g)
    (h : ∀ k, some (d, if k + e.cap.imm < elemCount g then elemAt g (vSrc e a 1) (k + e.cap.imm)
      else if k + e.cap.imm < 2 * elemCount g then vB e g (vSrc e b 1) (k + e.cap.imm - elemCount g) else 0) = some (d', x k)) :
    WritesElements e g d' x (vSlide e f d a b) := by
  simp only [vSlide, hf]
  exact vElems_writes e g h

/-- The words on elements of every format (R196, R202, R203). -/
theorem anyLane_writes {e : VEnv} {g : Fmt} {j : Instr} {d : Nat} {x : Nat → Nat} (hf : vFmt e (selOf j) = some g)
    (h : ∀ k, anyLane e g k j = some (d, x k)) : WritesElements e g d x (vecRes e j) := by
  have h0 := h 0
  unfold anyLane at h0
  unfold vecRes
  split at h0
  case h_7 => cases h0
  all_goals dsimp only
  case h_1 | h_2 | h_3 => exact vBitwise_writes (vFmt_selector hf rfl (by simp only [pack]; omega)) h
  case h_4 => exact vSelect_writes (vFmt_selector hf rfl (by simp only [pack]; omega)) h
  case h_5 => exact vBcast_writes (vFmt_selector hf rfl (by simp only [pack]; omega)) h
  case h_6 => exact vSlide_writes (vFmt_selector hf rfl (by simp only [pack]; omega)) h

/-! ### Floating words -/

theorem vFloat_writes {e : VEnv} {f d a b : Nat} {t : Flt → Nat → FVal → FVal → FVal → Nat × Nat} {g : Flt} {d' : Nat} {x : Nat → Nat}
    (hf : vFmt e f = some (.flt g))
    (h : ∀ k, some (d, (t g k (fltValue g (elemAt (.flt g) (vSrc e a 1) k)) (fltValue g (vB e (.flt g) (vSrc e b 1) k))
      (fltValue g (elemAt (.flt g) (vOld e d 1) k))).1) = some (d', x k)) :
    WritesElements e (.flt g) d' x (vFloat e f d a b t) := by
  simp only [vFloat, hf]
  exact vElems_writes e (.flt g) h

/-- The words on floating elements (R197). -/
theorem floatLane_writes {e : VEnv} {g : Flt} {j : Instr} {d : Nat} {x : Nat → Nat} (hf : vFmt e (selOf j) = some (.flt g))
    (h : ∀ k, floatLane e g k j = some (d, x k)) : WritesElements e (.flt g) d x (vecRes e j) := by
  have h0 := h 0
  unfold floatLane at h0
  unfold vecRes
  split at h0
  case h_10 => cases h0
  all_goals
    dsimp only
    exact vFloat_writes (vFmt_selector hf rfl (by simp only [pack]; omega)) h

/-- A word that works element by element writes its elements under the mask (R194, R196, R197, R202, R203, R210). -/
theorem lane_writes {e : VEnv} {g : Fmt} {j : Instr} {d : Nat} {x : Nat → Nat} (hf : vFmt e (selOf j) = some g)
    (h : ∀ k, lane e g k j = some (d, x k)) : WritesElements e g d x (vecRes e j) := by
  have hnone : ∀ k, (anyLane e g k j).isSome = (anyLane e g 0 j).isSome := by
    intro k
    unfold anyLane
    split <;> rfl
  cases h0 : anyLane e g 0 j with
  | some y =>
    refine anyLane_writes hf fun k => ?_
    obtain ⟨z, hz⟩ := Option.isSome_iff_exists.mp ((hnone k).trans (congrArg Option.isSome h0))
    have hk := h k
    simp only [lane, hz] at hk
    rw [hz, hk]
  | none =>
    have hany : ∀ k, anyLane e g k j = none := fun k => by
      have := hnone k
      simpa [h0] using this
    simp only [lane, hany] at h
    cases g with
    | flt g => exact floatLane_writes hf h
    | bin => cases h 0
    | sint w | uint w => exact intLane_writes rfl hf h

end Sys2Proof.Machine
end

section
/-! SUPPORT. The order of values (R193, R201): the model compares by a signed sum of aligned significands, which is the order of the
numbers. -/

namespace Sys2Proof.Machine

open Sys2Proof.Claims

/-! ### Numbers -/

theorem ratOf_not (a : Bool) (m : Nat) (e : Int) : ratOf (!a) m e = -ratOf a m e := by
  cases a <;> simp [ratOf]

/-- A significand moved to a lower exponent is the same number. -/
theorem shiftTo_rat (m : Nat) {e e0 : Int} (h : e0 ≤ e) : (shiftTo m e e0 : Rat) * 2 ^ e0 = m * 2 ^ e := by
  have hexp : e = ((e - e0).toNat : Int) + e0 := by omega
  conv_rhs => rw [hexp, zpow_add₀ (by norm_num), zpow_natCast]
  rw [shiftTo]
  push_cast
  ring

/-- The signed sum of two significands is the sum of the numbers, in units of the lower exponent (R201). -/
theorem sumInt_rat (a : Bool) (m : Nat) (e : Int) (b : Bool) (n : Nat) (k : Int) :
    ((sumInt a m e b n k).1 : Rat) * 2 ^ min e k = ratOf a m e + ratOf b n k := by
  have hsign : ∀ (s : Bool) (x : Nat), (((if s then -(x : Int) else x) : Int) : Rat) = (if s then -1 else 1) * x := by
    intro s x
    cases s <;> simp
  have hx := shiftTo_rat m (min_le_left e k)
  have hy := shiftTo_rat n (min_le_right e k)
  simp only [sumInt, ratOf, Int.cast_add, hsign]
  linear_combination (if a then -1 else 1) * hx + (if b then -1 else 1) * hy

/-- The sign of the difference of two significands is that of the numbers'. -/
theorem sumInt_sub_rat (a : Bool) (m : Nat) (e : Int) (b : Bool) (n : Nat) (k : Int) :
    ((sumInt a m e (!b) n k).1 : Rat) * 2 ^ min e k = ratOf a m e - ratOf b n k := by
  rw [sumInt_rat, ratOf_not, sub_eq_add_neg]

/-- `fvLt` is the order of the numbers (R201). -/
theorem fvLt_eq {x y : FVal} (hx : fvIsNan x = false) (hy : fvIsNan y = false) : fvLt x y = fltBelow x y := by
  match x, y with
  | .nan, _ => cases hx
  | _, .nan => cases hy
  | .inf _, .inf _ | .inf _, .fin _ _ _ _ | .fin _ _ _ _, .inf _ => rfl
  | .fin a m e _, .fin b n k _ =>
    have hpow : (0 : Rat) < 2 ^ min e k := by positivity
    have hlt : (sumInt a m e (!b) n k).1 < 0 ↔ ratOf a m e < ratOf b n k := by
      rw [← sub_neg (a := ratOf a m e), ← sumInt_sub_rat, mul_neg_iff, or_iff_right (fun h => hpow.not_gt h.2), and_iff_left hpow, Int.cast_lt_zero]
    simp only [fvLt, fltBelow, hlt]

/-- `fvEq` is the equality of the numbers (R201). -/
theorem fvEq_eq (x y : FVal) : fvEq x y = fltSame x y := by
  match x, y with
  | .nan, _ | .inf _, .nan | .fin _ _ _ _, .nan | .inf _, .inf _ | .inf _, .fin _ _ _ _ | .fin _ _ _ _, .inf _ => rfl
  | .fin a m e _, .fin b n k _ =>
    have hpow : (2 : Rat) ^ min e k ≠ 0 := by positivity
    have heq : (sumInt a m e (!b) n k).1 = 0 ↔ ratOf a m e = ratOf b n k := by
      rw [← sub_eq_zero (a := ratOf a m e), ← sumInt_sub_rat, mul_eq_zero, or_iff_left hpow, Int.cast_eq_zero]
    simp only [fvEq, fltSame, heq]

/-- An integer is the number it stands for. -/
theorem ratOf_fvInt (x : Int) : ratOf (decide (x < 0)) x.natAbs 0 = x := by
  have habs : ((x.natAbs : Int) : Rat) = |(x : Rat)| := by rw [Int.natCast_natAbs, Int.cast_abs]
  rw [ratOf, ← Int.cast_natCast, habs]
  by_cases hx : x < 0
  · have hr : (x : Rat) < 0 := Int.cast_lt_zero.mpr hx
    simp [hx, abs_of_neg hr]
  · have hr : (0 : Rat) ≤ x := Int.cast_nonneg (not_lt.mp hx)
    simp [hx, abs_of_nonneg hr]

theorem fltBelow_fvInt (x y : Int) : fltBelow (fvInt x) (fvInt y) = decide (x < y) := by
  simp only [fltBelow, fvInt, ratOf_fvInt, Int.cast_lt]

theorem fltSame_fvInt (x y : Int) : fltSame (fvInt x) (fvInt y) = decide (x = y) := by
  simp only [fltSame, fvInt, ratOf_fvInt, Int.cast_inj]

/-! ### Elements -/

/-- The elements that a comparison looks at lie within the width of their values (R34). -/
theorem elemAt_lt (g : Fmt) (r i : Nat) : elemAt g r i < 2 ^ fmtW g := Nat.mod_lt _ (by positivity)

theorem vB_lt (e : VEnv) (g : Fmt) (r i : Nat) : vB e g r i < 2 ^ fmtW g := by
  unfold vB
  split
  · exact Nat.mod_lt _ (by positivity)
  · exact elemAt_lt g r i

/-- One element is below another when its value is (R193, R201). -/
theorem below_eq {g : Fmt} {x y : Nat} (hx : x < 2 ^ fmtW g) (hy : y < 2 ^ fmtW g) :
    below g x y = fltBelow (fmtValue g x) (fmtValue g y) := by
  cases g with
  | sint w => exact (fltBelow_fvInt _ _).symm
  | uint w => exact (fltBelow_fvInt _ _).symm
  | flt f => simp only [below, fmtValue, Nat.mod_eq_of_lt (show x < 2 ^ fltW f from hx), Nat.mod_eq_of_lt (show y < 2 ^ fltW f from hy)]
  | bin =>
    rw [fmtValue, fmtValue, fltBelow_fvInt, below]
    rcases Nat.mod_two_eq_zero_or_one x with h | h <;> rcases Nat.mod_two_eq_zero_or_one y with k | k <;> simp [h, k]

/-- Two elements are the same when their values are (R193, R201). -/
theorem same_eq {g : Fmt} {x y : Nat} (hx : x < 2 ^ fmtW g) (hy : y < 2 ^ fmtW g) :
    same g x y = fltSame (fmtValue g x) (fmtValue g y) := by
  cases g with
  | sint w => exact (fltSame_fvInt _ _).symm
  | uint w => exact (fltSame_fvInt _ _).symm
  | flt f => simp only [same, fmtValue, Nat.mod_eq_of_lt (show x < 2 ^ fltW f from hx), Nat.mod_eq_of_lt (show y < 2 ^ fltW f from hy)]
  | bin =>
    rw [fmtValue, fmtValue, fltSame_fvInt, same]
    rcases Nat.mod_two_eq_zero_or_one x with h | h <;> rcases Nat.mod_two_eq_zero_or_one y with k | k <;> simp [h, k]

/-- An element is a NaN when its value is. -/
theorem nanElem_eq {g : Fmt} {x : Nat} (hx : x < 2 ^ fmtW g) : nanElem g x = fvIsNan (fmtValue g x) := by
  cases g with
  | sint w | uint w | bin => rfl
  | flt f =>
    rw [nanElem, fmtValue, Nat.mod_eq_of_lt (show x < 2 ^ fltW f from hx)]
    cases fltValue f x <;> rfl

end Sys2Proof.Machine
end

section
/-! SUPPORT. The masks that compares and VMLOGIC give, and what VMPOPC and VMFIRST find in one (R201, R202). -/

namespace Sys2Proof.Machine

open Sys2Proof.Claims

/-! ### Comparisons -/

/-- A NaN is below no value and the same as none (R201). -/
theorem flt_of_anyNan {x y : FVal} (h : anyNan x y = true) : fltBelow x y = false ∧ fltSame x y = false := by
  match x, y with
  | .nan, _ | .inf _, .nan | .fin _ _ _ _, .nan => exact ⟨rfl, rfl⟩
  | .inf _, .inf _ | .inf _, .fin _ _ _ _ | .fin _ _ _ _, .inf _ | .fin _ _ _ _, .fin _ _ _ _ => cases h

/-- Neither of two values is a NaN. -/
theorem not_anyNan {x y : FVal} (h : anyNan x y = false) : fvIsNan x = false ∧ fvIsNan y = false := by
  simpa [anyNan] using h

section

variable {g : Fmt} {x y : Nat}

/-- VCMPEQ of two elements (R201). -/
theorem cmpOf_eq (hx : x < 2 ^ fmtW g) (hy : y < 2 ^ fmtW g) :
    cmpOf fvEq false false (fmtValue g x) (fmtValue g y) = (same g x y, b2n false) := by
  rw [same_eq hx hy, cmpOf]
  by_cases h : anyNan (fmtValue g x) (fmtValue g y) = true
  · rw [if_pos h, (flt_of_anyNan h).2]
    rfl
  · rw [if_neg h, fvEq_eq]
    rfl

/-- VCMPNE of two elements (R201). -/
theorem cmpOf_ne (hx : x < 2 ^ fmtW g) (hy : y < 2 ^ fmtW g) :
    cmpOf (fun x y => !fvEq x y) true false (fmtValue g x) (fmtValue g y) = (!same g x y, b2n false) := by
  rw [same_eq hx hy, cmpOf]
  by_cases h : anyNan (fmtValue g x) (fmtValue g y) = true
  · rw [if_pos h, (flt_of_anyNan h).2]
    rfl
  · rw [if_neg h, fvEq_eq]
    rfl

/-- VCMPLT of two elements (R201). -/
theorem cmpOf_lt (hx : x < 2 ^ fmtW g) (hy : y < 2 ^ fmtW g) :
    cmpOf fvLt false true (fmtValue g x) (fmtValue g y) = (below g x y, b2n (nanElem g x || nanElem g y)) := by
  rw [below_eq hx hy, nanElem_eq hx, nanElem_eq hy, cmpOf, ← anyNan]
  by_cases h : anyNan (fmtValue g x) (fmtValue g y) = true
  · rw [if_pos h, (flt_of_anyNan h).1, h]
    rfl
  · obtain ⟨hnx, hny⟩ := not_anyNan (Bool.eq_false_of_not_eq_true h)
    rw [if_neg h, fvLt_eq hnx hny, Bool.eq_false_of_not_eq_true h]
    rfl

/-- VCMPLE of two elements (R201). -/
theorem cmpOf_le (hx : x < 2 ^ fmtW g) (hy : y < 2 ^ fmtW g) :
    cmpOf fvLe false true (fmtValue g x) (fmtValue g y) = (below g x y || same g x y, b2n (nanElem g x || nanElem g y)) := by
  rw [below_eq hx hy, same_eq hx hy, nanElem_eq hx, nanElem_eq hy, cmpOf, ← anyNan]
  by_cases h : anyNan (fmtValue g x) (fmtValue g y) = true
  · rw [if_pos h, (flt_of_anyNan h).1, (flt_of_anyNan h).2, h]
    rfl
  · obtain ⟨hnx, hny⟩ := not_anyNan (Bool.eq_false_of_not_eq_true h)
    rw [if_neg h, fvLe, fvLt_eq hnx hny, fvEq_eq, Bool.eq_false_of_not_eq_true h]
    rfl

end

/-! ### Masks -/

/-- What a word with masking D writes to mask `d` (R194, R201, R202): each bit is `x` of its element, or 0 or the old bit, the bits past
the elements are 0, and a selected element that `nv` names sets NV. -/
def WritesMask (e : VEnv) (g : Fmt) (d : Nat) (x nv : Nat → Bool) (v : VRes) : Prop :=
  ∃ r, v = .ok ⟨.mask d r, b2n ((List.range (elemCount g)).any fun k => vActive e k && nv k), none, none⟩
    ∧ (∀ k, k < elemCount g → bit r k = if vActive e k then x k else if e.cap.zero then false else bit (getM e.c d).toNat k)
    ∧ ∀ k, elemCount g ≤ k → bit r k = false

theorem vBits_writes (e : VEnv) (g : Fmt) {d d' : Nat} {p q x nv : Nat → Bool} {res : Nat → Nat × Nat}
    (hres : ∀ k, res k = (b2n (p k), b2n (q k))) (h : ∀ k, some (d, p k, q k) = some (d', x k, nv k)) :
    WritesMask e g d' x nv (vBits e d (elemCount g) res) := by
  have hk := fun k => Prod.mk.inj (Option.some.inj (h k))
  obtain rfl := (hk 0).1
  obtain rfl : p = x := funext fun k => (Prod.mk.inj (hk k).2).1
  obtain rfl : q = nv := funext fun k => (Prod.mk.inj (hk k).2).2
  have hbit : ∀ b : Bool, (b2n b % 2 == 1) = b := by decide
  refine ⟨(maskLoop e 1 (getM e.c d).toNat res 0 (elemCount g)).1, ?_, fun k hk => ?_, fun k hk => ?_⟩
  · rw [List.range_eq_range', ← maskLoop_flag e 1 (getM e.c d).toNat fun k => congrArg Prod.snd (hres k)]
    rfl
  · have helem := maskLoop_elem e 1 (getM e.c d).toNat res 0 hk
    simp only [one_mul, pow_one, zero_add] at helem
    rw [bit, helem, maskedAt, hres]
    split_ifs
    · exact hbit _
    · rfl
    · simp [bit]
  · have hlt := maskLoop_lt e 1 (getM e.c d).toNat res 0 (elemCount g)
    rw [one_mul] at hlt
    rw [bit, Nat.div_eq_of_lt (hlt.trans_le (Nat.pow_le_pow_right (by decide) hk))]
    rfl

/-- A compare writes the bits and the flags that it gives for elements in their width (R201). -/
theorem vCompare_writes {e : VEnv} {f d a b : Nat} {t : FVal → FVal → Bool × Nat} {g : Fmt} {d' : Nat} {x nv : Nat → Bool}
    {p q : Nat → Nat → Bool} (hf : vFmt e f = some g)
    (ht : ∀ {u v}, u < 2 ^ fmtW g → v < 2 ^ fmtW g → t (fmtValue g u) (fmtValue g v) = (p u v, b2n (q u v)))
    (h : ∀ k, some (d, p (elemAt g (vSrc e a 1) k) (vB e g (vSrc e b 1) k), q (elemAt g (vSrc e a 1) k) (vB e g (vSrc e b 1) k))
      = some (d', x k, nv k)) : WritesMask e g d' x nv (vCompare e f d a b t) := by
  simp only [vCompare, hf]
  exact vBits_writes e g (fun k => by rw [ht (elemAt_lt g _ k) (vB_lt e g _ k)]) h

theorem vMlogic_writes {e : VEnv} {f d a b : Nat} {g : Fmt} {d' : Nat} {x nv : Nat → Bool} (hf : vFmt e f = some g)
    (h : ∀ k, some (d, bit e.cap.imm (2 * b2n (bit (getM e.c a).toNat k) + b2n (bit (getM e.c b).toNat k)), false)
      = some (d', x k, nv k)) : WritesMask e g d' x nv (vMlogic e f d a b) := by
  simp only [vMlogic, hf]
  exact vBits_writes e g (fun _ => rfl) h

/-- A compare or VMLOGIC writes its mask (R201, R202): one case for each word. -/
theorem maskLane_writes {e : VEnv} {g : Fmt} {j : Instr} {d : Nat} {x nv : Nat → Bool} (hf : vFmt e (selOf j) = some g)
    (h : ∀ k, maskLane e g k j = some (d, x k, nv k)) : WritesMask e g d x nv (vecRes e j) := by
  have h0 := h 0
  unfold maskLane at h0
  unfold vecRes
  split at h0
  case h_6 => cases h0
  all_goals dsimp only
  case h_1 => exact vCompare_writes (vFmt_selector hf rfl (by simp only [pack]; omega)) cmpOf_eq h
  case h_2 => exact vCompare_writes (vFmt_selector hf rfl (by simp only [pack]; omega)) cmpOf_ne h
  case h_3 => exact vCompare_writes (vFmt_selector hf rfl (by simp only [pack]; omega)) cmpOf_lt h
  case h_4 => exact vCompare_writes (vFmt_selector hf rfl (by simp only [pack]; omega)) cmpOf_le h
  case h_5 => exact vMlogic_writes (vFmt_selector hf rfl (by simp only [pack]; omega)) h

/-! ### Searches of a mask -/

/-- VMPOPC counts the bits of its mask that take part (R202). -/
theorem vMpopc_eq {e : VEnv} {f : Nat} {g : Fmt} (hf : vFmt e f = some g) (a : Nat) :
    vMpopc e f a = .ok ⟨.none, 0,
      some (((List.range (elemCount g)).filter fun k => vActive e k && bit (getM e.c a).toNat k).length), none⟩ := by
  simp only [vMpopc, hf, partIdx, List.filter_filter]
  simp only [Bool.and_comm]
  rfl

/-- The first number below `n` that satisfies a predicate, or `n`. -/
theorem find_range_getD (p : Nat → Bool) (n : Nat) :
    let m := ((List.range n).find? p).getD n
    (∀ k, k < m → k < n → p k = false) ∧ (m < n ∧ p m = true ∨ m = n) := by
  cases h : (List.range n).find? p with
  | none =>
    rw [List.find?_range_eq_none] at h
    exact ⟨fun k _ hk => by simpa using h k hk, .inr rfl⟩
  | some m =>
    rw [List.find?_range_eq_some] at h
    obtain ⟨hp, hm, hlt⟩ := h
    exact ⟨fun k hk _ => by simpa using hlt k hk, .inl ⟨List.mem_range.mp hm, hp⟩⟩

/-- VMFIRST finds the first bit of its mask that takes part (R202). -/
theorem vMfirst_eq {e : VEnv} {f : Nat} {g : Fmt} (hf : vFmt e f = some g) (a : Nat) :
    vMfirst e f a = .ok ⟨.none, 0,
      some (((List.range (elemCount g)).find? fun k => vActive e k && bit (getM e.c a).toNat k).getD (elemCount g)), none⟩ := by
  simp only [vMfirst, hf, partIdx, List.find?_filter, ← Bool.and_eq_true, Bool.decide_eq_true]
  rfl

end Sys2Proof.Machine
end

section

namespace Sys2Proof.Proofs

open Sys2Proof Sys2Proof.Machine

/-- Settles O13: the words on elements by the loop over the elements, the compares by the same loop over bits and the order of the
numbers, VMPOPC and VMFIRST by the list of the elements that take part. -/
theorem vectorElements : Obligations.VectorElements := by
  unfold Obligations.VectorElements
  exact ⟨fun e g j d x hf h => lane_writes hf h, fun e g j d x nv hf h => maskLane_writes hf h,
    fun e g z t f a hf => ⟨vMpopc_eq hf a.toNat, _, vMfirst_eq hf a.toNat, find_range_getD _ _⟩⟩

end Sys2Proof.Proofs
end

section
/-! SUPPORT. What the parts of an engine word's run leave alone (R87, R88): most change no context at all; those that do leave the
engines and the status of every context as they were. -/

namespace Sys2Proof.Machine

/-! ### Operations that leave every context alone -/

theorem foldl_ctxs {β : Type} {f : State → β → State} (h : ∀ s x, (f s x).ctxs = s.ctxs) (l : List β) (s : State) :
    (l.foldl f s).ctxs = s.ctxs := by
  induction l generalizing s with
  | nil => rfl
  | cons x r ih => exact (ih _).trans (h s x)

@[simp] theorem countCorr_ctxs (s : State) (sp : ErrSpace) (u a n : Nat) : (countCorr s sp u a n).ctxs = s.ctxs :=
  (countCorr_accessKeeps s sp u a n).ctxs

@[simp] theorem logUncorr_ctxs (s : State) (struct : Nat) (part : Option Nat) (core bank unit chan addr : Nat) :
    (logUncorr s struct part core bank unit chan addr).ctxs = s.ctxs :=
  (logUncorr_readKeeps s struct part core bank unit chan addr).ctxs

@[simp] theorem logOwn_ctxs (s : State) (a : AgentId) (struct addr : Nat) : (logOwn s a struct addr).ctxs = s.ctxs := by
  cases a <;> exact logUncorr_ctxs ..

@[simp] theorem logReg_ctxs (s : State) (a : AgentId) : (logReg s a).ctxs = s.ctxs := logOwn_ctxs s a 2 0

@[simp] theorem logCore_ctxs (s : State) (a : AgentId) (row : Nat) : (logCore s a row).ctxs = s.ctxs := logUncorr_ctxs ..

@[simp] theorem logMem_ctxs (s : State) (a : AgentId) (e : ErrMark) : (logMem s a e).ctxs = s.ctxs :=
  (logMemErr_readKeeps ..).ctxs

@[simp] theorem logDram_ctxs (s : State) (a : AgentId) (l : Loc) (n : Nat) : (logDram s a l n).ctxs = s.ctxs := by
  unfold logDram
  split
  · rfl
  · exact logMem_ctxs ..

@[simp] theorem l2Access_ctxs (s : State) (part : Option Nat) (pa m : Nat) (w pf : Bool) :
    (l2Access s part pa m w pf).ctxs = s.ctxs := (l2Access_readKeeps s part pa m w pf).ctxs

@[simp] theorem l2Hit_ctxs (s : State) (part : Option Nat) (pa m : Nat) (w : Bool) : (l2Hit s part pa m w).ctxs = s.ctxs :=
  (l2Hit_accessKeeps s part pa m w).ctxs

@[simp] theorem l2Errors_ctxs (s : State) (pa : Nat) : (l2Errors s pa).ctxs = s.ctxs := (l2Errors_accessKeeps s pa).ctxs

@[simp] theorem moveMarks_ctxs (old new : State) : (moveMarks old new).ctxs = new.ctxs := (moveMarks_accessKeeps old new).ctxs

@[simp] theorem l2Pieces_ctxs (s : State) (part : Option Nat) (m : Nat) (w : Bool) (ps : List (Loc × Nat)) :
    (l2Pieces s part m w ps).ctxs = s.ctxs := (l2Pieces_readKeeps s part m w ps).ctxs

@[simp] theorem xlate_ctxs (s : State) (cache p asid va : Nat) (kind : AccKind) (user : Bool) :
    (xlate s cache p asid va kind user).2.ctxs = s.ctxs := (xlate_readKeeps s cache p asid va kind user).ctxs

/-- The state that a translation answers. -/
theorem ctxs_of_xlate {s t : State} {cache p asid va : Nat} {kind : AccKind} {user : Bool} {x : Xlat}
    (h : xlate s cache p asid va kind user = (x, t)) : t.ctxs = s.ctxs := by
  rw [← xlate_ctxs s cache p asid va kind user, h]

@[simp] theorem locWrite_ctxs (s : State) (l : Loc) (bs : List Byte) : (locWrite s l bs).ctxs = s.ctxs :=
  (locWrite_accessKeeps s l bs).ctxs

@[simp] theorem piecesWrite_ctxs (s : State) (ps : List (Loc × Nat)) (bs : List Byte) : (piecesWrite s ps bs).ctxs = s.ctxs :=
  (piecesWrite_accessKeeps ps s bs).ctxs

@[simp] theorem padWrite_ctxs (s : State) (a : AgentId) (off : Nat) (bs : List Byte) : (padWrite s a off bs).ctxs = s.ctxs :=
  (padWrite_frame s a off bs).1

@[simp] theorem dropLines_ctxs (s : State) (own : Option Nat) (ps : List (Loc × Nat)) : (dropLines s own ps).ctxs = s.ctxs := by
  cases own with
  | none => rfl
  | some k =>
    unfold dropLines
    dsimp only
    split <;> rfl

@[simp] theorem dcRenew_ctxs (s : State) (key : Nat) (l : Loc) (n : Nat) : (dcRenew s key l n).ctxs = s.ctxs := by
  have hf : ∀ c pa k, (dcFresh s c pa k).ctxs = s.ctxs := fun c pa k => by
    unfold dcFresh
    split <;> rfl
  have ht : ∀ (t : State) c pa k, (noteTook t c pa k).ctxs = t.ctxs := fun t c pa k => by
    unfold noteTook
    split <;> rfl
  unfold dcRenew
  dsimp only
  split
  · exact (ht ..).trans (hf ..)
  · rfl

@[simp] theorem noteSaw_ctxs (s : State) (key : Nat) (l : Loc) (n : Nat) : (noteSaw s key l n).ctxs = s.ctxs := by
  unfold noteSaw
  split <;> rfl

@[simp] theorem tookBytes_ctxs (s : State) (own : Option Nat) (ps : List (Loc × Nat)) : (tookBytes s own ps).ctxs = s.ctxs := by
  cases own with
  | none => rfl
  | some k => exact foldl_ctxs (fun s x => (noteSaw_ctxs ..).trans (dcRenew_ctxs ..)) ps s

@[simp] theorem engInval_ctxs (a : AgentId) (ps : List (Loc × Nat)) (s : State) : (engInval s a ps).ctxs = s.ctxs := by
  induction ps generalizing s with
  | nil => rfl
  | cons x r ih => exact (ih _).trans (dropLines_ctxs ..)

@[simp] theorem engPieces_ctxs (a : AgentId) (e : Engine) (kind : AccKind) (long : Bool) (ps : List (Nat × Nat)) (s : State) :
    (engPieces s a e kind long ps).2.2.2.2.ctxs = s.ctxs := by
  induction ps generalizing s with
  | nil => rfl
  | cons x r ih =>
    have hx := xlate_ctxs s (engineTlb a (chainPos e)) (getCtx s a).life.part (getCtx s a).life.asid x.1 kind true
    have hr := (ih (xlate s (engineTlb a (chainPos e)) (getCtx s a).life.part (getCtx s a).life.asid x.1 kind true).2).trans hx
    unfold engPieces
    dsimp only
    split <;> cases long <;> simp [*]

@[simp] theorem addOp_ctxs (s : State) (o : Op) : (addOp s o).2.ctxs = s.ctxs := rfl

@[simp] theorem updMember_ctxs (s : State) (key core : Nat) (f : Member → Member) : (updMember s key core f).ctxs = s.ctxs := rfl

@[simp] theorem updFrame_ctxs (s : State) (pa : Nat) (f : L2Frame → L2Frame) : (updFrame s pa f).ctxs = s.ctxs := by
  unfold updFrame
  dsimp only
  split <;> rfl

@[simp] theorem flushLine_ctxs (inv : Bool) (s : State) (pa : Nat) : (flushLine inv s pa).ctxs = s.ctxs := by
  unfold flushLine
  dsimp only
  split
  · exact l2Errors_ctxs s pa
  · rw [moveMarks_ctxs]
    split
    · exact l2Errors_ctxs s pa
    · exact (updFrame_ctxs ..).trans (l2Errors_ctxs s pa)

@[simp] theorem rangePlaces_ctxs (s : State) (a : AgentId) (e : Engine) (va len : Nat) :
    (rangePlaces s a e va len).2.ctxs = s.ctxs := by
  unfold rangePlaces
  dsimp only
  refine List.foldlRecOn (motive := fun x : List (Loc × Nat) × State => x.2.ctxs = s.ctxs) _ _ rfl fun x hx p _ => ?_
  split <;> (rename_i hu; exact (ctxs_of_xlate hu).trans hx)

/-! ### Operations that leave the engines of every context alone -/

/-- No engine of any context and no context's status has changed. -/
structure SameEngines (s t : State) : Prop where
  engine : ∀ a e, getE (getCtx t a).eng e = getE (getCtx s a).eng e
  status : ∀ a, (getCtx t a).life.status = (getCtx s a).life.status

namespace SameEngines
variable {s t u : State}

theorem refl (s : State) : SameEngines s s := ⟨fun _ _ => rfl, fun _ => rfl⟩

theorem trans (h : SameEngines s t) (k : SameEngines t u) : SameEngines s u :=
  ⟨fun a e => (k.engine a e).trans (h.engine a e), fun a => (k.status a).trans (h.status a)⟩

theorem of_ctxs (h : t.ctxs = s.ctxs) : SameEngines s t := by
  constructor <;> simp only [getCtx, h, implies_true]

/-- One context changes, but neither its engines nor its status. -/
theorem setCtx {a : AgentId} {c : Ctx} (he : ∀ e, getE c.eng e = getE (getCtx s a).eng e)
    (hl : c.life.status = (getCtx s a).life.status) : SameEngines s (setCtx s a c) := by
  have hc : ∀ b, getCtx s b = getCtx s a ∧ getCtx (Machine.setCtx s a c) b = c
      ∨ getCtx (Machine.setCtx s a c) b = getCtx s b := fun b => by
    by_cases h : ctxKey b = ctxKey a
    · have hb : ∀ t : State, getCtx t b = getCtx t a := fun t => by simp only [getCtx, h]
      exact .inl ⟨hb s, (hb _).trans (getCtx_setCtx s a c)⟩
    · exact .inr (getCtx_setCtx_other s c h)
  constructor
  · intro b e
    obtain ⟨hb, hn⟩ | hb := hc b
    · rw [hn, hb, he]
    · rw [hb]
  · intro b
    obtain ⟨hb, hn⟩ | hb := hc b
    · rw [hn, hb, hl]
    · rw [hb]

/-- One context is changed, but neither its engines nor its status. -/
theorem updCtx {a : AgentId} {f : Ctx → Ctx} (he : ∀ c e, getE (f c).eng e = getE c.eng e)
    (hl : ∀ c, (f c).life.status = c.life.status) : SameEngines s (updCtx s a f) := setCtx (he _) (hl _)

theorem foldl {β : Type} {f : State → β → State} (h : ∀ s x, SameEngines s (f s x)) (l : List β) (s : State) :
    SameEngines s (l.foldl f s) := by
  induction l generalizing s with
  | nil => exact refl s
  | cons x r ih => exact (h s x).trans (ih _)

end SameEngines

@[simp] theorem setGroup_eng (k : Nat) (c : Ctx) (r x : Nat) : (setGroup c r x k).eng = c.eng := by
  induction k generalizing c r x with
  | zero => rfl
  | succ k ih => exact (ih _ _ _).trans (setV_eng ..)

@[simp] theorem setGroup_life (k : Nat) (c : Ctx) (r x : Nat) : (setGroup c r x k).life = c.life := by
  induction k generalizing c r x with
  | zero => rfl
  | succ k ih => exact (ih _ _ _).trans (setV_life ..)

theorem applyDest_sameEngines (d : VDest) (s : State) (a : AgentId) : SameEngines s (applyDest d s a) := by
  cases d with
  | none => exact .refl s
  | regs r k x =>
    unfold applyDest
    dsimp only
    split
    · exact .refl s
    · refine .trans ?_ (.updCtx (by simp) (by simp))
      split
      · exact .refl s
      · exact .of_ctxs (clearMarks_ctxs ..)
  | mask r x =>
    unfold applyDest
    exact .updCtx (by simp) (by simp)
  | row t i x =>
    unfold applyDest
    exact .updCtx (by simp) (by simp)

theorem settleAcc_ctxs (e : VEnv) (i : Instr) (s : State) (a : AgentId) : (settleAcc e i s a).ctxs = s.ctxs := by
  unfold settleAcc
  split
  · exact countCorr_ctxs ..
  · refine (foldl_ctxs (fun s k => clearMarks_ctxs ..) _ _).trans ?_
    split <;> rfl
  · rfl

/-! ### The tiles of the matrix engine -/

theorem setTile_sameEngines (s : State) (a : AgentId) (t : Nat) (rows : List (List Nat)) : SameEngines s (setTile s a t rows) := by
  have h : ∀ c : Ctx, let d := rows.zipIdx.foldl (fun c x => setAccRow c t x.2 (rowReg x.1)) c
      d.eng = c.eng ∧ d.life = c.life := fun c =>
    List.foldlRecOn (motive := fun d : Ctx => d.eng = c.eng ∧ d.life = c.life) _ _ ⟨rfl, rfl⟩ fun d hd x _ => hd
  exact .updCtx (fun c e => by rw [(h c).1]) fun c => by rw [(h c).2]

theorem freshAcc_ctxs (s : State) (a : AgentId) (t rows cols : Nat) : (freshAcc s a t rows cols).ctxs = s.ctxs := by
  unfold freshAcc
  split
  · rfl
  · exact foldl_ctxs (fun s i => clearMarks_ctxs ..) _ _

theorem putTile_sameEngines (s : State) (a : AgentId) (t : Nat) (rows : List (List Nat)) : SameEngines s (putTile s a t rows) :=
  .trans (.of_ctxs (freshAcc_ctxs ..)) (setTile_sameEngines ..)

theorem readAcc_sameEngines (s : State) (a : AgentId) (t rows cols : Nat) (clear : Bool) :
    SameEngines s (readAcc s a t rows cols clear).2 := by
  unfold readAcc
  split
  · exact .of_ctxs (foldl_ctxs (fun s i => countCorr_ctxs ..) _ _)
  · have h : SameEngines s (logCore s a 3) := .of_ctxs (logCore_ctxs ..)
    cases clear with
    | true => exact h.trans (putTile_sameEngines ..)
    | false => exact h

/-! ### What a word's run settles at its end -/

theorem settleLine_sameEngines (a : AgentId) (e : Engine) (lines : List Nat) (s : State) (x : Nat × Nat × Bool) :
    SameEngines s (settleLine a e lines s x) := by
  unfold settleLine
  dsimp only
  split
  · split
    · exact .of_ctxs (l2Hit_ctxs ..)
    · exact .refl s
  · refine .trans ?_ (.of_ctxs (l2Access_ctxs ..))
    split
    · exact .setCtx (fun _ => rfl) rfl
    · exact .refl s

theorem settleL2_sameEngines (r : ERun) : SameEngines r.s (settleL2 r).s :=
  .foldl (settleLine_sameEngines r.a r.e r.lines) _ _

theorem settleRegs_ctxs (s : State) (a : AgentId) (w : QWord) : (settleRegs s a w).ctxs = s.ctxs :=
  (foldl_ctxs (fun _ _ => clearMarks_ctxs ..) _ _).trans (foldl_ctxs (fun _ _ => countCorr_ctxs ..) _ _)

/-! ### The withdrawal of a tag -/

theorem devWrite_ctxs {s t : State} {cache p asid va : Nat} {bs : List Byte} {user : Bool} {mark : Nat}
    (h : devWrite s cache p asid va bs user mark = .ok t) : t.ctxs = s.ctxs := (devWrite_accessKeeps h).ctxs

theorem devWrite_error_ctxs {s t : State} {cache p asid va : Nat} {bs : List Byte} {user : Bool} {mark : Nat} {x : Xlat}
    (h : devWrite s cache p asid va bs user mark = .error (x, t)) : t.ctxs = s.ctxs := by
  unfold devWrite at h
  split at h
  · cases h
  · rename_i hv
    cases h
    exact ((sysPieces_readKeeps ..).of_answer hv).ctxs

@[simp] theorem itemWrite_ctxs (s : State) (p asid va : Nat) (bs : List Byte) : (itemWrite s p asid va bs).ctxs = s.ctxs := by
  unfold itemWrite
  split
  · exact devWrite_ctxs ‹_›
  · exact devWrite_error_ctxs ‹_›

@[simp] theorem reportItem_ctxs (s : State) (p asid : Nat) (d : StageDesc) (sa st obj : Nat) :
    (reportItem s p asid d sa st obj).ctxs = s.ctxs := by
  have hr := devReadS_readKeeps s sysTlb p asid sa 64 true
  unfold reportItem
  split
  · exact (hr.of_answer ‹_›).ctxs
  · rename_i hu
    have ht := (hr.of_answer hu).ctxs
    extract_lets res n
    split
    · split
      · exact (itemWrite_ctxs ..).trans ht
      · exact ht
    · split
      · split
        · exact (itemWrite_ctxs ..).trans ((itemWrite_ctxs ..).trans ht)
        · exact ht
      · exact ht

theorem keepPromo_ctxs {write : State → State} (h : ∀ s, (write s).ctxs = s.ctxs) (s : State) (l : Loc) (amop : Bool) :
    (keepPromo s l amop write).ctxs = s.ctxs := by
  unfold keepPromo
  split <;> exact h s

@[simp] theorem devAdd_ctxs (s : State) (cache p asid va : Nat) (x : Word) (own : Option Nat) :
    (devAdd s cache p asid va x own).ctxs = s.ctxs := by
  unfold devAdd
  split
  · rfl
  · split
    · rename_i t ht
      have ht := ctxs_of_xlate ht
      split
      · exact (l2Pieces_ctxs ..).trans (((logMemErr_readKeeps ..).ctxs).trans ht)
      · dsimp only
        rw [l2Pieces_ctxs, dropLines_ctxs, keepPromo_ctxs fun _ => locWrite_ctxs .., tookBytes_ctxs, ht]
    · rename_i ht
      exact ctxs_of_xlate ht

@[simp] theorem addDone_ctxs (s : State) (p inst stage : Nat) : (addDone s p inst stage).ctxs = s.ctxs := by
  unfold addDone
  split
  · split
    · rfl
    · exact devAdd_ctxs ..
  · rfl

@[simp] theorem removeItem_ctxs (s : State) (p : Nat) (x : Item) : (removeItem s p x).ctxs = s.ctxs :=
  (updPart_ctxs ..).trans (addDone_ctxs ..)

@[simp] theorem removeCommand_ctxs (s : State) (p : Nat) (x : Item) : (removeCommand s p x).ctxs = s.ctxs := by
  have hd : (dropItem s p x.id).ctxs = s.ctxs := updPart_ctxs ..
  unfold removeCommand
  dsimp only
  split
  · exact (devAdd_ctxs ..).trans ((reportItem_ctxs ..).trans hd)
  · exact hd

@[simp] theorem appendTrapRing_ctxs (s : State) (p : Nat) (rcd : List Byte) : (appendTrapRing s p rcd).ctxs = s.ctxs := by
  unfold appendTrapRing
  extract_lets tail head size lost
  have hl : ∀ t, (lost t).ctxs = t.ctxs := fun t => setPreg_ctxs ..
  split
  · exact hl s
  · split
    · exact (hl _).trans (devWrite_error_ctxs ‹_›)
    · exact ((raiseIrq_accessKeeps ..).ctxs).trans ((setPreg_ctxs ..).trans (devWrite_ctxs ‹_›))

@[simp] theorem retireItem_ctxs (s : State) (p id : Nat) : (retireItem s p id).ctxs = s.ctxs := by
  unfold retireItem
  split
  · rfl
  · exact (updPart_ctxs ..).trans ((addDone_ctxs ..).trans (updPart_ctxs ..))

@[simp] theorem haltItem_ctxs (s : State) (p id cause va : Nat) (a : AgentId) : (haltItem s p id cause va a).ctxs = s.ctxs := by
  unfold haltItem
  split
  · rfl
  · exact (retireItem_ctxs ..).trans (appendTrapRing_ctxs ..)

@[simp] theorem storeRecord_ctxs (s : State) (p id : Nat) : (storeRecord s p id).ctxs = s.ctxs := by
  unfold storeRecord
  split
  · rfl
  · split
    · split
      · exact devWrite_ctxs ‹_›
      · exact (haltItem_ctxs ..).trans (devWrite_error_ctxs ‹_›)
    · split
      · exact haltItem_ctxs ..
      · exact updPart_ctxs ..

@[simp] theorem cancelSuspended_ctxs (s : State) (p id : Nat) (st : ItemState → ItemState) :
    (cancelSuspended s p id st).ctxs = s.ctxs := (storeRecord_ctxs ..).trans (updItem_ctxs ..)

theorem updLife_sameEngines (s : State) (a : AgentId) {f : Life → Life} (h : ∀ l, (f l).status = l.status) :
    SameEngines s (updLife s a f) := .updCtx (fun _ _ => rfl) fun c => h c.life

theorem withdrawItem_sameEngines (s : State) (p : Nat) (x : Item) : SameEngines s (withdrawItem s p x).2 := by
  unfold withdrawItem
  split
  · exact .of_ctxs (removeItem_ctxs ..)
  · split
    · exact .of_ctxs (removeItem_ctxs ..)
    · exact .of_ctxs (cancelSuspended_ctxs ..)
  · exact updLife_sameEngines (f := fun l => { l with withdrawn := true }) s _ fun _ => rfl
  · refine .of_ctxs ?_
    dsimp only
    rw [cancelSuspended_ctxs, updItem_ctxs]
  · exact .of_ctxs (cancelSuspended_ctxs ..)
  · exact .of_ctxs (removeCommand_ctxs ..)

theorem withdrawItems_sameEngines (p : Nat) (l : List Item) (n : Nat × Nat) (s : State) :
    SameEngines s (withdrawItems p l (n, s)).2 := by
  induction l generalizing n s with
  | nil => exact .refl s
  | cons x r ih => exact (withdrawItem_sameEngines s p x).trans (ih _ _)

theorem withdrawTag_sameEngines (s : State) (p : Nat) (tag : BitVec 32) : SameEngines s (withdrawTag s p tag).2 :=
  (withdrawItems_sameEngines p _ (0, 0) s).trans (.of_ctxs (updPart_ctxs ..))

end Sys2Proof.Machine
end

section
/-! SUPPORT. The programs of engine words leave the engines and the status of every context alone (R87, R88): a word leaves its
queue and its engine only by its start and its completion. One lemma for each way to put programs together and each single step; then a
lemma for each word, whose proof follows the word's program step by step. -/

namespace Sys2Proof.Machine

/-- A program of an engine word leaves the engines and the status of every context alone. -/
structure Keeps {α : Type} (x : EM α) : Prop where
  run : ∀ r : ERun, SameEngines r.s (x.run r).2.s

namespace Keeps
variable {α β γ : Type}

/-! ### How programs are put together -/

@[simp] theorem pure (a : α) : Keeps (Pure.pure a : EM α) := ⟨fun r => .refl r.s⟩

@[simp] theorem bind {x : EM α} {f : α → EM β} (hx : Keeps x) (hf : ∀ a, Keeps (f a)) : Keeps (x >>= f) := by
  constructor
  intro r
  have h := hx.run r
  change SameEngines r.s ((ExceptT.bindCont f (x.run r).1).run (x.run r).2).2.s
  match hrun : x.run r with
  | (.ok a, r') =>
    rw [hrun] at h
    exact h.trans ((hf a).run r')
  | (.error e, r') =>
    rw [hrun] at h
    exact h

@[simp] theorem ite {c : Prop} [Decidable c] {x y : EM α} (hx : Keeps x) (hy : Keeps y) : Keeps (if c then x else y) := by
  split
  · exact hx
  · exact hy

/-- Two branches that go on alike. -/
theorem ite_bind {c : Prop} [Decidable c] {x y : EM α} {k : α → EM β} (hx : Keeps x) (hy : Keeps y) (hk : ∀ a, Keeps (k a)) :
    Keeps (if c then x >>= k else y >>= k) := .ite (.bind hx hk) (.bind hy hk)

/-- A step made on a condition, and what follows. -/
theorem when_bind {c : Prop} [Decidable c] {x : EM PUnit} {k : PUnit → EM β} (hx : Keeps x) (hk : ∀ u, Keeps (k u)) :
    Keeps (if c then x >>= k else k ⟨⟩) := .ite (.bind hx hk) (hk ⟨⟩)

/-- Two steps made on a condition, and what follows. -/
theorem when_bind₂ {c : Prop} [Decidable c] {x y : EM PUnit} {k : PUnit → EM β} (hx : Keeps x) (hy : Keeps y)
    (hk : ∀ u, Keeps (k u)) : Keeps (if c then x >>= fun _ => y >>= k else k ⟨⟩) :=
  .ite (.bind hx fun _ => .bind hy hk) (hk ⟨⟩)

@[simp] theorem map {x : EM α} (f : α → β) (hx : Keeps x) : Keeps (f <$> x) := by
  rw [map_eq_pure_bind]
  exact .bind hx fun _ => .pure _

@[simp] theorem forM {l : List γ} {f : γ → EM PUnit} (h : ∀ x, Keeps (f x)) : Keeps (ForM.forM l f) := by
  induction l with
  | nil => exact .pure _
  | cons x r ih => exact .bind (h x) fun _ => ih

@[simp] theorem mapM {l : List γ} {f : γ → EM β} (h : ∀ x, Keeps (f x)) : Keeps (l.mapM f) := by
  induction l with
  | nil =>
    rw [List.mapM_nil]
    exact .pure _
  | cons x r ih =>
    rw [List.mapM_cons]
    exact .bind (h x) fun _ => .bind ih fun _ => .pure _

/-! ### The single steps -/

@[simp] theorem halt (x : Stop) : Keeps (Machine.halt x : EM α) := ⟨fun r => .refl r.s⟩

@[simp] theorem get : Keeps (MonadState.get : EM ERun) := ⟨fun r => .refl r.s⟩

/-- A program that goes on from the state it has looked at. -/
theorem get_bind {f : ERun → EM β} (h : ∀ r, SameEngines r.s ((f r).run r).2.s) : Keeps (MonadState.get >>= f) := ⟨h⟩

@[simp] theorem modifyRun {f : ERun → ERun} (h : ∀ r, SameEngines r.s (f r).s) : Keeps (modify f : EM PUnit) := ⟨h⟩

@[simp] theorem look (f : State → AgentId → Ctx → α) : Keeps (Machine.look f) := .bind .get fun _ => .pure _

@[simp] theorem capture : Keeps Machine.capture := .bind .get fun _ => .pure _

theorem access {f : ERun → Except Stop (List Byte) × ERun} (h : ∀ r, SameEngines r.s (f r).2.s) :
    Keeps (Machine.access f) := by
  constructor
  intro r
  have hr := h r
  have hrun : (Machine.access f).run r = match r.replay with
    | x :: rest => (.ok x, { r with replay := rest, log := x :: r.log })
    | [] =>
      match f r with
      | (.ok x, r) => (.ok x, { r with log := x :: r.log })
      | (.error e, r) => (.error e, r) := rfl
  rw [hrun]
  split
  · exact .refl r.s
  · split
    · rename_i heq
      rwa [heq] at hr
    · rename_i heq
      rwa [heq] at hr

theorem eff {f : State → AgentId → State} (h : ∀ s a, SameEngines s (f s a)) : Keeps (Machine.eff f) :=
  .bind (.access fun r => h r.s r.a) fun _ => .pure _

@[simp] theorem check (bad : Bool) (cause : Nat) (va det : Word) : Keeps (Machine.check bad cause va det) :=
  .bind .get fun _ => .ite (.halt _) (.pure _)

@[simp] theorem chkFormat (bad : Bool) : Keeps (Machine.chkFormat bad) := .bind .get fun _ => .check ..

@[simp] theorem chkIllop (bad : Bool) : Keeps (Machine.chkIllop bad) := .bind .get fun _ => .check ..

@[simp] theorem chkAlign (x unit : Nat) : Keeps (Machine.chkAlign x unit) := .check ..

@[simp] theorem chkMul (x unit : Nat) : Keeps (Machine.chkMul x unit) := .check ..

@[simp] theorem chkCtr : Keeps Machine.chkCtr := .bind .get fun _ => .ite (.chkAlign ..) (.pure _)

@[simp] theorem chkScratch (off n : Nat) : Keeps (Machine.chkScratch off n) := .bind (.look _) fun win => by
  split
  · exact .check ..
  · exact .pure _

@[simp] theorem chkRing (bad : Bool) (n : Nat) : Keeps (Machine.chkRing bad n) := .check ..

@[simp] theorem chkUsable (n : Nat) : Keeps (Machine.chkUsable n) := .bind (.look _) fun _ => .chkRing ..

@[simp] theorem waitStart (ready : Bool) (h : Hold) : Keeps (Machine.waitStart ready h) :=
  .bind .get fun _ => .ite (.halt _) (.pure _)

@[simp] theorem waitHere (ready : State → AgentId → Ctx → Bool) (h : Hold) : Keeps (Machine.waitHere ready h) :=
  .bind (.access fun r => by split <;> exact .refl r.s) fun _ => .pure _

@[simp] theorem begin_ : Keeps Machine.begin_ :=
  .bind .get fun _ => .when_bind (.halt _) fun _ => .modifyRun fun r => .refl r.s

@[simp] theorem atStart : Keeps Machine.atStart := .bind .get fun _ => .ite (.halt _) (.pure _)

@[simp] theorem reserve (r1 r2 r3 : RingOwe) : Keeps (Machine.reserve r1 r2 r3) := .modifyRun fun r => .refl r.s

@[simp] theorem lookOnce (f : State → AgentId → Ctx → Nat) : Keeps (Machine.lookOnce f) :=
  .bind (.access fun r => .refl r.s) fun _ => .pure _

/-! ### Accesses of the scratchpad and of memory -/

@[simp] theorem readPad (off n : Nat) : Keeps (Machine.readPad off n) := .access fun r => by
  split
  · rename_i q hq
    unfold badPad at hq
    dsimp only at hq
    split at hq
    · cases hq
    · cases hq
      exact .of_ctxs (logUncorr_ctxs ..)
  · exact .of_ctxs (countCorr_ctxs ..)

@[simp] theorem writePad (off : Nat) (bs : List Byte) : Keeps (Machine.writePad off bs) :=
  .eff fun s a => .of_ctxs (padWrite_ctxs s a off bs)

@[simp] theorem readRing (n slot bytes : Nat) : Keeps (Machine.readRing n slot bytes) :=
  .bind (.look _) fun _ => .bind (.mapM fun _ => .readPad ..) fun _ => .pure _

theorem memAccess (va n off : Nat) (kind : AccKind) {go : ERun → List (Loc × Nat) → Except Stop (List Byte) × ERun}
    (h : ∀ r ls, SameEngines r.s (go r ls).2.s) : Keeps (Machine.memAccess va n off kind go) := .access fun r => by
  have hp := fun long => engPieces_ctxs r.a r.e kind long (pagePieces va (pieceFuel n) n) r.s
  split
  · exact .refl r.s
  · split
    · exact .refl r.s
    · split
      · dsimp only
        split
        · exact .of_ctxs rfl
        · exact .refl r.s
      · extract_lets ps
        split
        rename_i ls bad forb sil t ht
        have ht : SameEngines r.s t := .of_ctxs (by rw [← hp, ht])
        dsimp only
        split
        · exact ht
        · split
          · exact ht
          · split
            · exact ht
            · exact ht.trans (h { r with s := t } ls)

@[simp] theorem readMem (va n off mark : Nat) : Keeps (Machine.readMem va n off mark) := .memAccess _ _ _ _ fun r ls => by
  dsimp only
  split
  · exact .of_ctxs (tookBytes_ctxs ..)
  · split <;> exact .of_ctxs (logDram_ctxs ..)

@[simp] theorem writeMem (va : Nat) (bs : List Byte) (off mark : Nat) : Keeps (Machine.writeMem va bs off mark) :=
  .bind (.memAccess _ _ _ _ fun _ _ => .of_ctxs ((engInval_ctxs ..).trans (piecesWrite_ctxs ..))) fun _ => .pure _

@[simp] theorem probeMem (va n : Nat) (kind : AccKind) : Keeps (Machine.probeMem va n kind) :=
  .bind (.memAccess _ _ _ _ fun r _ => .refl r.s) fun _ => .pure _

@[simp] theorem probeSeq (va n : Nat) (kind : AccKind) : Keeps (Machine.probeSeq va n kind) :=
  .bind .get fun _ => .ite (.probeMem ..) (.pure _)

@[simp] theorem probeSkip (va n : Nat) : Keeps (Machine.probeSkip va n) :=
  .bind .get fun _ => .ite (.forM fun _ => .bind (.access fun r => by
    split
    · exact .refl r.s
    · dsimp only
      split <;> (rename_i hx; exact .of_ctxs (ctxs_of_xlate hx))) fun _ => .pure _) (.pure _)

@[simp] theorem readLong (va n mark off : Nat) : Keeps (Machine.readLong va n mark off) :=
  .bind (.mapM fun _ => .readMem ..) fun _ => .pure _

@[simp] theorem writeLong (va : Nat) (bs : List Byte) (mark off : Nat) : Keeps (Machine.writeLong va bs mark off) :=
  .forM fun _ => .writeMem ..

/-! ### The words of the load and store engines -/

@[simp] theorem pitchAt (off : Nat) (col : Bool) : Keeps (Machine.pitchAt off col) := by
  unfold Machine.pitchAt
  refine .ite ?_ (.pure _)
  repeat refine .bind (by simp) fun _ => ?_
  exact .pure _

@[simp] theorem chkUnits (off n : Nat) (col : Bool) : Keeps (Machine.chkUnits off n col) := by
  unfold Machine.chkUnits
  repeat refine .bind (by simp) fun _ => ?_
  exact .pure _

@[simp] theorem loadUnits (va off hint : Nat) (us : List Nat) : Keeps (Machine.loadUnits va off hint us) :=
  .forM fun _ => .bind (.readMem ..) fun _ => .writePad ..

@[simp] theorem storeUnits (va off hint : Nat) (us : List Nat) : Keeps (Machine.storeUnits va off hint us) :=
  .forM fun _ => .bind (.readPad ..) fun _ => .writeMem ..

theorem copyOp (load col : Bool) : Keeps (Machine.copyOp load col) := by
  unfold Machine.copyOp
  repeat refine .bind (by simp) fun _ => ?_
  exact .ite_bind (.loadUnits ..) (.storeUnits ..) fun _ => .pure _

@[simp] theorem chkOffset (y : Int) : Keeps (Machine.chkOffset y) := .check ..

@[simp] theorem goOps (load : Bool) (hint : Nat) (l : List (Nat × List Nat)) (off : Nat) :
    Keeps (Machine.goOps load hint off l) := by
  induction l generalizing off with
  | nil => exact .pure _
  | cons x r ih =>
    unfold Machine.goOps
    exact .ite_bind (.loadUnits ..) (.storeUnits ..) fun _ => ih _

theorem goOp (load col : Bool) : Keeps (Machine.goOp load col) := by
  unfold Machine.goOp
  iterate 5 refine .bind (by simp) fun _ => ?_
  refine .bind (.mapM fun _ => .bind (.chkOffset _) fun _ => .bind (.chkUnits ..) fun _ => .pure _) fun _ => ?_
  repeat refine .bind (by simp) fun _ => ?_
  exact .pure _

@[simp] theorem appendQin (us : List Nat) : Keeps (Machine.appendQin us) :=
  .bind (by simp) fun _ => .bind (by simp) fun _ => .eff fun _ _ => .updCtx (fun _ _ => rfl) fun _ => rfl

theorem lqOp (col : Bool) : Keeps (Machine.lqOp col) := by
  unfold Machine.lqOp
  repeat refine .bind (by simp) fun _ => ?_
  exact .pure _

theorem lqxOp : Keeps Machine.lqxOp := by
  unfold Machine.lqxOp
  repeat refine .bind (by simp) fun _ => ?_
  exact .pure _

@[simp] theorem takeQout : Keeps Machine.takeQout :=
  .bind (.waitHere ..) fun _ => .access fun _ => by
    dsimp only
    exact .updCtx (fun _ _ => rfl) fun _ => rfl

theorem sqOp (sp : Bool) : Keeps (Machine.sqOp sp) := by
  unfold Machine.sqOp
  repeat refine .bind (by simp) fun _ => ?_
  refine .ite_bind (.chkMul ..) (.chkAlign ..) fun _ => .bind .chkCtr fun _ => ?_
  refine .ite_bind (.chkScratch ..) (.probeSeq ..) fun _ => .bind .begin_ fun _ => ?_
  exact .bind (.forM fun _ => .bind .takeQout fun _ => .ite (.writePad ..) (.forM fun _ => .writeMem ..)) fun _ => .pure _

theorem markOp (load : Bool) (m : Nat) : Keeps (Machine.markOp load m) := by
  refine .bind .begin_ fun _ => .bind (.eff fun s a => ?_) fun _ => .pure _
  split
  · cases load <;> exact .updCtx (fun _ e => by cases e <;> rfl) fun _ => rfl
  · exact .updCtx (fun _ _ => rfl) fun _ => rfl

theorem lringOp (n : Nat) : Keeps (Machine.lringOp n) := by
  unfold Machine.lringOp
  repeat refine .bind (by simp) fun _ => ?_
  exact .pure _

theorem sringOp (n : Nat) : Keeps (Machine.sringOp n) := by
  unfold Machine.sringOp
  repeat refine .bind (by simp) fun _ => ?_
  exact .pure _

theorem bindOp (kreg : Nat) (input : Bool) : Keeps (Machine.bindOp kreg input) := by
  unfold Machine.bindOp
  repeat refine .bind (by simp) fun _ => ?_
  exact .pure _

theorem eachLine (e : Engine) (va len : Nat) {f : AgentId → State → Nat × Bool → State}
    (h : ∀ a s x, (f a s x).ctxs = s.ctxs) : Keeps (Machine.eachLine e va len f) :=
  .eff fun s a => .of_ctxs ((foldl_ctxs (h a) _ _).trans (rangePlaces_ctxs s a e va len))

@[simp] theorem chkRange (sb : Word) (flush : Bool) : Keeps (Machine.chkRange sb flush) := .chkFormat _

theorem lprefOp : Keeps Machine.lprefOp := by
  unfold Machine.lprefOp
  iterate 4 refine .bind (by simp) fun _ => ?_
  exact .bind (.eachLine _ _ _ fun _ _ _ => l2Access_ctxs ..) fun _ => .pure _

theorem lhintOp : Keeps Machine.lhintOp := by
  unfold Machine.lhintOp
  iterate 4 refine .bind (by simp) fun _ => ?_
  exact .bind (.eachLine _ _ _ fun _ _ _ => updFrame_ctxs ..) fun _ => .pure _

theorem sflushOp (inv : Bool) : Keeps (Machine.sflushOp inv) := by
  unfold Machine.sflushOp
  iterate 7 refine .bind (by simp) fun _ => ?_
  exact .bind (.eachLine _ _ _ fun _ _ _ => flushLine_ctxs ..) fun _ => .pure _

theorem szeroOp : Keeps Machine.szeroOp := by
  unfold Machine.szeroOp
  repeat refine .bind (by simp) fun _ => ?_
  exact .pure _

@[simp] theorem effAddOp (f : State → AgentId → Op) : Keeps (Machine.eff fun s a => (addOp s (f s a)).2) :=
  .eff fun s _ => .of_ctxs (addOp_ctxs s _)

theorem gatherOp (scatter rpl : Bool) : Keeps (Machine.gatherOp scatter rpl) := by
  unfold Machine.gatherOp
  iterate 13 refine .bind (by simp) fun _ => ?_
  refine .when_bind (.chkMul ..) fun _ => ?_
  repeat refine .bind (by simp) fun _ => ?_
  exact .ite_bind (.readPad ..) (.pure _) fun _ => .bind (.look _) fun _ => .bind (.effAddOp _) fun _ => .pure _

theorem loadBody (i : Instr) : Keeps (Machine.loadBody i) := by
  unfold Machine.loadBody
  split
  · exact .copyOp ..
  · exact .goOp ..
  · exact .gatherOp ..
  · exact .lprefOp
  · exact .lqOp _
  · exact .lqxOp
  · exact .lringOp _
  · exact .markOp ..
  · exact .bindOp ..
  · exact .lhintOp
  · exact .pure _

theorem storeBody (i : Instr) : Keeps (Machine.storeBody i) := by
  unfold Machine.storeBody
  split
  · exact .copyOp ..
  · exact .goOp ..
  · exact .gatherOp ..
  · exact .sqOp _
  · exact .sringOp _
  · exact .markOp ..
  · exact .bindOp ..
  · exact .sflushOp _
  · exact .szeroOp
  · exact .pure _

/-! ### The words of the transform engine -/

@[simp] theorem transDesc : Keeps Machine.transDesc :=
  .bind .capture fun _ => .bind (.chkAlign ..) fun _ => .readMem ..

theorem tcopyOp : Keeps Machine.tcopyOp := by
  unfold Machine.tcopyOp
  repeat refine .bind (by simp) fun _ => ?_
  exact .pure _

theorem tfillOp : Keeps Machine.tfillOp := by
  unfold Machine.tfillOp
  repeat refine .bind (by simp) fun _ => ?_
  exact .pure _

theorem tchkOp : Keeps Machine.tchkOp := by
  unfold Machine.tchkOp
  repeat refine .bind (by simp) fun _ => ?_
  exact .pure _

theorem tcvtOp : Keeps Machine.tcvtOp := by
  unfold Machine.tcvtOp
  repeat refine .bind (by simp) fun _ => ?_
  dsimp only
  split
  · iterate 5 refine .bind (by simp) fun _ => ?_
    refine .when_bind (.chkMul ..) fun _ => .bind .chkCtr fun _ => .bind .begin_ fun _ => .bind (.readLong ..) fun _ => ?_
    refine .ite_bind (.readLong ..) (.pure _) fun _ => ?_
    repeat refine .bind (by simp) fun _ => ?_
    exact .pure _
  · exact .bind (.chkFormat _) fun _ => .pure _

@[simp] theorem readEntries (va n mark : Nat) : Keeps (Machine.readEntries va n mark) :=
  .mapM fun _ => .bind (.readMem ..) fun _ => .pure _

@[simp] theorem ropeSlots (cap : Capture) (cs : List (Nat × Nat)) (mark lb : Nat) (l : List Nat) (j : Nat) :
    Keeps (Machine.ropeSlots cap cs mark lb j l) := by
  induction l generalizing j with
  | nil => exact .pure _
  | cons x r ih =>
    unfold Machine.ropeSlots
    exact .bind (.readMem ..) fun _ => .bind (.writeMem ..) fun _ => .bind (ih _) fun _ => .pure _

theorem tropeOp : Keeps Machine.tropeOp := by
  unfold Machine.tropeOp
  repeat refine .bind (by simp) fun _ => ?_
  exact .pure _

theorem tspliceOp : Keeps Machine.tspliceOp := by
  unfold Machine.tspliceOp
  repeat refine .bind (by simp) fun _ => ?_
  exact .pure _

theorem tkvappOp : Keeps Machine.tkvappOp := by
  unfold Machine.tkvappOp
  repeat refine .bind (by simp) fun _ => ?_
  exact .pure _

theorem transBody (i : Instr) : Keeps (Machine.transBody i) := by
  unfold Machine.transBody
  split
  · exact .tcvtOp
  · exact .tcopyOp
  · exact .tropeOp
  · exact .tspliceOp
  · exact .tfillOp
  · exact .tkvappOp
  · exact .tchkOp
  · exact .pure _

/-! ### The words of the query engine -/

theorem forward (scope hint : Nat) (tagged wait : Bool) (b : OpBody) : Keeps (Machine.forward scope hint tagged wait b) := by
  unfold Machine.forward
  repeat refine .bind (by simp) fun _ => ?_
  exact .pure _

@[simp] theorem chkAligns (l : List (Nat × Nat)) : Keeps (Machine.chkAligns l) := .forM fun _ => .chkAlign ..

theorem qsearchOp : Keeps Machine.qsearchOp := by
  unfold Machine.qsearchOp
  iterate 10 refine .bind (by simp) fun _ => ?_
  exact .forward ..

theorem qfetchOp : Keeps Machine.qfetchOp := by
  unfold Machine.qfetchOp
  iterate 12 refine .bind (by simp) fun _ => ?_
  exact .forward ..

theorem qlogOp (del : Bool) : Keeps (Machine.qlogOp del) := by
  unfold Machine.qlogOp
  iterate 8 refine .bind (by simp) fun _ => ?_
  extract_lets send probe
  have hsend : ∀ u, Keeps (send u) := fun _ => .bind (.look _) fun _ => .forward ..
  have hprobe : ∀ u, Keeps (probe u) := fun _ => .when_bind (.probeMem ..) hsend
  split
  · exact .bind (.probeMem ..) hprobe
  · exact .when_bind (.probeMem ..) hprobe

theorem qsnapOp : Keeps Machine.qsnapOp := by
  unfold Machine.qsnapOp
  iterate 6 refine .bind (by simp) fun _ => ?_
  exact .forward ..

theorem qwalkOp : Keeps Machine.qwalkOp := by
  unfold Machine.qwalkOp
  iterate 5 refine .bind (by simp) fun _ => ?_
  exact .forward ..

theorem qcancelOp : Keeps Machine.qcancelOp := by
  unfold Machine.qcancelOp
  iterate 3 refine .bind (by simp) fun _ => ?_
  exact .bind (.access fun r => withdrawTag_sameEngines r.s _ _) fun _ => .pure _

theorem qstatOp : Keeps Machine.qstatOp := by
  unfold Machine.qstatOp
  repeat refine .bind (by simp) fun _ => ?_
  exact .pure _

theorem queryBody (i : Instr) : Keeps (Machine.queryBody i) := by
  unfold Machine.queryBody
  split
  · exact .qsearchOp
  · exact .qfetchOp
  · exact .qlogOp _
  · exact .qlogOp _
  · exact .qwalkOp
  · exact .qcancelOp
  · exact .qstatOp
  · exact .qsnapOp
  · exact .pure _

/-! ### The words of the vector engine -/

/-- A vector word takes its entry of qin and writes its destination. -/
theorem effVec (d : VDest) (e : VEnv) (i : Instr) (qin : Bool) : Keeps (Machine.eff fun s a =>
    let s := if qin then updCtx s a fun c => { c with eng := { c.eng with qin := c.eng.qin.drop 1 } } else s
    let s := if s.mem.errs.isEmpty then s else settleAcc e i s a
    applyDest d s a) := .eff fun s a => by
  extract_lets t u
  have ht : SameEngines s t := by
    unfold t
    split
    · exact .updCtx (fun _ _ => rfl) fun _ => rfl
    · exact .refl s
  have hu : SameEngines t u := by
    unfold u
    split
    · exact .refl t
    · exact .of_ctxs (settleAcc_ctxs ..)
  exact (ht.trans hu).trans (applyDest_sameEngines ..)

theorem vecRun (i : Instr) : Keeps (Machine.vecRun i) := by
  unfold Machine.vecRun
  refine .bind .get fun r => ?_
  extract_lets w c qin e
  split
  · exact .bind (.check ..) fun _ => .pure _
  · refine .bind (.waitStart ..) fun _ => .bind (.waitStart ..) fun _ => ?_
    extract_lets done run
    have hdone : ∀ u, Keeps (done u) := fun _ => .bind .begin_ fun _ => .bind (.effVec ..) fun _ => .pure _
    have hrun : ∀ u, Keeps (run u) := fun _ => by
      unfold run
      split
      · refine .bind (.modifyRun fun r => ?_) fun _ => .bind (.check ..) hdone
        exact .trans (.of_ctxs (logCore_ctxs r.s r.a 3)) (applyDest_sameEngines ..)
      · exact hdone ⟨⟩
    split
    · exact .bind (.waitStart ..) hrun
    · exact hrun ⟨⟩

@[simp] theorem headOf (n : Nat) (x : InStream) : Keeps (Machine.headOf x n) := by
  induction n generalizing x with
  | zero => exact .pure _
  | succ n ih =>
    unfold Machine.headOf
    refine .ite (.pure _) (.bind (.readPad ..) fun _ => ?_)
    dsimp only
    split
    · exact .ite (.bind (ih _) fun _ => .pure _) (.pure _)
    · exact .pure _

@[simp] theorem setLoop (cap : Capture) (op off lim n : Nat) (r : SetRun) : Keeps (Machine.setLoop cap op off lim n r) := by
  induction n generalizing r with
  | zero => exact .pure _
  | succ n ih =>
    unfold Machine.setLoop
    refine .bind (.headOf ..) fun _ => .bind (.headOf ..) fun _ => ?_
    dsimp only
    split
    · exact .pure _
    · refine .ite (.pure _) ?_
      split
      · exact .bind (.writePad ..) fun _ => ih _
      · exact ih _

theorem setOp (op d a b : Nat) : Keeps (Machine.setOp op d a b) := by
  unfold Machine.setOp
  iterate 3 refine .bind (by simp) fun _ => ?_
  dsimp only
  split
  · iterate 4 refine .bind (by simp) fun _ => ?_
    exact .bind (.eff fun _ _ => .updCtx (by simp) (by simp)) fun _ => .pure _
  · exact .bind (.chkIllop _) fun _ => .pure _

theorem sbindOp (d a : Nat) : Keeps (Machine.sbindOp d a) := by
  unfold Machine.sbindOp
  repeat refine .bind (by simp) fun _ => ?_
  split
  · refine .bind (.chkIllop _) fun _ => .bind .begin_ fun _ => ?_
    exact .bind (.eff fun _ _ => .updCtx (by simp) (by simp)) fun _ => .pure _
  · exact .bind (.chkIllop _) fun _ => .pure _

theorem scountOp (a : Nat) : Keeps (Machine.scountOp a) := by
  unfold Machine.scountOp
  repeat refine .bind (by simp) fun _ => ?_
  exact .pure _

theorem sresetOp (d : Nat) : Keeps (Machine.sresetOp d) :=
  .bind .begin_ fun _ => .bind (.eff fun _ _ => .updCtx (by simp) (by simp)) fun _ => .pure _

theorem vecBody (i : Instr) : Keeps (Machine.vecBody i) := by
  unfold Machine.vecBody
  split
  · exact .sbindOp ..
  · exact .setOp ..
  · exact .setOp ..
  · exact .setOp ..
  · exact .setOp ..
  · exact .scountOp _
  · exact .sresetOp _
  · exact .vecRun _

/-! ### The words of the matrix engine -/

@[simp] theorem updMat (f : MatState → MatState) : Keeps (Machine.updMat f) := .eff fun _ _ => .of_ctxs rfl

@[simp] theorem chkBlock (cast : Option Bool) (ring : Nat) : Keeps (Machine.chkBlock cast ring) :=
  .bind (.look _) fun _ => .ite (.chkUsable _) (.pure _)

@[simp] theorem waitBlock (cast : Option Bool) (ring used n : Nat) : Keeps (Machine.waitBlock cast ring used n) := by
  refine .bind (.look _) fun _ => .bind (.look _) fun _ => .when_bind (.waitStart ..) fun _ => ?_
  split
  · exact .pure _
  · refine .bind (.look _) fun _ => ?_
    split
    · exact .pure _
    · exact .bind (.look _) fun _ => .bind (.look _) fun _ => .bind .get fun _ => .ite (.halt _) (.pure _)

@[simp] theorem slotHere (ring used : Nat) : Keeps (Machine.slotHere ring used) := .lookOnce _

@[simp] theorem takeBlock (cast : Option Bool) (ring h n : Nat) : Keeps (Machine.takeBlock cast ring h n) := by
  refine .bind (.look _) fun _ => ?_
  split
  · exact .readRing ..
  · exact .access fun r => .refl r.s

@[simp] theorem usedBlock (cast : Option Bool) : Keeps (Machine.usedBlock cast) := .eff fun s _ => by
  split
  · exact .refl s
  · exact .of_ctxs (updMember_ctxs ..)

@[simp] theorem owesBlock (cast : Option Bool) (ring n : Nat) : Keeps (Machine.owesBlock cast ring n) :=
  .bind (.look _) fun _ => .bind (.look _) fun _ => .pure _

@[simp] theorem waitScales (opB : Bool) (n : Nat) : Keeps (Machine.waitScales opB n) :=
  .bind (.look _) fun _ => .waitStart ..

@[simp] theorem takeScales (opB : Bool) (n : Nat) : Keeps (Machine.takeScales opB n) := .access fun _ => .of_ctxs rfl

@[simp] theorem chkTile (t : Nat) : Keeps (Machine.chkTile t) := .bind (.look _) fun _ => .chkIllop _

@[simp] theorem waitTile (t : Nat) : Keeps (Machine.waitTile t) := .bind .get fun _ => .waitStart ..

@[simp] theorem chkAcc (t rows cols : Nat) (clear : Bool) : Keeps (Machine.chkAcc t rows cols clear) := by
  refine .get_bind fun r => ?_
  have hread := readAcc_sameEngines r.s r.a t rows cols clear
  split
  · exact .refl r.s
  · generalize readAcc r.s r.a t rows cols clear = x at hread
    obtain ⟨bad, u⟩ := x
    cases bad with
    | none => exact hread
    | some det => exact hread.trans ((check true 0x0E 0 det).run { r with s := u })

@[simp] theorem chkAccClean (t : Nat) : Keeps (Machine.chkAccClean t) := .bind .get fun _ => .ite (.chkAcc ..) (.pure _)

@[simp] theorem accHere (t : Nat) : Keeps (Machine.accHere t) := .bind (.access fun r => by
  have h := readAcc_sameEngines r.s r.a t 128 128 true
  split <;> (rename_i hu; rw [hu] at h; exact h)) fun _ => .pure _

@[simp] theorem effPutTile (t : Nat) (rows : List (List Nat)) : Keeps (Machine.eff fun s a => putTile s a t rows) :=
  .eff fun s a => putTile_sameEngines s a t rows

theorem mscqOp (opB : Bool) (ring : Nat) : Keeps (Machine.mscqOp opB ring) := by
  unfold Machine.mscqOp
  iterate 3 refine .bind (by simp) fun _ => ?_
  refine .ite (.bind .begin_ fun _ => .pure _) ?_
  repeat refine .bind (by simp) fun _ => ?_
  exact .pure _

theorem mldbOp (ring : Nat) : Keeps (Machine.mldbOp ring) := by
  unfold Machine.mldbOp
  iterate 2 refine .bind (by simp) fun _ => ?_
  dsimp only
  split
  · exact .bind (.chkFormat _) fun _ => .pure _
  · repeat refine .bind (by simp) fun _ => ?_
    exact .pure _

theorem mswapOp : Keeps Machine.mswapOp := by
  unfold Machine.mswapOp
  repeat refine .bind (by simp) fun _ => ?_
  exact .pure _

theorem mzeroOp (t : Nat) : Keeps (Machine.mzeroOp t) := by
  unfold Machine.mzeroOp
  repeat refine .bind (by simp) fun _ => ?_
  exact .pure _

theorem mpopOp (ring : Nat) : Keeps (Machine.mpopOp ring) := by
  unfold Machine.mpopOp
  iterate 2 refine .bind (by simp) fun _ => ?_
  refine .ite (.bind .begin_ fun _ => .pure _) ?_
  repeat refine .bind (by simp) fun _ => ?_
  exact .pure _

@[simp] theorem peekMeta (ring n : Nat) : Keeps (Machine.peekMeta ring n) :=
  .bind (.waitBlock ..) fun _ => .bind (.slotHere ..) fun _ => .readRing ..

@[simp] theorem chkMma (p : MPair) (df e rb : Nat) (sp : Bool) : Keeps (Machine.chkMma p df e rb sp) := by
  refine .bind (.chkFormat _) fun _ => .bind (.look _) fun _ => .ite ?_ (.pure _)
  split
  · exact .chkRing ..
  · exact .bind (.chkRing ..) fun _ => .chkFormat _

theorem mmaOp (t ra rb df e : Nat) (acc sp : Bool) (rm : Nat) : Keeps (Machine.mmaOp t ra rb df e acc sp rm) := by
  unfold Machine.mmaOp
  refine .bind .capture fun _ => .bind (.chkTile _) fun _ => ?_
  dsimp -zeta only
  extract_lets code
  split
  · exact .bind (.chkFormat _) fun _ => .pure _
  · refine .bind (.chkMma ..) fun _ => .bind (.chkBlock ..) fun _ => ?_
    refine .when_bind (.chkBlock ..) fun _ => ?_
    refine .when_bind (.chkBlock ..) fun _ => ?_
    refine .bind (.waitTile _) fun _ => .bind (.look _) fun _ => ?_
    refine .ite_bind (.peekMeta ..) (.pure _) fun _ => ?_
    refine .ite_bind (.owesBlock ..) (.pure _) fun _ => ?_
    refine .bind (.owesBlock ..) fun _ => ?_
    refine .ite_bind (.pure _) (.owesBlock ..) fun _ => ?_
    refine .bind (.waitScales ..) fun _ => .bind (.waitScales ..) fun _ => ?_
    refine .when_bind (.waitBlock ..) fun _ => .bind (.waitBlock ..) fun _ => ?_
    refine .when_bind (.waitBlock ..) fun _ => ?_
    refine .when_bind (.chkAcc ..) fun _ => ?_
    refine .bind .get fun _ => .bind (.slotHere ..) fun _ => .bind (.slotHere ..) fun _ => .bind (.slotHere ..) fun _ => ?_
    refine .when_bind₂ .begin_ (.reserve ..) fun _ => ?_
    refine .ite_bind (.takeBlock ..) (.pure _) fun _ => .bind (.takeBlock ..) fun _ => ?_
    refine .ite_bind (.pure _) (.takeBlock ..) fun _ => ?_
    dsimp -zeta only
    extract_lets bb x pay start
    have hpay : ∀ u, Keeps (pay u) := fun _ => by
      refine .bind (.takeScales ..) fun _ => .ite_bind (.pure _) (.takeScales ..) fun _ => ?_
      exact .bind (.look _) fun _ => .bind (.lookOnce _) fun _ => .bind (.effPutTile ..) fun _ => .pure _
    have hstart : ∀ u, Keeps (start u) := fun _ =>
      .bind .begin_ fun _ => .bind (.reserve ..) fun _ => .bind (.usedBlock _) fun _ => .when_bind (.usedBlock _) hpay
    split
    · exact .when_bind (.check ..) hstart
    · exact hstart ⟨⟩

@[simp] theorem mgoGo (p : MPair) (t pa pb : Nat) (d : NestDesc) (l : List (Nat × Int)) (acc : Bool) :
    Keeps (Machine.mgoGo p t pa pb d acc l) := by
  induction l generalizing acc with
  | nil => exact .pure _
  | cons x r ih =>
    unfold Machine.mgoGo
    iterate 3 refine .bind (by simp) fun _ => ?_
    refine .when_bind (.accHere _) fun _ => .bind (.takeScales ..) fun _ => .bind (.takeScales ..) fun _ => ?_
    refine .bind (.access fun r => .refl r.s) fun _ => .bind (.effPutTile ..) fun _ => .bind (ih _) fun _ => .pure _

theorem mgoOp : Keeps Machine.mgoOp := by
  unfold Machine.mgoOp
  iterate 3 refine .bind (by simp) fun _ => ?_
  dsimp only
  split
  · exact .bind (.chkFormat _) fun _ => .pure _
  · iterate 2 refine .bind (by simp) fun _ => ?_
    refine .bind (.forM fun _ => .bind (by simp) fun _ => by simp) fun _ => ?_
    refine .bind (.forM fun _ => .bind (by simp) fun _ => by simp) fun _ => ?_
    iterate 3 refine .bind (by simp) fun _ => ?_
    exact .when_bind (.chkAccClean _) fun _ => .bind .begin_ fun _ => .bind (.mgoGo ..) fun _ => .pure _

theorem foldl_padWrite_ctxs (a : AgentId) (runs : List (Nat × Nat)) (s : State) (bs : List Byte) :
    (runs.foldl (fun (x : State × List Byte) run =>
      (padWrite x.1 a run.1 (x.2.take run.2), x.2.drop run.2)) (s, bs)).1.ctxs = s.ctxs := by
  induction runs generalizing s bs with
  | nil => rfl
  | cons x r ih => exact (ih _ _).trans (padWrite_ctxs ..)

theorem mdrainOp (kind t : Nat) : Keeps (Machine.mdrainOp kind t) := by
  unfold Machine.mdrainOp
  refine .bind .capture fun _ => .bind (.chkTile _) fun _ => ?_
  dsimp -zeta only
  split
  · exact .bind (.chkFormat _) fun _ => .pure _
  · refine .bind (.chkFormat _) fun _ => ?_
    extract_lets line pb off ring r plain drain
    have hdrain : ∀ u, Keeps (drain u) := fun _ => by
      refine .bind (.chkAcc ..) fun _ => .bind .begin_ fun _ => .bind (.look _) fun _ => .ite ?_ (.ite ?_ ?_)
      · exact .bind (.writePad ..) fun _ => .pure _
      · refine .bind (.look _) fun _ => .bind (.look _) fun _ => .bind (.look _) fun _ => ?_
        exact .bind (.eff fun _ _ => .of_ctxs (foldl_padWrite_ctxs ..)) fun _ => .pure _
      · exact .bind (.forM fun _ => .writePad ..) fun _ => .when_bind (.forM fun _ => .writePad ..) fun _ => .pure _
    refine .ite ?_ (.bind (.check ..) fun _ => .ite (.bind (.chkScratch ..) hdrain) ?_)
    · exact .bind (.chkUsable _) fun _ => .bind (.look _) fun _ => .bind (.chkRing ..) hdrain
    · exact .bind (.forM fun _ => .chkScratch ..) fun _ => .when_bind (.chkScratch ..) hdrain

theorem mbjoinOp (opB : Bool) : Keeps (Machine.mbjoinOp opB) := by
  unfold Machine.mbjoinOp
  iterate 4 refine .bind (by simp) fun _ => ?_
  refine .bind (.eff fun s a => ?_) fun _ => .pure _
  cases a with
  | seq n => exact .refl s
  | bank c b => exact .of_ctxs rfl

theorem mbleaveOp (opB : Bool) : Keeps (Machine.mbleaveOp opB) := by
  refine .bind .begin_ fun _ => .bind (.eff fun s a => ?_) fun _ => .pure _
  cases a with
  | seq n => exact .refl s
  | bank c b => exact .of_ctxs rfl

theorem mquietOp : Keeps Machine.mquietOp :=
  .bind .begin_ fun _ => .bind (.eff fun _ _ => .of_ctxs (foldl_ctxs (fun _ _ => updMember_ctxs ..) _ _)) fun _ =>
    .bind (.look _) fun _ => .bind (.waitHere ..) fun _ => .pure _

theorem mlatldOp (val : Bool) : Keeps (Machine.mlatldOp val) := by
  unfold Machine.mlatldOp
  repeat refine .bind (by simp) fun _ => ?_
  exact .pure _

theorem mlatOp (kind t : Nat) : Keeps (Machine.mlatOp kind t) := by
  unfold Machine.mlatOp
  iterate 4 refine .bind (by simp) fun _ => ?_
  dsimp only
  split
  · exact .bind (.chkFormat _) fun _ => .pure _
  · iterate 4 refine .bind (by simp) fun _ => ?_
    refine .when_bind (.chkAcc ..) fun _ => ?_
    iterate 3 refine .bind (by simp) fun _ => ?_
    refine .bind (.eff fun s a => .trans (.of_ctxs (freshAcc_ctxs ..)) (setTile_sameEngines ..)) fun _ => .pure _

@[simp] theorem mattGo (absorb : Bool) (wk wv : Proj) (d : MDesc) (qs : List QRow) (l : List BEntry) (rs : List MRow) :
    Keeps (Machine.mattGo absorb wk wv d qs l rs) := by
  induction l generalizing rs with
  | nil => exact .pure _
  | cons x r ih =>
    unfold Machine.mattGo
    refine .bind (.mapM fun _ => .bind (.mapM fun _ => .readMem ..) fun _ => .pure _) fun _ => ih _

theorem mattOp (absorb : Bool) (t : Nat) : Keeps (Machine.mattOp absorb t) := by
  unfold Machine.mattOp
  iterate 11 refine .bind (by simp) fun _ => ?_
  refine .when_bind (.chkScratch ..) fun _ => ?_
  iterate 4 refine .bind (by simp) fun _ => ?_
  refine .bind (.mapM fun _ => .bind (.readPad ..) fun _ => .pure _) fun _ => ?_
  refine .bind (.mattGo ..) fun _ => .bind (.effPutTile ..) fun _ => ?_
  exact .when_bind (.writePad ..) fun _ => .pure _

theorem matBody (i : Instr) : Keeps (Machine.matBody i) := by
  unfold Machine.matBody
  split
  · exact .mldbOp _
  · exact .mswapOp
  · exact .mmaOp ..
  · exact .mscqOp ..
  · exact .mzeroOp _
  · exact .mdrainOp ..
  · exact .mgoOp
  · exact .mattOp ..
  · exact .mlatldOp _
  · exact .mlatOp ..
  · exact .mbjoinOp _
  · exact .mbleaveOp _
  · exact .mpopOp _
  · exact .mquietOp
  · exact .pure _

end Keeps
end Sys2Proof.Machine
end

section
/-! SUPPORT. The step that routes, starts and completes an engine word (R23, R64, R87, R88, R94, R96, R101, R116): what its run
leaves of its engine, what its start and its completion change in its context, and how the step is put together of them. -/

namespace Sys2Proof.Machine

open Sys2Proof.Safety Sys2Proof.Claims

/-! ### The run of a word -/

theorem Keeps.wordBody (e : Engine) (i : Instr) : Keeps (Machine.wordBody e i) := by
  cases e
  case q => exact .queryBody i
  case l => exact .loadBody i
  case m => exact .matBody i
  case v => exact .vecBody i
  case s => exact .storeBody i
  case t => exact .transBody i

theorem runBody_sameEngines (r : ERun) : SameEngines r.s (runBody r).2.s :=
  .trans ((Keeps.wordBody r.e r.w.ins).run r) (settleL2_sameEngines _)

theorem runWord_sameEngines (s : State) (a : AgentId) (e : Engine) (w : QWord) (replay : List (List Byte)) (begun : Bool)
    (abort : Option Bool) (lines : List Nat) (owes : RingOwe × RingOwe × RingOwe) (head : Option Bool) :
    SameEngines s (runWord s a e w replay begun abort lines owes head).2.s := by
  unfold runWord
  extract_lets r
  have hr : SameEngines s (runBody r).2.s := runBody_sameEngines r
  split
  · exact hr
  · split
    · exact .refl s
    · split
      · exact .of_ctxs (logReg_ctxs s a)
      · split
        · rename_i heq
          rw [heq] at hr
          exact hr.trans (.of_ctxs (settleRegs_ctxs ..))
        · exact hr

theorem runHead_sameEngines (s : State) (a : AgentId) (e : Engine) (w : QWord) : SameEngines s (runHead s a e w).2.s :=
  runWord_sameEngines ..

/-! ### The state in which a word starts -/

@[simp] theorem queueParity_ctxs (s : State) (a : AgentId) (w : QWord) : (queueParity s a w).2.ctxs = s.ctxs := by
  unfold queueParity
  split
  · rfl
  · split
    · cases a <;> exact logUncorr_ctxs ..
    · exact (clearMarks_ctxs ..).trans (countCorr_ctxs ..)

theorem saveArea_ctxs (a : AgentId) (kind : AccKind) (ps : List (Nat × Nat)) (s : State) :
    (saveArea s a kind ps).2.ctxs = s.ctxs := by
  induction ps generalizing s with
  | nil => rfl
  | cons x r ih =>
    obtain ⟨va, n⟩ := x
    unfold saveArea
    dsimp only
    split
    · rename_i t ht
      have hr := (ih t).trans (ctxs_of_xlate ht)
      split
      · rename_i heq
        rwa [heq] at hr
      · exact hr
    · exact ctxs_of_xlate ‹_›
    · exact ctxs_of_xlate ‹_›

/-- The state that the translation of a save area answers. -/
theorem ctxs_of_saveArea {s t : State} {a : AgentId} {kind : AccKind} {ps : List (Nat × Nat)}
    {x : Except (Nat × Nat) (List (Loc × Nat))} (h : saveArea s a kind ps = (x, t)) : t.ctxs = s.ctxs := by
  rw [← saveArea_ctxs a kind ps s, h]

theorem getCtx_congr {s t : State} (h : t.ctxs = s.ctxs) (a : AgentId) : getCtx t a = getCtx s a := by
  simp only [getCtx, h]

/-- A double trap for a save area halts the bank (R357). -/
theorem saveTrap_status (s : State) (a : AgentId) (cause va : Nat) (det : Word) :
    (getCtx (saveTrap s a cause va det) a).life.status = .halting := by
  simp only [saveTrap, doubleTrap, getCtx_setCtx]

theorem getCtx_saveTrap_other (s : State) {a b : AgentId} (cause va : Nat) (det : Word) (h : ctxKey b ≠ ctxKey a) :
    getCtx (saveTrap s a cause va det) b = getCtx s b := getCtx_setCtx_other s _ h

/-- The save of a bank's matrix operand state leaves the core's other bank alone (R225). -/
theorem getCtx_saveMatrix_other (s : State) (core : Nat) (b : Bool) :
    getCtx (saveMatrix s core (!b)) (.bank core b) = getCtx s (.bank core b) := by
  have hkey : ctxKey (.bank core b) ≠ ctxKey (.bank core !b) := by
    cases b <;> simp [ctxKey, b2n]
  unfold saveMatrix
  extract_lets a parts
  split
  · rename_i t ht
    rw [getCtx_saveTrap_other _ _ _ _ hkey]
    exact getCtx_congr (ctxs_of_saveArea ht) _
  · rename_i t ht
    refine getCtx_congr (.trans ?_ (ctxs_of_saveArea ht)) _
    simp

/-- A bank that takes the matrix operand state keeps its context, or it halts (R225, R357). -/
theorem claimMatrix_ctx (s : State) (a : AgentId) :
    getCtx (claimMatrix s a) a = getCtx s a ∨ (getCtx (claimMatrix s a) a).life.status = .halting := by
  cases a with
  | seq n => exact .inl rfl
  | bank core b =>
    unfold claimMatrix
    dsimp -zeta only
    split
    · exact .inl rfl
    · extract_lets st own t k
      have ht : getCtx t (.bank core b) = getCtx s (.bank core b) := by
        unfold t
        split
        · split
          · exact getCtx_saveMatrix_other s core b
          · rfl
        · rfl
      split
      · exact .inl ht
      · extract_lets runs
        split
        · exact .inr (saveTrap_status ..)
        · rename_i hu
          have hu := (getCtx_congr (ctxs_of_saveArea hu) _).trans ht
          extract_lets seen
          split
          · exact .inr (saveTrap_status ..)
          · exact .inl ((getCtx_congr ((tookBytes_ctxs ..).trans (l2Pieces_ctxs ..)) _).trans hu)

/-- An engine that may take the matrix operand state leaves its running context alone (R225). -/
theorem getCtx_claimFor {s : State} {a : AgentId} {e : Engine} {uses : Bool} (hrun : (getCtx s a).life.status = .running)
    (hok : (claimFor s a e uses).2 = true) : getCtx (claimFor s a e uses).1 a = getCtx s a := by
  unfold claimFor at hok ⊢
  split at hok
  · split at hok
    · rename_i hm hc
      simp only [hm, hc, if_true] at hok ⊢
      obtain h | h := claimMatrix_ctx s a
      · exact h
      · simp [h, hrun] at hok
    · cases hok
  · rename_i hm
    rw [if_neg hm]

/-! ### Token counters -/

/-- A token counter changes the counters alone. -/
theorem foldl_addTok_eq (up : Bool) (l : List Nat) (g : Engines) :
    l.foldl (fun g n => addTok g n up) g = { g with tok := (l.foldl (fun g n => addTok g n up) g).tok } := by
  induction l generalizing g with
  | nil => rfl
  | cons n r ih =>
    have h : addTok g n up = { g with tok := (addTok g n up).tok } := by
      unfold addTok
      split <;> rfl
    rw [List.foldl_cons, ih, h]

@[simp] theorem getE_withTok (g : Engines) (t : Vector Nat 10) (e : Engine) : getE { g with tok := t } e = getE g e := by
  cases e <;> rfl

theorem getTok_addTok (g : Engines) (n : Nat) (up : Bool) {k : Nat} (hk : k < 10) :
    getTok (addTok g n up) k = if k = n then (if up then getTok g k + 1 else getTok g k - 1) else getTok g k := by
  by_cases hn : n < 10
  · by_cases h : k = n
    · subst h
      simp [getTok, addTok, hn]
    · simp [getTok, addTok, hn, hk, h, Ne.symm h]
  · have h : k ≠ n := by omega
    simp [addTok, hn, h]

/-- Pushes to counters that differ add 1 to each (R87). -/
theorem getTok_pushes {l : List Nat} (hl : l.Nodup) (g : Engines) {k : Nat} (hk : k < 10) :
    getTok (l.foldl (fun g n => addTok g n true) g) k = getTok g k + b2n (l.contains k) := by
  induction l generalizing g with
  | nil => simp [b2n]
  | cons n r ih =>
    obtain ⟨hn, hr⟩ := List.nodup_cons.1 hl
    rw [List.foldl_cons, ih hr, getTok_addTok g n true hk]
    by_cases h : k = n
    · subst h
      simp [hn, b2n]
    · simp [h]

/-- Pops of counters that differ take 1 from each (R87). -/
theorem getTok_pops {l : List Nat} (hl : l.Nodup) (g : Engines) {k : Nat} (hk : k < 10) :
    getTok (l.foldl (fun g n => addTok g n false) g) k = getTok g k - b2n (l.contains k) := by
  induction l generalizing g with
  | nil => simp [b2n]
  | cons n r ih =>
    obtain ⟨hn, hr⟩ := List.nodup_cons.1 hl
    rw [List.foldl_cons, ih hr, getTok_addTok g n false hk]
    by_cases h : k = n
    · subst h
      simp [hn, b2n]
    · simp [h]

/-- A down counter and an up counter are two counters (R86). -/
theorem nodup_tokens (p q : Bool) {m n : Nat} (h : m % 2 ≠ n % 2) :
    ((if p then [m] else []) ++ (if q then [n] else [])).Nodup := by
  have hne : m ≠ n := fun e => h (congrArg (· % 2) e)
  cases p <;> cases q <;> simp [hne]

theorem popsOf_nodup (seq : Bool) (e : Engine) (w : QWord) : (popsOf seq e w).Nodup := nodup_tokens _ _ (by omega)

theorem pushesOf_nodup (seq : Bool) (e : Engine) (w : QWord) : (pushesOf seq e w).Nodup := nodup_tokens _ _ (by omega)

/-! ### The start of a word -/

/-- A word that leaves the head of its queue changes what R87 says, when its engine had not judged the head before. -/
theorem popHead_startsIn (s : State) (a : AgentId) {e : Engine} (w : QWord) (f : Flight)
    (h : (getE (getCtx s a).eng e).headOk = false) :
    startsIn a e w f (getCtx s a) (getCtx (popHead s a e w f) a) := by
  have hpops := fun k => getTok_pops (popsOf_nodup (isSeq a) e w) (getCtx s a).eng (k := k)
  rw [popHead, getCtx_updCtx]
  extract_lets g x y
  have hg : g = { (getCtx s a).eng with tok := g.tok } := foldl_addTok_eq false _ _
  have hx : x = getE (getCtx s a).eng e := by rw [show x = getE g e from rfl, hg, getE_withTok]
  refine ⟨?_, fun d hd => ?_, fun k hk => ?_, ?_⟩
  · simp only [getE_setE, y, hx, clearHead, h]
  · rw [getE_setE_other _ _ hd, hg, getE_withTok]
  · rw [← hpops k hk]
    simp only [getTok, setE_tok]
    rfl
  · simp only [setE_reply, setE_qin, setE_qout, setE_lmarks, setE_smarks, setE_barrier, setE_event]
    rw [hg]

/-! ### The completion of a word -/

theorem pushReplies_eq (e : Engine) (l : List Word) (c : Ctx) :
    l.foldl (fun c x => pushReply c e x.toNat) c = { c with eng := { c.eng with
      reply := c.eng.reply ++ l.map fun x => BitVec.ofNat 64 (engineField e * 2 ^ 61 + x.toNat % 2 ^ 61)
      event := c.eng.event || !l.isEmpty } } := by
  induction l generalizing c with
  | nil => simp
  | cons x r ih =>
    rw [List.foldl_cons, ih]
    simp [pushReply]

theorem getRing_setRing (c : Ctx) (n : Nat) (r : Ring) {k : Nat} (hk : k < 8) :
    getRing (setRing c n r) k = if n = k then r else getRing c k := by
  by_cases hn : n < 8
  · by_cases h : n = k
    · subst h
      simp [getRing_setRing_same, hk]
    · simp [getRing, setRing, hn, hk, h]
  · have h : n ≠ k := by omega
    simp [setRing, hn, h]

theorem getK_setK (c : Ctx) (n : Nat) (b : KBind) {k : Nat} (hk : k < 8) :
    getK (setK c n b) k = if n = k then b else getK c k := by
  by_cases hn : n < 8
  · by_cases h : n = k
    · subst h
      simp [getK_setK_same, hk]
    · simp [getK, setK, hn, hk, h]
  · have h : n ≠ k := by omega
    simp [setK, hn, h]

/-- What a word owes a ring is paid on the ring it names (R116). -/
theorem getRing_settleRing (c : Ctx) (o : RingOwe) {k : Nat} (hk : k < 8) :
    getRing (settleRing c o) k = ringPaid k (getRing c k) o := by
  cases o with
  | none => rfl
  | commit n m =>
    rw [settleRing, getRing_setRing _ _ _ hk, ringPaid]
    split
    · subst n
      rfl
    · rfl
  | pop n m =>
    rw [settleRing, getRing_setRing _ _ _ hk, ringPaid]
    split
    · subst n
      rfl
    · rfl

@[simp] theorem settleRing_eng (c : Ctx) (o : RingOwe) : (settleRing c o).eng = c.eng := by cases o <;> simp [settleRing]
@[simp] theorem settleRing_csr (c : Ctx) (o : RingOwe) : (settleRing c o).csr = c.csr := by cases o <;> simp [settleRing]
@[simp] theorem settleRing_life (c : Ctx) (o : RingOwe) : (settleRing c o).life = c.life := by cases o <;> simp [settleRing]
@[simp] theorem settleRing_trap (c : Ctx) (o : RingOwe) : (settleRing c o).trap = c.trap := by cases o <;> simp [settleRing]
@[simp] theorem settleRing_fr (c : Ctx) (o : RingOwe) : (settleRing c o).fr = c.fr := by cases o <;> simp [settleRing]
@[simp] theorem settleRing_arch_s (c : Ctx) (o : RingOwe) : (settleRing c o).arch.s = c.arch.s := by cases o <;> simp [settleRing]
@[simp] theorem settleRing_arch_v (c : Ctx) (o : RingOwe) : (settleRing c o).arch.v = c.arch.v := by cases o <;> simp [settleRing]
@[simp] theorem settleRing_arch_m (c : Ctx) (o : RingOwe) : (settleRing c o).arch.m = c.arch.m := by cases o <;> simp [settleRing]
@[simp] theorem settleRing_arch_k (c : Ctx) (o : RingOwe) : (settleRing c o).arch.k = c.arch.k := by cases o <;> simp [settleRing]
@[simp] theorem settleRing_arch_pg (c : Ctx) (o : RingOwe) : (settleRing c o).arch.pg = c.arch.pg := by
  cases o <;> simp [settleRing]

/-- The context with a finished word's flags, replies and entry of qout (R64, R96, R101). -/
def withResults (e : Engine) (n : Finish) (c : Ctx) : Ctx :=
  { c with
    csr := { c.csr with fflags := c.csr.fflags ||| BitVec.ofNat 32 n.flags }
    eng := { c.eng with
      reply := c.eng.reply ++ n.replies.map fun x => BitVec.ofNat 64 (engineField e * 2 ^ 61 + x.toNat % 2 ^ 61)
      qout := c.eng.qout ++ n.qout.toList
      event := c.eng.event || !n.replies.isEmpty } }

/-- Its stream binding set (R278). -/
def withBinding (n : Finish) (c : Ctx) : Ctx :=
  match n.bind with
  | some (k, b) => setK c k b
  | none => c

/-- What it owes its rings paid (R116). -/
def withRingsPaid (f : Flight) (c : Ctx) : Ctx := settleRing (settleRing (settleRing c f.ring1) f.ring2) f.ring3

/-- The engines once it has left its own and pushed its tokens (R87). -/
def enginesLeft (a : AgentId) (e : Engine) (f : Flight) (g : Engines) : Engines :=
  (pushesOf (isSeq a) e f.w).foldl (fun g n => addTok g n true)
    (setE g e { getE g e with flying := (getE g e).flying.filter fun y => y.w.uid != f.w.uid })

/-- A completion takes effect in these four parts. -/
theorem finishCtx_eq (a : AgentId) (e : Engine) (f : Flight) (n : Finish) (c : Ctx) :
    finishCtx a e f n c = { withRingsPaid f (withBinding n (withResults e n c)) with
      eng := enginesLeft a e f (withResults e n c).eng } := by
  obtain ⟨replies, flags, add, qout, bind⟩ := n
  simp only [finishCtx, pushReplies_eq, withBinding, withRingsPaid, enginesLeft, withResults, orFlags]
  cases qout with
  | none => cases bind <;> simp
  | some x => cases bind <;> simp

theorem enginesLeft_eq (a : AgentId) (e : Engine) (f : Flight) (g : Engines) :
    enginesLeft a e f g = { setE g e { getE g e with flying := (getE g e).flying.filter fun y => y.w.uid != f.w.uid } with
      tok := (enginesLeft a e f g).tok } := foldl_addTok_eq true _ _

/-- Bindings and rings are all that a word's binding and its rings change. -/
theorem withRingsPaid_frame (f : Flight) (n : Finish) (c : Ctx) :
    let d := withRingsPaid f (withBinding n c)
    d.csr = c.csr ∧ d.arch.s = c.arch.s ∧ d.arch.v = c.arch.v ∧ d.arch.m = c.arch.m ∧ d.arch.pg = c.arch.pg
      ∧ d.life = c.life ∧ d.trap = c.trap ∧ d.fr = c.fr := by
  simp only [withRingsPaid, withBinding, settleRing_csr, settleRing_arch_s, settleRing_arch_v, settleRing_arch_m,
    settleRing_arch_pg, settleRing_life, settleRing_trap, settleRing_fr]
  split <;> simp

theorem getRing_withRingsPaid (f : Flight) (n : Finish) (c : Ctx) {k : Nat} (hk : k < 8) :
    getRing (withRingsPaid f (withBinding n c)) k
      = ringPaid k (ringPaid k (ringPaid k (getRing c k) f.ring1) f.ring2) f.ring3 := by
  have hb : getRing (withBinding n c) k = getRing c k := by
    unfold withBinding
    split <;> simp [getRing]
  rw [withRingsPaid, getRing_settleRing _ _ hk, getRing_settleRing _ _ hk, getRing_settleRing _ _ hk, hb]

theorem getK_withRingsPaid (f : Flight) (n : Finish) (c : Ctx) {k : Nat} (hk : k < 8) :
    getK (withRingsPaid f (withBinding n c)) k = (match n.bind with
      | some (m, b) => if m = k then b else getK c k
      | none => getK c k) := by
  have hr : getK (withRingsPaid f (withBinding n c)) k = getK (withBinding n c) k := by
    simp only [getK, withRingsPaid, settleRing_arch_k]
  rw [hr, withBinding]
  split
  · exact getK_setK _ _ _ hk
  · rfl

/-- The effects of a completion are those of R88. -/
theorem finishCtx_completesIn (a : AgentId) (e : Engine) (f : Flight) (n : Finish) (c : Ctx) :
    completesIn a e f n c (finishCtx a e f n c) := by
  have hgetE : ∀ d, getE (withResults e n c).eng d = getE c.eng d := fun d => by cases d <;> rfl
  have heng := enginesLeft_eq a e f (withResults e n c).eng
  obtain ⟨hcsr, hs, hv, hm, hpg, hlife, htrap, hfr⟩ := withRingsPaid_frame f n (withResults e n c)
  rw [finishCtx_eq]
  refine ⟨hcsr, ?_, ?_, ?_, ?_, fun k hk => ?_, ?_, fun d hd => ?_, fun k hk => ?_, fun k hk => ?_,
    hs, hv, hm, hpg, hlife, htrap, hfr⟩
  · rw [heng]
    exact setE_reply ..
  · rw [heng]
    exact setE_event ..
  · rw [heng]
    exact setE_qin ..
  · rw [heng]
    exact setE_qout ..
  · refine (getTok_pushes (pushesOf_nodup (isSeq a) e f.w) _ hk).trans ?_
    simp only [getTok, setE_tok]
    rfl
  · rw [heng, getE_withTok, getE_setE, hgetE]
  · rw [heng, getE_withTok, getE_setE_other _ _ hd, hgetE]
  · exact getRing_withRingsPaid f n (withResults e n c) hk
  · exact getK_withRingsPaid f n (withResults e n c) hk

/-! ### The step that routes, starts and completes a word -/

/-- An empty queue holds the word that joins it, and its engine nothing of a head before it (R23). -/
theorem getE_enqueue {s : State} {a : AgentId} {e : Engine} (i : Instr) (raw : Nat) (hq : (getE (getCtx s a).eng e).queue = []) :
    getE (getCtx (enqueue s a e i raw) a).eng e = { clearHead (getE (getCtx s a).eng e) with
      queue := [⟨i, BitVec.ofNat 32 raw, curPc (getCtx s a), s.sch.uid, captureOf (getCtx s a) i (rawOf i)⟩] } := by
  have hq' : (getE (getCtx (freshUid s).2 a).eng e).queue = [] := hq
  simp only [enqueue, getCtx_updCtx, getE_setE, hq', List.isEmpty_nil, if_true, clearHead, List.nil_append]
  rfl

theorem getE_routed {s : State} (i : Instr) {j : Instr} (hq : (getE (cx s).eng (Safety.engineOf j)).queue = []) :
    getE (getCtx (routed s i j) s.sch.cur).eng (Safety.engineOf j)
      = { clearHead (getE (cx s).eng (Safety.engineOf j)) with queue := [queued s i j] } := by
  rw [routed, getCtx_retire_eng, getE_enqueue]
  · simp only [getCtx_keepFront, keepFront_sch]
    rfl
  · rw [getCtx_keepFront]
    exact hq

theorem routed_life (s : State) (i j : Instr) : (getCtx (routed s i j) s.sch.cur).life = (cx s).life := by
  have henq : ∀ (t : State) a e k raw, (getCtx (enqueue t a e k raw) a).life = (getCtx t a).life := fun t a e k raw => by
    simp only [enqueue, getCtx_updCtx]
    rfl
  rw [routed, retire, getCtx_updCtx]
  exact (henq ..).trans (congrArg Ctx.life (getCtx_keepFront ..))

/-- A word whose engine is idle starts and completes in the step that routes it (log 3). -/
theorem issue_started {s : State} {i j : Instr} (hr : ready s i = true) (hj : effInstr (cx s).fr i = some j)
    (heager : s.sch.eager = true) (hq : (getE (cx s).eng (Safety.engineOf j)).queue = [])
    (hf : (getE (cx s).eng (Safety.engineOf j)).flying = []) :
    issue i s = .next (completeWord (engineStep (routed s i j) s.sch.cur (Safety.engineOf j)) s.sch.cur (Safety.engineOf j)) := by
  obtain ⟨hrun, hroute⟩ := (ready_iff s i).1 hr
  simp only [cx, Safety.engineOf] at hj hq hf
  simp [issue, hrun, hroute, hj, hq, hf, heager, queueDepth, routed, Safety.engineOf]

theorem engineStep_idle {s : State} {a : AgentId} {e : Engine} (h : (getE (getCtx s a).eng e).flying = []) :
    engineStep s a e = startHead s a e := by
  simp [engineStep, oldestOpen, h]

/-- The head of a queue that may start runs, once its queue word has been tested and the operand state is its bank's (R87,
R225, R438). -/
theorem startHead_starts {s : State} {a : AgentId} {e : Engine} {w : QWord} {l : List QWord}
    (hq : (getE (getCtx s a).eng e).queue = w :: l) (hmay : mayStart (getCtx s a) a e w = true)
    (hparity : (queueParity s a w).1 = false) (hclaim : (claimFor (queueParity s a w).2 a e true).2 = true) :
    startHead s a e = startWord (claimFor (queueParity s a w).2 a e true).1 a e w := by
  simp only [startHead, hq, hmay, if_true]
  split
  · rename_i heq
    simp [heq] at hparity
  · rename_i heq
    simp [heq] at hclaim ⊢
    simp [hclaim]

theorem startWord_ok {s : State} {a : AgentId} {e : Engine} {w : QWord} {d : EDone} {r : ERun} (h : runHead s a e w = (.ok d, r)) :
    startWord s a e w = popHead r.s a e w (flightOf w r d) := by
  rw [startWord, h]

/-- The one word of an engine completes when it has finished and its replies have room (R88, R97). -/
theorem completeWord_one {s : State} {a : AgentId} {e : Engine} {f : Flight} {n : Finish}
    (hf : (getE (getCtx s a).eng e).flying = [f]) (hn : f.fin = some n) (hroom : replyRoom (getCtx s a) n = true)
    (hstatus : (getCtx s a).life.status ≠ .frozen) (hmark : isMark f.w = false) :
    completeWord s a e = finishWord s a e f n := by
  have hdone : nextDone (getE (getCtx s a).eng e) = some f := by rw [nextDone, hf, List.head?_cons]
  have hturn : engineTurn s a e = true := by simp [engineTurn, hstatus]
  simp [completeWord, hdone, hn, hasRoom, hroom, hturn, hmark]

/-- The machine once a word's completion has taken effect, but for the add of its counter (R88). -/
def finished (s : State) (a : AgentId) (e : Engine) (f : Flight) (n : Finish) : State :=
  updCtx (clearMarks s .reg (ctxKey a) (replyAddr (getCtx s a).eng.reply.length) n.replies.length) a (finishCtx a e f n)

theorem finishWord_eq (s : State) (a : AgentId) (e : Engine) (f : Flight) (n : Finish) :
    finishWord s a e f n = counterAdd (finished s a e f n) a e f n := rfl

theorem finished_completesIn (s : State) (a : AgentId) (e : Engine) (f : Flight) (n : Finish) :
    completesIn a e f n (getCtx s a) (getCtx (finished s a e f n) a) := by
  rw [finished, getCtx_updCtx]
  exact finishCtx_completesIn a e f n (getCtx s a)

/-- A start and a completion change one context, and the check bits of the registers that the replies renew (R440). -/
theorem finished_popHead_onlyCtx (s : State) (a : AgentId) (e : Engine) (w : QWord) (f : Flight) (n : Finish) :
    onlyCtx s (finished (popHead s a e w f) a e f n) a := by
  refine ⟨?_, rfl⟩
  have h : ∀ (t : State) c m, setCtx { setCtx t a c with mem := m } a Ctx.reset = setCtx { t with mem := m } a Ctx.reset :=
    fun t c m => setCtx_setCtx { t with mem := m } a c _
  exact (h _ _ _).trans (h s _ _)

/-- The word that has started in an idle engine completes there. -/
theorem completeWord_popHead {s : State} {a : AgentId} {e : Engine} {w : QWord} {f : Flight} {n : Finish}
    (hflying : (getE (getCtx s a).eng e).flying = []) (hhead : (getE (getCtx s a).eng e).headOk = false)
    (hstatus : (getCtx s a).life.status = .running) (hfin : f.fin = some n) (hmark : isMark f.w = false)
    (hroom : replyRoom (getCtx (popHead s a e w f) a) n = true) :
    completeWord (popHead s a e w f) a e = counterAdd (finished (popHead s a e w f) a e f n) a e f n := by
  obtain ⟨hengine, -⟩ := popHead_startsIn s a w f hhead
  refine (completeWord_one ?_ hfin hroom ?_ hmark).trans (finishWord_eq ..)
  · rw [hengine, hflying]
    rfl
  · rw [popHead, getCtx_updCtx]
    simp [hstatus]

/-- What it takes to start in the step that routes it. -/
theorem starts_iff (s : State) (i j : Instr) : starts s i j = true ↔
    engineWord i = true ∧ ready s i = true ∧ effInstr (cx s).fr i = some j ∧ s.sch.eager = true
      ∧ (getE (cx s).eng (Safety.engineOf j)).queue = [] ∧ (getE (cx s).eng (Safety.engineOf j)).flying = []
      ∧ mayStart (getCtx (routed s i j) s.sch.cur) s.sch.cur (Safety.engineOf j) (queued s i j) = true
      ∧ (tested s i j).1 = false ∧ (claimFor (tested s i j).2 s.sch.cur (Safety.engineOf j) true).2 = true := by
  simp only [starts, Bool.and_eq_true, beq_iff_eq, List.isEmpty_iff, Bool.not_eq_true', and_assoc]

theorem completes_iff (s : State) (i j : Instr) : completes s i j = true ↔ starts s i j = true ∧ ∃ d r n,
    wordRun s i j = (.ok d, r) ∧ d.fin = some n
      ∧ replyRoom (getCtx (popHead r.s s.sch.cur (Safety.engineOf j) (queued s i j) (flightOf (queued s i j) r d)) s.sch.cur) n
        = true
      ∧ isMark (queued s i j) = false := by
  unfold completes
  rw [Bool.and_eq_true, and_congr_right_iff]
  intro _
  generalize wordRun s i j = x
  obtain ⟨_ | d, r⟩ := x
  · simp
  · cases hd : d.fin <;> simp [hd]

/-- A word's start finds the context as it was routed, but for its run (R225, R438). -/
theorem getCtx_startState {s : State} {i j : Instr} (h : starts s i j = true) :
    getCtx (startState s i j) s.sch.cur = getCtx (routed s i j) s.sch.cur := by
  obtain ⟨-, hready, -, -, -, -, -, -, hclaim⟩ := (starts_iff s i j).1 h
  have hrun : (cx s).life.status = .running := ((ready_iff s i).1 hready).1
  have htested : getCtx (tested s i j).2 s.sch.cur = getCtx (routed s i j) s.sch.cur := getCtx_congr (queueParity_ctxs ..) _
  refine (getCtx_claimFor ?_ hclaim).trans htested
  rw [htested, routed_life, hrun]

/-- After the run of a word, its engine still holds it alone at its queue head, and its context still runs. -/
theorem wordRun_engine {s : State} {i j : Instr} (h : starts s i j = true) :
    getE (getCtx (wordRun s i j).2.s s.sch.cur).eng (Safety.engineOf j)
        = { clearHead (getE (cx s).eng (Safety.engineOf j)) with queue := [queued s i j] }
      ∧ (getCtx (wordRun s i j).2.s s.sch.cur).life.status = .running := by
  obtain ⟨-, hready, -, -, hq, -⟩ := (starts_iff s i j).1 h
  have hrun : (cx s).life.status = .running := ((ready_iff s i).1 hready).1
  have hsame := runHead_sameEngines (startState s i j) s.sch.cur (Safety.engineOf j) (queued s i j)
  constructor
  · refine (hsame.engine _ _).trans ?_
    rw [getCtx_startState h, getE_routed i hq]
  · refine (hsame.status _).trans ?_
    rw [getCtx_startState h, routed_life, hrun]

/-- The word starts as its run leaves the machine. -/
theorem engineStep_routed {s : State} {i j : Instr} {d : EDone} {r : ERun} (h : starts s i j = true)
    (hrun : wordRun s i j = (.ok d, r)) :
    engineStep (routed s i j) s.sch.cur (Safety.engineOf j)
      = popHead r.s s.sch.cur (Safety.engineOf j) (queued s i j) (flightOf (queued s i j) r d) := by
  obtain ⟨-, -, -, -, hq, hf, hmay, hparity, hclaim⟩ := (starts_iff s i j).1 h
  have hrouted := getE_routed i hq
  rw [engineStep_idle (by rw [hrouted]; exact hf), startHead_starts (by rw [hrouted]) hmay hparity hclaim]
  exact startWord_ok hrun

end Sys2Proof.Machine
end

section

namespace Sys2Proof.Proofs

open Sys2Proof Sys2Proof.Machine Sys2Proof.Safety Sys2Proof.Claims

/-- Settles O12: nothing that a word's run does changes the engines of a context, so the word that starts at the head of its idle
engine's queue is the one that then completes there. -/
theorem engineWordCompletes : Obligations.EngineWordCompletes := by
  unfold Obligations.EngineWordCompletes
  intro s i j h
  obtain ⟨hstarts, d, r, n, hrun, hfin, hroom, hmark⟩ := (completes_iff s i j).1 h
  obtain ⟨hword, hready, heff, heager, hq, hf, -⟩ := (starts_iff s i j).1 hstarts
  obtain ⟨heng, hstatus⟩ := wordRun_engine hstarts
  rw [hrun] at heng hstatus
  have hhead : (getE (getCtx r.s s.sch.cur).eng (engineOf j)).headOk = false := by rw [heng]; rfl
  have hflying : (getE (getCtx r.s s.sch.cur).eng (engineOf j)).flying = [] := by rw [heng]; exact hf
  refine ⟨d, n, r, _, _, hrun, hfin, popHead_startsIn _ _ _ _ hhead, finished_completesIn .., finished_popHead_onlyCtx .., ?_⟩
  rw [exec_engineWord hword, issue_started hready heff heager hq hf, engineStep_routed hstarts hrun]
  exact congrArg _ (completeWord_popHead hflying hhead hstatus hfin hmark hroom)

end Sys2Proof.Proofs
end

section

/-! # States that refute a statement of the execution model

A head word that has been judged (R307), a load that waits in the buffer (R318), and a table entry whose line leaves the L2 while a
walk goes on (R123). -/

namespace Sys2Proof.Machine

open Sys2Proof.Safety Sys2Proof.Claims

/-- The state that an instruction leaves; the state itself where it stops. -/
def leftBy (i : Instr) (s : State) : State :=
  match exec i s with
  | .next t => t
  | _ => s

theorem leftBy_eq {i : Instr} {s t : State} (h : exec i s = .next t) : leftBy i s = t := by rw [leftBy, h]

/-! ### A judged head word (R307) -/

/-- VREPLY of v0, as the queue of a vector engine holds it. -/
def replyWord : QWord := ⟨.vreply true 0 0, 0, 0, 0, captureOf Ctx.reset (.vreply true 0 0) 0⟩

/-- Sequencer 0 runs a stream, whose vector engine has one word in its queue. -/
def streamWaits : State :=
  setCtx State.reset (.seq 0) { Ctx.reset with
    life := { Life.reset with status := .running }
    eng := setE Engines.reset .v { EngineSt.reset with queue := [replyWord] } }

/-- The word has passed its checks at the queue head before it starts (R307). -/
def streamJudged : State := checkHead streamWaits (.seq 0) .v replyWord

theorem streamJudged_headOk : (getE (getCtx streamJudged (.seq 0)).eng .v).headOk = true := by decide +kernel

/-- The word's start takes the note with it. -/
theorem streamJudged_wordStart_headOk :
    (getE (getCtx (leftBy (.wordStart (.seq 0) .v) streamJudged) (.seq 0)).eng .v).headOk = false := by decide +kernel

theorem runHead_streamJudged_isOk : (runHead streamJudged (.seq 0) .v replyWord).1.isOk = true := by decide +kernel

/-- A placed spore whose query engine is idle, with the note that a head word has been judged. -/
def queryJudged : State :=
  let s := placeWord State.reset 0
  updEng s s.sch.cur .q fun x => { x with headOk := true }

theorem queryJudged_headOk : (getE (cx queryJudged).eng .q).headOk = true := by decide +kernel

theorem queryJudged_starts : starts queryJudged (.qstat true 0 0) (.qstat true 0 0) = true := by decide +kernel

theorem queryJudged_calm : calm queryJudged (.qstat true 0 0) 1 := by
  unfold calm memoriesCanonical replyFits
  decide +kernel

theorem engineOf_qstat : Safety.engineOf (.qstat true 0 0) = .q := by decide +kernel

theorem queryJudged_qstat_headOk :
    (getE (getCtx (leftBy (.qstat true 0 0) queryJudged) queryJudged.sch.cur).eng .q).headOk = false := by decide +kernel

/-! ### A load in the buffer (R318, log 89) -/

/-- A handler's load of 7 into s5 waits in the buffer when TLBINV comes. -/
def loadWaits : State :=
  let s := placeWord State.reset 0
  let s := updCtx s s.sch.cur fun c => { c with trap := { c.trap with smode := true } }
  { s with mem := { s.mem with
      dram := mwrite s.mem.dram 0x201000 [7], buf := [⟨0, ⟨0, 0, 0x201000, false⟩, .load 5 8 false⟩] } }

theorem loadWaits_ready : ready loadWaits (.tlbinv true 0 0 0 0) = true := by decide +kernel

theorem loadWaits_asidOk : asidOk loadWaits (cx loadWaits).life.part (src (cx loadWaits) 1 0).toNat = true := by decide +kernel

theorem getS_congr {c d : Ctx} (h : c.arch.s = d.arch.s) (r : Nat) : getS c r = getS d r := by rw [getS, getS, h]

/-- s5 once TLBINV is over. -/
theorem loadWaits_tlbInvalDone_s5 :
    getS (getCtx (leftBy (.tlbInvalDone loadWaits.sch.uid) (leftBy (.tlbinv true 0 0 0 0) loadWaits)) loadWaits.sch.cur) 5
      ≠ getS (cx loadWaits) 5 := by
  decide +kernel

/-! ### A table entry that leaves the L2 during a walk (R123, R125, R438) -/

/-- A launch of one stage, and item 11 of it, whose spore waits until the counter at 0x1000 holds 2. -/
def waitingPart (q : Part) : Part :=
  { q with
    regs := kput q.regs 0x030 0x10000
    insts := [⟨5, 9, 0, [], 0, [], [], [], 0, []⟩]
    items := [⟨11, 5, 0, .waiting 0x1000 0 2, Spore.reset, 0, none, none⟩] }

/-- The root entry at 0x1000 names a table at 0x80001000, whose line shares the set of the root entry's line and lies, clean, in
the one way that the partition may fill; below it DRAM has an uncorrectable error. -/
def tableEvicted : State :=
  let s := updPart (placeWord State.reset 0) 0 waitingPart
  { s with
    mem := { s.mem with
      dram := mwrite (mwrite s.mem.dram 0x1000 (leList 8 0x80001001)) 0x80001000 (leList 8 0x3003)
      errs := [⟨.dram, 0, 0x80001000 / 32, false⟩] }
    cache := { s.cache with l2 := [(l2Key 0x80001000, [⟨0, 0x80001000 / 512, 0, 0, [⟨0, 3, false⟩]⟩])] } }

/-- The read of the waiting spore's counter. -/
def counterRead : Except Xlat (List Byte) × State := devReadS tableEvicted sysTlb 0 0 0x1000 8 true

theorem counterRead_zero : counterRead.1.toOption = some (List.replicate 8 0) := by decide +kernel

theorem counterRead_eq : devReadS tableEvicted sysTlb 0 0 0x1000 8 true = (.ok (List.replicate 8 0), counterRead.2) := by
  refine Prod.ext ?_ rfl
  change counterRead.1 = _
  have h := counterRead_zero
  cases hc : counterRead.1 with
  | error e => rw [hc] at h; cases h
  | ok bs =>
    rw [hc] at h
    exact congrArg _ (Option.some.inj h)

/-- The walk logs the error, and the partition's interrupt register says so. -/
theorem counterRead_irqst : preg counterRead.2 0 0x600 ≠ preg tableEvicted 0 0x600 := by decide +kernel

end Sys2Proof.Machine

end

section

namespace Sys2Proof.Proofs

open Sys2Proof Sys2Proof.Machine Sys2Proof.Safety Sys2Proof.Claims

/-- Refutes O53: the statement has a started word leave the note that its engine's head has been judged (`headOk`), which a stream
may hold before the word starts (R307); the start of the word clears it with the rest of what the engine kept of the word. -/
theorem not_wordsAtEngines : ¬ Obligations.WordsAtEngines := by
  unfold Obligations.WordsAtEngines Claims.wordStartAndComplete
  rintro ⟨⟨hstart, -⟩, -⟩
  obtain ⟨d, hd⟩ : ∃ d, (runHead streamJudged (.seq 0) .v replyWord).1 = .ok d := by
    have hok := runHead_streamJudged_isOk
    cases hr : (runHead streamJudged (.seq 0) .v replyWord).1 with
    | ok d => exact ⟨d, rfl⟩
    | error e => rw [hr] at hok; cases hok
  obtain ⟨t, ht, ⟨hengine, -⟩, -⟩ := hstart streamJudged streamJudged streamJudged (.seq 0) .v replyWord [] d
    (runHead streamJudged (.seq 0) .v replyWord).2 (by decide +kernel) (by decide +kernel) (by decide +kernel) rfl rfl
    (Prod.ext hd rfl)
  have hkept : (getE (getCtx t (.seq 0)).eng .v).headOk = true := by
    rw [hengine, (runHead_sameEngines streamJudged (.seq 0) .v replyWord).engine]
    exact streamJudged_headOk
  rw [← leftBy_eq ht, streamJudged_wordStart_headOk] at hkept
  cases hkept

/-- Refutes O50: with a note that the query engine's head has been judged, QSTAT goes on as the statement asks, and the engine does
not keep the note once the word has left it. -/
theorem not_forwardedQueryWords : ¬ Obligations.ForwardedQueryWords := by
  unfold Obligations.ForwardedQueryWords Claims.queryStatusWords
  rintro ⟨-, ⟨hqstat, -⟩, -⟩
  obtain ⟨t, ht, -, -, -, -, ⟨hengine, -⟩, -⟩ := hqstat queryJudged (.qstat true 0 0) true 0 0 queryJudged_starts queryJudged_calm
    (by decide +kernel)
  rw [engineOf_qstat] at hengine
  have hkept : (getE (getCtx t queryJudged.sch.cur).eng .q).headOk = true := by
    rw [hengine]
    exact queryJudged_headOk
  rw [← leftBy_eq ht, queryJudged_qstat_headOk] at hkept
  cases hkept

/-- Refutes O60: the end of TLBINV performs every access that waits in the buffer (R387, log 89), and a load among them writes the
register that the statement has unchanged. -/
theorem not_commandWordsComplete : ¬ Obligations.CommandWordsComplete := by
  unfold Obligations.CommandWordsComplete
  rintro ⟨-, htlbinv⟩
  obtain ⟨t, u, ht, hu, -, hregs, -⟩ := htlbinv loadWaits true 0 0 0 0 loadWaits_ready (by decide +kernel) loadWaits_asidOk
    (by decide +kernel)
  have hs5 := loadWaits_tlbInvalDone_s5
  rw [leftBy_eq ht, leftBy_eq hu] at hs5
  exact hs5 (getS_congr hregs 5)

/-- Refutes O29: the walk to the counter of a waiting spore can meet an uncorrectable error in a table that its own access has put
out of the L2; it logs it, and the partition's interrupt register does not stay as the statement has it. -/
theorem not_stageEvents : ¬ Obligations.StageEvents := by
  unfold Obligations.StageEvents
  rintro ⟨-, -, hwait, -⟩
  obtain ⟨t, -, ht⟩ := hwait tableEvicted counterRead.2 0 11 ⟨11, 5, 0, .waiting 0x1000 0 2, Spore.reset, 0, none, none⟩
    ⟨5, 9, 0, [], 0, [], [], [], 0, []⟩ 0x1000 2 0 (List.replicate 8 0) (by decide) (by decide +kernel) rfl rfl (by decide +kernel)
    (by unfold recordKept; decide +kernel) counterRead_eq
  rw [if_neg (by decide)] at ht
  obtain ⟨-, hparts⟩ := ht
  exact counterRead_irqst (by rw [preg, preg, getPart, getPart, hparts])

end Sys2Proof.Proofs

end

section

/-! # What a bank does at a boundary without a word of its own (R74, R91, R189, R342 to R347, R374)

First a trap of a bank in user mode: the context it leaves, and what its ring entry leaves alone. -/

namespace Sys2Proof.Machine

open Sys2Proof.Safety Sys2Proof.Claims

theorem devWrite_error_accessKeeps {s u : State} {cache p asid va : Nat} {bs : List Byte} {user : Bool} {mark : Nat} {x : Xlat}
    (h : devWrite s cache p asid va bs user mark = .error (x, u)) : AccessKeeps s u := by
  unfold devWrite at h
  split at h
  · cases h
  · rename_i hv
    cases h
    exact ((sysPieces_readKeeps ..).of_answer hv).toAccessKeeps

/-- An entry of the trap ring writes TRTAIL, TRLOST and IRQST, and no other register of the partition (R350). -/
theorem preg_appendTrapRing (s : State) (p : Nat) (rcd : List Byte) {o : Nat} (htail : o ≠ 0x068) (hlost : o ≠ 0x078)
    (hirq : o ≠ 0x600) : preg (appendTrapRing s p rcd) p o = preg s p o := by
  unfold appendTrapRing
  extract_lets tail head size lost
  split
  · exact preg_setPreg_other _ _ hlost
  · split
    · rename_i h
      exact (preg_setPreg_other _ _ hlost).trans ((devWrite_error_accessKeeps h).preg p o hirq)
    · rename_i h
      exact ((raiseIrq_accessKeeps ..).preg p o hirq).trans
        ((preg_setPreg_other _ _ htail).trans ((devWrite_accessKeeps h).preg p o hirq))

/-- The cause of a trap is the low byte of TCAUSE (R340). -/
theorem tcauseOf_cause (c : Ctx) (t : TrapReq) : (tcauseOf c t).toNat % 256 = t.cause % 256 := by
  unfold tcauseOf
  rw [BitVec.toNat_ofNat]
  omega

/-- The context once a trap has been taken in user mode (R344). -/
def trapTaken (c : Ctx) (t : TrapReq) : Ctx :=
  { c with
    trap := { c.trap with smode := true, tcause := tcauseOf c t, tret := 0, tepc := t.tepc, twpc := t.twpc, tva := t.va,
                          tdet := t.det, resume := if t.inside then resumeMac c else none
                          denied := if t.origin = .engine ∨ t.origin = .bank then deniedFront c else none }
    fr := { Front.reset with pc := c.trap.stvec }
    life := { c.life with drain := .none } }

/-- A trap in user mode changes its context, and with TRLOG appends to the trap ring. -/
theorem takeTrap_user {s : State} {a : AgentId} (h : (getCtx s a).trap.smode = false) (t : TrapReq) :
    takeTrap s a t = setCtx s a (trapTaken (getCtx s a) t)
      ∨ ∃ rcd, takeTrap s a t = appendTrapRing (setCtx s a (trapTaken (getCtx s a) t)) (getCtx s a).life.part rcd := by
  unfold takeTrap
  extract_lets c
  rw [if_neg (by simp [c, h])]
  split
  · exact .inr ⟨_, rfl⟩
  · exact .inl rfl

theorem getCtx_takeTrap {s : State} {a : AgentId} (h : (getCtx s a).trap.smode = false) (t : TrapReq) :
    getCtx (takeTrap s a t) a = trapTaken (getCtx s a) t := by
  obtain ht | ⟨rcd, ht⟩ := takeTrap_user h t
  · rw [ht, getCtx_setCtx]
  · rw [ht, getCtx_congr (appendTrapRing_ctxs ..), getCtx_setCtx]

theorem preg_takeTrap {s : State} {a : AgentId} (h : (getCtx s a).trap.smode = false) (t : TrapReq) {o : Nat} (htail : o ≠ 0x068)
    (hlost : o ≠ 0x078) (hirq : o ≠ 0x600) :
    preg (takeTrap s a t) (getCtx s a).life.part o = preg s (getCtx s a).life.part o := by
  obtain ht | ⟨rcd, ht⟩ := takeTrap_user h t
  · rw [ht, preg_setCtx]
  · rw [ht, preg_appendTrapRing _ _ _ htail hlost hirq, preg_setCtx]

/-- A trap taken in user mode, whatever then becomes of the engines' notes (R344). -/
theorem tookTrap_of_trapTaken {s t : State} {a : AgentId} {r : TrapReq} {g : Engines} {cause : Nat}
    (hctx : getCtx t a = { trapTaken (getCtx s a) r with eng := g }) (hcause : r.cause % 256 = cause)
    (hpc : r.tepc = curPc (getCtx s a))
    (heng : ∀ e, tookTrap.taken (getE g e) = tookTrap.taken (getE (getCtx s a).eng e)) : tookTrap s t a cause r.det := by
  unfold tookTrap
  rw [hctx]
  exact ⟨rfl, (tcauseOf_cause ..).trans hcause, rfl, hpc, rfl, rfl, heng⟩

/-- A condition of the bank is taken at the current word (R342). -/
theorem bankTrap_tookTrap {s : State} {a : AgentId} (h : (getCtx s a).trap.smode = false) {cause : Nat} (hc : cause < 256)
    (det : Word) : tookTrap s (bankTrap s a cause det) a cause det := by
  have hctx : getCtx (bankTrap s a cause det) a
      = { trapTaken (getCtx s a) ⟨cause, .bank, curEngine s a, curPc (getCtx s a), curPc (getCtx s a), 0, det, true⟩ with
          eng := { (getCtx s a).eng with barrier := (getCtx (bankTrap s a cause det) a).eng.barrier } } := by
    simp only [bankTrap, getCtx_updCtx, getCtx_takeTrap h]
    rfl
  exact tookTrap_of_trapTaken hctx (Nat.mod_eq_of_lt hc) rfl fun e => by cases e <;> rfl

/-! ### The entry of an engine's trap -/

theorem taken_seenHeld (e : Engine) (x : EngineSt) (f : Engine) : tookTrap.taken (seenHeld e x f) = tookTrap.taken x := by
  unfold seenHeld tookTrap.taken
  cases x.held with
  | none => rfl
  | some t =>
    dsimp only [Option.map_some]
    split <;> rfl

/-- A change of every engine in turn is that change of each. -/
theorem getE_foldl_setE (f : Engine → EngineSt → EngineSt) (g : Engines) (e : Engine) :
    getE (allEngines.foldl (fun g d => setE g d (f d (getE g d))) g) e = f e (getE g e) := by
  cases e <;> rfl

theorem takeEngineTrap_tookTrap {s : State} {a : AgentId} {e : Engine} {x : TrapInfo} (h : (getCtx s a).trap.smode = false)
    (hx : firstHeld (getCtx s a).eng = some (e, x)) : tookTrap s (takeEngineTrap s a) a (x.cause % 256) x.det
      ∧ (getCtx (takeEngineTrap s a) a).trap.twpc = x.pc ∧ (getCtx (takeEngineTrap s a) a).trap.tva = x.va := by
  have hctx : getCtx (takeEngineTrap s a) a
      = { trapTaken (getCtx s a) ⟨x.cause, .engine, engineField e, x.pc, curPc (getCtx s a), x.va, x.det, true⟩ with
          eng := { allEngines.foldl (fun g f => setE g f (seenHeld e (getE g f) f)) (getCtx s a).eng with
            barrier := lowBarrier (getCtx s a).eng.barrier x.uid } } := by
    simp only [takeEngineTrap, hx, getCtx_updCtx, getCtx_takeTrap h]
    rfl
  refine ⟨tookTrap_of_trapTaken hctx rfl rfl fun d => ?_, congrArg (fun c => c.trap.twpc) hctx, congrArg (fun c => c.trap.tva) hctx⟩
  have hd := getE_foldl_setE (fun f y => seenHeld e y f) (getCtx s a).eng d
  refine Eq.trans ?_ ((congrArg _ hd).trans (taken_seenHeld ..))
  cases d <;> rfl

/-- The watchdog's count goes on, modulo its width. -/
theorem wbits_setBits_high (x : Word) (v : Nat) : wbits (BitVec.ofNat 64 (setBits x.toNat 63 32 v)) 63 32 = v % 2 ^ 32 := by
  have hx := x.isLt
  rw [wbits, BitVec.toNat_ofNat]
  simp only [setBits, bits]
  omega

/-! ### The timeout of WFE -/

/-- A WFE that stands alone goes on at the next word (R183, R189). -/
theorem pastWord_wfe_pc (seq : Bool) {c : Ctx} (hmac : c.fr.mac = none) (hpfx : c.fr.pfx = Prefixes.reset) (z : Bool) (n : Nat) :
    (pastWord seq c (.wfe z) n).pc = c.fr.pc + 4 := by
  simp only [pastWord, hmac, hpfx]
  rfl

theorem wfeTimeout_spec {s : State} {a : AgentId} (hrun : (getCtx s a).life.status = .running) (hwfe : (getCtx s a).fr.stall = .wfe)
    (hmac : (getCtx s a).fr.mac = none) (hpfx : (getCtx s a).fr.pfx = Prefixes.reset) :
    gives (.wfeTimeout a) s fun t => (getCtx t a).fr.pc = (getCtx s a).fr.pc + 4 ∧ (getCtx t a).eng.event = false
      ∧ (getCtx t a).arch = (getCtx s a).arch ∧ t.mem = s.mem := by
  refine ⟨retire (clearEvent s a) a (.wfe true), ?_, ?_, ?_, ?_, rfl⟩
  · change execWfeTimeout a s = _
    simp only [execWfeTimeout, hrun, hwfe, and_self, if_true]
  · simp only [retire, clearEvent, updCtx_updCtx, getCtx_updCtx]
    exact pastWord_wfe_pc _ hmac hpfx _ _
  · simp only [retire, clearEvent, updCtx_updCtx, getCtx_updCtx]
  · simp only [retire, clearEvent, updCtx_updCtx, getCtx_updCtx]

end Sys2Proof.Machine
end

section

/-! # What the scheduler finds kept once a bank's accesses are performed and its bank is freed (R74, R318, R324)

The accesses of a context that wait in the buffer change memories, caches, registers of their contexts and IRQST. The release of a
bank changes contexts, groups, operations, and with a function-level reset the rings and the interrupt registers of a partition
(R419). Neither changes the time, nor a partition's items, records and lost pages, nor disables one. -/

namespace Sys2Proof.Machine

open Sys2Proof.Safety Sys2Proof.Claims

/-- A partition with its register block, its rings and its waiting function-level resets put aside. -/
def schedPart (q : Part) : Part := { q with regs := [], rings := Vector.replicate 4 HostRing.reset, flr := [] }

/-- The time and what a partition schedules are as they were, and a partition that was enabled is (R354). -/
structure SchedKeeps (s t : State) : Prop where
  now : t.now = s.now
  part : ∀ p, schedPart (getPart t p) = schedPart (getPart s p)
  on : ∀ p, partOn s p = true → partOn t p = true

namespace SchedKeeps

variable {s t u : State}

theorem refl (s : State) : SchedKeeps s s := ⟨rfl, fun _ => rfl, fun _ h => h⟩

theorem trans (h : SchedKeeps s t) (k : SchedKeeps t u) : SchedKeeps s u :=
  ⟨k.now.trans h.now, fun p => (k.part p).trans (h.part p), fun p hp => k.on p (h.on p hp)⟩

/-- A step that leaves the time and the partitions alone. -/
theorem of_parts (hn : t.now = s.now) (hp : t.parts = s.parts) : SchedKeeps s t := by
  have hq : ∀ p, getPart t p = getPart s p := fun p => by simp only [getPart, hp]
  exact ⟨hn, fun p => by rw [hq], fun p h => by simpa only [partOn, preg, hq] using h⟩

theorem of_access (h : AccessKeeps s t) : SchedKeeps s t :=
  ⟨(congrArg State.now h.beside :), fun p => (congrArg schedPart (h.part p) :), fun p hp => by rwa [partOn, h.preg p 0 (by decide)]⟩

theorem foldl {α : Type} {f : State → α → State} (hf : ∀ s x, SchedKeeps s (f s x)) (l : List α) (s : State) :
    SchedKeeps s (l.foldl f s) := by
  induction l generalizing s with
  | nil => exact .refl s
  | cons x r ih => exact (hf s x).trans (ih _)

theorem items (h : SchedKeeps s t) (p : Nat) : (getPart t p).items = (getPart s p).items := (congrArg Part.items (h.part p) :)
theorem lost (h : SchedKeeps s t) (p : Nat) : (getPart t p).lost = (getPart s p).lost := (congrArg Part.lost (h.part p) :)

theorem findItem (h : SchedKeeps s t) (p id : Nat) : findItem (getPart t p) id = findItem (getPart s p) id := by
  rw [Machine.findItem, Machine.findItem, h.items]

end SchedKeeps

/-! ### Buffered accesses -/

/-- What an access of a control core leaves of every context: all but registers. -/
def registersAside (c : Ctx) : Ctx := { c with arch := Arch.reset, csr := UCsr.reset }

/-- What the accesses of control cores leave. -/
structure ActKeeps (s t : State) : Prop extends SchedKeeps s t where
  ctx : ∀ b, registersAside (getCtx t b) = registersAside (getCtx s b)

namespace ActKeeps

variable {s t u : State}

theorem refl (s : State) : ActKeeps s s := ⟨.refl s, fun _ => rfl⟩

theorem trans (h : ActKeeps s t) (k : ActKeeps t u) : ActKeeps s u :=
  ⟨h.toSchedKeeps.trans k.toSchedKeeps, fun b => (k.ctx b).trans (h.ctx b)⟩

theorem of_same (hc : t.ctxs = s.ctxs) (hn : t.now = s.now) (hp : t.parts = s.parts) : ActKeeps s t :=
  ⟨.of_parts hn hp, fun b => by rw [getCtx_congr hc]⟩

theorem of_access (h : AccessKeeps s t) : ActKeeps s t := ⟨.of_access h, fun b => by rw [h.getCtx]⟩

theorem foldl {α : Type} {f : State → α → State} (hf : ∀ s x, ActKeeps s (f s x)) (l : List α) (s : State) :
    ActKeeps s (l.foldl f s) := by
  induction l generalizing s with
  | nil => exact .refl s
  | cons x r ih => exact (hf s x).trans (ih _)

/-- Registers of a context change. -/
theorem setCtx {a : AgentId} {c : Ctx} (h : registersAside c = registersAside (getCtx s a)) : ActKeeps s (setCtx s a c) := by
  refine ⟨.of_parts rfl rfl, fun b => ?_⟩
  by_cases hk : ctxKey b = ctxKey a
  · have hb : ∀ t : State, getCtx t b = getCtx t a := fun t => by simp only [getCtx, hk]
    rw [hb, hb, getCtx_setCtx, h]
  · rw [getCtx_setCtx_other s c hk]

theorem life (h : ActKeeps s t) (b : AgentId) : (getCtx t b).life = (getCtx s b).life := (congrArg Ctx.life (h.ctx b) :)
theorem fr (h : ActKeeps s t) (b : AgentId) : (getCtx t b).fr = (getCtx s b).fr := (congrArg Ctx.fr (h.ctx b) :)

end ActKeeps

/-! ### The steps of a control core's access -/

theorem l2Range_accessKeeps (s : State) (part : Option Nat) (pa n m : Nat) (w pf : Bool) :
    AccessKeeps s (l2Range s part pa n m w pf) := .foldl (fun t x => (l2Access_readKeeps t part x m w pf).toAccessKeeps) _ s

theorem clearMarks_actKeeps (s : State) (sp : ErrSpace) (u x n : Nat) : ActKeeps s (clearMarks s sp u x n) := .of_same rfl rfl rfl

theorem dcFresh_actKeeps (s : State) (c pa n : Nat) : ActKeeps s (dcFresh s c pa n) := by
  unfold dcFresh
  split
  · exact .refl s
  · exact clearMarks_actKeeps ..

theorem noteTook_actKeeps (s : State) (c pa n : Nat) : ActKeeps s (noteTook s c pa n) := by
  unfold noteTook
  split
  · exact .refl s
  · exact .of_same rfl rfl rfl

theorem updCache_actKeeps (s : State) (a : AgentId) (f : KMap (List Byte) → KMap (List Byte)) : ActKeeps s (updCache s a f) :=
  .of_same rfl rfl rfl

theorem dcRenew_actKeeps (s : State) (key : Nat) (l : Loc) (n : Nat) : ActKeeps s (dcRenew s key l n) := by
  unfold dcRenew
  dsimp only
  split
  · exact ((dcFresh_actKeeps ..).trans (noteTook_actKeeps ..)).trans (.of_same rfl rfl rfl)
  · exact .refl s

theorem noteSaw_actKeeps (s : State) (key : Nat) (l : Loc) (n : Nat) : ActKeeps s (noteSaw s key l n) := by
  unfold noteSaw
  split
  · exact .of_same rfl rfl rfl
  · exact .refl s

theorem noteSawHeld_actKeeps (s : State) (key : Nat) (l : Loc) (n : Nat) : ActKeeps s (noteSawHeld s key l n) := by
  unfold noteSawHeld
  split
  · exact .of_same rfl rfl rfl
  · exact .refl s

theorem dcParity_actKeeps (s : State) (a : AgentId) (l : Loc) : ActKeeps s (dcParity s a l) := by
  unfold dcParity
  split
  · exact .refl s
  · dsimp only
    split
    · exact .refl s
    · refine .trans ?_ (updCache_actKeeps ..)
      exact ActKeeps.of_access (((AccessKeeps.refl s).withMem _).trans (countClass_accessKeeps _ _ _))

theorem dcFill_actKeeps (s : State) (a : AgentId) (l : Loc) : ActKeeps s (dcFill s a l) := by
  unfold dcFill
  split
  · exact ((dcFresh_actKeeps ..).trans (noteTook_actKeeps ..)).trans (updCache_actKeeps ..)
  · exact .refl s

theorem ctlL2_actKeeps (s : State) (a : AgentId) (l : Loc) (n : Nat) (w : Bool) : ActKeeps s (ctlL2 s a l n w) := by
  unfold ctlL2
  split
  · exact .refl s
  · dsimp only
    refine .trans ?_ (.of_access (l2Range_accessKeeps ..))
    split
    · exact .setCtx rfl
    · exact .refl s

theorem tookBytes_actKeeps (s : State) (own : Option Nat) (ps : List (Loc × Nat)) : ActKeeps s (tookBytes s own ps) := by
  cases own with
  | none => exact .refl s
  | some k => exact .foldl (fun t x => (dcRenew_actKeeps ..).trans (noteSaw_actKeeps ..)) ps s

theorem acquire_actKeeps (s : State) (a : AgentId) (scope : Nat) : ActKeeps s (acquire s a scope) := by
  unfold acquire
  split
  · exact .of_same rfl rfl rfl
  · exact .refl s

theorem keepPromo_actKeeps {write : State → State} (h : ∀ s, ActKeeps s (write s)) (s : State) (l : Loc) (amop : Bool) :
    ActKeeps s (keepPromo s l amop write) := by
  unfold keepPromo
  split
  · exact (h s).trans (.of_same rfl rfl rfl)
  · exact h s

theorem writeS_actKeeps (s : State) (a : AgentId) (r : Nat) (x : Word) : ActKeeps s (writeS s a r x) :=
  .setCtx (by simp only [registersAside, setS_life, setS_fr, setS_trap, setS_eng])

theorem ctlStore_actKeeps (s : State) (a : AgentId) (l : Loc) (bs : List Byte) : ActKeeps s (ctlStore s a l bs) :=
  ((ActKeeps.of_access (locWrite_accessKeeps s l bs)).trans (ctlL2_actKeeps ..)).trans (dcRenew_actKeeps ..)

theorem ctlLoad_actKeeps (s : State) (a : AgentId) (l : Loc) (n : Nat) : ActKeeps s (ctlLoad s a l n).2 := by
  have hp := dcParity_actKeeps s a l
  have hmiss := ((hp.trans (noteSaw_actKeeps _ (ctxKey a) l n)).trans (ctlL2_actKeeps _ a l n false)).trans (dcFill_actKeeps _ a l)
  unfold ctlLoad
  dsimp only
  split
  · split
    · exact hp.trans (noteSawHeld_actKeeps ..)
    · exact hmiss
  · exact hmiss

theorem ctlAtomic_actKeeps (s : State) (a : AgentId) (l : Loc) (amop : Bool) (x : Word) : ActKeeps s (ctlAtomic s a l amop x) :=
  ((noteSaw_actKeeps ..).trans (keepPromo_actKeeps (fun _ => ctlStore_actKeeps ..) _ _ _)).trans (dcRenew_actKeeps ..)

theorem homeRead_actKeeps (s : State) (a : AgentId) (l : Loc) (n : Nat) : ActKeeps s (homeRead s a l n) := tookBytes_actKeeps ..

/-- An access that waits in the buffer is performed (R318). -/
theorem doAct_actKeeps (s : State) (a : AgentId) (l : Loc) (x : HeldAct) : ActKeeps s (doAct s a l x) := by
  have hacquire : ∀ (acq : Bool) (t : State) (scope : Nat), ActKeeps s t → ActKeeps s (if acq then acquireAt t a l scope else t) :=
    fun acq t scope h => by
      split
      · exact h.trans (acquire_actKeeps ..)
      · exact h
  cases x with
  | store bs => exact ctlStore_actKeeps ..
  | load d n signed => exact (ctlLoad_actKeeps s a l n).trans (writeS_actKeeps ..)
  | amo d op x scope acq amop => exact (hacquire _ _ _ (ctlAtomic_actKeeps ..)).trans (writeS_actKeeps ..)
  | cas d old new scope acq amop =>
    refine (hacquire _ _ _ ?_).trans (writeS_actKeeps ..)
    split
    · exact ctlAtomic_actKeeps ..
    · exact (ctlL2_actKeeps ..).trans (homeRead_actKeeps ..)
  | signal x => exact ctlAtomic_actKeeps ..

theorem performOwn_actKeeps (s : State) (a : AgentId) : ActKeeps s (performOwn s a) := by
  unfold performOwn
  split
  · exact .refl s
  · refine .trans (t := { s with mem := { s.mem with buf := s.mem.buf.filter fun x => !(x.ctx == ctxKey a) } })
      (.of_same rfl rfl rfl) (.foldl (fun t x => ?_) _ _)
    exact doAct_actKeeps ..

/-- With none of its accesses in the buffer, a context performs none. -/
theorem performOwn_of_storesDone {s : State} {a : AgentId} (h : storesDone s a) : performOwn s a = s := by
  have hown : (s.mem.buf.filter fun x => x.ctx == ctxKey a) = [] :=
    List.filter_eq_nil_iff.mpr fun x hx => by simpa using h x hx
  have hrest : (s.mem.buf.filter fun x => !(x.ctx == ctxKey a)) = s.mem.buf :=
    List.filter_eq_self.mpr fun x hx => by simpa using h x hx
  unfold performOwn
  split
  · rfl
  · dsimp only
    rw [hown, hrest]
    rfl

end Sys2Proof.Machine
end

section

/-! # The release of a bank and the suspension of its spore (R74, R75, R78, R419) -/

namespace Sys2Proof.Machine

open Sys2Proof.Safety Sys2Proof.Claims

/-! ### A bank's release -/

theorem kfind_filter {α : Type} {m : KMap α} {k : Nat} {x : α} {keep : Nat × α → Bool} (h : kfind m k = some x)
    (hk : ∀ y, keep (k, y) = true) : kfind (m.filter keep) k = some x := by
  induction m with
  | nil => cases h
  | cons e r ih =>
    obtain ⟨j, y⟩ := e
    rw [kfind] at h
    split at h
    · cases h
    next hlow =>
      split at h
      next heq =>
        subst heq
        rw [List.filter_cons_of_pos (hk y), kfind, if_neg hlow, if_pos rfl]
        exact h
      next hne =>
        rw [List.filter_cons]
        split
        · rw [kfind, if_neg hlow, if_neg hne]
          exact ih h
        · exact ih h

/-- An enabled partition's PCTL has been written. -/
theorem kfind_pctl_of_partOn {s : State} {p : Nat} (h : partOn s p = true) :
    ∃ x, kfind (getPart s p).regs 0x000 = some x ∧ wbits x 0 0 = 1 := by
  unfold partOn preg kget at h
  cases hx : kfind (getPart s p).regs 0x000 with
  | none =>
    rw [hx] at h
    exact absurd h (by decide)
  | some x =>
    rw [hx] at h
    exact ⟨x, rfl, by simpa using h⟩

theorem partOn_of_kfind {s : State} {p : Nat} {x : Word} (hx : kfind (getPart s p).regs 0x000 = some x) (h : wbits x 0 0 = 1) :
    partOn s p = true := by simp [partOn, preg, kget, hx, h]

theorem setDreg_schedKeeps (s : State) (o : Nat) (x : Word) : SchedKeeps s (setDreg s o x) := .of_parts rfl rfl

/-- A change of one partition that keeps what it schedules and an enabling PCTL. -/
theorem updPart_schedKeeps {s : State} {p : Nat} {f : Part → Part} (hf : ∀ q, schedPart (f q) = schedPart q)
    (hon : ∀ q x, kfind q.regs 0x000 = some x → kfind (f q).regs 0x000 = some x) : SchedKeeps s (updPart s p f) := by
  have hpart : ∀ q, getPart (updPart s p f) q = getPart s q ∨ getPart (updPart s p f) q = f (getPart s q) := fun q => by
    by_cases hq : q = p
    · subst hq
      by_cases hp : q < 8
      · exact .inr (getPart_updPart s q f hp)
      · exact .inl (by simp only [updPart, setPart, hp, dite_false])
    · exact .inl (getPart_setPart_other s _ hq)
  refine ⟨updPart_now .., fun q => ?_, fun q hq => ?_⟩
  · obtain h | h := hpart q
    · rw [h]
    · rw [h, hf]
  · obtain ⟨x, hx, hbit⟩ := kfind_pctl_of_partOn hq
    obtain h | h := hpart q
    · exact partOn_of_kfind (h ▸ hx) hbit
    · exact partOn_of_kfind (h ▸ hon _ _ hx) hbit

/-- A function-level reset leaves PCTL and what the partition schedules (R419). -/
theorem flrReset_schedKeeps (s : State) (p fn : Nat) : SchedKeeps s (flrReset s p fn) := by
  unfold flrReset
  extract_lets gone t
  have ht : SchedKeeps s t := updPart_schedKeeps (fun _ => rfl) fun q x hx => kfind_filter hx fun _ => rfl
  split
  · exact ht.trans (setDreg_schedKeeps ..)
  · exact ht

theorem flrDue_schedKeeps (s : State) (p : Nat) : SchedKeeps s (flrDue s p) := by
  unfold flrDue
  split
  · exact .foldl (fun t fn => flrReset_schedKeeps t p fn) _ s
  · exact .refl s

theorem switchBank_schedKeeps (s : State) (core : Nat) : SchedKeeps s (switchBank s core) := by
  unfold switchBank
  extract_lets st busy
  split
  · exact .refl s
  · split
    · exact .of_parts rfl rfl
    · split
      · exact .of_parts rfl rfl
      · exact .refl s

/-- Operations that are added leave the memories and what is scheduled. -/
theorem foldl_addOp_keeps {α : Type} (o : α → Op) (l : List α) (s : State) :
    SchedKeeps s (l.foldl (fun t x => (addOp t (o x)).2) s) ∧ (l.foldl (fun t x => (addOp t (o x)).2) s).mem = s.mem :=
  ⟨.foldl (f := fun t x => (addOp t (o x)).2) (fun _ _ => .of_parts rfl rfl) l s,
    foldl_mem (fun t x => (addOp t (o x)).2) s.mem (fun _ _ h => h) l s rfl⟩

theorem setCtx_schedKeeps (s : State) (a : AgentId) (c : Ctx) : SchedKeeps s (setCtx s a c) := .of_parts rfl rfl
theorem updCtx_schedKeeps (s : State) (a : AgentId) (f : Ctx → Ctx) : SchedKeeps s (updCtx s a f) := .of_parts rfl rfl
theorem dropMatrix_schedKeeps (s : State) (core : Nat) (b : Bool) : SchedKeeps s (dropMatrix s core b) := .of_parts rfl rfl

theorem detachWords_schedKeeps (a : AgentId) (s : State) (e : Engine) : SchedKeeps s (detachWords a s e) := by
  unfold detachWords
  dsimp only
  split
  · exact (foldl_addOp_keeps _ _ s).1.trans (updCtx_schedKeeps ..)
  · exact (foldl_addOp_keeps _ _ s).1

/-- A bank whose accesses are done gives up its detached words, its matrix operand state and its registers (R74 step 6). -/
def bankReset (s : State) (core : Nat) (b : Bool) : State :=
  setCtx (dropMatrix (clearMarks (allEngines.foldl (detachWords (.bank core b)) s) .reg (ctxKey (.bank core b)) 0 128) core b)
    (.bank core b)
    { Ctx.reset with trap := { TrapCsr.reset with sscr := (getCtx s (.bank core b)).trap.sscr } }

theorem freeBank_eq (s : State) (core : Nat) (b : Bool) : freeBank s core b
    = flrDue (switchBank (bankReset (performOwn s (.bank core b)) core b) core)
        (getCtx (performOwn s (.bank core b)) (.bank core b)).life.part :=
  rfl

theorem bankReset_schedKeeps (s : State) (core : Nat) (b : Bool) : SchedKeeps s (bankReset s core b) := by
  have hu : SchedKeeps s (clearMarks (allEngines.foldl (detachWords (.bank core b)) s) .reg (ctxKey (.bank core b)) 0 128) :=
    .trans (.foldl (detachWords_schedKeeps _) _ s) (clearMarks_actKeeps ..).toSchedKeeps
  exact (hu.trans (dropMatrix_schedKeeps ..)).trans (setCtx_schedKeeps ..)

theorem freeBank_schedKeeps (s : State) (core : Nat) (b : Bool) : SchedKeeps s (freeBank s core b) := by
  rw [freeBank_eq]
  exact (((performOwn_actKeeps s _).toSchedKeeps.trans (bankReset_schedKeeps ..)).trans (switchBank_schedKeeps ..)).trans
    (flrDue_schedKeeps ..)

@[simp] theorem flrReset_ctxs (s : State) (p fn : Nat) : (flrReset s p fn).ctxs = s.ctxs := by
  unfold flrReset
  dsimp only
  split
  · exact updPart_ctxs ..
  · exact updPart_ctxs ..

@[simp] theorem flrDue_ctxs (s : State) (p : Nat) : (flrDue s p).ctxs = s.ctxs := by
  unfold flrDue
  split
  · exact foldl_ctxs (fun t fn => flrReset_ctxs t p fn) _ s
  · rfl

/-- The choice of the bank that runs next leaves an empty bank empty (R79). -/
theorem switchBank_empty {s : State} {core : Nat} {b : Bool} (h : (getCtx s (.bank core b)).life.status = .empty) :
    (getCtx (switchBank s core) (.bank core b)).life.status = .empty := by
  have hother : ∀ d, (getCtx s (.bank core d)).life.status = .standby → ∀ f,
      getCtx (updLife s (.bank core d) f) (.bank core b) = getCtx s (.bank core b) := fun d hd f =>
    getCtx_updCtx_other s _ fun hkey => by
      have hbank : getCtx s (.bank core b) = getCtx s (.bank core d) := by simp only [getCtx, hkey]
      rw [hbank, hd] at h
      cases h
  unfold switchBank
  extract_lets st busy
  split
  · exact h
  · split
    next hst =>
      rw [hother false (by simpa [st] using hst)]
      exact h
    · split
      next hst =>
        rw [hother true (by simpa [st] using hst)]
        exact h
      · exact h

/-- A freed bank is empty (R74 step 6). -/
theorem freeBank_empty (s : State) (core : Nat) (b : Bool) :
    (getCtx (freeBank s core b) (.bank core b)).life.status = .empty := by
  rw [freeBank_eq, getCtx_congr (flrDue_ctxs ..)]
  exact switchBank_empty (congrArg (fun c => c.life.status) (getCtx_setCtx ..))

/-! ### The memories -/

theorem sameBytes_trans {s t u : State} (h : sameBytes s t) (k : sameBytes t u) : sameBytes s u := by
  unfold sameBytes at *
  rw [k, h]

theorem sameBytes_of_mem {s t : State} (h : t.mem = s.mem) : sameBytes s t := by
  unfold sameBytes
  rw [h]

theorem clearMarks_sameBytes (s : State) (sp : ErrSpace) (u x n : Nat) : sameBytes s (clearMarks s sp u x n) := rfl

theorem flrDue_mem (s : State) (p : Nat) : (flrDue s p).mem = s.mem := by
  unfold flrDue
  split
  · refine foldl_mem _ s.mem (fun t fn ht => ?_) _ s rfl
    unfold flrReset
    dsimp only
    split
    · exact (updPart_mem ..).trans ht
    · exact (updPart_mem ..).trans ht
  · rfl

theorem switchBank_mem (s : State) (core : Nat) : (switchBank s core).mem = s.mem := by
  unfold switchBank
  extract_lets st busy
  split
  · rfl
  · split
    · rfl
    · split <;> rfl

theorem dropMatrix_mem (s : State) (core : Nat) (b : Bool) : (dropMatrix s core b).mem = s.mem := rfl

theorem detachWords_mem (a : AgentId) (s : State) (e : Engine) : (detachWords a s e).mem = s.mem := by
  unfold detachWords
  dsimp only
  split
  · exact (updCtx_mem ..).trans (foldl_addOp_keeps _ _ s).2
  · exact (foldl_addOp_keeps _ _ s).2

/-- A bank without a buffered access is freed without a change of a byte. -/
theorem freeBank_sameBytes {s : State} {core : Nat} {b : Bool} (h : storesDone s (.bank core b)) : sameBytes s (freeBank s core b) := by
  rw [freeBank_eq, performOwn_of_storesDone h]
  have hfold : (allEngines.foldl (detachWords (.bank core b)) s).mem = s.mem :=
    foldl_mem _ s.mem (fun t e ht => (detachWords_mem _ t e).trans ht) _ s rfl
  have hclear : sameBytes s (clearMarks (allEngines.foldl (detachWords (.bank core b)) s) .reg (ctxKey (.bank core b)) 0 128) :=
    sameBytes_trans (sameBytes_of_mem hfold) (clearMarks_sameBytes ..)
  have hreset : sameBytes s (bankReset s core b) :=
    sameBytes_trans hclear (sameBytes_of_mem ((setCtx_mem ..).trans (dropMatrix_mem ..)))
  exact sameBytes_trans hreset (sameBytes_of_mem ((flrDue_mem ..).trans (switchBank_mem ..)))

/-! ### Counters of the device -/

theorem dropLines_schedKeeps (s : State) (own : Option Nat) (ps : List (Loc × Nat)) : SchedKeeps s (dropLines s own ps) := by
  cases own with
  | none => exact .refl s
  | some k =>
    unfold dropLines
    dsimp only
    split
    · exact .of_parts rfl rfl
    · exact .refl s

theorem devAdd_schedKeeps (s : State) (cache p asid va : Nat) (x : Word) (own : Option Nat) :
    SchedKeeps s (devAdd s cache p asid va x own) := by
  have hx := xlate_readKeeps s cache p asid va .rmw true
  unfold devAdd
  split
  · exact .refl s
  · split
    next l t ht =>
      have ht : SchedKeeps s t := .of_access (hx.of_answer ht).toAccessKeeps
      split
      · exact (ht.trans (.of_access (logMemErr_readKeeps ..).toAccessKeeps)).trans (.of_access (l2Pieces_readKeeps ..).toAccessKeeps)
      · extract_lets old u v w
        have hu : SchedKeeps s u := ht.trans (tookBytes_actKeeps ..).toSchedKeeps
        have hv : SchedKeeps s v :=
          hu.trans (keepPromo_actKeeps (fun _ => .of_access (locWrite_accessKeeps ..)) _ _ _).toSchedKeeps
        exact (hv.trans (dropLines_schedKeeps ..)).trans (.of_access (l2Pieces_readKeeps ..).toAccessKeeps)
    next t _ ht => exact .of_access (hx.of_answer ht).toAccessKeeps

theorem addDone_schedKeeps (s : State) (p inst stage : Nat) : SchedKeeps s (addDone s p inst stage) := by
  unfold addDone
  split
  · split
    · exact .refl s
    · exact devAdd_schedKeeps ..
  · exact .refl s

/-! ### Suspension and retirement -/

/-- A retired item is in its partition no more (R365, R369). -/
theorem findItem_retireItem (s : State) {p : Nat} (hp : p < 8) (id : Nat) : findItem (getPart (retireItem s p id) p) id = none := by
  unfold retireItem
  split
  next h => exact h
  next x _ =>
    dsimp only
    rw [countFinished, getPart_updPart _ _ _ hp]
    refine List.find?_eq_none.mpr fun y hy => ?_
    replace hy : y ∈ (getPart (addDone _ p x.inst x.stage) p).items := hy
    rw [(addDone_schedKeeps ..).items, getPart_updPart _ _ _ hp] at hy
    simpa using (List.mem_filter.mp hy).2

@[simp] theorem leaveAll_ctxs (s : State) (a : AgentId) : (leaveAll s a).ctxs = s.ctxs := by cases a <;> rfl
@[simp] theorem leaveAll_mem (s : State) (a : AgentId) : (leaveAll s a).mem = s.mem := by cases a <;> rfl
@[simp] theorem leaveAll_sch (s : State) (a : AgentId) : (leaveAll s a).sch = s.sch := by cases a <;> rfl

theorem getCtx_leaveAll (s : State) (a b : AgentId) : getCtx (leaveAll s a) b = getCtx s b := getCtx_congr (leaveAll_ctxs s a) b

/-- EXIT of a bank frees it, and its item leaves the partition (R78). -/
theorem retireSpore_spec {s : State} {core : Nat} {b : Bool} (hp : (getCtx s (.bank core b)).life.part < 8) :
    let t := retireSpore s (.bank core b)
    let l := (getCtx s (.bank core b)).life
    (getCtx t (.bank core b)).life.status = .empty ∧ findItem (getPart t l.part) l.item = none := by
  refine ⟨?_, findItem_retireItem _ hp _⟩
  rw [retireSpore, getCtx_congr (retireItem_ctxs ..)]
  exact freeBank_empty s core b

/-- What a suspension makes of its item (R74, R369). -/
def suspendedItem (s : State) (r : Spore) (st : ItemState) (x : Item) : Item :=
  { x with st := st, rcd := r, aged := s.now, place := none }

section
variable {s : State} {p id : Nat} (hp : p < 8) (r : Spore) (st : ItemState) (hlost : (getPart s p).lost.contains r.slot.toNat = false)

include hp in
theorem findItem_updItem_suspended : findItem (getPart (updItem s p id (suspendedItem s r st)) p) id
    = (findItem (getPart s p) id).map (suspendedItem s r st) := findItem_updItem s hp id fun _ => rfl

include hp hlost

/-- The record of a suspended spore stands beside its carry. -/
theorem updRecord_suspended {x : Item} (hx : findItem (getPart s p) id = some x) :
    let t := updRecord s p id (suspendedItem s r st)
    findItem (getPart t p) id = some (suspendedItem s r st x) ∧ kfind (getPart t p).records r.slot.toNat = some (recordBytes r)
      ∧ sameBytes s t := by
  have hfind : findItem (getPart (updItem s p id (suspendedItem s r st)) p) id = some (suspendedItem s r st x) := by
    rw [findItem_updItem_suspended hp, hx]
    rfl
  dsimp only
  rw [updRecord, storeRecord_unplaced hfind rfl (by rwa [updItem_lost s hp]), getPart_updPart _ _ _ hp]
  refine ⟨hfind, kfind_kput_same .., ?_⟩
  exact sameBytes_trans (sameBytes_of_mem (updItem_mem s p id _))
    (sameBytes_trans (clearMarks_sameBytes ..) (sameBytes_of_mem (updPart_mem ..)))

theorem updRecord_suspended_sameBytes : sameBytes s (updRecord s p id (suspendedItem s r st)) := by
  cases hx : findItem (getPart s p) id with
  | some x => exact (updRecord_suspended hp r st hlost hx).2.2
  | none =>
    have hfind : findItem (getPart (updItem s p id (suspendedItem s r st)) p) id = none := by
      rw [findItem_updItem_suspended hp, hx]
      rfl
    rw [updRecord, storeRecord, hfind]
    exact sameBytes_of_mem (updItem_mem s p id _)

end

/-- A carry is written to its slot of scheduler memory, or the slot holds none (R67). -/
def writeCarry (s : State) (p slot len : Nat) (bytes : List Byte) : State :=
  updPart (clearMarks s .carry p slot 1) p fun q =>
    { q with carries := if len = 0 then kerase q.carries slot else kput q.carries slot bytes }

theorem writeCarry_ctxs (s : State) (p slot len : Nat) (bytes : List Byte) : (writeCarry s p slot len bytes).ctxs = s.ctxs :=
  updPart_ctxs ..

theorem writeCarry_sameBytes (s : State) (p slot len : Nat) (bytes : List Byte) : sameBytes s (writeCarry s p slot len bytes) :=
  sameBytes_trans (clearMarks_sameBytes ..) (sameBytes_of_mem (updPart_mem ..))

theorem writeCarry_frame (s : State) {p : Nat} (hp : p < 8) (slot len : Nat) (bytes : List Byte) :
    (writeCarry s p slot len bytes).now = s.now
      ∧ (getPart (writeCarry s p slot len bytes) p).items = (getPart s p).items
      ∧ (getPart (writeCarry s p slot len bytes) p).lost = (getPart s p).lost := by
  rw [writeCarry, getPart_updPart _ _ _ hp]
  exact ⟨updPart_now .., rfl, rfl⟩

/-- The state once the bank of a suspended spore is free and its carry is in scheduler memory, its accesses performed before (R74
step 5). -/
def carryKept (u : State) (core : Nat) (b : Bool) (reason : BitVec 2) : State :=
  writeCarry (freeBank u core b) (getCtx u (.bank core b)).life.part (leavingRecord u (.bank core b) reason).slot.toNat
    (wbits (getCtx u (.bank core b)).csr.carry 24 16)
    (winRead u (.bank core b) (1024 * wbits (getCtx u (.bank core b)).csr.carry 9 0)
      (1024 * wbits (getCtx u (.bank core b)).csr.carry 24 16))

/-- Its record is then accepted (R74 step 6). -/
def recordAccepted (u : State) (core : Nat) (b : Bool) (reason : BitVec 2) (st : State → ItemState) : State :=
  updRecord (carryKept u core b reason) (getCtx u (.bank core b)).life.part (getCtx u (.bank core b)).life.item
    (suspendedItem (carryKept u core b reason) (leavingRecord u (.bank core b) reason) (st (carryKept u core b reason)))

section
variable (s : State) (core : Nat) (b : Bool) (reason : BitVec 2) (st : State → ItemState)

theorem suspendSpore_enabled (h : partOn (freeBank (performOwn s (.bank core b)) core b)
      (getCtx (performOwn s (.bank core b)) (.bank core b)).life.part = true) :
    suspendSpore s (.bank core b) reason st = recordAccepted (performOwn s (.bank core b)) core b reason st := by
  simp only [suspendSpore, h, Bool.not_true, Bool.false_eq_true, if_false]
  rfl

theorem suspendSpore_disabled (h : partOn (freeBank (performOwn s (.bank core b)) core b)
      (getCtx (performOwn s (.bank core b)) (.bank core b)).life.part = false) :
    suspendSpore s (.bank core b) reason st = retireItem (freeBank (performOwn s (.bank core b)) core b)
      (getCtx (performOwn s (.bank core b)) (.bank core b)).life.part (getCtx (performOwn s (.bank core b)) (.bank core b)).life.item := by
  simp only [suspendSpore, h, Bool.not_false, if_true]

/-- A suspended spore's bank is empty, whatever becomes of its record (R74 step 6). -/
theorem suspendSpore_empty :
    (getCtx (suspendSpore s (.bank core b) reason st) (.bank core b)).life.status = .empty := by
  have hfree := freeBank_empty (performOwn s (.bank core b)) core b
  cases h : partOn (freeBank (performOwn s (.bank core b)) core b) (getCtx (performOwn s (.bank core b)) (.bank core b)).life.part with
  | true =>
    rw [suspendSpore_enabled s core b reason st h, recordAccepted, updRecord, getCtx_congr (storeRecord_ctxs ..),
      getCtx_congr (updItem_ctxs ..), carryKept, getCtx_congr (writeCarry_ctxs ..)]
    exact hfree
  | false =>
    rw [suspendSpore_disabled s core b reason st h, getCtx_congr (retireItem_ctxs ..)]
    exact hfree

variable {s core b} (hp : (getCtx s (.bank core b)).life.part < 8)

include hp in
theorem carryKept_frame :
    (carryKept s core b reason).now = s.now
      ∧ (getPart (carryKept s core b reason) (getCtx s (.bank core b)).life.part).items
        = (getPart s (getCtx s (.bank core b)).life.part).items
      ∧ (getPart (carryKept s core b reason) (getCtx s (.bank core b)).life.part).lost
        = (getPart s (getCtx s (.bank core b)).life.part).lost := by
  have hfree := freeBank_schedKeeps s core b
  obtain ⟨hnow, hitems, hlost⟩ := writeCarry_frame (freeBank s core b) hp (leavingRecord s (.bank core b) reason).slot.toNat
    (wbits (getCtx s (.bank core b)).csr.carry 24 16) (winRead s (.bank core b) (1024 * wbits (getCtx s (.bank core b)).csr.carry 9 0)
      (1024 * wbits (getCtx s (.bank core b)).csr.carry 24 16))
  exact ⟨hnow.trans hfree.now, hitems.trans (hfree.items _), hlost.trans (hfree.lost _)⟩

theorem recordAccepted_item (hp : (getCtx s (.bank core b)).life.part < 8) (hlost : slotHeldBy s (.bank core b)) {x : Item}
    (hx : findItem (getPart s (getCtx s (.bank core b)).life.part) (getCtx s (.bank core b)).life.item = some x) :
    let t := recordAccepted s core b reason st
    let l := (getCtx s (.bank core b)).life
    ∃ y u, findItem (getPart t l.part) l.item = some y ∧ y.rcd = leavingRecord s (.bank core b) reason
      ∧ kfind (getPart t l.part).records y.rcd.slot.toNat = some (recordBytes y.rcd) ∧ u.now = s.now ∧ y.st = st u := by
  obtain ⟨hnow, hitems, hkept⟩ := carryKept_frame reason hp
  rw [findItem, ← hitems] at hx
  obtain ⟨hfind, hrec, -⟩ := updRecord_suspended hp (leavingRecord s (.bank core b) reason) (st (carryKept s core b reason))
    (by rw [hkept]; exact hlost) hx
  exact ⟨_, carryKept s core b reason, hfind, rfl, hrec, hnow, rfl⟩

theorem recordAccepted_sameBytes (hp : (getCtx s (.bank core b)).life.part < 8) (hlost : slotHeldBy s (.bank core b))
    (hdone : storesDone s (.bank core b)) : sameBytes s (recordAccepted s core b reason st) := by
  obtain ⟨-, -, hkept⟩ := carryKept_frame reason hp
  have hcarry : sameBytes s (carryKept s core b reason) := sameBytes_trans (freeBank_sameBytes hdone) (writeCarry_sameBytes ..)
  exact sameBytes_trans hcarry (updRecord_suspended_sameBytes hp _ _ (by rw [hkept]; exact hlost))

/-- The record of a spore of an enabled partition is accepted once its accesses are performed. -/
theorem suspendSpore_accepts (hon : partOn s (getCtx s (.bank core b)).life.part = true) :
    suspendSpore s (.bank core b) reason st = recordAccepted (performOwn s (.bank core b)) core b reason st := by
  have hact := performOwn_actKeeps s (.bank core b)
  refine suspendSpore_enabled s core b reason st ?_
  rw [hact.life]
  exact (hact.toSchedKeeps.trans (freeBank_schedKeeps ..)).on _ hon

/-- A suspended spore's item: its record is in scheduler memory, and its state is the one asked for (R74, R369). -/
theorem suspendSpore_item (hp : (getCtx s (.bank core b)).life.part < 8)
    (hon : partOn s (getCtx s (.bank core b)).life.part = true) (hlost : slotHeldBy s (.bank core b)) {x : Item}
    (hx : findItem (getPart s (getCtx s (.bank core b)).life.part) (getCtx s (.bank core b)).life.item = some x) :
    let t := suspendSpore s (.bank core b) reason st
    let l := (getCtx s (.bank core b)).life
    ∃ y u, findItem (getPart t l.part) l.item = some y ∧ y.rcd = leavingRecord (performOwn s (.bank core b)) (.bank core b) reason
      ∧ kfind (getPart t l.part).records y.rcd.slot.toNat = some (recordBytes y.rcd) ∧ u.now = s.now ∧ y.st = st u := by
  have hact := performOwn_actKeeps s (.bank core b)
  have hlife := hact.life (.bank core b)
  have hspec := recordAccepted_item (s := performOwn s (.bank core b)) (core := core) (b := b) reason st (x := x)
  rw [slotHeldBy, hlife, hact.lost, hact.findItem] at hspec
  obtain ⟨y, u, hfind, hrcd, hrec, hnow, hst⟩ := hspec hp hlost hx
  rw [suspendSpore_accepts reason st hon]
  exact ⟨y, u, hfind, hrcd, hrec, hnow.trans hact.now, hst⟩

/-- With no access of its own in the buffer, a suspension changes no byte (log 89). -/
theorem suspendSpore_sameBytes (hp : (getCtx s (.bank core b)).life.part < 8)
    (hon : partOn s (getCtx s (.bank core b)).life.part = true) (hlost : slotHeldBy s (.bank core b))
    (hdone : storesDone s (.bank core b)) : sameBytes s (suspendSpore s (.bank core b) reason st) := by
  rw [suspendSpore_accepts reason st hon, performOwn_of_storesDone hdone]
  exact recordAccepted_sameBytes reason st hp hlost hdone

end

end Sys2Proof.Machine
end

section

/-! # The steps of R74 at a suspension word -/

namespace Sys2Proof.Machine

open Sys2Proof.Safety Sys2Proof.Claims

/-! ### Step 4 and its acceptance -/

/-- The state of a word whose step 4 is over: what has been withdrawn stands in its record (R74, R369). -/
def leaving (s : State) (a : AgentId) (d : Drain) : State :=
  updLife (stallAt s a .drain) a fun l =>
    { l with drain := d, withdrawn := false, rcd := { l.rcd with cancel := l.rcd.cancel || l.withdrawn } }

/-- The context of such a word. -/
def leavingCtx (c : Ctx) (d : Drain) : Ctx :=
  { c with
    fr := { c.fr with stall := .drain }
    life := { c.life with drain := d, withdrawn := false, rcd := { c.life.rcd with cancel := c.life.rcd.cancel || c.life.withdrawn } } }

@[simp] theorem getCtx_leaving (s : State) (a : AgentId) (d : Drain) : getCtx (leaving s a d) a = leavingCtx (getCtx s a) d := by
  simp only [leaving, updLife, stallAt, updFr, updCtx_updCtx, getCtx_updCtx]
  rfl

@[simp] theorem leaving_mem (s : State) (a : AgentId) (d : Drain) : (leaving s a d).mem = s.mem := rfl
@[simp] theorem leaving_now (s : State) (a : AgentId) (d : Drain) : (leaving s a d).now = s.now := rfl
@[simp] theorem leaving_parts (s : State) (a : AgentId) (d : Drain) : (leaving s a d).parts = s.parts := rfl

theorem beginLeave_eager {s : State} (h : s.sch.eager = true) (a : AgentId) (d : Drain) :
    beginLeave s a d = acceptStep (leaving s a d) a := by
  rw [beginLeave]
  exact if_pos h

theorem beginLeave_waits {s : State} (h : s.sch.eager = false) (a : AgentId) (d : Drain) : beginLeave s a d = leaving s a d := by
  rw [beginLeave]
  exact if_neg (by rw [show (updLife (stallAt s a .drain) a _).sch = s.sch from rfl, h]; exact Bool.false_ne_true)

section
variable {s : State} {a : AgentId} (herrs : s.mem.errs = [])
include herrs

/-- Without an error mark nothing keeps a record from its acceptance (R440). -/
theorem acceptStep_leaveYield (h : (getCtx s a).life.drain = .leaveYield) :
    acceptStep s a = suspendSpore s a 1 fun s => .ready s.now s.sch.uid := by
  have hbad : leaveBad s a = none := by simp [leaveBad, herrs]
  have hcorr : leaveCorr s a = s := by simp [leaveCorr, herrs]
  simp only [acceptStep, hbad, hcorr, h]

theorem acceptStep_leaveWait {va val : Word} {sc : Nat} (h : (getCtx s a).life.drain = .leaveWait va sc val) :
    acceptStep s a = suspendSpore s a 2 fun _ => .waiting va sc val := by
  have hbad : leaveBad s a = none := by simp [leaveBad, herrs]
  have hcorr : leaveCorr s a = s := by simp [leaveCorr, herrs]
  simp only [acceptStep, hbad, hcorr, h]

end

/-! ### Step 2 and step 3 -/

section
variable {s : State} {a : AgentId} (hrun : (getCtx s a).life.status = .running) (hquiet : quiet s a = true)
  (htrap : trapPending (getCtx s a) = false)
include hrun hquiet htrap

/-- Step 2 holds at a YIELD whose carry fits: it goes on, or begins step 4 (R74, R75). -/
theorem drainStep_yield (hd : (getCtx s a).life.drain = .yield) (hfits : carryFits (getCtx s a) = true) :
    drainStep s a = if (getCtx s a).life.yieldReq then beginLeave (updCtx (leaveAll s a) a markCancel) a .leaveYield
      else afterSuspension (updCtx (leaveAll s a) a markCancel) a := by
  simp only [drainStep, hd, hrun, hquiet, htrap, hfits, reduceCtorEq, ne_eq, not_true_eq_false, or_self, if_false, Bool.not_true,
    Bool.or_self, Bool.false_eq_true]

theorem drainStep_leaveYield (hd : (getCtx s a).life.drain = .leaveYield) : drainStep s a = acceptStep (leaveAll s a) a := by
  simp only [drainStep, hd, hrun, hquiet, htrap, reduceCtorEq, ne_eq, not_true_eq_false, or_self, if_false, Bool.not_true,
    Bool.or_self, Bool.false_eq_true]

theorem drainStep_exit (hd : (getCtx s a).life.drain = .exit) : drainStep s a = retireSpore (leaveAll s a) a := by
  simp only [drainStep, hd, hrun, hquiet, htrap, reduceCtorEq, ne_eq, not_true_eq_false, or_self, if_false, Bool.not_true,
    Bool.or_self, Bool.false_eq_true]

end

theorem markCancel_life (c : Ctx) : (markCancel c).life.part = c.life.part ∧ (markCancel c).life.item = c.life.item
    ∧ (markCancel c).life.rcd.slot = c.life.rcd.slot ∧ (markCancel c).life.status = c.life.status := by
  unfold markCancel
  split <;> exact ⟨rfl, rfl, rfl, rfl⟩

theorem markCancel_fr (c : Ctx) : (markCancel c).fr = c.fr := by
  unfold markCancel
  split <;> rfl

/-! ### A suspension of a spore that yields -/

/-- Two states agree in what a bank's spore leaves by: its place, its slot, its resume address, the partitions and the time. -/
structure SporeStands (a : AgentId) (s t : State) : Prop where
  now : t.now = s.now
  parts : t.parts = s.parts
  part : (getCtx t a).life.part = (getCtx s a).life.part
  item : (getCtx t a).life.item = (getCtx s a).life.item
  slot : (getCtx t a).life.rcd.slot = (getCtx s a).life.rcd.slot
  pc : (getCtx t a).fr.pc = (getCtx s a).fr.pc

namespace SporeStands

variable {a : AgentId} {s t : State}

theorem getPart (h : SporeStands a s t) (p : Nat) : getPart t p = getPart s p := by rw [Machine.getPart, Machine.getPart, h.parts]

theorem partOn (h : SporeStands a s t) (p : Nat) : partOn t p = partOn s p := by
  rw [Machine.partOn, Machine.partOn, preg, preg, h.getPart]

theorem slotHeld (h : SporeStands a s t) (hs : slotHeldBy s a) : slotHeldBy t a := by
  rw [slotHeldBy, h.part, h.slot, h.getPart]
  exact hs

end SporeStands

/-- What is left of a spore that has suspended with REASON YIELD (R65, R74, R75). -/
theorem yieldSuspension_spec {s t : State} {core : Nat} {b : Bool} (hs : SporeStands (.bank core b) s t)
    (hp : (getCtx s (.bank core b)).life.part < 8) (hon : partOn s (getCtx s (.bank core b)).life.part = true)
    (hlost : slotHeldBy s (.bank core b)) {st : State → ItemState} (hst : ∀ u, st u = .ready u.now u.sch.uid) :
    let u := suspendSpore t (.bank core b) 1 st
    let l := (getCtx s (.bank core b)).life
    (getCtx u (.bank core b)).life.status = .empty ∧ ∀ x, findItem (getPart s l.part) l.item = some x →
      ∃ y n, findItem (getPart u l.part) l.item = some y
        ∧ kfind (getPart u l.part).records y.rcd.slot.toNat = some (recordBytes y.rcd)
        ∧ y.st = .ready s.now n ∧ y.rcd.resume = (getCtx s (.bank core b)).fr.pc + 4 ∧ y.rcd.reason = 1 := by
  refine ⟨suspendSpore_empty .., fun x hx => ?_⟩
  have hspec := suspendSpore_item (s := t) (core := core) (b := b) 1 st (x := x)
  dsimp only at hspec
  rw [hs.part, hs.item, hs.partOn, hs.getPart] at hspec
  obtain ⟨y, u, hfind, hrcd, hrec, hnow, hyst⟩ := hspec hp hon (hs.slotHeld hlost) hx
  refine ⟨y, u.sch.uid, hfind, hrec, ?_, ?_, ?_⟩
  · rw [hyst, hst, hnow, hs.now]
  · have hfr := (performOwn_actKeeps t (.bank core b)).fr (.bank core b)
    rw [hrcd, leavingRecord, ← hs.pc, ← hfr]
  · rw [hrcd, leavingRecord]

section
variable {s : State} {core : Nat} {b : Bool}

theorem sporeStands_leaveAll : SporeStands (.bank core b) s (leaveAll s (.bank core b)) := ⟨rfl, rfl, rfl, rfl, rfl, rfl⟩

theorem sporeStands_leaving (d : Drain) :
    SporeStands (.bank core b) s (leaving (updCtx (leaveAll s (.bank core b)) (.bank core b) markCancel) (.bank core b) d) := by
  obtain ⟨hpart, hitem, hslot, -⟩ := markCancel_life (getCtx s (.bank core b))
  have hctx : getCtx (leaving (updCtx (leaveAll s (.bank core b)) (.bank core b) markCancel) (.bank core b) d) (.bank core b)
      = leavingCtx (markCancel (getCtx s (.bank core b))) d := by
    rw [getCtx_leaving, getCtx_updCtx, getCtx_leaveAll]
  exact ⟨rfl, rfl, by rw [hctx]; exact hpart, by rw [hctx]; exact hitem, by rw [hctx]; exact hslot,
    by rw [hctx, ← markCancel_fr (getCtx s (.bank core b))]; rfl⟩

/-- SUSPEND of a spore that yields takes the acceptance with it (log 3), or makes it. -/
theorem execSuspend_yields (hy : yields s (.bank core b)) (herrs : s.mem.errs = []) :
    ∃ t, SporeStands (.bank core b) s t
      ∧ exec (.suspend (.bank core b)) s = .next (suspendSpore t (.bank core b) 1 fun s => .ready s.now s.sch.uid) := by
  obtain ⟨hrun, htrap, hquiet, -, hd⟩ := hy
  change ∃ t, _ ∧ execSuspend (.bank core b) s = _
  obtain ⟨hd, hreq, hfits, heager⟩ | hd := hd
  · refine ⟨_, sporeStands_leaving .leaveYield, ?_⟩
    have hleave := beginLeave_eager (s := updCtx (leaveAll s (.bank core b)) (.bank core b) markCancel) heager (.bank core b) .leaveYield
    have haccept := acceptStep_leaveYield (a := .bank core b)
      (s := leaving (updCtx (leaveAll s (.bank core b)) (.bank core b) markCancel) (.bank core b) .leaveYield) herrs
      (by rw [getCtx_leaving]; rfl)
    have hstep := drainStep_yield hrun hquiet htrap hd hfits
    rw [hreq, if_pos rfl, hleave, haccept] at hstep
    simp only [execSuspend, hd, hquiet, htrap, hstep, ne_eq, reduceCtorEq, not_false_eq_true, Bool.not_false, and_self, if_true]
  · refine ⟨_, sporeStands_leaveAll, ?_⟩
    have haccept := acceptStep_leaveYield (s := leaveAll s (.bank core b)) (a := .bank core b) herrs hd
    have hstep := (drainStep_leaveYield hrun hquiet htrap hd).trans haccept
    simp only [execSuspend, hd, hquiet, htrap, hstep, ne_eq, reduceCtorEq, not_false_eq_true, Bool.not_false, and_self, if_true]

end

/-! ### Traps at a boundary -/

/-- A bank that waits on tokens alone is trapped for it (R91). -/
theorem tokdead_spec {s : State} {core : Nat} {b : Bool} (h : tokenStalled s (.bank core b) = true) :
    gives (.tokdead (.bank core b)) s fun t => tookTrap s t (.bank core b) 0x0A (tokDetail s (.bank core b)) := by
  have huser : (getCtx s (.bank core b)).trap.smode = false := by
    simp only [tokenStalled, Bool.and_eq_true, Bool.not_eq_true'] at h
    obtain ⟨⟨⟨⟨⟨⟨-, huser⟩, -⟩, -⟩, -⟩, -⟩, -⟩ := h
    exact huser
  refine ⟨_, ?_, bankTrap_tookTrap huser (by decide) _⟩
  change execTokdead _ s = _
  simp only [execTokdead, h, Bool.not_true, Bool.false_eq_true, if_false]

/-- The trap that an engine holds is entered at a word of user mode (R343, R344). -/
theorem trapEntry_spec {s : State} {core : Nat} {b : Bool} {e : Engine} {x : TrapInfo}
    (hrun : (getCtx s (.bank core b)).life.status = .running) (huser : (getCtx s (.bank core b)).trap.smode = false)
    (hx : firstHeld (getCtx s (.bank core b)).eng = some (e, x)) :
    gives (.trapEntry (.bank core b)) s fun t => tookTrap s t (.bank core b) (x.cause % 256) x.det
      ∧ (getCtx t (.bank core b)).trap.twpc = x.pc ∧ (getCtx t (.bank core b)).trap.tva = x.va := by
  have htrap : trapPending (getCtx s (.bank core b)) = true := by rw [trapPending, hx]; rfl
  refine ⟨_, ?_, takeEngineTrap_tookTrap huser hx⟩
  change execTrapEntry _ s = _
  simp only [execTrapEntry, hrun, huser, htrap, isSeq, Bool.not_false, and_self, if_true]


/-- The watchdog's trap counts in the partition's register of late yields (R374). -/
theorem yieldlate_spec {s : State} {core : Nat} {b : Bool} (hrun : (getCtx s (.bank core b)).life.status = .running)
    (hreq : (getCtx s (.bank core b)).life.yieldReq = true) (huser : (getCtx s (.bank core b)).trap.smode = false)
    (htrap : trapPending (getCtx s (.bank core b)) = false) (hd : (getCtx s (.bank core b)).life.drain = .none)
    (hp : (getCtx s (.bank core b)).life.part < 8) :
    let c := getCtx s (.bank core b)
    gives (.yieldlate (.bank core b)) s fun t => tookTrap s t (.bank core b) 0x0B c.trap.ywd
      ∧ wbits (preg t c.life.part 0x110) 63 32 = (wbits (preg s c.life.part 0x110) 63 32 + 1) % 2 ^ 32 := by
  intro c
  let x := preg s c.life.part 0x110
  let u := setPreg s c.life.part 0x110 (BitVec.ofNat 64 (setBits x.toNat 63 32 (wbits x 63 32 + 1)))
  have hctx : getCtx u (.bank core b) = c := getCtx_congr (setPreg_ctxs ..) _
  have huser' : (getCtx u (.bank core b)).trap.smode = false := by rw [hctx]; exact huser
  refine ⟨bankTrap u (.bank core b) 0x0B c.trap.ywd, ?_, ?_, ?_⟩
  · change execYieldlate _ s = _
    simp only [execYieldlate, isSeq, hrun, hreq, huser, htrap, hd, bne_self_eq_false, beq_self_eq_true, Bool.not_true, Bool.or_self,
      Bool.true_or, Bool.false_eq_true, if_false]
    rfl
  · have h := bankTrap_tookTrap huser' (show 0x0B < 256 by decide) c.trap.ywd
    unfold tookTrap at h ⊢
    rwa [hctx] at h
  · have hkeep := preg_takeTrap huser' ⟨0x0B, .bank, curEngine u (.bank core b), curPc c, curPc c, 0, c.trap.ywd, true⟩
      (o := 0x110) (by decide) (by decide) (by decide)
    rw [hctx] at hkeep
    rw [bankTrap, hctx]
    exact (congrArg (wbits · 63 32) (hkeep.trans (preg_setPreg s _ _ _ hp))).trans (wbits_setBits_high x _)

end Sys2Proof.Machine
end

section

namespace Sys2Proof.Proofs

open Sys2Proof Sys2Proof.Machine Sys2Proof.Safety Sys2Proof.Claims

/-- Settles O28: the traps by the context that a trap taken in user mode leaves, the suspension and the end of a spore by what the
scheduler keeps while its bank is freed, the timeout by the front end past a WFE. -/
theorem bankEvents : Obligations.BankEvents := by
  unfold Obligations.BankEvents
  refine ⟨fun s core b hstalled => tokdead_spec hstalled,
    fun s core b hrun hreq huser htrap hd hp => yieldlate_spec hrun hreq huser htrap hd hp,
    fun s core b e x hrun huser hx => trapEntry_spec hrun huser hx, fun s core b _ hp hy hlost herrs => ?_,
    fun s core b _ hp hrun hd hquiet htrap => ?_, fun s a hrun hwfe hmac hpfx => wfeTimeout_spec hrun hwfe hmac hpfx⟩
  · obtain ⟨t, hstands, hexec⟩ := execSuspend_yields hy herrs
    obtain ⟨-, -, -, hon, -⟩ := hy
    exact ⟨_, hexec, yieldSuspension_spec hstands hp hon hlost fun _ => rfl⟩
  · refine ⟨_, ?_, retireSpore_spec (s := leaveAll s (.bank core b)) hp⟩
    change execExitRetire _ s = _
    simp only [execExitRetire, hrun, hd, hquiet, htrap, Bool.not_false, and_self, if_true]

end Sys2Proof.Proofs
end

section

/-! # YIELD and EXIT (R74, R75, R78, R173) -/

namespace Sys2Proof.Machine

open Sys2Proof.Safety Sys2Proof.Claims

/-! ### YIELD takes no XREP (R143) -/

theorem div_setBits_low (x v : Nat) {lo hi : Nat} (h : hi = 20 ∧ lo = 16 ∨ hi = 15 ∧ lo = 11) :
    setBits x hi lo v / 2 ^ 21 = x / 2 ^ 21 := by
  obtain ⟨rfl, rfl⟩ | ⟨rfl, rfl⟩ := h
  · simp only [setBits, bits]
    omega
  · simp only [setBits, bits]
    omega

theorem div_of_stepField {w w' lo j : Nat} {x : BitVec 3} (hlo : lo = 16 ∨ lo = 11) (h : stepField w lo 5 j x = some w') :
    w' / 2 ^ 21 = w / 2 ^ 21 := by
  simp only [stepField] at h
  split at h
  · rw [← Option.some.inj h]
    exact div_setBits_low _ _ (by omega)
  · cases h

/-- The opcode of YIELD (R133, R173). -/
def isYield (w : Nat) : Prop := w / 2 ^ 21 = 0x50 ∨ w / 2 ^ 21 = 0xD0

theorem isYield_fields {w : Nat} (h : isYield w) : engOf w = 0 ∧ op7Of w = 0x50 := by
  unfold isYield at h
  simp only [engOf, op7Of, bits]
  omega

theorem rawOf_yield (z : Bool) : rawOf (.yield z) = if z then 0x1A000000 else 0x0A000000 := by cases z <;> decide +kernel

theorem isYield_rawOf (z : Bool) : isYield (rawOf (.yield z)) := by
  rw [rawOf_yield]
  cases z <;> (unfold isYield; decide)

/-- A field replaced by itself. -/
theorem mapField_fixed {w lo n : Nat} {f : Nat → Nat} (h : f (bits w (lo + n - 1) lo) = bits w (lo + n - 1) lo) :
    mapField w lo n f = w := by
  have hle : bits w (lo + n - 1) lo * 2 ^ lo ≤ w :=
    (Nat.mul_le_mul_right _ (Nat.mod_le _ _)).trans (Nat.div_mul_le_self _ _)
  have hmod : bits w (lo + n - 1) lo % 2 ^ (lo + n - 1 + 1 - lo) = bits w (lo + n - 1) lo := Nat.mod_mod _ _
  rw [mapField, putField, setBits, h, hmod, Nat.sub_add_cancel hle]

/-- No field of it is one that a body's call replaces (R148). -/
theorem substRaw_yield (m : MacroCall) (z : Bool) : substRaw m (rawOf (.yield z)) = rawOf (.yield z) := by
  obtain ⟨heng, hop⟩ := isYield_fields (isYield_rawOf z)
  have hform : ctlForm 0x50 = .i := by decide
  have hd : bits (rawOf (.yield z)) (16 + 5 - 1) 16 = 0 := by cases z <;> decide +kernel
  have ha : bits (rawOf (.yield z)) (11 + 5 - 1) 11 = 0 := by cases z <;> decide +kernel
  have himm : bits (rawOf (.yield z)) (0 + 11 - 1) 0 = 0 := by cases z <;> decide +kernel
  have hsub : subS m 0 = 0 := if_neg (by decide)
  have hsubImm : subImm m 0 = 0 := if_neg (by decide)
  simp only [substRaw, heng, hop, hform]
  rw [mapField_fixed (f := subS m) (lo := 16) (by rw [hd, hsub]), mapField_fixed (f := subS m) (lo := 11) (by rw [ha, hsub]),
    mapField_fixed (f := subImm m) (by rw [himm, hsubImm])]

theorem isYield_of_stepRaw {r : Xrep} {j w w' : Nat} (hw : isYield w) (h : stepRaw r j w = some w') : isYield w' := by
  obtain ⟨heng, hop⟩ := isYield_fields hw
  have hform : ctlForm 0x50 = .i := by decide
  simp only [stepRaw, stepFields, heng, hop, hform, stepOne] at h
  split at h
  · cases h
  next w1 h1 =>
    split at h
    · cases h
    next w2 h2 =>
      have hdiv : w' / 2 ^ 21 = w / 2 ^ 21 := by
        rw [← Option.some.inj h, div_of_stepField (.inr rfl) h2, div_of_stepField (.inl rfl) h1]
      rwa [isYield, hdiv]

theorem decodeWord_isYield {w : Nat} {j : Instr} (hw : isYield w) (h : decodeWord w = .ok j) : ∃ z, j = .yield z := by
  obtain ⟨heng, hop⟩ := isYield_fields hw
  unfold engOf at heng
  unfold op7Of at hop
  simp only [decodeWord, heng, decodeControl, hop] at h
  split at h
  · cases h
    exact ⟨_, rfl⟩
  · cases h

/-- A YIELD is issued as a YIELD. -/
theorem effInstr_yield {f : Front} {z : Bool} {j : Instr} (h : effInstr f (.yield z) = some j) : ∃ y, j = .yield y := by
  have hword : ∀ {w}, effRaw f f.issue (rawOf (.yield z)) = some w → isYield w := fun {w} hw => by
    have hsub : effRaw f f.issue (rawOf (.yield z)) = match f.pfx.rep with
        | some r => stepRaw r f.issue (rawOf (.yield z))
        | none => some (rawOf (.yield z)) := by
      cases hmac : f.mac <;> simp only [effRaw, hmac, substRaw_yield] <;> rfl
    rw [hsub] at hw
    split at hw
    · exact isYield_of_stepRaw (isYield_rawOf z) hw
    · rw [← Option.some.inj hw]
      exact isYield_rawOf z
  unfold effInstr at h
  split at h
  · exact ⟨z, (Option.some.inj h).symm⟩
  · split at h
    · cases h
    next w hw =>
      split at h
      next i hi =>
        obtain ⟨y, hy⟩ := decodeWord_isYield (hword hw) hi
        exact ⟨y, (Option.some.inj h).symm.trans hy⟩
      · cases h

/-- XREP does not stand before it (R143). -/
theorem badStatic_yield {w : Nat} (hw : isYield w) {p : Prefixes} {r : Xrep} (hrep : p.rep = some r) (seq : Bool) (vfmt : Word) :
    badStatic seq p vfmt w = true := by
  obtain ⟨heng, hop⟩ := isYield_fields hw
  have hnot : repOk 0x50 = false := by decide
  simp only [badStatic, badPrefix, hrep, heng, hop, hnot, beq_self_eq_true, Bool.not_false, Bool.and_self, Bool.true_or, Bool.or_true]

/-- A YIELD that passes the checks of R132 stands under no XREP. -/
theorem rep_of_routeCheck_yield {seq : Bool} {c : Ctx} {z : Bool} (h : routeCheck seq c (.yield z) = none) : c.fr.pfx.rep = none := by
  cases hrep : c.fr.pfx.rep with
  | none => rfl
  | some r =>
    unfold routeCheck at h
    dsimp only at h
    split at h
    · cases h
    next j hj =>
      obtain ⟨y, hy⟩ := effInstr_yield hj
      have hbad : badStatic seq c.fr.pfx c.csr.vfmt (rawOf j) = true := badStatic_yield (hy ▸ isYield_rawOf y) hrep seq c.csr.vfmt
      rw [hbad, Bool.true_or, Bool.true_or, if_pos rfl] at h
      cases h

theorem rep_of_ready_yield {s : State} {z : Bool} (h : ready s (.yield z) = true) : (cx s).fr.pfx.rep = none :=
  rep_of_routeCheck_yield ((ready_iff s _).1 h).2

/-- Under no XREP a suspension word goes on with the next word, in a new group (R74 step 4). -/
theorem pastSuspension_of_rep {f : Front} (h : f.pfx.rep = none) : pastSuspension f = { Front.reset with pc := f.pc + 4 } := by
  simp [pastSuspension, h]

/-! ### The record that a suspension leaves -/

/-- So they agree in all that its record holds, and no withdrawal has come after step 4 (R65, R370). -/
structure RecordStands (a : AgentId) (s t : State) : Prop extends SporeStands a s t where
  mem : t.mem = s.mem
  arch : (getCtx t a).arch = (getCtx s a).arch
  carry : (getCtx t a).csr.carry = (getCtx s a).csr.carry
  tag : (getCtx t a).life.rcd.tag = (getCtx s a).life.rcd.tag
  task : (getCtx t a).life.rcd.task = (getCtx s a).life.rcd.task
  withdrawn : (getCtx t a).life.withdrawn = false

theorem RecordStands.record {s t : State} (h : RecordStands s.sch.cur s t) (reason : BitVec 2) :
    recordAfter s reason (leavingRecord t s.sch.cur reason) := by
  unfold recordAfter leavingRecord cx
  dsimp only
  rw [h.pc, h.tag, h.task, h.carry, h.withdrawn]
  have hs := congrArg Arch.s h.arch
  exact ⟨rfl, rfl, getS_congr hs 10, getS_congr hs 11, getS_congr hs 12, getS_congr hs 13, rfl, rfl, rfl, rfl⟩

/-- What is left of a spore that has suspended, with none of its accesses in the buffer (R74, log 89). -/
theorem suspension_spec {s t : State} {core : Nat} {b : Bool} (hcur : s.sch.cur = .bank core b)
    (hs : RecordStands (.bank core b) s t) (hp : (cx s).life.part < 8) (hdone : storesDone s (.bank core b)) (reason : BitVec 2)
    (st : State → ItemState) :
    let u := suspendSpore t (.bank core b) reason st
    let l := (cx s).life
    (getCtx u s.sch.cur).life.status = .empty
      ∧ (partOn s l.part = true → slotHeld s → sameBytes s u ∧ ∀ x, findItem (getPart s l.part) l.item = some x →
        ∃ y, findItem (getPart u l.part) l.item = some y ∧ recordAfter s reason y.rcd ∧ ∃ v, v.now = s.now ∧ y.st = st v) := by
  have hdone' : storesDone t (.bank core b) := by rwa [storesDone, hs.mem]
  have hrecord := RecordStands.record (s := s) (t := t) (by rw [hcur]; exact hs) reason
  unfold slotHeld cx at *
  rw [hcur] at *
  refine ⟨suspendSpore_empty .., fun hon hlost => ?_⟩
  have hspec := fun x => suspendSpore_item (s := t) (core := core) (b := b) reason st (x := x)
  have hbytes := suspendSpore_sameBytes (s := t) (core := core) (b := b) reason st
  dsimp only at hspec
  simp only [hs.part, hs.item, hs.partOn, hs.getPart] at hspec
  rw [hs.part, hs.partOn] at hbytes
  refine ⟨sameBytes_trans (sameBytes_of_mem hs.mem) (hbytes hp hon (hs.slotHeld hlost) hdone'), fun x hx => ?_⟩
  obtain ⟨y, v, hfind, hrcd, -, hnow, hst⟩ := hspec x hp hon (hs.slotHeld hlost) hx
  rw [performOwn_of_storesDone hdone'] at hrcd
  exact ⟨y, hfind, by rw [hrcd]; exact hrecord, v, hnow.trans hs.now, hst⟩

/-! ### The words -/

/-- The state in which a suspension word begins the steps of R74. -/
def draining (s : State) (a : AgentId) (d : Drain) : State := updLife s a fun l => { l with drain := d }

theorem getCtx_draining (s : State) (a : AgentId) (d : Drain) :
    getCtx (draining s a d) a = { getCtx s a with life := { (getCtx s a).life with drain := d } } := getCtx_updCtx ..

theorem quiet_draining (s : State) (a : AgentId) (d : Drain) : quiet (draining s a d) a = quiet s a := by
  simp only [quiet, getCtx_draining]
  rfl

/-- The context of a YIELD whose steps 2 and 3 hold (R74, R75). -/
def yieldingCtx (c : Ctx) : Ctx := markCancel { c with life := { c.life with drain := .yield } }

/-- Its state: it has left its broadcast groups, and a withdrawal has been told. -/
def yielding (s : State) (core : Nat) (b : Bool) : State :=
  updCtx (leaveAll (draining s (.bank core b) .yield) (.bank core b)) (.bank core b) markCancel

theorem getCtx_yielding (s : State) (core : Nat) (b : Bool) :
    getCtx (yielding s core b) (.bank core b) = yieldingCtx (getCtx s (.bank core b)) := by
  rw [yielding, getCtx_updCtx, getCtx_leaveAll, getCtx_draining]
  rfl

theorem yieldingCtx_frame (c : Ctx) : let d := yieldingCtx c
    d.life.status = c.life.status ∧ d.life.part = c.life.part ∧ d.life.item = c.life.item
      ∧ d.life.rcd.slot = c.life.rcd.slot ∧ d.life.rcd.tag = c.life.rcd.tag ∧ d.life.rcd.task = c.life.rcd.task
      ∧ d.fr = c.fr ∧ d.arch = c.arch ∧ d.csr.carry = c.csr.carry
      ∧ d.csr.spstat = (if c.life.withdrawn then c.csr.spstat ||| 0x400 else c.csr.spstat) := by
  unfold yieldingCtx markCancel
  dsimp only
  split
  · exact ⟨rfl, rfl, rfl, rfl, rfl, rfl, rfl, rfl, rfl, rfl⟩
  · exact ⟨rfl, rfl, rfl, rfl, rfl, rfl, rfl, rfl, rfl, rfl⟩

theorem recordStands_leaving_yielding (s : State) (core : Nat) (b : Bool) :
    RecordStands (.bank core b) s (leaving (yielding s core b) (.bank core b) .leaveYield) := by
  obtain ⟨-, hpart, hitem, hslot, htag, htask, hfr, harch, hcarry, -⟩ := yieldingCtx_frame (getCtx s (.bank core b))
  have hctx : getCtx (leaving (yielding s core b) (.bank core b) .leaveYield) (.bank core b)
      = leavingCtx (yieldingCtx (getCtx s (.bank core b))) .leaveYield := by rw [getCtx_leaving, getCtx_yielding]
  have hpc : (leavingCtx (yieldingCtx (getCtx s (.bank core b))) .leaveYield).fr.pc = (getCtx s (.bank core b)).fr.pc :=
    (congrArg Front.pc hfr :)
  refine ⟨⟨rfl, rfl, ?_, ?_, ?_, ?_⟩, rfl, ?_, ?_, ?_, ?_, ?_⟩ <;> rw [hctx]
  · exact hpart
  · exact hitem
  · exact hslot
  · exact hpc
  · exact harch
  · exact hcarry
  · exact htag
  · exact htask
  · rfl

/-- YIELD of a bank whose steps 2 and 3 hold (R74, R75). -/
theorem exec_yield {s : State} {core : Nat} {b z : Bool} (hcur : s.sch.cur = .bank core b) (hready : ready s (.yield z) = true)
    (hmay : maySuspend s = true) :
    exec (.yield z) s = .next (if (cx s).life.yieldReq then beginLeave (yielding s core b) (.bank core b) .leaveYield
      else afterSuspension (yielding s core b) (.bank core b)) := by
  obtain ⟨hrun, -⟩ := (ready_iff s _).1 hready
  simp only [maySuspend, Bool.and_eq_true, Bool.not_eq_true'] at hmay
  obtain ⟨⟨hquiet, htrap⟩, hfits⟩ := hmay
  change execYield z s = _
  unfold cx at *
  rw [execYield, control_ready hready]
  rw [hcur] at *
  have hctx := getCtx_draining s (.bank core b) .yield
  have hstep := drainStep_yield (s := draining s (.bank core b) .yield) (a := .bank core b) (by rw [hctx]; exact hrun)
    ((quiet_draining ..).trans hquiet) (by rw [hctx]; exact htrap) (by rw [hctx]) (by rw [hctx]; exact hfits)
  rw [show (getCtx (draining s (.bank core b) .yield) (.bank core b)).life.yieldReq = (getCtx s (.bank core b)).life.yieldReq by
    rw [hctx]] at hstep
  exact congrArg _ hstep

/-- YIELD as R74, R75 and R173 have it. -/
theorem yield_spec : Claims.yield := by
  intro s core b z hcur _ hp hready hmay herrs hdone
  refine ⟨_, exec_yield hcur hready hmay, ?_⟩
  obtain ⟨hrun, -⟩ := (ready_iff s _).1 hready
  obtain ⟨hstatus, -, -, -, -, -, hfr, harch, -, hspstat⟩ := yieldingCtx_frame (cx s)
  have hctx : getCtx (yielding s core b) s.sch.cur = yieldingCtx (cx s) := by
    rw [hcur, getCtx_yielding, cx, hcur]
  cases hreq : (cx s).life.yieldReq with
  | false =>
    simp only [Bool.false_and, Bool.false_eq_true, if_false]
    have hafter : getCtx (afterSuspension (yielding s core b) (.bank core b)) s.sch.cur
        = { yieldingCtx (cx s) with
            fr := pastSuspension (yieldingCtx (cx s)).fr, life := { (yieldingCtx (cx s)).life with drain := .none } } := by
      rw [← hctx, hcur]
      simp only [afterSuspension, updLife, updFr, updCtx_updCtx, getCtx_updCtx]
    rw [hafter]
    refine ⟨rfl, ?_, harch, hspstat⟩
    dsimp only
    rw [hfr, pastSuspension_of_rep (rep_of_ready_yield hready)]
  | true =>
    cases heager : s.sch.eager with
    | false =>
      have hleave := beginLeave_waits (s := yielding s core b) heager (.bank core b) .leaveYield
      rw [if_pos rfl, hleave, if_pos rfl, ← hcur, getCtx_leaving, hctx]
      exact ⟨rfl, rfl, hstatus.trans hrun, harch⟩
    | true =>
      have hleave := beginLeave_eager (s := yielding s core b) heager (.bank core b) .leaveYield
      have haccept := acceptStep_leaveYield (s := leaving (yielding s core b) (.bank core b) .leaveYield) (a := .bank core b) herrs
        (by rw [getCtx_leaving]; rfl)
      rw [if_pos rfl, hleave, haccept]
      obtain ⟨hempty, hrest⟩ := suspension_spec hcur (recordStands_leaving_yielding s core b) hp (hcur ▸ hdone) 1
        fun s => .ready s.now s.sch.uid
      refine ⟨hempty, fun hon hlost => ?_⟩
      obtain ⟨hbytes, hitem⟩ := hrest hon hlost
      refine ⟨hbytes, fun x hx => ?_⟩
      obtain ⟨y, hfind, hrec, v, hnow, hst⟩ := hitem x hx
      exact ⟨y, hfind, hrec, v.sch.uid, by rw [hst, hnow]⟩

/-- EXIT as R78 and R173 have it. -/
theorem exit_spec : Claims.exit := by
  intro s core b z hcur _ hp hready hquiet htrap
  obtain ⟨hrun, -⟩ := (ready_iff s _).1 hready
  unfold cx at *
  have hctx := getCtx_draining s s.sch.cur .exit
  have hstep := drainStep_exit (s := draining s s.sch.cur .exit) (a := s.sch.cur) (by rw [hctx]; exact hrun)
    ((quiet_draining ..).trans hquiet) (by rw [hctx]; exact htrap) (by rw [hctx])
  refine ⟨retireSpore (leaveAll (draining s s.sch.cur .exit) s.sch.cur) s.sch.cur, ?_, ?_⟩
  · change execExit z s = _
    rw [execExit, control_ready hready]
    exact congrArg _ hstep
  · rw [hcur] at *
    have hctx' : getCtx (leaveAll (draining s (.bank core b) .exit) (.bank core b)) (.bank core b)
        = { getCtx s (.bank core b) with life := { (getCtx s (.bank core b)).life with drain := .exit } } :=
      (getCtx_leaveAll ..).trans hctx
    have hspec := retireSpore_spec (s := leaveAll (draining s (.bank core b) .exit) (.bank core b)) (core := core) (b := b)
      (by rw [hctx']; exact hp)
    dsimp only at hspec
    rw [hctx'] at hspec
    exact hspec

end Sys2Proof.Machine
end

section

/-! # WAITGE of a memory counter (R76, R175)

Where no memory holds an error mark, the read of a counter changes caches, a data cache and the counts of L2 accesses alone, and the
translation it needed is found again when the word goes through the steps of R74. -/

namespace Sys2Proof.Machine

open Sys2Proof.Safety Sys2Proof.Claims

/-! ### What changes only caches -/

/-- The state with its caches put aside. -/
def cachesAside (s : State) : State := { s with cache := State.reset.cache }

/-- Caches alone change, and no translation they hold. -/
structure L2Only (s t : State) : Prop where
  aside : cachesAside t = cachesAside s
  tlb : t.cache.tlb = s.cache.tlb

namespace L2Only

variable {s t u : State}

theorem refl (s : State) : L2Only s s := ⟨rfl, rfl⟩
theorem trans (h : L2Only s t) (k : L2Only t u) : L2Only s u := ⟨k.aside.trans h.aside, k.tlb.trans h.tlb⟩
theorem mem (h : L2Only s t) : t.mem = s.mem := (congrArg State.mem h.aside :)

theorem foldl {α : Type} {f : State → α → State} (hf : ∀ s x, s.mem.errs = [] → L2Only s (f s x)) (l : List α) {s : State}
    (h : s.mem.errs = []) : L2Only s (l.foldl f s) := by
  induction l generalizing s with
  | nil => exact .refl s
  | cons x r ih => exact (hf s x h).trans (ih (by rw [(hf s x h).mem]; exact h))

end L2Only

theorem countPin_l2Only (s : State) (pa : Nat) (hit ovfl : Bool) : L2Only s (countPin s pa hit ovfl) := by
  unfold countPin
  split
  · exact .refl s
  · split
    · exact ⟨rfl, rfl⟩
    · exact .refl s

theorem l2Hit_l2Only (s : State) (part : Option Nat) (pa m : Nat) (w : Bool) : L2Only s (l2Hit s part pa m w) := by
  unfold l2Hit
  extract_lets key frames
  split
  · exact .refl s
  · extract_lets clk cls l' fits
    split
    · exact ⟨rfl, rfl⟩
    · split
      · exact ⟨rfl, rfl⟩
      · exact ⟨rfl, rfl⟩

theorem withSets_l2Only (s : State) (sets : KMap (List L2Frame)) (clock : Nat) :
    L2Only s { s with cache := { s.cache with l2 := sets, l2clock := clock } } := ⟨rfl, rfl⟩

theorem l2Install_l2Only {s : State} (h : s.mem.errs = []) (part : Option Nat) (pa m : Nat) (d : Bool) :
    L2Only s (l2Install s part pa m d) := by
  have hcorr : countCorr s .dram 0 (pa / 128 * 128) 128 = s := by simp [countCorr, countClass, h]
  unfold l2Install
  rw [dramFill_none h, hcorr]
  dsimp only
  split
  · exact .refl s
  · split
    · exact ⟨rfl, rfl⟩
    · exact (withSets_l2Only s _ _).trans (countPin_l2Only ..)

theorem l2Access_l2Only {s : State} (h : s.mem.errs = []) (part : Option Nat) (pa m : Nat) (w pf : Bool) :
    L2Only s (l2Access s part pa m w pf) := by
  have herrors : l2Errors s pa = s := by simp [l2Errors, h]
  have hmoved : ∀ {t}, L2Only s t → L2Only s (moveMarks s t) := fun {t} ht => by
    rw [moveMarks_none s (by rw [ht.mem, h])]
    exact ht
  unfold l2Access
  rw [herrors]
  refine hmoved ?_
  split
  · split
    · exact l2Hit_l2Only ..
    · exact (countPin_l2Only ..).trans (l2Hit_l2Only ..)
  · exact l2Install_l2Only h ..

theorem l2Range_l2Only {s : State} (h : s.mem.errs = []) (part : Option Nat) (pa n m : Nat) (w pf : Bool) :
    L2Only s (l2Range s part pa n m w pf) := .foldl (fun _ x ht => l2Access_l2Only ht part x m w pf) _ h

theorem locBad_none {s : State} (h : s.mem.errs = []) (l : Loc) (n : Nat) : locBad s l n = none := by simp [locBad, h]

theorem walkL2_l2Only {s : State} (h : s.mem.errs = []) (p : Nat) (reads : List Nat) : L2Only s (walkL2 s p reads) :=
  .foldl (fun t x ht => by
    simp only [walkBad, locBad_none ht]
    exact l2Access_l2Only ht ..) _ h

/-! ### A translation is found again -/

/-- A page has a size, and its base is the multiple of it below the address (R382). -/
def pageAt (va base size : Nat) : Prop := 0 < size ∧ base = va / size * size

theorem pageSize_pos {lvl code size : Nat} (h : pageSize lvl code = some size) : 0 < size := by
  unfold pageSize at h
  split at h <;> cases h <;> decide

theorem baseSize_pos (lvl : Nat) : 0 < baseSize lvl := by
  unfold baseSize
  split <;> decide

theorem walkLeaf_pageAt {s : State} {table lvl idx e va f base size : Nat} (h : walkLeaf s table lvl idx e va = .leaf f base size) :
    pageAt va base size := by
  have halone : ∀ {w : Walk}, w = (if leafOk e (baseSize lvl) then .leaf e (va / baseSize lvl * baseSize lvl) (baseSize lvl)
      else .malformed) → w = .leaf f base size → pageAt va base size := fun {w} hw hl => by
    rw [hw] at hl
    split at hl
    · cases hl
      exact ⟨baseSize_pos lvl, rfl⟩
    · cases hl
  unfold walkLeaf at h
  dsimp only at h
  split at h
  · cases h
  next sz hsz =>
    split at h
    · exact halone rfl h
    · split at h
      · cases h
      · split at h
        · cases h
          exact ⟨pageSize_pos hsz, rfl⟩
        · exact halone rfl h

theorem walkFrom_pageAt {s : State} {cache p asid va : Nat} {lvls : List Nat} {table : Nat} {new : List WalkEntry} {rd : List Nat}
    {e base size : Nat} (h : (walkFrom s cache p asid va lvls table new rd).walk = .leaf e base size) : pageAt va base size := by
  induction lvls generalizing table new rd with
  | nil => cases h
  | cons lvl rest ih =>
    unfold walkFrom at h
    dsimp only at h
    split at h
    · split at h
      · exact ih h
      · cases h
    · split at h
      · cases h
      · split at h
        · split at h
          · cases h
          · exact ih h
        · split at h
          · cases h
          · exact walkLeaf_pageAt h

theorem walk_pageAt {s : State} {cache p asid va e base size : Nat} (h : (walk s cache p asid va).walk = .leaf e base size) :
    pageAt va base size := by
  have hgo : ∀ {r new rd}, (if rootOk s p r then walkFrom s cache p asid va [0, 1, 2, 3] (bits r 51 12 * 2 ^ 12) new rd
      else ⟨.malformed, [], rd⟩ : Walked).walk = .leaf e base size → pageAt va base size := fun {r new rd} h => by
    split at h
    · exact walkFrom_pageAt h
    · cases h
  unfold walk at h
  dsimp only at h
  split at h
  · exact hgo h
  · split at h
    · cases h
    · exact hgo h

/-- What decides whether a leaf permits an access, and where its place is. -/
structure SameAccess (s t : State) : Prop where
  parts : t.parts = s.parts
  peers : t.peers = s.peers
  dregs : t.dregs = s.dregs

theorem getPart_eq_of_parts {s t : State} (h : t.parts = s.parts) : getPart t = getPart s := by
  funext q
  rw [getPart, getPart, h]

theorem preg_eq_of_parts {s t : State} (h : t.parts = s.parts) : preg t = preg s := by
  funext q o
  rw [preg, preg, getPart_eq_of_parts h]

theorem leafAccess_congr {s t : State} (h : SameAccess s t) : leafAccess t = leafAccess s := by
  have hdram1 : inDram1 t = inDram1 s := by
    funext p pa
    rw [inDram1, inDram1, preg_eq_of_parts h.parts]
  have hdram : inDram t = inDram s := by
    funext p pa len
    rw [inDram, inDram, hdram1]
  have hsched : schedPage t = schedPage s := by
    funext p pa
    rw [schedPage, schedPage, getPart_eq_of_parts h.parts]
  have hdreg : dreg t = dreg s := by
    funext o
    rw [dreg, dreg, h.dregs]
  have hfate : peerFate t = peerFate s := by
    funext peer
    rw [peerFate, peerFate, hdreg, h.peers]
  funext p kind user e base size va
  unfold leafAccess
  rw [hdram, hsched, hfate]

theorem asidOk_congr {s t : State} (h : SameAccess s t) (p asid : Nat) : asidOk t p asid = asidOk s p asid := by
  have hpreg := preg_eq_of_parts h.parts
  rw [asidOk, asidOk, asidBase, asidBase, hpreg]

theorem sameAccess_of_aside {s t : State} (h : cachesAside t = cachesAside s) : SameAccess s t :=
  ⟨(congrArg State.parts h :), (congrArg State.peers h :), (congrArg State.dregs h :)⟩

/-- The translation of an address by a cached leaf. -/
theorem xlate_found {s : State} {cache p asid va : Nat} {kind : AccKind} {user : Bool} (h : ¬(2 ^ 48 ≤ va || !asidOk s p asid) = true)
    {e : TlbEntry} (he : tlbFind s cache asid va = some e) :
    xlate s cache p asid va kind user = (leafAccess s p kind user e.leaf e.base e.size va, s) := by
  unfold xlate
  rw [if_neg h, he]

/-- The leaf of a walk translates the address. -/
theorem tlbFind_of_walk {s : State} {cache asid va e base size : Nat} (hpage : pageAt va base size) {r : List TlbEntry}
    (h : s.cache.tlb = ⟨cache, asid, base, size, e⟩ :: r) : tlbFind s cache asid va = some ⟨cache, asid, base, size, e⟩ := by
  obtain ⟨hsize, hbase⟩ := hpage
  have hlow : base ≤ va := hbase ▸ Nat.div_mul_le_self va size
  have hhigh : va < base + size := by
    have hdiv := Nat.div_add_mod va size
    have hmod := Nat.mod_lt va hsize
    rw [Nat.mul_comm] at hdiv
    omega
  rw [tlbFind, h, List.find?_cons_of_pos]
  simp only [beq_self_eq_true, hlow, hhigh, decide_true, Bool.and_self]

theorem sureWalk_clean {s : State} (h : s.mem.errs = []) (cache p asid va : Nat) : sureWalk s cache p asid va = walk s cache p asid va := by
  simp [sureWalk, h]

/-- A translation by a walk leaves its leaf in the cache. -/
theorem xlate_walked {s t : State} {cache p asid va : Nat} {kind : AccKind} {user : Bool} {l : Loc} (hcache : cache ≠ sysTlb)
    (herrs : s.mem.errs = []) (hcond : ¬(2 ^ 48 ≤ va || !asidOk s p asid) = true) (hmiss : tlbFind s cache asid va = none)
    (h : xlate s cache p asid va kind user = (.ok l, t)) :
    cachesAside t = cachesAside s ∧ ∃ e base size r, pageAt va base size ∧ t.cache.tlb = ⟨cache, asid, base, size, e⟩ :: r
      ∧ leafAccess s p kind user e base size va = .ok l := by
  have hno : noTlb cache = false := by simpa [noTlb] using hcache
  unfold xlate at h
  rw [if_neg hcond, hmiss] at h
  dsimp only at h
  rw [sureWalk_clean herrs, hno] at h
  obtain ⟨u, hu⟩ : ∃ u, u = if (false || (walk s cache p asid va).new.isEmpty) = true then walkL2 s p (walk s cache p asid va).reads
      else { walkL2 s p (walk s cache p asid va).reads with
        cache := { (walkL2 s p (walk s cache p asid va).reads).cache with
          walks := (walk s cache p asid va).new ++ (walkL2 s p (walk s cache p asid va).reads).cache.walks } } := ⟨_, rfl⟩
  have haside : cachesAside u = cachesAside s := by
    have hl2 := (walkL2_l2Only herrs p (walk s cache p asid va).reads).aside
    rw [hu]
    split
    · exact hl2
    · exact hl2
  rw [← hu] at h
  split at h
  · cases h
  · cases h
  next e base size hwalk =>
    rw [leafAccess_congr (sameAccess_of_aside haside)] at h
    cases hleaf : leafAccess s p kind user e base size va with
    | ok x =>
      simp only [hleaf, Bool.false_eq_true, if_false, Prod.mk.injEq] at h
      obtain ⟨hx, rfl⟩ := h
      exact ⟨haside, e, base, size, _, walk_pageAt hwalk, rfl, hleaf.trans hx⟩
    | invalid => simp [hleaf] at h
    | forbid => simp [hleaf] at h
    | silent x => simp [hleaf] at h

/-- A translation that gave a place changes caches alone, where no error mark stands, and gives it again. -/
theorem xlate_again {s t : State} {cache p asid va : Nat} {kind : AccKind} {user : Bool} {l : Loc} (hcache : cache ≠ sysTlb)
    (herrs : s.mem.errs = []) (h : xlate s cache p asid va kind user = (.ok l, t)) :
    cachesAside t = cachesAside s ∧ ∀ u, SameAccess s u → u.cache.tlb = t.cache.tlb →
      xlate u cache p asid va kind user = (.ok l, u) := by
  have hcond : ¬(2 ^ 48 ≤ va || !asidOk s p asid) = true := fun hc => by
    unfold xlate at h
    rw [if_pos hc] at h
    cases h
  have hagain : ∀ (e : TlbEntry) (u : State), SameAccess s u → tlbFind u cache asid va = some e →
      leafAccess s p kind user e.leaf e.base e.size va = .ok l → xlate u cache p asid va kind user = (.ok l, u) :=
    fun e u hu hfind hleaf => by rw [xlate_found (by rwa [asidOk_congr hu]) hfind, leafAccess_congr hu, hleaf]
  cases hfind : tlbFind s cache asid va with
  | some e =>
    rw [xlate_found hcond hfind] at h
    obtain ⟨hleaf, rfl⟩ := Prod.mk.inj h
    exact ⟨rfl, fun u hu htlb => hagain e u hu (by rw [tlbFind, htlb]; exact hfind) hleaf⟩
  | none =>
    obtain ⟨haside, e, base, size, r, hpage, htlb, hleaf⟩ := xlate_walked hcache herrs hcond hfind h
    exact ⟨haside, fun u hu hu' => hagain _ u hu (tlbFind_of_walk hpage (hu'.trans htlb)) hleaf⟩

end Sys2Proof.Machine
end

section

/-! ### What the read of a counter leaves -/

namespace Sys2Proof.Machine

open Sys2Proof.Safety Sys2Proof.Claims

/-- The state with caches, cores and contexts put aside. -/
def readersAside (s : State) : State := { s with cache := State.reset.cache, cores := [], ctxs := [] }

/-- A read by a control core changes caches, data caches and the counts of L2 accesses alone. -/
structure CoreReads (s t : State) : Prop where
  aside : readersAside t = readersAside s
  body : ∀ a n, bodyOf t a n = bodyOf s a n
  ctx : ∀ a, withoutCounts (getCtx t a) = withoutCounts (getCtx s a)

namespace CoreReads

variable {s t u : State}

theorem refl (s : State) : CoreReads s s := ⟨rfl, fun _ _ => rfl, fun _ => rfl⟩

theorem trans (h : CoreReads s t) (k : CoreReads t u) : CoreReads s u :=
  ⟨k.aside.trans h.aside, fun a n => (k.body a n).trans (h.body a n), fun a => (k.ctx a).trans (h.ctx a)⟩

theorem of_caches (h : cachesAside t = cachesAside s) : CoreReads s t := by
  have hctxs : t.ctxs = s.ctxs := (congrArg State.ctxs h :)
  have hcores : t.cores = s.cores := (congrArg State.cores h :)
  refine ⟨(congrArg readersAside h :), fun a n => ?_, fun a => by rw [getCtx_congr hctxs]⟩
  cases a <;> simp only [bodyOf, getCore, hcores]

theorem mem (h : CoreReads s t) : t.mem = s.mem := (congrArg State.mem h.aside :)
theorem sch (h : CoreReads s t) : t.sch = s.sch := (congrArg State.sch h.aside :)
theorem now (h : CoreReads s t) : t.now = s.now := (congrArg State.now h.aside :)
theorem parts (h : CoreReads s t) : t.parts = s.parts := (congrArg State.parts h.aside :)
theorem ops (h : CoreReads s t) : t.ops = s.ops := (congrArg State.ops h.aside :)
theorem sameAccess (h : CoreReads s t) : SameAccess s t :=
  ⟨h.parts, (congrArg State.peers h.aside :), (congrArg State.dregs h.aside :)⟩

theorem life (h : CoreReads s t) (a : AgentId) : (getCtx t a).life = (getCtx s a).life := (congrArg Ctx.life (h.ctx a) :)
theorem fr (h : CoreReads s t) (a : AgentId) : (getCtx t a).fr = (getCtx s a).fr := (congrArg Ctx.fr (h.ctx a) :)
theorem arch (h : CoreReads s t) (a : AgentId) : (getCtx t a).arch = (getCtx s a).arch := (congrArg Ctx.arch (h.ctx a) :)
theorem trap (h : CoreReads s t) (a : AgentId) : (getCtx t a).trap = (getCtx s a).trap := (congrArg Ctx.trap (h.ctx a) :)
theorem eng (h : CoreReads s t) (a : AgentId) : (getCtx t a).eng = (getCtx s a).eng := (congrArg Ctx.eng (h.ctx a) :)
theorem carry (h : CoreReads s t) (a : AgentId) : (getCtx t a).csr.carry = (getCtx s a).csr.carry :=
  (congrArg (fun c => c.csr.carry) (h.ctx a) :)
theorem vfmt (h : CoreReads s t) (a : AgentId) : (getCtx t a).csr.vfmt = (getCtx s a).csr.vfmt :=
  (congrArg (fun c => c.csr.vfmt) (h.ctx a) :)

/-- The counts of a context change. -/
theorem setCtx {a : AgentId} {c : Ctx} (h : withoutCounts c = withoutCounts (getCtx s a)) : CoreReads s (setCtx s a c) := by
  refine ⟨rfl, fun b n => bodyOf_setCtx .., fun b => ?_⟩
  by_cases hk : ctxKey b = ctxKey a
  · have hb : ∀ t : State, getCtx t b = getCtx t a := fun t => by simp only [getCtx, hk]
    rw [hb, hb, getCtx_setCtx, h]
  · rw [getCtx_setCtx_other s c hk]

/-- A data cache changes. -/
theorem setDcache (s : State) (n : Nat) (d : KMap (List Byte)) : CoreReads s (setCore s n { getCore s n with dcache := d }) := by
  refine ⟨rfl, fun a m => ?_, fun _ => rfl⟩
  cases a with
  | seq _ => rfl
  | bank c b =>
    by_cases hc : c = n
    · subst hc
      simp only [bodyOf, getCore_setCore]
    · simp only [bodyOf, getCore_setCore_other _ _ hc]

end CoreReads

/-- A read of a control core that finds the translations as they were. -/
structure HomeReads (s t : State) : Prop extends CoreReads s t where
  tlb : t.cache.tlb = s.cache.tlb

theorem HomeReads.trans {s t u : State} (h : HomeReads s t) (k : HomeReads t u) : HomeReads s u :=
  ⟨h.toCoreReads.trans k.toCoreReads, k.tlb.trans h.tlb⟩

theorem L2Only.homeReads {s t : State} (h : L2Only s t) : HomeReads s t := ⟨.of_caches h.aside, h.tlb⟩

theorem ctlL2_homeReads {s : State} (h : s.mem.errs = []) (a : AgentId) (l : Loc) (n : Nat) (w : Bool) :
    HomeReads s (ctlL2 s a l n w) := by
  unfold ctlL2
  split
  · exact ⟨.refl s, rfl⟩
  · dsimp only
    split
    · have hcount : HomeReads s (setCtx s a (countL2 (getCtx s a) (l2Counts s l.pa n))) := ⟨.setCtx rfl, rfl⟩
      have herrs : (setCtx s a (countL2 (getCtx s a) (l2Counts s l.pa n))).mem.errs = [] := h
      exact hcount.trans (l2Range_l2Only herrs ..).homeReads
    · exact (l2Range_l2Only h ..).homeReads

theorem noteTook_homeReads (s : State) (c pa n : Nat) : HomeReads s (noteTook s c pa n) := by
  unfold noteTook
  split
  · exact ⟨.refl s, rfl⟩
  · exact ⟨.of_caches rfl, rfl⟩

theorem noteSaw_homeReads (s : State) (key : Nat) (l : Loc) (n : Nat) : HomeReads s (noteSaw s key l n) := by
  unfold noteSaw
  split
  · exact ⟨.of_caches rfl, rfl⟩
  · exact ⟨.refl s, rfl⟩

theorem noteTook_cores (s : State) (c pa n : Nat) : (noteTook s c pa n).cores = s.cores := by
  unfold noteTook
  split <;> rfl

theorem dcRenew_homeReads {s : State} (h : s.mem.errs = []) (key : Nat) (l : Loc) (n : Nat) : HomeReads s (dcRenew s key l n) := by
  have hfresh : ∀ c pa k, dcFresh s c pa k = s := fun c pa k => by simp [dcFresh, h]
  unfold dcRenew
  dsimp only
  split
  · rw [hfresh]
    have hcore : getCore s (dataCache key) = getCore (noteTook s (dataCache key) l.pa n) (dataCache key) := by
      simp only [getCore, noteTook_cores]
    refine (noteTook_homeReads ..).trans ⟨?_, rfl⟩
    rw [hcore]
    exact .setDcache ..
  · exact ⟨.refl s, rfl⟩

theorem homeRead_homeReads {s : State} (h : s.mem.errs = []) (a : AgentId) (l : Loc) (n : Nat) : HomeReads s (homeRead s a l n) :=
  (dcRenew_homeReads h ..).trans (noteSaw_homeReads ..)

/-- The read of a counter from its home slice. -/
def sliceRead (s : State) (a : AgentId) (l : Loc) : State := homeRead (ctlL2 s a l 8 false) a l 8

theorem sliceRead_homeReads {s : State} (h : s.mem.errs = []) (a : AgentId) (l : Loc) : HomeReads s (sliceRead s a l) := by
  have hl2 := ctlL2_homeReads h a l 8 false
  exact hl2.trans (homeRead_homeReads (by rw [hl2.mem]; exact h) a l 8)

theorem acquire_coreReads (s : State) (a : AgentId) (scope : Nat) : CoreReads s (acquire s a scope) := by
  unfold acquire
  split
  · exact (CoreReads.setDcache s _ _).trans (.of_caches rfl)
  · exact .refl s

theorem acquireAt_coreReads (s : State) (a : AgentId) (l : Loc) (scope : Nat) : CoreReads s (acquireAt s a l scope) :=
  acquire_coreReads ..

/-! ### The value -/

theorem leVal_lt (bs : List Byte) : leVal bs < 256 ^ bs.length := by
  induction bs with
  | nil => decide
  | cons b r ih =>
    have hb := b.isLt
    rw [leVal, List.length_cons, Nat.pow_succ]
    omega

theorem length_locRead (s : State) (l : Loc) (n : Nat) : (locRead s l n).length = n := by
  unfold locRead
  split
  · exact length_mread ..
  · split <;> exact length_mread ..

theorem homeWord_toNat (s : State) (l : Loc) : (homeWord s l).toNat = leVal (locRead s l 8) := by
  have hlt := leVal_lt (locRead s l 8)
  rw [length_locRead] at hlt
  rw [homeWord, BitVec.toNat_ofNat]
  exact Nat.mod_eq_of_lt hlt

theorem locRead_congr {s t : State} (h : t.mem = s.mem) (l : Loc) (n : Nat) : locRead t l n = locRead s l n := by
  rw [locRead, locRead, h]

/-! ### The access of the word -/

theorem withAccess_ok {s t : State} {a : AgentId} {va : Word} {n align : Nat} {kind : AccKind} {l : Loc}
    (h : ctlCheck s a va n align kind = .ok l t) (go : State → Loc → State) : withAccess s a va n align kind go = go t l := by
  rw [withAccess, h]

/-- What the checks of R160 look at in a context. -/
structure SameChecks (c d : Ctx) : Prop where
  part : d.life.part = c.life.part
  asid : d.life.asid = c.life.asid
  smode : d.trap.smode = c.trap.smode
  abort : d.fr.abort = c.fr.abort
  waitFetch : d.fr.waitFetch = c.fr.waitFetch

theorem ctlCheck_ok {s : State} {core : Nat} {b : Bool} {va : Word} {t : State} {l : Loc} {n align : Nat}
    {kind : AccKind} (hok : ctlCheck s (.bank core b) va n align kind = .ok l t) :
    xlate s core (getCtx s (.bank core b)).life.part (getCtx s (.bank core b)).life.asid va.toNat kind
        (!(getCtx s (.bank core b)).trap.smode) = (.ok l, t)
      ∧ va.toNat % align = 0 ∧ va.toNat < 2 ^ 48
      ∧ ((getCtx s (.bank core b)).fr.abort.isSome && (getCtx s (.bank core b)).fr.waitFetch == (kind == .fetch)) = false := by
  unfold ctlCheck at hok
  dsimp only at hok
  split at hok
  · cases hok
  next halign =>
    split at hok
    · cases hok
    next hlow =>
      split at hok
      · cases hok
      next habort =>
        split at hok
        · cases hok
        · cases hok
        · split at hok <;> cases hok
        next hx =>
          split at hok
          · cases hok
          · cases hok
            exact ⟨hx, by simpa using halign, by omega, by simpa using habort⟩

theorem ctlCheck_of_xlate {s : State} {core : Nat} {b : Bool} {va : Word} {t : State} {l : Loc} {n align : Nat}
    {kind : AccKind} (ht : t.mem.errs = [])
    (hx : xlate s core (getCtx s (.bank core b)).life.part (getCtx s (.bank core b)).life.asid va.toNat kind
        (!(getCtx s (.bank core b)).trap.smode) = (.ok l, t))
    (halign : va.toNat % align = 0) (hlow : va.toNat < 2 ^ 48)
    (habort : ((getCtx s (.bank core b)).fr.abort.isSome && (getCtx s (.bank core b)).fr.waitFetch == (kind == .fetch)) = false) :
    ctlCheck s (.bank core b) va n align kind = .ok l t := by
  simp only [ctlCheck, coreTlb, halign, habort, hx, locBad_none ht, ne_eq, not_true_eq_false, if_false, Bool.false_eq_true,
    Option.isSome_none, Bool.and_false, Bool.false_and, if_neg (Nat.not_le.mpr hlow)]

/-- An access whose place has been found finds it again (R175). -/
theorem ctlCheck_again {s t u : State} {core : Nat} {b : Bool} (hcore : core < 384) {va : Word} {l : Loc} {n align : Nat}
    {kind : AccKind} (herrs : s.mem.errs = []) (hok : ctlCheck s (.bank core b) va n align kind = .ok l t) :
    cachesAside t = cachesAside s ∧ (SameAccess s u → u.cache.tlb = t.cache.tlb → u.mem.errs = [] →
      SameChecks (getCtx s (.bank core b)) (getCtx u (.bank core b)) → ctlCheck u (.bank core b) va n align kind = .ok l u) := by
  obtain ⟨hx, halign, hlow, habort⟩ := ctlCheck_ok hok
  have hsys : core ≠ sysTlb := by
    unfold sysTlb
    omega
  obtain ⟨haside, hagain⟩ := xlate_again hsys herrs hx
  refine ⟨haside, fun hacc htlb herrs' hctx => ?_⟩
  refine ctlCheck_of_xlate herrs' ?_ halign hlow ?_
  · rw [hctx.part, hctx.asid, hctx.smode]
    exact hagain u hacc htlb
  · rw [hctx.abort, hctx.waitFetch]
    exact habort

end Sys2Proof.Machine
end

section

/-! ### The word WAITGE -/

namespace Sys2Proof.Machine

open Sys2Proof.Safety Sys2Proof.Claims

/-- The word as it stands at a counter: it takes the value from the home slice, and goes on or begins the steps of R74 (R175). -/
theorem exec_waitge {s t : State} {core : Nat} {b z : Bool} {a k : BitVec 5} {sc : BitVec 3} {l : Loc} (hcur : s.sch.cur = .bank core b)
    (hready : ready s (.waitge z a k sc) = true) (hd : (cx s).life.drain = .none)
    (hok : ctlCheck s s.sch.cur (src (cx s) 2 a) 8 8 .read = .ok l t) :
    exec (.waitge z a k sc) s = .next (
      if (src (cx s) 3 k).toNat ≤ (homeWord (sliceRead t s.sch.cur l) l).toNat then
        retire (acquireAt (sliceRead t s.sch.cur l) s.sch.cur l sc.toNat) s.sch.cur (.waitge z a k sc)
      else drainStep (draining (sliceRead t s.sch.cur l) s.sch.cur (.waitge (src (cx s) 2 a) sc.toNat (src (cx s) 3 k))) s.sch.cur) := by
  change execWaitge z a k sc s = _
  rw [execWaitge, control_ready hready, if_neg (not_not.mpr hd)]
  refine congrArg _ ((withAccess_ok hok _).trans ?_)
  dsimp only
  simp only [show isSeq s.sch.cur = false by rw [hcur]; rfl, Bool.false_eq_true, if_false]
  rfl

/-- The front end past a word depends on the front end and the format alone. -/
theorem pastWord_congr {c d : Ctx} (hfr : d.fr = c.fr) (hvfmt : d.csr.vfmt = c.csr.vfmt) (seq : Bool) (i : Instr) (n : Nat) :
    pastWord seq d i n = pastWord seq c i n := by simp only [pastWord, hfr, hvfmt]

theorem CoreReads.pastFront {s t : State} (h : CoreReads s t) (i : Instr) : pastFront t i = pastFront s i := by
  have hlen : bodyLen t = bodyLen s := by
    unfold bodyLen cx
    rw [h.sch, h.fr]
    cases (getCtx s s.sch.cur).fr.mac with
    | none => rfl
    | some m => exact congrArg List.length (h.body _ _)
  rw [Safety.pastFront, Safety.pastFront, hlen, cx, cx, h.sch]
  exact pastWord_congr (h.fr _) (h.vfmt _) ..

/-- A word that has only read goes on, but for the counts of its L2 accesses (R126). -/
theorem CoreReads.retired {s t : State} (h : CoreReads s t) (i : Instr) :
    sameMemory s (retire t s.sch.cur i) ∧ ctxIs s (retire t s.sch.cur i) i 0 0 := by
  have hretire : retire t s.sch.cur i = Machine.setCtx t s.sch.cur { getCtx t s.sch.cur with fr := Safety.pastFront s i } := by
    have hcur := retire_cur t i
    rw [h.sch, cx, h.sch, h.pastFront] at hcur
    exact hcur
  rw [hretire]
  refine ⟨h.mem, ?_⟩
  rw [ctxIs, getCtx_setCtx, ctxAfter, setS_zero]
  exact congrArg (fun c : Ctx => { c with fr := Safety.pastFront s i }) (h.ctx s.sch.cur)

/-! ### The steps of R74 -/

/-- The second look at the counter finds the value that the first found, and the spore leaves with it (R76, R175). -/
theorem drainStep_waitge {s t : State} {a : AgentId} {va val : Word} {sc : Nat} {l : Loc}
    (hrun : (getCtx s a).life.status = .running) (hquiet : quiet s a = true) (htrap : trapPending (getCtx s a) = false)
    (hd : (getCtx s a).life.drain = .waitge va sc val) (hfits : carryFits (getCtx s a) = true)
    (hok : ctlCheck (leaveAll s a) a va 8 8 .read = .ok l t) (hlow : ¬val.toNat ≤ (homeWord (sliceRead t a l) l).toNat) :
    drainStep s a = beginLeave (sliceRead t a l) a (.leaveWait va sc val) := by
  simp only [drainStep, hd, hrun, hquiet, htrap, hfits, reduceCtorEq, ne_eq, not_true_eq_false, or_self, if_false, Bool.not_true,
    Bool.or_self, Bool.false_eq_true]
  rw [withAccess_ok hok]
  exact if_neg hlow

theorem CoreReads.quiet {s t : State} (h : CoreReads s t) (a : AgentId) : quiet t a = quiet s a := by
  simp only [Machine.quiet, holdsCtx, h.eng, h.ops]

theorem CoreReads.carryFits {s t : State} (h : CoreReads s t) (a : AgentId) : carryFits (getCtx t a) = carryFits (getCtx s a) := by
  rw [Machine.carryFits, Machine.carryFits, h.carry, h.life]

/-- Reads before and after a suspension word begins the steps of R74 leave its spore as it stood. -/
theorem recordStands_leaving_reads {s w v : State} {core : Nat} {b : Bool} {d d' : Drain} (hw : CoreReads s w)
    (hv : CoreReads (leaveAll (draining w (.bank core b) d) (.bank core b)) v) :
    RecordStands (.bank core b) s (leaving v (.bank core b) d') := by
  have hctx : getCtx (leaveAll (draining w (.bank core b) d) (.bank core b)) (.bank core b)
      = { getCtx w (.bank core b) with life := { (getCtx w (.bank core b)).life with drain := d } } := by
    rw [getCtx_leaveAll, getCtx_draining]
  have hlife : (getCtx v (.bank core b)).life = { (getCtx s (.bank core b)).life with drain := d } := by
    rw [hv.life, hctx, ← hw.life]
  have hfr : (getCtx v (.bank core b)).fr = (getCtx s (.bank core b)).fr := by rw [hv.fr, hctx, ← hw.fr]
  have harch : (getCtx v (.bank core b)).arch = (getCtx s (.bank core b)).arch := by rw [hv.arch, hctx, ← hw.arch]
  have hcarry : (getCtx v (.bank core b)).csr.carry = (getCtx s (.bank core b)).csr.carry := by rw [hv.carry, hctx, ← hw.carry]
  refine ⟨⟨(leaving_now ..).trans (hv.now.trans hw.now), (leaving_parts ..).trans (hv.parts.trans hw.parts), ?_, ?_, ?_, ?_⟩,
    (leaving_mem ..).trans (hv.mem.trans hw.mem), ?_, ?_, ?_, ?_, ?_⟩ <;> rw [getCtx_leaving, leavingCtx]
  · exact (congrArg Life.part hlife :)
  · exact (congrArg Life.item hlife :)
  · exact (congrArg (fun l => l.rcd.slot) hlife :)
  · exact (congrArg Front.pc hfr :)
  · exact harch
  · exact hcarry
  · exact (congrArg (fun l => l.rcd.tag) hlife :)
  · exact (congrArg (fun l => l.rcd.task) hlife :)

/-- The word stands at its counter as it did when it first looked (R175). -/
theorem ctlCheck_draining {s t w : State} {core : Nat} {b : Bool} (hcore : core < 384) {va : Word} {l : Loc} {d : Drain}
    (herrs : s.mem.errs = []) (hok : ctlCheck s (.bank core b) va 8 8 .read = .ok l t) (hw : CoreReads s w)
    (htlb : w.cache.tlb = t.cache.tlb) :
    ctlCheck (leaveAll (draining w (.bank core b) d) (.bank core b)) (.bank core b) va 8 8 .read
      = .ok l (leaveAll (draining w (.bank core b) d) (.bank core b)) := by
  have hctx : getCtx (leaveAll (draining w (.bank core b) d) (.bank core b)) (.bank core b)
      = { getCtx w (.bank core b) with life := { (getCtx w (.bank core b)).life with drain := d } } := by
    rw [getCtx_leaveAll, getCtx_draining]
  obtain ⟨hparts, hpeers, hdregs⟩ := hw.sameAccess
  refine (ctlCheck_again hcore herrs hok).2 ⟨hparts, hpeers, hdregs⟩ htlb ((congrArg Stores.errs hw.mem).trans herrs) ?_
  rw [hctx]
  exact ⟨(congrArg Life.part (hw.life _) :), (congrArg Life.asid (hw.life _) :), (congrArg TrapCsr.smode (hw.trap _) :),
    (congrArg Front.abort (hw.fr _) :), (congrArg Front.waitFetch (hw.fr _) :)⟩

/-- A spore whose counter is too small leaves with it (R76). -/
theorem drainStep_suspends {s t w : State} {core : Nat} {b : Bool} {va val : Word} {sc : Nat} {l : Loc} (hcore : core < 384)
    (herrs : s.mem.errs = []) (heager : s.sch.eager = true) (hrun : (getCtx s (.bank core b)).life.status = .running)
    (hquiet : quiet s (.bank core b) = true) (htrap : trapPending (getCtx s (.bank core b)) = false)
    (hfits : carryFits (getCtx s (.bank core b)) = true) (hok : ctlCheck s (.bank core b) va 8 8 .read = .ok l t)
    (hw : CoreReads s w) (htlb : w.cache.tlb = t.cache.tlb) (hlow : ¬val.toNat ≤ leVal (locRead s l 8)) :
    ∃ v, RecordStands (.bank core b) s v ∧ drainStep (draining w (.bank core b) (.waitge va sc val)) (.bank core b)
      = suspendSpore v (.bank core b) 2 fun _ => .waiting va sc val := by
  obtain ⟨u, hu⟩ : ∃ u, u = leaveAll (draining w (.bank core b) (.waitge va sc val)) (.bank core b) := ⟨_, rfl⟩
  have hctx := getCtx_draining w (.bank core b) (.waitge va sc val)
  have humem : u.mem = s.mem := by rw [hu]; exact hw.mem
  have husch : u.sch = s.sch := by rw [hu]; exact hw.sch
  have hv : HomeReads u (sliceRead u (.bank core b) l) := sliceRead_homeReads (by rw [humem]; exact herrs) _ _
  have hvmem : (sliceRead u (.bank core b) l).mem = s.mem := hv.mem.trans humem
  refine ⟨leaving (sliceRead u (.bank core b) l) (.bank core b) (.leaveWait va sc val),
    recordStands_leaving_reads (d := .waitge va sc val) hw (by rw [← hu]; exact hv.toCoreReads), ?_⟩
  have hagain := ctlCheck_draining (d := .waitge va sc val) hcore herrs hok hw htlb
  rw [← hu] at hagain
  have hstep := drainStep_waitge (s := draining w (.bank core b) (.waitge va sc val)) (a := .bank core b) (t := u)
    (by rw [hctx]; exact (congrArg Life.status (hw.life _)).trans hrun)
    ((quiet_draining ..).trans ((hw.quiet _).trans hquiet)) (by rw [hctx, trapPending, hw.eng]; exact htrap) (by rw [hctx])
    (by rw [hctx]; exact (hw.carryFits _).trans hfits) (by rw [← hu]; exact hagain)
    (by rw [homeWord_toNat, locRead_congr hvmem]; exact hlow)
  rw [hstep, beginLeave_eager (by rw [hv.sch, husch]; exact heager)]
  exact acceptStep_leaveWait (by rw [leaving_mem, hvmem]; exact herrs) (by rw [getCtx_leaving]; rfl)

/-- WAITGE as R76 and R175 have it. -/
theorem waitForCounter_spec : Claims.waitForCounter := by
  intro s t core b z a k sc l hcur hcore hp hready hd herrs hdone heager hok
  have hexec := exec_waitge hcur hready hd hok
  have haside : cachesAside t = cachesAside s := (ctlCheck_again (u := s) hcore herrs (hcur ▸ hok)).1
  have hread := sliceRead_homeReads (by rw [(CoreReads.of_caches haside).mem]; exact herrs) s.sch.cur l (s := t)
  have hw : CoreReads s (sliceRead t s.sch.cur l) := (CoreReads.of_caches haside).trans hread.toCoreReads
  rw [homeWord_toNat, locRead_congr hw.mem] at hexec
  split
  next hge =>
    rw [if_pos hge] at hexec
    exact ⟨_, hexec, (hw.trans (acquireAt_coreReads ..)).retired _⟩
  next hlow =>
    intro hmay
    obtain ⟨hrun, -⟩ := (ready_iff s _).1 hready
    simp only [maySuspend, Bool.and_eq_true, Bool.not_eq_true'] at hmay
    obtain ⟨⟨hquiet, htrap⟩, hfits⟩ := hmay
    obtain ⟨v, hstands, hstep⟩ := drainStep_suspends (sc := sc.toNat) hcore herrs heager (hcur ▸ hrun) (hcur ▸ hquiet)
      (by rw [← hcur]; exact htrap) (by rw [← hcur]; exact hfits) (hcur ▸ hok) hw hread.tlb hlow
    rw [hcur] at hstep
    rw [if_neg hlow, hcur, hstep] at hexec
    obtain ⟨hempty, hrest⟩ := suspension_spec hcur hstands hp (hcur ▸ hdone) 2
      fun _ => .waiting (src (cx s) 2 a) sc.toNat (src (cx s) 3 k)
    refine ⟨_, hexec, hempty, fun hon hlost => ?_⟩
    obtain ⟨hbytes, hitem⟩ := hrest hon hlost
    refine ⟨hbytes, fun x hx => ?_⟩
    obtain ⟨y, hfind, hrec, -, -, hst⟩ := hitem x hx
    exact ⟨y, hfind, hrec, hst⟩

end Sys2Proof.Machine
end

section

namespace Sys2Proof.Proofs

open Sys2Proof Sys2Proof.Machine Sys2Proof.Safety Sys2Proof.Claims

/-- Settles O45: YIELD and EXIT by the steps of R74 they begin, WAITGE by the counter that its second look finds as the first did. -/
theorem suspensionWords : Obligations.SuspensionWords := by
  unfold Obligations.SuspensionWords
  exact ⟨yield_spec, exit_spec, waitForCounter_spec⟩

end Sys2Proof.Proofs
end

section

/-! # The access of a load, a store or an atomic, and its first checks (R160, R164, R166 to R168, R175) -/

namespace Sys2Proof.Machine

open Sys2Proof.Safety Sys2Proof.Claims

/-! ### A context written as it stands -/

/-- What a map holds at a key may be put there again. -/
theorem kput_of_kfind {α : Type} {m : KMap α} {k : Nat} {x : α} (h : kfind m k = some x) : kput m k x = m := by
  induction m with
  | nil => cases h
  | cons e r ih =>
    obtain ⟨j, y⟩ := e
    unfold kfind at h
    unfold kput
    split at h
    · cases h
    next hlt =>
      split at h
      next heq =>
        cases h
        rw [if_neg hlt, if_pos heq, heq]
      next hne => rw [if_neg hlt, if_neg hne, ih h]

/-- A context that runs is one that the state lists; written as it stands it leaves the state as it was. -/
theorem setCtx_getCtx {s : State} {a : AgentId} (h : (getCtx s a).life.status = .running) : setCtx s a (getCtx s a) = s := by
  have hfound : kfind s.ctxs (ctxKey a) = some (getCtx s a) := by
    unfold getCtx kget at h ⊢
    cases hk : kfind s.ctxs (ctxKey a) with
    | none =>
      rw [hk] at h
      cases h
    | some c => rfl
  rw [setCtx, kput_of_kfind hfound]

/-- A front end with no answer to take gives none up. -/
theorem clearAbort_running {s : State} {a : AgentId} (hrun : (getCtx s a).life.status = .running) (h : (getCtx s a).fr.abort = none) :
    updFr s a (fun f => { f with abort := none }) = s := by
  have hfr : ({ (getCtx s a).fr with abort := none } : Front) = (getCtx s a).fr := by rw [← h]
  rw [updFr, updCtx, hfr]
  exact setCtx_getCtx hrun

/-! ### The words of R164, R166 to R168, R175 -/

/-- What a load does once it has passed the checks of R132. -/
theorem exec_load {i : Instr} {d a : BitVec 5} {m : BitVec 11} {n : Nat} {signed : Bool} (h : loadOf i = some (d, a, m, n, signed))
    (s : State) : exec i s = loadWord i s d a m n signed := by
  unfold loadOf at h
  split at h <;> cases h <;> rfl

/-- What a store does. -/
theorem exec_store {i : Instr} {b a : BitVec 5} {m : BitVec 11} {n : Nat} (h : storeOf i = some (b, a, m, n)) (s : State) :
    exec i s = storeWord i s b a m n := by
  unfold storeOf at h
  split at h <;> cases h <;> rfl

/-- The own effect of an atomic (R160, R166 to R168, R175). -/
def atomicBody (i : Instr) (s : State) (g : AgentId) (c : Ctx) : State :=
  match atomicOf c i with
  | some (a, act) => withAccess s g (src c 2 a) 8 8 .rmw fun t l => retire (ctlPost t g l act) g i
  | none => s

/-- What an atomic does. -/
theorem exec_atomic {c : Ctx} {i : Instr} {a : BitVec 5} {act : HeldAct} (h : atomicOf c i = some (a, act)) (s : State) :
    exec i s = control i s (atomicBody i) := by
  unfold atomicOf at h
  split at h <;> cases h <;> rfl

theorem exec_atomic_ready {s : State} {i : Instr} {a : BitVec 5} {act : HeldAct} (hready : ready s i = true)
    (h : atomicOf (cx s) i = some (a, act)) :
    exec i s = .next (withAccess s s.sch.cur (src (cx s) 2 a) 8 8 .rmw fun t l => retire (ctlPost t s.sch.cur l act) s.sch.cur i) := by
  rw [exec_atomic h, control_ready hready, atomicBody, h]

theorem exec_load_ready {s : State} {i : Instr} {d a : BitVec 5} {m : BitVec 11} {n : Nat} {signed : Bool} (hready : ready s i = true)
    (h : loadOf i = some (d, a, m, n, signed)) :
    exec i s = .next (withAccess s s.sch.cur (src (cx s) 2 a + effImm (cx s) m) n n .read fun t l =>
      retire (ctlPost t s.sch.cur l (.load (effReg (cx s) 1 d) n signed)) s.sch.cur i) :=
  (exec_load h s).trans (control_ready hready _)

theorem exec_store_ready {s : State} {i : Instr} {b a : BitVec 5} {m : BitVec 11} {n : Nat} (hready : ready s i = true)
    (h : storeOf i = some (b, a, m, n)) :
    exec i s = .next (withAccess s s.sch.cur (src (cx s) 2 a + effImm (cx s) m) n n .write fun t l =>
      retire (ctlPost t s.sch.cur l (.store (leList n (src (cx s) 1 b).toNat))) s.sch.cur i) :=
  (exec_store h s).trans (control_ready hready _)

/-- Loads, stores and atomics make one access each, aligned to its size (R160). -/
theorem exec_access {s : State} {i : Instr} {va : Word} {n : Nat} (hready : ready s i = true) (h : accessOf (cx s) i = some (va, n)) :
    ∃ kind go, exec i s = .next (withAccess s s.sch.cur va n n kind go) := by
  unfold accessOf at h
  split at h
  next hload =>
    cases h
    exact ⟨_, _, exec_load_ready hready hload⟩
  next hstore _ =>
    cases h
    exact ⟨_, _, exec_store_ready hready hstore⟩
  next hatomic _ _ =>
    cases h
    exact ⟨_, _, exec_atomic_ready hready hatomic⟩
  next => cases h

/-! ### The first checks of R160 -/

/-- An access that fails a check of a word with no answer to take traps in the state as it stands. -/
theorem withAccess_trap {s : State} {a : AgentId} {va : Word} {n align cause : Nat} {kind : AccKind}
    (hrun : (getCtx s a).life.status = .running) (habort : (getCtx s a).fr.abort = none)
    (h : ctlCheck s a va n align kind = .trap cause s) (go : State → Loc → State) :
    withAccess s a va n align kind go = raiseCtl s a cause va 0 := by
  rw [withAccess, h]
  dsimp only
  rw [if_neg (by simp [habort]), clearAbort_running hrun habort]

theorem ctlCheck_misaligned {va : Word} {align : Nat} (h : va.toNat % align ≠ 0) (s : State) (a : AgentId) (n : Nat) (kind : AccKind) :
    ctlCheck s a va n align kind = .trap 5 s := by rw [ctlCheck, if_pos h]

theorem ctlCheck_high {va : Word} {align : Nat} (h : va.toNat % align = 0) (hva : 2 ^ 48 ≤ va.toNat) (s : State) (a : AgentId) (n : Nat)
    (kind : AccKind) : ctlCheck s a va n align kind = .trap 6 s := by rw [ctlCheck, if_neg (not_not.mpr h), if_pos hva]

end Sys2Proof.Machine
end

section

namespace Sys2Proof.Proofs

open Sys2Proof Sys2Proof.Machine Sys2Proof.Safety Sys2Proof.Claims

/-- Settles O27. -/
theorem scalarRegisters : Obligations.ScalarRegisters := by
  unfold Obligations.ScalarRegisters
  exact fun c r q x => ⟨getS_zero c, setS_zero c x, fun hpos hlt => getS_setS_same c r x ⟨hpos, hlt⟩, getS_setS_other c x⟩

/-- Settles O6: the two checks come first of those of R160, before any translation, and a word that has no answer to take meets its
trap in the state in which it stands. -/
theorem misalignedAccessTraps : Obligations.MisalignedAccessTraps := by
  unfold Obligations.MisalignedAccessTraps
  intro s i va n hready haccess habort
  have hrun : (getCtx s s.sch.cur).life.status = .running := ((ready_iff s i).1 hready).1
  obtain ⟨kind, go, hexec⟩ := exec_access hready haccess
  rw [hexec]
  exact ⟨fun hmis => congrArg _ (withAccess_trap hrun habort (ctlCheck_misaligned hmis ..) go),
    fun halign hhigh => congrArg _ (withAccess_trap hrun habort (ctlCheck_high halign hhigh ..) go)⟩

end Sys2Proof.Proofs
end

section

/-! # Accesses of a control core where no error mark stands (R122, R160, R164, R318)

An access whose checks have been made changes memories, caches and data caches, and of its own context the scalar registers and the
counts of L2 accesses; a load changes no memory. -/

namespace Sys2Proof.Machine

open Sys2Proof.Safety Sys2Proof.Claims

/-! ### The checks -/

/-- Where no error mark stands, a translation changes caches alone. -/
theorem xlate_cachesAside {s : State} (h : s.mem.errs = []) (cache p asid va : Nat) (kind : AccKind) (user : Bool) :
    cachesAside (xlate s cache p asid va kind user).2 = cachesAside s := by
  unfold xlate
  split
  · rfl
  · split
    · rfl
    · extract_lets w t c u d
      have ht : cachesAside t = cachesAside s := (walkL2_l2Only h p w.reads).aside
      have hu : cachesAside u = cachesAside s := by
        unfold u
        split
        · exact ht
        · exact ht
      split
      · exact hu
      · exact hu
      · extract_lets x
        clear_value x
        split
        · exact hu
        · dsimp only
          split
          · exact hu
          · exact hu

theorem ctlCheck_cachesAside {s t : State} {a : AgentId} {va : Word} {n align : Nat} {kind : AccKind} {l : Loc} (h : s.mem.errs = [])
    (hok : ctlCheck s a va n align kind = .ok l t) : cachesAside t = cachesAside s := by
  have hx := xlate_cachesAside h (coreTlb a) (getCtx s a).life.part (getCtx s a).life.asid va.toNat kind (!(getCtx s a).trap.smode)
  unfold ctlCheck at hok
  dsimp only at hok
  split at hok
  · cases hok
  · split at hok
    · cases hok
    · split at hok
      · cases hok
      · split at hok
        · cases hok
        · cases hok
        · split at hok <;> cases hok
        next heq =>
          rw [heq] at hx
          split at hok
          · cases hok
          · cases hok
            exact hx

/-! ### The frame of an access -/

/-- The state with memories, caches, cores and the context of a key put aside. -/
def accessAside (k : Nat) (s : State) : State :=
  { s with cache := State.reset.cache, mem := State.reset.mem, cores := [], ctxs := kput s.ctxs k Ctx.reset }

/-- A context with its scalar registers and its counts of L2 accesses put aside. -/
def scalarsAside (c : Ctx) : Ctx := withoutCounts { c with arch := { c.arch with s := Arch.reset.s } }

/-- What the accesses of the control core of the context of key `k` leave, and that no error mark stands after them. -/
structure AccessFrame (k : Nat) (s t : State) : Prop where
  aside : accessAside k t = accessAside k s
  core : ∀ n, { getCore t n with dcache := [] } = { getCore s n with dcache := [] }
  ctx : ∀ a, ctxKey a = k → scalarsAside (getCtx t a) = scalarsAside (getCtx s a)
  clean : t.mem.errs = []

namespace AccessFrame

variable {k : Nat} {s t u : State}

theorem refl (h : s.mem.errs = []) : AccessFrame k s s := ⟨rfl, fun _ => rfl, fun _ _ => rfl, h⟩

theorem trans (h : AccessFrame k s t) (g : AccessFrame k t u) : AccessFrame k s u :=
  ⟨g.aside.trans h.aside, fun n => (g.core n).trans (h.core n), fun a ha => (g.ctx a ha).trans (h.ctx a ha), g.clean⟩

theorem of_caches (h : s.mem.errs = []) (hc : cachesAside t = cachesAside s) : AccessFrame k s t := by
  have hctxs : t.ctxs = s.ctxs := (congrArg State.ctxs hc :)
  have hcores : t.cores = s.cores := (congrArg State.cores hc :)
  have hmem : t.mem = s.mem := (congrArg State.mem hc :)
  exact ⟨(congrArg (accessAside k) hc :), fun n => by simp only [getCore, hcores], fun a _ => by rw [getCtx_congr hctxs], by rw [hmem, h]⟩

theorem withMem {m : Stores} (h : m.errs = []) : AccessFrame k s { s with mem := m } := ⟨rfl, fun _ => rfl, fun _ _ => rfl, h⟩

theorem setDcache (h : s.mem.errs = []) (n : Nat) (d : KMap (List Byte)) :
    AccessFrame k s (setCore s n { getCore s n with dcache := d }) := by
  refine ⟨rfl, fun m => ?_, fun _ _ => rfl, h⟩
  by_cases hm : m = n
  · rw [hm, getCore_setCore]
  · rw [getCore_setCore_other _ _ hm]

theorem setCtx (h : s.mem.errs = []) {a : AgentId} {c : Ctx} (hc : scalarsAside c = scalarsAside (getCtx s a)) :
    AccessFrame (ctxKey a) s (setCtx s a c) := by
  refine ⟨?_, fun _ => rfl, fun b hb => ?_, h⟩
  · simp only [accessAside, Machine.setCtx, kput_kput]
  · have hsame : ∀ t : State, getCtx t b = getCtx t a := fun t => by simp only [getCtx, hb]
    rw [hsame, hsame, getCtx_setCtx, hc]

theorem foldl {α : Type} {f : State → α → State} (l : List α) (hf : ∀ s x, x ∈ l → s.mem.errs = [] → AccessFrame k s (f s x))
    (h : s.mem.errs = []) : AccessFrame k s (l.foldl f s) := by
  induction l generalizing s with
  | nil => exact .refl h
  | cons x r ih =>
    have hx := hf s x List.mem_cons_self h
    exact hx.trans (ih (fun s y hy => hf s y (List.mem_cons_of_mem x hy)) hx.clean)

theorem sch (h : AccessFrame k s t) : t.sch = s.sch := (congrArg State.sch h.aside :)
theorem fr (h : AccessFrame k s t) {a : AgentId} (ha : ctxKey a = k) : (getCtx t a).fr = (getCtx s a).fr :=
  (congrArg Ctx.fr (h.ctx a ha) :)
theorem vfmt (h : AccessFrame k s t) {a : AgentId} (ha : ctxKey a = k) : (getCtx t a).csr.vfmt = (getCtx s a).csr.vfmt :=
  (congrArg (fun c => c.csr.vfmt) (h.ctx a ha) :)

theorem bodyOf (h : AccessFrame k s t) (a : AgentId) (n : Nat) : bodyOf t a n = bodyOf s a n := by
  cases a with
  | seq _ => rfl
  | bank c b =>
    have hstore : (getCore t c).cstore = (getCore s c).cstore := (congrArg Core.cstore (h.core c) :)
    simp only [Machine.bodyOf, hstore]

end AccessFrame

/-! ### The parts of an access -/

section

variable {s : State} {k : Nat}

theorem dcFresh_clean (h : s.mem.errs = []) (c pa n : Nat) : dcFresh s c pa n = s := by simp [dcFresh, h]

theorem dcParity_clean (h : s.mem.errs = []) (a : AgentId) (l : Loc) : dcParity s a l = s := by simp [dcParity, h]

theorem noteTook_accessFrame (h : s.mem.errs = []) (c pa n : Nat) : AccessFrame k s (noteTook s c pa n) := by
  unfold noteTook
  split
  · exact .refl h
  · exact .of_caches h rfl

theorem noteSaw_accessFrame (h : s.mem.errs = []) (key : Nat) (l : Loc) (n : Nat) : AccessFrame k s (noteSaw s key l n) := by
  unfold noteSaw
  split
  · exact .of_caches h rfl
  · exact .refl h

theorem noteSawHeld_accessFrame (h : s.mem.errs = []) (key : Nat) (l : Loc) (n : Nat) : AccessFrame k s (noteSawHeld s key l n) := by
  unfold noteSawHeld
  split
  · exact .of_caches h rfl
  · exact .refl h

theorem dcRenew_accessFrame (h : s.mem.errs = []) (key : Nat) (l : Loc) (n : Nat) : AccessFrame k s (dcRenew s key l n) := by
  unfold dcRenew
  dsimp only
  rw [dcFresh_clean h]
  split
  · have hcore : getCore s (dataCache key) = getCore (noteTook s (dataCache key) l.pa n) (dataCache key) := by
      simp only [getCore, noteTook_cores]
    have htook : AccessFrame k s (noteTook s (dataCache key) l.pa n) := noteTook_accessFrame h ..
    rw [hcore]
    exact htook.trans (.setDcache htook.clean ..)
  · exact .refl h

theorem updCache_accessFrame (h : s.mem.errs = []) (a : AgentId) (f : KMap (List Byte) → KMap (List Byte)) :
    AccessFrame k s (updCache s a f) := .setDcache h _ _

theorem dcFill_accessFrame (h : s.mem.errs = []) (a : AgentId) (l : Loc) : AccessFrame k s (dcFill s a l) := by
  unfold dcFill
  rw [dcFresh_clean h]
  split
  · have htook : AccessFrame k s (noteTook s (coreTlb a) (l.pa / 128 * 128) 128) := noteTook_accessFrame h ..
    exact htook.trans (updCache_accessFrame htook.clean ..)
  · exact .refl h

theorem ctlL2_accessFrame (h : s.mem.errs = []) {a : AgentId} (ha : ctxKey a = k) (l : Loc) (n : Nat) (w : Bool) :
    AccessFrame k s (ctlL2 s a l n w) := by
  subst ha
  unfold ctlL2
  split
  · exact .refl h
  · dsimp only
    split
    · have hcount : AccessFrame (ctxKey a) s (setCtx s a (countL2 (getCtx s a) (l2Counts s l.pa n))) := .setCtx h rfl
      exact hcount.trans (.of_caches hcount.clean (l2Range_l2Only hcount.clean ..).aside)
    · exact .of_caches h (l2Range_l2Only h ..).aside

theorem homeRead_accessFrame (h : s.mem.errs = []) (a : AgentId) (l : Loc) (n : Nat) : AccessFrame k s (homeRead s a l n) := by
  have hrenew : AccessFrame k s (dcRenew s (ctxKey a) l n) := dcRenew_accessFrame h ..
  exact hrenew.trans (noteSaw_accessFrame hrenew.clean ..)

theorem acquire_accessFrame (h : s.mem.errs = []) (a : AgentId) (scope : Nat) : AccessFrame k s (acquire s a scope) := by
  unfold acquire
  split
  · have hempty : AccessFrame k s (updCache s a fun _ => []) := updCache_accessFrame h ..
    exact hempty.trans (.of_caches hempty.clean rfl)
  · exact .refl h

theorem writeS_accessFrame (h : s.mem.errs = []) {a : AgentId} (ha : ctxKey a = k) (r : Nat) (x : Word) :
    AccessFrame k s (writeS s a r x) := by
  subst ha
  refine .setCtx h ?_
  unfold setS
  split <;> rfl

/-- A write at a place changes memories alone. -/
theorem locWrite_accessFrame (h : s.mem.errs = []) (l : Loc) (bs : List Byte) : AccessFrame k s (locWrite s l bs) := by
  have hpromo : AccessFrame k s (endPromo s l bs.length) := by
    unfold endPromo
    split
    · exact .refl h
    · exact .withMem h
  refine hpromo.trans ?_
  have hclean := hpromo.clean
  unfold locWrite
  generalize endPromo s l bs.length = u at hclean
  dsimp only
  split
  · simp only [hclean, List.isEmpty_nil, if_true]
    exact .withMem rfl
  · split
    · exact .withMem hclean
    · exact .withMem hclean

theorem ctlStore_accessFrame (h : s.mem.errs = []) {a : AgentId} (ha : ctxKey a = k) (l : Loc) (bs : List Byte) :
    AccessFrame k s (ctlStore s a l bs) := by
  have hwrite : AccessFrame k s (locWrite s l bs) := locWrite_accessFrame h ..
  have hl2 := hwrite.trans (ctlL2_accessFrame hwrite.clean ha l bs.length true)
  exact hl2.trans (dcRenew_accessFrame hl2.clean ..)

theorem ctlAtomic_accessFrame (h : s.mem.errs = []) {a : AgentId} (ha : ctxKey a = k) (l : Loc) (amop : Bool) (x : Word) :
    AccessFrame k s (ctlAtomic s a l amop x) := by
  have hsaw : AccessFrame k s (noteSaw s (ctxKey a) l 8) := noteSaw_accessFrame h ..
  have hstore := hsaw.trans (ctlStore_accessFrame hsaw.clean ha l (leList 8 x.toNat))
  have hkeep : AccessFrame k s (keepPromo (noteSaw s (ctxKey a) l 8) l amop fun t => ctlStore t a l (leList 8 x.toNat)) := by
    unfold keepPromo
    split
    · exact hstore.trans (.withMem hstore.clean)
    · exact hstore
  exact hkeep.trans (dcRenew_accessFrame hkeep.clean ..)

theorem ctlLoad_accessFrame (h : s.mem.errs = []) {a : AgentId} (ha : ctxKey a = k) (l : Loc) (n : Nat) :
    AccessFrame k s (ctlLoad s a l n).2 := by
  have hsaw : AccessFrame k s (noteSaw s (ctxKey a) l n) := noteSaw_accessFrame h ..
  have hl2 := hsaw.trans (ctlL2_accessFrame hsaw.clean ha l n false)
  have hmiss := hl2.trans (dcFill_accessFrame hl2.clean a l)
  unfold ctlLoad
  rw [dcParity_clean h]
  dsimp only
  split
  · split
    · exact noteSawHeld_accessFrame h ..
    · exact hmiss
  · exact hmiss

/-- An access is performed at its place. -/
theorem doAct_accessFrame (h : s.mem.errs = []) {a : AgentId} (ha : ctxKey a = k) (l : Loc) (x : HeldAct) :
    AccessFrame k s (doAct s a l x) := by
  have hends : ∀ (acq : Bool) {t : State} (scope d : Nat) (old : Word), AccessFrame k s t →
      AccessFrame k s (writeS (if acq then acquireAt t a l scope else t) a d old) := fun acq t scope d old ht => by
    have hacquire : AccessFrame k s (if acq then acquireAt t a l scope else t) := by
      split
      · exact ht.trans (acquire_accessFrame ht.clean ..)
      · exact ht
    exact hacquire.trans (writeS_accessFrame hacquire.clean ha ..)
  cases x with
  | store bs => exact ctlStore_accessFrame h ha ..
  | load d n signed =>
    have hload := ctlLoad_accessFrame h ha l n
    exact hload.trans (writeS_accessFrame hload.clean ha ..)
  | amo d op x scope acq amop => exact hends _ _ _ _ (ctlAtomic_accessFrame h ha ..)
  | cas d old new scope acq amop =>
    refine hends _ _ _ _ ?_
    split
    · exact ctlAtomic_accessFrame h ha ..
    · have hl2 := ctlL2_accessFrame h ha l 8 false
      exact hl2.trans (homeRead_accessFrame hl2.clean ..)
  | signal x => exact ctlAtomic_accessFrame h ha ..

theorem ctxKey_keyAgent (k : Nat) : ctxKey (keyAgent k) = k := by
  unfold keyAgent
  split
  · have hmod : b2n (k % 2 == 1) = k % 2 := by
      obtain h | h := Nat.mod_two_eq_zero_or_one k <;> rw [h] <;> rfl
    rw [ctxKey, hmod]
    exact Nat.div_add_mod k 2
  · rw [ctxKey]
    omega

/-- The accesses of a context that wait in the buffer are performed. -/
theorem performOwn_accessFrame (h : s.mem.errs = []) (a : AgentId) : AccessFrame (ctxKey a) s (performOwn s a) := by
  unfold performOwn
  split
  · exact .refl h
  · refine .trans (t := { s with mem := { s.mem with buf := s.mem.buf.filter fun x => !(x.ctx == ctxKey a) } }) (.withMem h)
      (.foldl _ (fun t x hx ht => ?_) h)
    obtain ⟨-, hown⟩ := List.mem_filter.1 hx
    exact doAct_accessFrame ht ((ctxKey_keyAgent x.ctx).trans (beq_iff_eq.1 hown)) ..

end

/-! ### The word of an access -/

theorem AccessFrame.retire {s t : State} (h : AccessFrame (ctxKey s.sch.cur) s t) (i : Instr) :
    Machine.retire t s.sch.cur i = Machine.setCtx t s.sch.cur { getCtx t s.sch.cur with fr := pastFront s i } := by
  have hlen : bodyLen t = bodyLen s := by
    unfold bodyLen cx
    rw [h.sch, h.fr rfl]
    cases (getCtx s s.sch.cur).fr.mac with
    | none => rfl
    | some m => exact congrArg List.length (h.bodyOf _ _)
  have hfront : pastFront t i = pastFront s i := by
    rw [pastFront, pastFront, hlen, cx, cx, h.sch]
    exact pastWord_congr (h.fr rfl) (h.vfmt rfl) ..
  have hcur := retire_cur t i
  rwa [cx, h.sch, hfront] at hcur

/-- A word whose accesses leave this frame, and which moves on, changes no other context. -/
theorem AccessFrame.onlyHere {s t : State} (h : AccessFrame (ctxKey s.sch.cur) s t) (i : Instr) :
    onlyHere s (Machine.retire t s.sch.cur i) := by
  refine ⟨?_, h.core⟩
  have hput := congrArg (fun u : State => { u with cache := s.cache, mem := s.mem, cores := s.cores }) h.aside
  simp only [accessAside] at hput
  rw [h.retire i]
  simp only [elsewhere, Machine.setCtx, kput_kput]
  exact hput

/-- A word that has passed the checks of its access runs as R160 and R318 say when the access, performed after those of its context that
wait, does what `performed` says of it. -/
theorem accessRuns_of_checked {s s' : State} {i : Instr} {va : Word} {n align : Nat} {kind : AccKind} {l : Loc} {act : HeldAct}
    (herrs : s.mem.errs = []) (hok : ctlCheck s s.sch.cur va n align kind = .ok l s')
    (hexec : exec i s = .next (withAccess s s.sch.cur va n align kind fun t l => retire (ctlPost t s.sch.cur l act) s.sch.cur i))
    (hdone : AccessFrame (ctxKey s.sch.cur) s (performOwn s' s.sch.cur) →
      AccessFrame (ctxKey s.sch.cur) s (doAct (performOwn s' s.sch.cur) s.sch.cur l act) →
      performed (performOwn s' s.sch.cur) (retire (doAct (performOwn s' s.sch.cur) s.sch.cur l act) s.sch.cur i) s.sch.cur l act
        fun c => { c with fr := pastFront s i }) :
    accessRuns s s' i l act := by
  have haside := ctlCheck_cachesAside herrs hok
  have hchecked : AccessFrame (ctxKey s.sch.cur) s s' := .of_caches herrs haside
  have hmem : s'.mem = s.mem := (congrArg State.mem haside :)
  have hctx : getCtx s' s.sch.cur = cx s := getCtx_congr (congrArg State.ctxs haside :) _
  have hbuffers : buffers s' = s.sch.buffer := by rw [buffers, hchecked.sch, hchecked.clean, List.isEmpty_nil, Bool.and_true]
  rw [withAccess_ok hok] at hexec
  refine ⟨_, hexec, ?_⟩
  rw [ctlPost, hbuffers]
  cases s.sch.buffer with
  | true =>
    have hwaits : AccessFrame (ctxKey s.sch.cur) s { s' with mem := { s'.mem with buf := s'.mem.buf ++ [⟨ctxKey s.sch.cur, l, act⟩] } } :=
      hchecked.trans (.withMem hchecked.clean)
    refine ⟨hwaits.onlyHere i, ?_⟩
    simp only [if_true]
    refine ⟨?_, ?_⟩
    · rw [retire_mem, hmem]
    · rw [ctxIs, hwaits.retire, getCtx_setCtx, ctxAfter, setS_zero, ← hctx]
      rfl
  | false =>
    have hown := hchecked.trans (performOwn_accessFrame hchecked.clean s.sch.cur)
    have hact := hown.trans (doAct_accessFrame hown.clean rfl l act)
    simp only [Bool.false_eq_true, if_false]
    exact ⟨hact.onlyHere i, hdone hown hact⟩

/-! ### Loads -/

/-- A load changes caches, a data cache and the counts of L2 accesses alone (R122, R126). -/
theorem ctlLoad_coreReads {s : State} (h : s.mem.errs = []) (a : AgentId) (l : Loc) (n : Nat) : CoreReads s (ctlLoad s a l n).2 := by
  have hfill : ∀ {t : State}, t.mem.errs = [] → CoreReads t (dcFill t a l) := fun {t} ht => by
    unfold dcFill
    rw [dcFresh_clean ht]
    split
    · exact (noteTook_homeReads ..).toCoreReads.trans (.setDcache ..)
    · exact .refl t
  have hsaw := (noteSaw_homeReads s (ctxKey a) l n).toCoreReads
  have hl2 := hsaw.trans (ctlL2_homeReads (by rw [hsaw.mem, h]) a l n false).toCoreReads
  have hmiss := hl2.trans (hfill (by rw [hl2.mem, h]))
  unfold ctlLoad
  rw [dcParity_clean h]
  dsimp only
  split
  · split
    · unfold noteSawHeld
      split
      · exact .of_caches rfl
      · exact .refl s
    · exact hmiss
  · exact hmiss

/-- The bytes of a load are those of its place, or those of the line that its data cache holds (R122). -/
theorem ctlLoad_bytes {s : State} (h : s.mem.errs = []) (a : AgentId) (l : Loc) (n : Nat) :
    (ctlLoad s a l n).1 = locRead s l n
      ∨ ∃ line, dcLine s a l = some line ∧ (ctlLoad s a l n).1 = (line.drop (l.pa % 128)).take n := by
  unfold ctlLoad
  rw [dcParity_clean h]
  dsimp only
  split
  next line hline =>
    split
    · exact .inr ⟨line, hline, rfl⟩
    · exact .inl rfl
  · exact .inl rfl

theorem toSigned_eq_toInt (w x : Nat) : toSigned w x = (BitVec.ofNat w x).toInt := by
  rw [BitVec.toInt_eq_toNat_cond, BitVec.toNat_ofNat, toSigned]
  cases w with
  | zero => simp [Nat.mod_one]
  | succ w =>
    have hpow : 2 ^ (w + 1) = 2 * 2 ^ w := by rw [Nat.pow_succ, Nat.mul_comm]
    simp only [Nat.add_one_ne_zero, if_false, Nat.add_sub_cancel, hpow, Nat.mul_lt_mul_left Nat.two_pos]

theorem loadExt_eq (signed : Bool) (n x : Nat) : loadExt signed n x = extended signed n x := by
  rw [loadExt, extended, sext64, toSigned_eq_toInt]
  rfl

theorem withoutCounts_setS {c d : Ctx} (h : withoutCounts c = withoutCounts d) (r : Nat) (x : Word) :
    withoutCounts (setS c r x) = withoutCounts (setS d r x) := by
  have hset : ∀ c : Ctx, withoutCounts (setS c r x) = setS (withoutCounts c) r x := fun c => by
    unfold setS
    split <;> rfl
  rw [hset, hset, h]

theorem doAct_load (s : State) (a : AgentId) (l : Loc) (d n : Nat) (signed : Bool) : doAct s a l (.load d n signed)
    = writeS (ctlLoad s a l n).2 a d (loadExt signed n (leVal (ctlLoad s a l n).1)) := rfl

/-- A load that is performed writes its register with the bytes it takes, and moves on (R122, R164). -/
theorem performed_load {s v : State} (hown : AccessFrame (ctxKey s.sch.cur) s v) {i : Instr} {l : Loc} {d n : Nat} {signed : Bool}
    (hact : AccessFrame (ctxKey s.sch.cur) s (doAct v s.sch.cur l (.load d n signed))) :
    performed v (retire (doAct v s.sch.cur l (.load d n signed)) s.sch.cur i) s.sch.cur l (.load d n signed)
      fun c => { c with fr := pastFront s i } := by
  have hreads := ctlLoad_coreReads hown.clean s.sch.cur l n
  have hctx : ∀ x, loadExt signed n (leVal (ctlLoad v s.sch.cur l n).1) = x →
      withoutCounts (getCtx (retire (doAct v s.sch.cur l (.load d n signed)) s.sch.cur i) s.sch.cur)
        = withoutCounts { setS (getCtx v s.sch.cur) d x with fr := pastFront s i } := fun x hx => by
    rw [hact.retire, getCtx_setCtx, doAct_load, writeS, getCtx_updCtx, hx]
    exact congrArg (fun c : Ctx => { c with fr := pastFront s i }) (withoutCounts_setS (hreads.ctx _) d x)
  refine ⟨⟨hreads.mem, ?_⟩, trivial⟩
  obtain hhome | ⟨line, hline, hheld⟩ := ctlLoad_bytes hown.clean s.sch.cur l n
  · exact .inl (hctx _ (by rw [hhome, loadExt_eq]))
  · exact .inr ⟨line, hline, hctx _ (by rw [hheld, loadExt_eq])⟩

end Sys2Proof.Machine
end

section

namespace Sys2Proof.Proofs

open Sys2Proof Sys2Proof.Machine Sys2Proof.Safety Sys2Proof.Claims

/-- Settles O3: the checks change caches alone, and so does a load but for the counts of its context; the accesses that go before it
change only memories, caches and registers of its context. -/
theorem loads : Obligations.Loads := by
  unfold Obligations.Loads
  intro s s' i d a m n signed l hready hload _ herrs hok
  exact accessRuns_of_checked herrs hok (exec_load_ready hready hload) fun hown hact => performed_load hown hact

end Sys2Proof.Proofs
end

section

/-! # A queue head that has been judged while its queue is empty (R307)

`starts` asks that the queue of a word's engine is empty, and leaves open whether the engine still holds the note that a head word has
been judged (`headOk`). The word that joins the empty queue drops the note, and `leaves` has it stay. -/

namespace Sys2Proof.Machine

open Sys2Proof.Safety Sys2Proof.Claims

/-- A placed spore with one engine idle, and the note that the head word of that engine has been judged. -/
def idleJudged (e : Engine) : State :=
  let s := placeWord State.reset 0
  updEng s s.sch.cur e fun x => { x with headOk := true }

theorem idleJudged_headOk (e : Engine) : (getE (cx (idleJudged e)).eng e).headOk = true := by cases e <;> decide +kernel

theorem idleJudged_headAbort (e g : Engine) : (getE (cx (idleJudged e)).eng g).headAbort = none := by
  cases e <;> cases g <;> decide +kernel

theorem idleJudged_reply (e : Engine) : (cx (idleJudged e)).eng.reply = [] := by cases e <;> decide +kernel

theorem idleJudged_clean (e : Engine) : (idleJudged e).mem.errs = [] := rfl

theorem idleJudged_canonical (e : Engine) : memoriesCanonical (idleJudged e) := by
  unfold memoriesCanonical
  cases e <;> decide +kernel

theorem idleJudged_replyFits (e : Engine) {n : Nat} (hn : n ≤ 16) : replyFits (idleJudged e) n := by
  rw [replyFits, idleJudged_reply, List.length_nil, Nat.zero_add]
  exact hn

theorem idleJudged_calm (e : Engine) (j : Instr) {n : Nat} (hn : n ≤ 16) : calm (idleJudged e) j n :=
  ⟨idleJudged_headAbort .., idleJudged_clean e, idleJudged_canonical e, idleJudged_replyFits e hn⟩

/-- The word starts in its engine there, and its step drops the note. -/
structure DropsNote (e : Engine) (i : Instr) : Prop where
  engine : Safety.engineOf i = e
  starts : starts (idleJudged e) i i = true
  drops : (getE (getCtx (leftBy i (idleJudged e)) (idleJudged e).sch.cur).eng e).headOk = false

/-- So it does not leave its engine as `leaves` says. -/
theorem DropsNote.not_leaves {e : Engine} {i : Instr} (h : DropsNote e i) {t : State} (ht : exec i (idleJudged e) = .next t) {flags : Nat}
    {replies : List Nat} : ¬ leaves (idleJudged e) t i i flags replies := by
  rintro ⟨-, ⟨hengine, -⟩, -⟩
  rw [h.engine] at hengine
  have hkept : (getE (getCtx t (idleJudged e).sch.cur).eng e).headOk = true := by rw [hengine, ← idleJudged_headOk e]
  rw [← leftBy_eq ht, h.drops] at hkept
  cases hkept

/-- LQ of no entry. -/
theorem lq_dropsNote : DropsNote .l (.lq true 0 0 0 false) := ⟨by decide +kernel, by decide +kernel, by decide +kernel⟩

/-- LPREF of no byte. -/
theorem lpref_dropsNote : DropsNote .l (.lpref true 0 0 0) := ⟨by decide +kernel, by decide +kernel, by decide +kernel⟩

/-- SRESET of k0. -/
theorem sreset_dropsNote : DropsNote .v (.sreset true 0 0) := ⟨by decide +kernel, by decide +kernel, by decide +kernel⟩

/-- VREPLY of v0. -/
theorem vreply_dropsNote : DropsNote .v (.vreply true 0 0) := ⟨by decide +kernel, by decide +kernel, by decide +kernel⟩

/-- LQ with s0 for its count reads no entry. -/
theorem not_mem_entryUnits_idleJudged (us : List Nat) : us ∉ entryUnits (idleJudged .l) (.lq true 0 0 0 false) := by
  have hnone : entryUnits (idleJudged .l) (.lq true 0 0 0 false) = [] := by decide +kernel
  rw [hnone]
  exact List.not_mem_nil

theorem vecReady_idleJudged : vecReady (idleJudged .v) (.vreply true 0 0) := by
  refine ⟨?_, ?_, fun t ht => by cases ht⟩ <;> decide +kernel

end Sys2Proof.Machine
end

section

namespace Sys2Proof.Proofs

open Sys2Proof Sys2Proof.Machine Sys2Proof.Safety Sys2Proof.Claims

/-- Refutes O15: LQ of no entry, with a note that the load engine's head has been judged, runs as the statement asks, and the engine does
not keep the note once the word has left it. -/
theorem not_queueWords : ¬ Obligations.QueueWords := by
  unfold Obligations.QueueWords
  rintro ⟨hloads, -⟩
  obtain ⟨t, ht, hleaves, -⟩ := hloads (idleJudged .l) (.lq true 0 0 0 false) (.lq true 0 0 0 false) lq_dropsNote.starts
    (idleJudged_calm _ _ (by decide)) (by decide +kernel) ⟨by decide +kernel, fun h => by cases h⟩
    (fun us hus => absurd hus (not_mem_entryUnits_idleJudged us)) (by decide +kernel)
  exact lq_dropsNote.not_leaves ht hleaves

/-- Refutes O16: with a note that the vector engine's head has been judged, SRESET starts and completes, and the engine does not keep the
note. -/
theorem not_ringAndBindingWords : ¬ Obligations.RingAndBindingWords := by
  unfold Obligations.RingAndBindingWords
  intro h
  obtain ⟨t, ht, hleaves, -⟩ := h (idleJudged .v) (.sreset true 0 0) (.sreset true 0 0) sreset_dropsNote.starts
    (idleJudged_calm _ _ (by decide))
  exact sreset_dropsNote.not_leaves ht hleaves

/-- Refutes O48: its first half has every vector word leave the note that its engine's head has been judged, and VREPLY, which takes every
format, drops it. -/
theorem not_vectorWordsAndTheirFormats : ¬ Obligations.VectorWordsAndTheirFormats := by
  unfold Obligations.VectorWordsAndTheirFormats Claims.vectorWords
  rintro ⟨hwords, -⟩
  obtain ⟨t, ht, hleaves, -⟩ := hwords (idleJudged .v) (.vreply true 0 0) (.vreply true 0 0) _ vreply_dropsNote.starts
    vreply_dropsNote.engine rfl (idleJudged_clean .v) vecReady_idleJudged rfl rfl (idleJudged_replyFits _ (by decide))
  exact vreply_dropsNote.not_leaves ht hleaves

/-- Refutes O49: its first half has LPREF leave the note that the load engine's head has been judged, and LPREF of no byte drops it. -/
theorem not_cacheZeroAndMarkWords : ¬ Obligations.CacheZeroAndMarkWords := by
  unfold Obligations.CacheZeroAndMarkWords Claims.cacheAndZeroWords
  rintro ⟨hwords, -⟩
  obtain ⟨t, ht, hleaves, -⟩ := hwords (idleJudged .l) (.lpref true 0 0 0) (.lpref true 0 0 0) lpref_dropsNote.starts
    (idleJudged_calm _ _ (by decide)) (by decide +kernel) (by decide +kernel)
  exact lpref_dropsNote.not_leaves ht hleaves

end Sys2Proof.Proofs
end

section
/-! SUPPORT. The fields of a word (R131): a range of bits of a packed word is the field that was packed there, so that the word of an
instruction decodes to it; and a word is the sum of its ranges of bits, so that a word that decodes is the word of what it decodes to. -/

namespace Sys2Proof

/-! ### Ranges of bits of a packed word -/

section Fields

variable {n : Nat} (base : Nat) (fs : List (Nat × Nat))

/-- A field leaves the bits below it alone. -/
theorem bits_field_below (v : Nat) {lo h : Nat} (l : Nat) (hlt : h < lo) :
    bits (pack base ((v, lo) :: fs)) h l = bits (pack base fs) h l := by
  rw [pack]
  generalize pack base fs = x
  obtain ⟨k, rfl⟩ := Nat.exists_eq_add_of_lt hlt
  rcases Nat.lt_or_ge h l with hl | hl
  · simp [bits, Nat.sub_eq_zero_of_le hl, Nat.mod_one]
  · obtain ⟨j, rfl⟩ := Nat.exists_eq_add_of_le hl
    rw [bits, bits, show l + j + 1 - l = j + 1 by omega,
      show v * 2 ^ (l + j + k + 1) + x = x + 2 ^ l * (2 ^ (j + 1) * (2 ^ k * v)) by ring,
      Nat.add_mul_div_left _ _ (Nat.two_pow_pos _), Nat.add_mul_mod_self_left]

variable {v lo : Nat} (hv : v < 2 ^ n) (hfree : bits (pack base fs) (lo + n - 1) lo = 0)

include hv

include hfree in
/-- A field whose place the rest of the word leaves free carries nothing into the bits above it. -/
theorem bits_field_above {l : Nat} (h : Nat) (hle : lo + n ≤ l) :
    bits (pack base ((v, lo) :: fs)) h l = bits (pack base fs) h l := by
  suffices hdiv : pack base ((v, lo) :: fs) / 2 ^ l = pack base fs / 2 ^ l by rw [bits, bits, hdiv]
  rw [pack]
  generalize pack base fs = x at *
  obtain ⟨k, rfl⟩ := Nat.exists_eq_add_of_le hle
  rcases Nat.eq_zero_or_pos n with rfl | hn
  · rw [Nat.lt_one_iff.1 hv, Nat.zero_mul, Nat.zero_add]
  rw [bits, show lo + n - 1 + 1 - lo = n by omega] at hfree
  obtain ⟨q, hq⟩ := Nat.dvd_of_mod_eq_zero hfree
  rw [Nat.pow_add, Nat.pow_add, Nat.mul_assoc]
  simp only [← Nat.div_div_eq_div_mul]
  rw [Nat.mul_comm v, Nat.mul_add_div (Nat.two_pow_pos _), hq, Nat.add_mul_div_left _ _ (Nat.two_pow_pos _),
    Nat.div_eq_of_lt hv, Nat.zero_add, Nat.mul_div_cancel_left _ (Nat.two_pow_pos _)]

include hfree in
/-- A field whose place the rest of the word leaves free reads as it was written, below the bits that stand above it. -/
theorem bits_field_self {h : Nat} (hle : lo + n ≤ h + 1) :
    bits (pack base ((v, lo) :: fs)) h lo = v + 2 ^ n * bits (pack base fs) h (lo + n) := by
  rcases Nat.eq_zero_or_pos n with rfl | hn
  · obtain rfl := Nat.lt_one_iff.1 hv
    simp [pack]
  obtain ⟨k, hk⟩ := Nat.exists_eq_add_of_le hle
  rw [bits, show lo + n - 1 + 1 - lo = n by omega] at hfree
  obtain ⟨q, hq⟩ := Nat.dvd_of_mod_eq_zero hfree
  rw [bits, bits, hk, Nat.add_sub_cancel_left, Nat.add_assoc, Nat.add_sub_cancel_left, pack, Nat.mul_comm v,
    Nat.mul_add_div (Nat.two_pow_pos _), Nat.pow_add, Nat.pow_add, ← Nat.div_div_eq_div_mul, hq, Nat.mod_mul,
    Nat.add_mul_mod_self_left, Nat.mod_eq_of_lt hv, Nat.add_mul_div_left _ _ (Nat.two_pow_pos _), Nat.div_eq_of_lt hv,
    Nat.zero_add, Nat.mul_div_cancel_left _ (Nat.two_pow_pos _)]

/-- What a range of bits reads that lies below a field, above it, or begins where it does. The conditions stand in an `if`, where `simp`
computes them, since they nest: the place of a field is free when the fields after it in the list leave it free. -/
theorem bits_field (h l : Nat) :
    bits (pack base ((v, lo) :: fs)) h l =
      if h < lo then bits (pack base fs) h l
      else if bits (pack base fs) (lo + n - 1) lo = 0 then
        if lo + n ≤ l then bits (pack base fs) h l
        else if l = lo then
          if h + 1 = lo + n then v
          else if lo + n ≤ h then v + 2 ^ n * bits (pack base fs) h (lo + n)
          else bits (v * 2 ^ lo + pack base fs) h l
        else bits (v * 2 ^ lo + pack base fs) h l
      else bits (v * 2 ^ lo + pack base fs) h l := by
  split_ifs with hlt hfree hle hl hself hwide
  · exact bits_field_below base fs v l hlt
  · exact bits_field_above base fs hv hfree h hle
  · subst hl
    rw [bits_field_self base fs hv hfree hself.ge, ← hself, bits, Nat.sub_self, Nat.pow_zero, Nat.mod_one, Nat.mul_zero, Nat.add_zero]
  · subst hl
    exact bits_field_self base fs hv hfree (Nat.le_succ_of_le hwide)
  all_goals rfl

end Fields

/-- A field of a bit vector (R131). -/
theorem bits_bitVecField {n : Nat} (v : BitVec n) (base lo h l : Nat) (fs : List (Nat × Nat)) :
    bits (pack base ((v.toNat, lo) :: fs)) h l =
      if h < lo then bits (pack base fs) h l
      else if bits (pack base fs) (lo + n - 1) lo = 0 then
        if lo + n ≤ l then bits (pack base fs) h l
        else if l = lo then
          if h + 1 = lo + n then v.toNat
          else if lo + n ≤ h then v.toNat + 2 ^ n * bits (pack base fs) h (lo + n)
          else bits (v.toNat * 2 ^ lo + pack base fs) h l
        else bits (v.toNat * 2 ^ lo + pack base fs) h l
      else bits (v.toNat * 2 ^ lo + pack base fs) h l := bits_field base fs v.isLt h l

/-- A field of one bit, such as the stop bit (R131). -/
theorem bits_boolField (b : Bool) (base lo h l : Nat) (fs : List (Nat × Nat)) :
    bits (pack base ((b2n b, lo) :: fs)) h l =
      if h < lo then bits (pack base fs) h l
      else if bits (pack base fs) (lo + 1 - 1) lo = 0 then
        if lo + 1 ≤ l then bits (pack base fs) h l
        else if l = lo then
          if h + 1 = lo + 1 then b2n b
          else if lo + 1 ≤ h then b2n b + 2 ^ 1 * bits (pack base fs) h (lo + 1)
          else bits (b2n b * 2 ^ lo + pack base fs) h l
        else bits (b2n b * 2 ^ lo + pack base fs) h l
      else bits (b2n b * 2 ^ lo + pack base fs) h l :=
  bits_field base fs (by cases b <;> decide) h l

theorem bits_noField (base h l : Nat) : bits (pack base []) h l = base / 2 ^ l % 2 ^ (h + 1 - l) := rfl

/-! ### The bits that the decoder reads -/

theorem bit_eq_bits (x k : Nat) : bit x k = (bits x k k == 1) := by simp [bit, bits]

theorem b2n_beq_one (b : Bool) : (b2n b == 1) = b := by cases b <;> rfl

/-- A field of `n` bits holds no value from `2 ^ n` on. -/
theorem toNat_eq_of_le {n c : Nat} (v : BitVec n) (h : 2 ^ n ≤ c) : (v.toNat = c) = False :=
  eq_false (v.isLt.trans_le h).ne

theorem decodeWord_control {w : Nat} (h : bits w 31 29 = 0) : decodeWord w = decodeControl w := by
  rw [decodeWord, h]
  rfl

theorem decodeWord_vector {w : Nat} (h : bits w 31 29 = 1) : decodeWord w = decodeVector w := by
  rw [decodeWord, h]
  rfl

theorem decodeWord_matrix {w : Nat} (h : bits w 31 29 = 2) : decodeWord w = decodeMatrix w := by
  rw [decodeWord, h]
  rfl

theorem decodeWord_load {w : Nat} (h : bits w 31 29 = 3) : decodeWord w = decodeLoad w := by
  rw [decodeWord, h]
  rfl

theorem decodeWord_store {w : Nat} (h : bits w 31 29 = 4) : decodeWord w = decodeStore w := by
  rw [decodeWord, h]
  rfl

theorem decodeWord_transform {w : Nat} (h : bits w 31 29 = 5) : decodeWord w = decodeTransform w := by
  rw [decodeWord, h]
  rfl

theorem decodeWord_query {w : Nat} (h : bits w 31 29 = 6) : decodeWord w = decodeQuery w := by
  rw [decodeWord, h]
  rfl

theorem decodeWord_prefix {w : Nat} (h : bits w 31 29 = 7) : decodeWord w = decodePrefix w := by
  rw [decodeWord, h]
  rfl

/-! ### Every word decodes to its instruction -/

/-- The row that the engine field and the opcode of a word choose is one of their base alone, and it reads the operands out of the
word (R131). -/
theorem decodeWord_of_row {w base : Nat} {fs : List (Nat × Nat)} {i : Instr} {row : Nat → Except DecodeError Instr} (hi lo : Nat)
    (h : some (pack base fs) = some w)
    (hrow : ∀ v, bits v 31 29 = base / 2 ^ 29 % 2 ^ 3 → bits v hi lo = base / 2 ^ lo % 2 ^ (hi + 1 - lo) → decodeWord v = row v)
    (hread : bits (pack base fs) 31 29 = base / 2 ^ 29 % 2 ^ 3
      ∧ bits (pack base fs) hi lo = base / 2 ^ lo % 2 ^ (hi + 1 - lo) ∧ row (pack base fs) = .ok i) :
    decodeWord w = .ok i := by
  obtain ⟨heng, hop, hok⟩ := hread
  rw [← Option.some.inj h, hrow _ heng hop, hok]

/-- The control words, which are the first 97 rows of the table of instructions (R134, R140). -/
theorem decodeWord_of_encodeWord_control {i : Instr} {w : Nat} (hctl : i.ctorIdx < 97) (h : encodeWord i = some w) :
    decodeWord w = .ok i := by
  cases i
  case' nop | add | sub | and | or | xor | andn | shl | shr | shra | rotr | mul | mulhs | mulhu | div | divu | rem | remu |
      min | max | minu | maxu | slt | sltu | seq | clz | ctz | popc | brev | sext | zext | shli | shri | shrai | fence |
      yield | exit | spawn | cont | waitgeLocal | waitge | signalLocal | signal | popr | peekr | fork | msend | mrecv |
      cstore | l2pin | l2unpin | csrr | ecall | ebreak | eret | wfe | tlbinv | sev =>
    refine decodeWord_of_row 27 21 h (fun v heng hop => by
      rewrite [decodeWord_control heng, decodeControl, hop]
      exact Eq.refl (ite _ _ _)) ?_
  case' addi | andi | ori | xori | slti | sltui | seqi | lui | auipc | ldb | ldbu | ldh | ldhu | ldw | ldwu | ldd | stb |
      sth | stw | std | amo | amoa | amor | amoar | amop | cas | prefl | beq | bne | blt | bge | bltu | bgeu | jal | jalr |
      nest | csrw | csrs | csrc =>
    refine decodeWord_of_row 27 21 h (fun v heng hop => by
      rewrite [decodeWord_control heng, decodeControl, hop]
      exact Eq.refl (Except.ok _)) ?_
  any_goals exact absurd hctl (of_decide_eq_false rfl)
  all_goals simp only [bit_eq_bits, bits_boolField, bits_bitVecField, bits_noField, Nat.reduceLT, Nat.reduceLeDiff,
    Nat.reduceEqDiff, Nat.reduceAdd, Nat.reduceSub, Nat.add_one_sub_one, Nat.reduceMul, Nat.reduceDiv, Nat.reduceMod,
    Nat.reducePow, Nat.add_zero, ↓reduceIte, and_self, false_and, b2n_beq_one, toNat_eq_of_le, BitVec.ofNat_toNat,
    BitVec.setWidth_eq]

theorem decodeWord_of_encodeWord {i : Instr} {w : Nat} (h : encodeWord i = some w) : decodeWord w = .ok i := by
  cases i
  case nop | add | sub | and | or | xor | andn | shl | shr | shra | rotr | mul | mulhs | mulhu | div | divu | rem | remu |
      min | max | minu | maxu | slt | sltu | seq | clz | ctz | popc | brev | sext | zext | shli | shri | shrai | fence |
      yield | exit | spawn | cont | waitgeLocal | waitge | signalLocal | signal | popr | peekr | fork | msend | mrecv |
      cstore | l2pin | l2unpin | csrr | ecall | ebreak | eret | wfe | tlbinv | sev | addi | andi | ori | xori | slti | sltui |
      seqi | lui | auipc | ldb | ldbu | ldh | ldhu | ldw | ldwu | ldd | stb | sth | stw | std | amo | amoa | amor | amoar |
      amop | cas | prefl | beq | bne | blt | bge | bltu | bgeu | jal | jalr | nest | csrw | csrs | csrc =>
    exact decodeWord_of_encodeWord_control (of_decide_eq_true rfl) h
  case' vabs | vfabs | vfneg | vcvt | vwiden | vnarrow | vaccrd | vaccwr | vmpopc | vmfirst | vbcast | viota | vredsum |
      vredmin | vredmax | vargmin | vtopn | vpopcnt | vrcp | vrsq | vexp2 | vlog2 | sbind | sisect | sunion | ssub | smadd |
      scount | sreset | vreply =>
    refine decodeWord_of_row 23 18 h (fun v heng hop => by
      rewrite [decodeWord_vector heng, decodeVector, hop]
      exact Eq.refl (ite _ _ _)) ?_
  case' vadd | vsub | vaddsat | vsubsat | vavg | vmul | vmulhi | vmac | vmin | vmax | vand | vor | vxor | vshl | vshr |
      vfadd | vfsub | vfmul | vfma | vfms | vfmin | vfmax | vwmul | vwmac | vcmpeq | vcmpne | vcmplt | vcmple | vsel |
      vmlogic | vperm | vslide | vspread | vpack | vunpack | vhash | vxorpc | vlut | vrcpref | vrsqref =>
    refine decodeWord_of_row 23 18 h (fun v heng hop => by
      rewrite [decodeWord_vector heng, decodeVector, hop]
      exact Eq.refl (Except.ok _)) ?_
  case' mldb | mswap | mscq | mzero | mdrain | mgo | matt | mlatld | mlat | mbjoin | mbleave | mpop | mquiet =>
    refine decodeWord_of_row 23 18 h (fun v heng hop => by
      rewrite [decodeWord_matrix heng, decodeMatrix, hop]
      exact Eq.refl (ite _ _ _)) ?_
  case' mma =>
    refine decodeWord_of_row 23 18 h (fun v heng hop => by
      rewrite [decodeWord_matrix heng, decodeMatrix, hop]
      exact Eq.refl (Except.ok _)) ?_
  case' lcp | lgo | lgath | lpref | lq | lqx | lring | lmark | lsbind | lhint =>
    refine decodeWord_of_row 23 18 h (fun v heng hop => by
      rewrite [decodeWord_load heng, decodeLoad, hop]
      exact Eq.refl (ite _ _ _)) ?_
  case' scp | sgo | sscat | sq | sring | smark | ssbind | sflush | szero =>
    refine decodeWord_of_row 23 18 h (fun v heng hop => by
      rewrite [decodeWord_store heng, decodeStore, hop]
      exact Eq.refl (ite _ _ _)) ?_
  case' tcvt | tcopy | trope | tsplice | tfill | tkvapp | tchk =>
    refine decodeWord_of_row 23 18 h (fun v heng hop => by
      rewrite [decodeWord_transform heng, decodeTransform, hop]
      exact Eq.refl (ite _ _ _)) ?_
  case' qsearch | qfetch | qinsert | qdelete | qwalk | qcancel | qstat | qsnap =>
    refine decodeWord_of_row 23 18 h (fun v heng hop => by
      rewrite [decodeWord_query heng, decodeQuery, hop]
      exact Eq.refl (ite _ _ _)) ?_
  case' xext | xrep | xlimm | xsca =>
    refine decodeWord_of_row 27 24 h (fun v heng hop => by
      rewrite [decodeWord_prefix heng, decodePrefix, hop]
      exact Eq.refl (ite _ _ _)) ?_
  case' xcall =>
    refine decodeWord_of_row 27 24 h (fun v heng hop => by
      rewrite [decodeWord_prefix heng, decodePrefix, hop]
      exact Eq.refl (Except.ok _)) ?_
  all_goals cases h
  all_goals simp only [bit_eq_bits, bits_boolField, bits_bitVecField, bits_noField, Nat.reduceLT, Nat.reduceLeDiff,
    Nat.reduceEqDiff, Nat.reduceAdd, Nat.reduceSub, Nat.add_one_sub_one, Nat.reduceMul, Nat.reduceDiv, Nat.reduceMod,
    Nat.reducePow, Nat.reduceBEq, ↓reduceIte, and_self, and_false, b2n_beq_one, BitVec.ofNat_toNat, BitVec.setWidth_eq]

/-! ### Every word that decodes is the word of its instruction -/

theorem toNat_ofNat_bits {n h l : Nat} (w : Nat) (hn : h + 1 - l = n) : (BitVec.ofNat n (bits w h l)).toNat = bits w h l := by
  subst hn
  rw [BitVec.toNat_ofNat, bits, Nat.mod_mod]

theorem b2n_bit (w k : Nat) : b2n (bit w k) = bits w k k := by
  rw [bits, Nat.add_sub_cancel_left, pow_one, bit, b2n]
  split <;> simp_all

theorem bit_eq_false_iff (w k : Nat) : bit w k = false ↔ bits w k k = 0 := by
  rw [← b2n_bit]
  cases bit w k <;> simp [b2n]

theorem bits_lt (w h l : Nat) : bits w h l < 2 ^ (h + 1 - l) := Nat.mod_lt _ (Nat.two_pow_pos _)

/-- What the bits of a number below place `k` amount to. -/
def lowBits (w k : Nat) : Int := (w % 2 ^ k : Nat)

theorem lowBits_zero (w : Nat) : lowBits w 0 = 0 := by simp [lowBits, Nat.mod_one]

theorem lowBits_of_lt {w k : Nat} (h : w < 2 ^ k) : lowBits w k = w := by rw [lowBits, Nat.mod_eq_of_lt h]

/-- A range of bits, in its place, is what lies below its upper end and not below its lower one: ranges side by side add up. -/
theorem bits_mul_two_pow (w : Nat) {h l : Nat} (hl : l ≤ h + 1) : (bits w h l * 2 ^ l : Int) = lowBits w (h + 1) - lowBits w l := by
  obtain ⟨k, hk⟩ := Nat.exists_eq_add_of_le hl
  rw [eq_sub_iff_add_eq, bits, hk, Nat.add_sub_cancel_left, lowBits, lowBits, Nat.pow_add, Nat.mod_mul]
  push_cast
  ring

theorem bits_eq_iff (w : Nat) {h l c : Nat} (hl : l ≤ h + 1) :
    bits w h l = c ↔ lowBits w (h + 1) - lowBits w l = c * 2 ^ l := by
  rw [← bits_mul_two_pow w hl]
  norm_cast
  exact (Nat.mul_left_inj (Nat.two_pow_pos _).ne').symm

theorem cast_pack_bits (w base : Nat) {h l : Nat} (fs : List (Nat × Nat)) (hl : l ≤ h + 1) :
    (pack base ((bits w h l, l) :: fs) : Int) = lowBits w (h + 1) - lowBits w l + pack base fs := by
  rw [pack, ← bits_mul_two_pow w hl]
  push_cast
  rfl

theorem pack_nil (base : Nat) : pack base [] = base := rfl

theorem encodeWord_of_decodeControl {w : Nat} {i : Instr} (hw : w < 2 ^ 32) (heng : bits w 31 29 = 0)
    (h : decodeControl w = .ok i) : encodeWord i = some w := by
  unfold decodeControl at h
  repeat' split at h
  all_goals cases h
  all_goals refine congrArg some (Int.natCast_inj.1 ?_)
  all_goals simp only [b2n_bit, toNat_ofNat_bits, cast_pack_bits, pack_nil, bits_eq_iff, lowBits_zero, lowBits_of_lt hw,
    Nat.reduceAdd, Nat.reduceLeDiff] at *
  all_goals omega

theorem encodeWord_of_decodeVector {w : Nat} {i : Instr} (hw : w < 2 ^ 32) (heng : bits w 31 29 = 1)
    (h : decodeVector w = .ok i) : encodeWord i = some w := by
  unfold decodeVector at h
  repeat' split at h
  all_goals cases h
  all_goals refine congrArg some (Int.natCast_inj.1 ?_)
  all_goals simp only [b2n_bit, toNat_ofNat_bits, cast_pack_bits, pack_nil, bits_eq_iff, lowBits_zero, lowBits_of_lt hw,
    Nat.reduceAdd, Nat.reduceLeDiff] at *
  all_goals omega

theorem encodeWord_of_decodeWord {w : Nat} {i : Instr} (hw : w < 2 ^ 32) (h : decodeWord w = .ok i) : encodeWord i = some w := by
  have hlt : bits w 31 29 < 8 := bits_lt w 31 29
  interval_cases heng : bits w 31 29
  all_goals simp only [decodeWord, heng, decodeMatrix, decodeLoad, decodeStore, decodeTransform, decodeQuery, decodePrefix] at h
  · exact encodeWord_of_decodeControl hw heng h
  · exact encodeWord_of_decodeVector hw heng h
  all_goals repeat' split at h
  all_goals cases h
  all_goals refine congrArg some (Int.natCast_inj.1 ?_)
  all_goals simp only [b2n_bit, bit_eq_false_iff, toNat_ofNat_bits, cast_pack_bits, pack_nil, bits_eq_iff, lowBits_zero,
    lowBits_of_lt hw, Nat.reduceAdd, Nat.reduceLeDiff] at *
  all_goals omega

/-! ### Bytes -/

theorem b2n_eq_toNat (b : Bool) : b2n b = (BitVec.ofBool b).toNat := by cases b <;> rfl

/-- A word is 32 bits long (R131). -/
theorem encodeWord_lt {i : Instr} {w : Nat} (h : encodeWord i = some w) : w < 2 ^ 32 := by
  cases i
  all_goals cases h
  all_goals simp only [pack, b2n_eq_toNat]
  all_goals omega

theorem leNat_leBytes_four {w : Nat} (hw : w < 2 ^ 32) : leNat (leBytes 4 w) = w := by
  simp only [leBytes, leNat, BitVec.toNat_ofNat]
  omega

/-- The four bytes of a word decode as the word does, and none is left (R131). -/
theorem decode_leBytes {w : Nat} {i : Instr} (hw : w < 2 ^ 32) (h : decodeWord w = .ok i) : decode (leBytes 4 w) = .ok (i, []) := by
  have hword := leNat_leBytes_four hw
  simp only [leBytes] at hword ⊢
  simp only [decode, hword, h]

end Sys2Proof
end

section

namespace Sys2Proof.Proofs

open Sys2Proof Sys2Proof.Claims

/-- Settles O23: the decoder reads each field of a word where the encoder packed it. -/
theorem decodeEncode : Obligations.DecodeEncode := by
  unfold Obligations.DecodeEncode
  intro i w _ h
  have hlt := encodeWord_lt h
  have hword := decodeWord_of_encodeWord h
  refine ⟨hlt, hword, ?_⟩
  rw [encode, h]
  exact decode_leBytes hlt hword

/-- Settles O24: the ranges of bits that a row of the decoder reads or compares make up the whole word. -/
theorem encodeDecode : Obligations.EncodeDecode := by
  unfold Obligations.EncodeDecode
  exact fun w i hw h => encodeWord_of_decodeWord hw h

/-- Settles O25: each of the words is the encoding of its instruction. -/
theorem decodeSamples : Obligations.DecodeSamples := by
  unfold Obligations.DecodeSamples
  have hencode : ∀ x ∈ sampleWords, encodeWord x.2 = some x.1 := by decide
  exact fun x hx => decodeWord_of_encodeWord (hencode x hx)

end Sys2Proof.Proofs
end

section
/-! SUPPORT. Prefix words and XCALL (R143 to R148, R150): what a word that passes its checks leaves. -/

namespace Sys2Proof.Machine

open Sys2Proof.Safety Sys2Proof.Claims

/-- A prefix of a kind that has not been met, in a group with room, is remembered, and its context goes on past it (R143, R150). -/
theorem prefixWord_remembered {α : Type} {s : State} {i : Instr} {ok : Prefixes → Bool} {add : Prefixes → Prefixes} {met : Option α}
    [Decidable (met = none)] {p : Prefixes} (hrun : (cx s).life.status = .running) (huser : (cx s).trap.smode = false)
    (hroom : (curGroup (cx s).fr).count < 8) (hok : ok (cx s).fr.pfx = met.isNone)
    (hp : (if met = none then some (add (cx s).fr.pfx) else none) = some p) :
    prefixWord i s ok add = .next (setCtx s s.sch.cur { cx s with fr := pastPrefix (cx s).fr p }) := by
  obtain ⟨hnone, ⟨⟩⟩ := Option.ite_none_right_eq_some.1 hp
  rw [hnone] at hok
  unfold cx at *
  simp only [prefixWord, hrun, hok, huser, Nat.not_le.2 hroom, updFr, updCtx, pastPrefix]
  cases hmac : (getCtx s s.sch.cur).fr.mac <;> rfl

/-- Each of the four words is the prefix word of its kind. -/
theorem exec_of_prefixesWith {s : State} {i : Instr} {p : Prefixes} (hrun : (cx s).life.status = .running)
    (huser : (cx s).trap.smode = false) (hroom : (curGroup (cx s).fr).count < 8) (h : prefixesWith (cx s).fr i = some p) :
    exec i s = .next (setCtx s s.sch.cur { cx s with fr := pastPrefix (cx s).fr p }) := by
  cases i
  case xext m z r t x => exact (prefixWord_remembered hrun huser hroom rfl h : execXext m z r t x s = _)
  case xrep n x y w => exact (prefixWord_remembered hrun huser hroom rfl h : execXrep n x y w s = _)
  case xlimm x => exact (prefixWord_remembered hrun huser hroom rfl h : execXlimm x s = _)
  case xsca r => exact (prefixWord_remembered hrun huser hroom rfl h : execXsca r s = _)
  all_goals cases h

/-- XCALL is the last word of its group, and names no register (R150, R151). -/
theorem badGroup_xcall {g : GroupSt} (hroom : g.count < 8) (e sb vb : BitVec 5) (m : BitVec 9) :
    badGroup g ⟨[], [], [], []⟩ (rawOf (.xcall true e sb vb m)) = false := by
  have hstop : stopOf (rawOf (.xcall true e sb vb m)) = true := by
    rw [rawOf_of_encodeWord rfl, stopOf, bit_eq_bits]
    simp [bits_boolField, bits_bitVecField, bits_noField, b2n_beq_one]
  simp [badGroup, hstop, Nat.not_le.2 hroom, meets]

theorem execXcall_loaded {s : State} {core : Nat} {b : Bool} {e sb vb : BitVec 5} {m : BitVec 9} (hcur : s.sch.cur = .bank core b)
    (hrun : (cx s).life.status = .running) (huser : (cx s).trap.smode = false) (hpfx : (cx s).fr.pfx = Prefixes.reset)
    (hsb : sb.toNat ≤ 28) (hvb : vb.toNat ≤ 28) (hroom : (cx s).fr.grp.count < 8) (hbody : bodyOf s s.sch.cur e.toNat ≠ []) :
    execXcall true e sb vb m s = .next (setCtx s s.sch.cur { cx s with fr := { (cx s).fr with
      mac := some ⟨e.toNat, 0, sb.toNat, vb.toNat, m, (cx s).fr.pc, GroupSt.reset⟩, stall := .none } }) := by
  have hseq : isSeq s.sch.cur = false := by rw [hcur]; rfl
  have hgroup := badGroup_xcall hroom e sb vb m
  unfold cx at *
  simp [execXcall, hrun, huser, hpfx, hseq, Nat.not_lt.2 hsb, Nat.not_lt.2 hvb, hgroup, hbody, updFr, updCtx]

end Sys2Proof.Machine
end

section

namespace Sys2Proof.Proofs

open Sys2Proof Sys2Proof.Machine Sys2Proof.Safety Sys2Proof.Claims

/-- Settles O2: NOP is a control word with no effect of its own, the prefixes are `prefixWord` of their kind, and XCALL passes its checks. -/
theorem nopPrefixAndCallWords : Obligations.NopPrefixAndCallWords := by
  unfold Obligations.NopPrefixAndCallWords
  refine ⟨fun s z h => ?_, fun s i p hrun huser hroom h => exec_of_prefixesWith hrun huser hroom h, ?_⟩
  · exact (control_ready h fun s a _ => retire s a (.nop z)).trans (congrArg Host.Outcome.next (retire_cur s (.nop z)))
  · rintro s core b z e sb vb m hcur hrun huser hpfx hsb hvb rfl hroom hbody
    exact execXcall_loaded hcur hrun huser hpfx hsb hvb hroom hbody

end Sys2Proof.Proofs
end

section
/-! SUPPORT. The word at the PC of a context whose control core has its turn (R121, R131, R148), where no error mark stands. -/

namespace Sys2Proof.Machine

open Sys2Proof.Safety Sys2Proof.Claims

/-! ### Bytes of a word -/

theorem leVal_eq_leNat (bs : List Byte) : leVal bs = leNat bs := by
  induction bs with
  | nil => rfl
  | cons b r ih => rw [leVal, leNat, ih]

/-- Bytes that decode, with none left, are those of a word that decodes. -/
theorem decodeWord_of_decode {bs : List Byte} {i : Instr} (h : decode bs = .ok (i, [])) :
    decodeWord (BitVec.ofNat 32 (leVal bs)).toNat = .ok i := by
  unfold decode at h
  split at h
  next b0 b1 b2 b3 rest =>
    split at h
    next j hj =>
      obtain ⟨rfl, rfl⟩ := Prod.mk.injEq .. ▸ Except.ok.inj h
      have hlt : leVal [b0, b1, b2, b3] < 2 ^ 32 := (leVal_lt _).trans_eq (by norm_num)
      rwa [BitVec.toNat_ofNat, Nat.mod_eq_of_lt hlt, leVal_eq_leNat]
    · cases h
  · cases h

/-! ### The fetch -/

/-- No more than the caches, and those of cores, differ. -/
def onlyCaches (s t : State) : Prop := { t with cache := s.cache, cores := s.cores } = s

theorem onlyCaches_refl (s : State) : onlyCaches s s := rfl

theorem onlyCaches_of_cachesAside {s t : State} (h : cachesAside t = cachesAside s) : onlyCaches s t :=
  (congrArg (fun x : State => { x with cache := s.cache, cores := s.cores }) h :)

theorem onlyCaches_trans {s t u : State} (h : onlyCaches s t) (k : onlyCaches t u) : onlyCaches s u := by
  unfold onlyCaches at *
  rw [← k] at h
  exact h

theorem onlyCaches_mem {s t : State} (h : onlyCaches s t) : t.mem = s.mem := (congrArg State.mem h :)

theorem countCorr_clean {s : State} (h : s.mem.errs = []) (sp : ErrSpace) (u a n : Nat) : countCorr s sp u a n = s := by
  simp [countCorr, countClass, h]

/-- A fetch reads the word in memory, or in the line that the instruction cache of its core holds (R121). -/
theorem instrBytes_clean {s : State} (h : s.mem.errs = []) (a : AgentId) (l : Loc) :
    onlyCaches s (instrBytes s a l).2 ∧ ((instrBytes s a l).1 = locRead s l 4 ∨ isSeq a = false ∧ l.typ = 0
      ∧ ∃ line, kfind (getCore s (agentCore a)).icache (l.pa / 128) = some line
        ∧ (instrBytes s a l).1 = (line.drop (l.pa % 128)).take 4) := by
  have hl2 (part : Option Nat) (n m : Nat) : L2Only s (l2Range s part l.pa n m false false) := l2Range_l2Only h ..
  unfold instrBytes
  split
  next n =>
    refine ⟨?_, .inl rfl⟩
    dsimp only
    split
    · exact onlyCaches_of_cachesAside (hl2 ..).aside
    · exact onlyCaches_refl s
  next n b =>
    split
    · exact ⟨onlyCaches_refl s, .inl rfl⟩
    next htyp =>
      extract_lets k t miss
      have hmiss : onlyCaches s miss.2 ∧ miss.1 = locRead s l 4 := by
        have ht : L2Only s t := hl2 ..
        refine ⟨onlyCaches_trans (onlyCaches_of_cachesAside ht.aside) ?_, locRead_congr ht.mem l 4⟩
        unfold miss
        dsimp only
        split
        · exact onlyCaches_refl t
        · rfl
      split
      next line hline =>
        split
        · exact ⟨onlyCaches_refl s, .inr ⟨rfl, not_not.1 htyp, line, hline, rfl⟩⟩
        · exact ⟨hmiss.1, .inl hmiss.2⟩
      · exact ⟨hmiss.1, .inl hmiss.2⟩

theorem ctlCheck_mem {s t : State} {a : AgentId} {va : Word} {n align : Nat} {kind : AccKind} {l : Loc} (h : s.mem.errs = [])
    (hok : ctlCheck s a va n align kind = .ok l t) : t.mem = s.mem := (congrArg State.mem (ctlCheck_cachesAside h hok) :)

theorem fetchMem_clean {s v : State} {a : AgentId} {pc : Word} {l : Loc} (h : s.mem.errs = [])
    (hok : ctlCheck s a pc 4 4 .fetch = .ok l v) :
    fetchMem s a pc = .word (BitVec.ofNat 32 (leVal (instrBytes v a l).1)) (instrBytes v a l).2 := by
  have hv : v.mem.errs = [] := by rw [ctlCheck_mem h hok, h]
  simp only [fetchMem, hok, uncorrIn, hv, List.find?_nil, countCorr_clean hv, clearMarks_none hv]

theorem fetchWord_pc {s : State} {a : AgentId} (h : (getCtx s a).fr.mac = none) :
    fetchWord s a = fetchMem s a (getCtx s a).fr.pc := by
  simp only [fetchWord, h]

/-- Where the bytes at the PC, and those of the line the instruction cache may hold, decode to an instruction, the fetch gives a word of
it and changes no more than the caches (R121, R131). -/
theorem fetchWord_decodes {s v : State} {a : AgentId} {i : Instr} {l : Loc} (h : s.mem.errs = []) (hmac : (getCtx s a).fr.mac = none)
    (hok : ctlCheck s a (getCtx s a).fr.pc 4 4 .fetch = .ok l v) (hmem : decode (locRead v l 4) = .ok (i, []))
    (hcache : isSeq a = false → l.typ = 0 → ∀ line, kfind (getCore v (agentCore a)).icache (l.pa / 128) = some line →
      decode ((line.drop (l.pa % 128)).take 4) = .ok (i, [])) :
    ∃ w t, fetchWord s a = .word w t ∧ decodeWord w.toNat = .ok i ∧ onlyCaches s t := by
  have hv : v.mem.errs = [] := by rw [ctlCheck_mem h hok, h]
  obtain ⟨honly, hbytes⟩ := instrBytes_clean hv a l
  have hdecode : decode (instrBytes v a l).1 = .ok (i, []) := by
    obtain hread | ⟨hbank, htyp, line, hline, hread⟩ := hbytes
    · rw [hread, hmem]
    · rw [hread, hcache hbank htyp line hline]
  exact ⟨_, _, (fetchWord_pc hmac).trans (fetchMem_clean h hok), decodeWord_of_decode hdecode,
    onlyCaches_trans (onlyCaches_of_cachesAside (ctlCheck_cachesAside h hok)) honly⟩

theorem fetchWord_body {s : State} {a : AgentId} {m : MacroCall} {w : IWord} (h : (getCtx s a).fr.mac = some m)
    (hw : (bodyOf s a m.entry)[m.idx]? = some w) : fetchWord s a = .word w s := by
  simp only [fetchWord, h, hw]

/-! ### The turn of a control core -/

theorem step_control {s : State} {a : AgentId} {r : List Move} (h : s.sch.agenda = .control a :: r) :
    step s = controlMove (advance { s with sch := { s.sch with agenda := r } }) a := by
  simp only [step, nextMove, h]

theorem controlMove_runsHere {s u : State} {a : AgentId} (hu : { s with sch := { s.sch with cur := a } } = u) (h : runsHere u a) :
    controlMove s a = runHere u a := by
  have hcx : cx u = getCtx u a := by rw [← hu]; rfl
  obtain ⟨hrun, hdrain, htrap, hseq⟩ := h
  rw [hcx] at hrun hdrain htrap
  have htake : (!isSeq a && !(getCtx u a).trap.smode && trapPending (getCtx u a)) = false := by
    cases hbank : isSeq a
    · obtain hsuper | hnone := htrap hbank
      · simp [hsuper]
      · simp [hnone]
    · rfl
  unfold controlMove
  dsimp only
  rw [hu, if_neg (not_not.2 hrun), htake, if_neg Bool.false_ne_true, if_neg (not_not.2 hdrain)]
  cases a with
  | bank _ _ => rfl
  | seq n =>
    dsimp only at hseq ⊢
    rw [hseq]

theorem step_runHere {s : State} {a : AgentId} {r : List Move} (h : s.sch.agenda = .control a :: r) (hruns : runsHere (turnOf s a r) a) :
    step s = runHere (turnOf s a r) a :=
  (step_control h).trans (controlMove_runsHere rfl hruns)

/-- Where no error mark stands, a word that decodes is executed, after the accesses that it must find performed (log 89). -/
theorem runInstr_clean {s : State} (h : s.mem.errs = []) (a : AgentId) (i : Instr) :
    runInstr s a i = exec i (if waitsForAccesses s a i then performOwn s a else s) := by
  have herrs : (if waitsForAccesses s a i then performOwn s a else s).mem.errs = [] := by
    split
    · exact (performOwn_accessFrame h a).clean
    · exact h
  simp only [runInstr, herrs, List.isEmpty_nil, if_true]

theorem runHere_word {s t : State} {a : AgentId} {w : IWord} {i : Instr} (hfetch : fetchWord s a = .word w t)
    (hword : decodeWord w.toNat = .ok i) : runHere s a = runInstr t a i := by
  simp only [runHere, hfetch, hword]

end Sys2Proof.Machine
end

section

namespace Sys2Proof.Proofs

open Sys2Proof Sys2Proof.Machine Sys2Proof.Safety Sys2Proof.Claims

/-- Settles O26: a turn that nothing else takes fetches its word, which is the same in memory and in the instruction cache, and runs it. -/
theorem stepRunsDecoded : Obligations.StepRunsDecoded := by
  unfold Obligations.StepRunsDecoded
  constructor
  · intro s v a r i l h u hruns herrs hmac hok hmem hcache
    obtain ⟨w, t, hfetch, hword, honly⟩ : ∃ w t, fetchWord u a = .word w t ∧ decodeWord w.toNat = .ok i ∧ onlyCaches u t :=
      fetchWord_decodes herrs hmac hok hmem hcache
    refine ⟨t, ?_, honly⟩
    rw [step_runHere h hruns, runHere_word hfetch hword, runInstr_clean]
    rw [onlyCaches_mem honly]
    exact herrs
  · intro s a r i m w h u hruns herrs hmac hbody hword
    have hfetch : fetchWord u a = .word w u := fetchWord_body hmac hbody
    rw [step_runHere h hruns, runHere_word hfetch hword, runInstr_clean]
    exact herrs

end Sys2Proof.Proofs
end

section
/-! SUPPORT. Attestation, power states, the patrol scrub and words that are no instruction (R132, R438, R442 to R447): what each step
leaves. -/

namespace Sys2Proof.Machine

open Sys2Proof.Safety Sys2Proof.Claims

/-! ### Attestation -/

/-- STATUS of ATSTAT, bits 43 to 40, reads as it was set (R443). -/
theorem wbits_setAtStatus (s : State) {st : Nat} (h : st < 16) : wbits (dreg (setAtStatus s st) 0x48) 43 40 = st := by
  simp only [setAtStatus, dreg_setDreg, wbits, bits, setBits, BitVec.toNat_ofNat]
  omega

/-- ATSTAT after a report: the leaf, STATUS 0, and the count (R443). -/
theorem wbits_atstat (leaf n : Nat) :
    wbits (BitVec.ofNat 64 (leaf % 2 ^ 20 * 2 ^ 44 + (n + 1) % 2 ^ 32)) 31 0 = (n + 1) % 2 ^ 32
      ∧ wbits (BitVec.ofNat 64 (leaf % 2 ^ 20 * 2 ^ 44 + (n + 1) % 2 ^ 32)) 63 44 = leaf % 2 ^ 20 := by
  simp only [wbits, bits, BitVec.toNat_ofNat]
  omega

theorem writtenAt_mwrite {m : Mem} (h : Memory.wf m = true) (a : Nat) (bs : List Byte) : writtenAt m (mwrite m a bs) a bs :=
  ⟨mread_mwrite_same bs a h, fun _ hx => mget_mwrite_outside bs h hx⟩

/-! ### Power states -/

/-- No more than the power states differ. -/
def onlyPower (s t : State) : Prop := t = { s with power := t.power }

theorem onlyPower_refl (s : State) : onlyPower s s := rfl

theorem onlyPower_trans {s t u : State} (h : onlyPower s t) (k : onlyPower t u) : onlyPower s u := by
  unfold onlyPower at *
  rw [h] at k
  exact k

theorem onlyPower_startExit (s : State) (u : PowerUnit) (st : Nat) : onlyPower s (startExit s u st) := rfl

theorem onlyPower_tolClusters (s : State) (p : Nat) : onlyPower s (tolClusters s p) := by
  unfold tolClusters
  refine List.foldlRecOn (motive := onlyPower s) _ _ (onlyPower_refl s) fun t ht c _ => ?_
  split
  · exact onlyPower_trans ht (onlyPower_startExit ..)
  · exact ht

theorem onlyPower_tolDevice (s : State) : onlyPower s (tolDevice s) := by
  unfold tolDevice
  split
  · exact onlyPower_refl s
  · extract_lets st
    split
    · exact onlyPower_startExit ..
    · exact onlyPower_refl s

theorem exiting_startExit (s : State) (u : PowerUnit) (st : Nat) : exiting (startExit s u st) u = true := by
  simp [exiting, startExit]

/-- A unit with no exit in progress has none to A0. -/
theorem contains_exit_of_not_exiting {s : State} {u : PowerUnit} (h : exiting s u = false) (st : Nat) :
    s.power.exits.contains (u, st) = false := by
  simp only [exiting, List.any_eq_false, beq_iff_eq] at h
  simpa using fun hmem => h _ hmem rfl

/-- A unit that may enter a state below A0 belongs to a partition, when it is a cluster (R445). -/
theorem clusterPart_of_entryTarget {s : State} {n : Nat} (h : entryTarget s (.cluster n) ≠ 0) : (clusterPart s n).isSome = true := by
  unfold entryTarget at h
  cases hpart : clusterPart s n with
  | none => simp [hpart] at h
  | some p => rfl

/-- A unit is in the state it has entered, and its exits and, where no error mark stands, the memories are as they were (R445,
R447). -/
theorem enterPower_entered {s : State} {u : PowerUnit} (h : s.mem.errs = [])
    (hpart : ∀ n, u = .cluster n → (clusterPart s n).isSome = true) (st : Nat) :
    unitPower (enterPower s u st) u = st ∧ (enterPower s u st).mem = s.mem
      ∧ (enterPower s u st).power.exits = s.power.exits := by
  cases u with
  | cluster n =>
    have hsame : (clusterPart (enterPower s (.cluster n) st) n).isNone = false := Option.isNone_eq_false_iff.2 (hpart n rfl)
    refine ⟨?_, rfl, rfl⟩
    rw [unitPower, clusterState, hsame]
    exact kget_kput_same ..
  | device =>
    rw [enterPower, moveMarks_none]
    · exact ⟨rfl, rfl, rfl⟩
    · exact h

/-! ### The patrol scrub -/

theorem logUncorr_mem (s : State) (struct : Nat) (part : Option Nat) (core bank unit chan addr : Nat) :
    (logUncorr s struct part core bank unit chan addr).mem = s.mem := by
  unfold logUncorr
  extract_lets t a rcd u
  have hu : u.mem = s.mem := by
    unfold u
    split <;> rfl
  split
  · rw [raiseIrq_mem, hu]
  · refine foldl_mem _ _ (fun v p hv => ?_) _ _ hu
    split
    · rw [raiseIrq_mem, hv]
    · exact hv

theorem logMemErr_mem (s : State) (part : Option Nat) (core bank : Nat) (e : ErrMark) :
    (logMemErr s part core bank e).mem = s.mem := logUncorr_mem ..

/-! ### Words that are no instruction -/

theorem stoppedPrefix_other {p : Prefixes} {w : Nat} (h : engOf w ≠ 7) : stoppedPrefix p w = none :=
  if_neg fun ⟨heng, _⟩ => h heng

theorem execIllegalWord_bank {s : State} {w : IWord} {core : Nat} {b : Bool} (hcur : s.sch.cur = .bank core b)
    (hrun : (cx s).life.status = .running) (heng : engOf w.toNat ≠ 7) :
    execIllegalWord w s = .next (takeTrap s (.bank core b) ⟨1, .routing, engOf w.toNat, curPc (getCtx s (.bank core b)),
      curPc (getCtx s (.bank core b)), 0, BitVec.ofNat 64 w.toNat, true⟩) := by
  rw [cx, hcur] at hrun
  simp [execIllegalWord, hcur, hrun, stoppedPrefix_other heng, raiseAt]

/-- A trap at the current word in user mode (R342, R344). -/
theorem takeTrap_tookTrap {s : State} {a : AgentId} (h : (getCtx s a).trap.smode = false) {r : TrapReq} (hcause : r.cause < 256)
    (hpc : r.tepc = curPc (getCtx s a)) : tookTrap s (takeTrap s a r) a r.cause r.det :=
  tookTrap_of_trapTaken (getCtx_takeTrap h r) (Nat.mod_eq_of_lt hcause) hpc fun _ => rfl

end Sys2Proof.Machine
end

section

namespace Sys2Proof.Proofs

open Sys2Proof Sys2Proof.Machine Sys2Proof.Safety Sys2Proof.Claims

theorem atcmd_answers {s : State} (val : Word) (h : s.boot.ready = true) :
    gives (.atcmd val) s fun t => t.mem = s.mem ∧
      if s.boot.atBuf.isSome then t.boot = s.boot ∧ wbits (dreg t 0x48) 43 40 = 1
      else if exhausted s.boot then t.boot = s.boot ∧ wbits (dreg t 0x48) 43 40 = 2
      else if 2 ^ 64 < wbits val 63 12 * 2 ^ 12 + 8192 then t.boot = s.boot ∧ wbits (dreg t 0x48) 43 40 = 3
      else t.boot.atBuf = some (wbits val 63 12 * 2 ^ 12) ∧ t.boot.atSnap = configBytes s := by
  refine ⟨_, rfl, ?_⟩
  simp only [h, Bool.not_true, Bool.false_eq_true, if_false]
  split
  · exact ⟨rfl, rfl, wbits_setAtStatus s (by decide)⟩
  split
  · exact ⟨rfl, rfl, wbits_setAtStatus s (by decide)⟩
  split
  · exact ⟨rfl, rfl, wbits_setAtStatus s (by decide)⟩
  · exact ⟨rfl, rfl, rfl⟩

theorem attestDone_reports {s : State} {buf : Nat} (h : s.boot.atBuf = some buf) (hmem : memoriesCanonical s) :
    gives .attestDone s fun t => t.boot.atBuf = none ∧ t.boot.nextLeaf = s.boot.nextLeaf + 1
      ∧ wbits (dreg t 0x48) 31 0 = (wbits (dreg s 0x48) 31 0 + 1) % 2 ^ 32 ∧ wbits (dreg t 0x48) 63 44 = s.boot.nextLeaf % 2 ^ 20
      ∧ writtenAt s.mem.host t.mem.host (buf + 64) (report s.boot s.boot.nextLeaf (mread s.mem.host buf 32) s.boot.atSnap) := by
  obtain ⟨-, hhost, -⟩ := hmem
  refine ⟨_, rfl, ?_⟩
  simp only [h, dreg_setDreg]
  obtain ⟨hdone, hleaf⟩ := wbits_atstat s.boot.nextLeaf (bits (dreg s 0x48).toNat 31 0)
  refine ⟨rfl, rfl, hdone, hleaf, ?_⟩
  apply writtenAt_mwrite hhost

theorem lattol_sets {s : State} {p : Nat} (val : Word) (hp : p < 8) (h : s.boot.ready = true) :
    gives (.lattol p val) s fun t => preg t p 0x640 = BitVec.ofNat 64 (wbits val 31 0) ∧ t.mem = s.mem ∧ t.ctxs = s.ctxs := by
  refine ⟨_, rfl, ?_⟩
  simp only [h, Bool.not_true, Bool.false_eq_true, if_false]
  have hset : ∀ t, onlyPower (setPreg s p 0x640 (BitVec.ofNat 64 (wbits val 31 0))) t →
      preg t p 0x640 = BitVec.ofNat 64 (wbits val 31 0) ∧ t.mem = s.mem ∧ t.ctxs = s.ctxs := by
    intro t ht
    rw [ht]
    exact ⟨preg_setPreg s p _ _ hp, setPreg_mem .., setPreg_ctxs ..⟩
  split
  · exact hset _ (onlyPower_trans (onlyPower_tolClusters ..) (onlyPower_tolDevice _))
  · exact hset _ (onlyPower_refl _)

theorem powerStateEntry_enters {s : State} {u : PowerUnit} (hready : s.boot.ready = true) (herrs : s.mem.errs = [])
    (hexit : exiting s u = false) (hless : unitPower s u < entryTarget s u) :
    gives (.powerStateEntry u) s fun t => unitPower t u = entryTarget s u ∧ t.mem = s.mem := by
  refine ⟨_, rfl, ?_⟩
  simp only [hready, hexit, hless, Bool.not_false, Bool.and_true, decide_true, if_true]
  obtain ⟨hstate, hmem, -⟩ := enterPower_entered herrs (u := u)
    (fun n hn => clusterPart_of_entryTarget (hn ▸ Nat.ne_of_gt (Nat.zero_lt_of_lt hless))) (entryTarget s u)
  exact ⟨hstate, hmem⟩

theorem powerStateExit_starts {s : State} {u : PowerUnit} (hdeep : unitPower s u ≠ 0) (hexit : exiting s u = false)
    (hwant : unitWanted s u = true) :
    gives (.powerStateExit u) s fun t => exiting t u = true ∧ unitPower t u = unitPower s u ∧ t.mem = s.mem := by
  have hstart : execPowerStateExit u s = .next (startExit s u 0) := by
    rw [execPowerStateExit, if_pos ⟨hdeep, contains_exit_of_not_exiting hexit 0, hwant⟩]
  exact ⟨_, hstart, exiting_startExit .., by cases u <;> rfl, rfl⟩

theorem powerExitComplete_reaches {s : State} {u : PowerUnit} {st : Nat}
    (hexit : s.power.exits.find? (fun e => e.1 == u) = some (u, st)) (herrs : s.mem.errs = [])
    (hpart : ∀ n, u = .cluster n → (clusterPart s n).isSome = true) :
    gives (.powerExitComplete u) s fun t => unitPower t u = st ∧ exiting t u = false ∧ t.mem = s.mem := by
  refine ⟨_, rfl, ?_⟩
  simp only [hexit]
  obtain ⟨hstate, hmem, hexits⟩ := enterPower_entered (u := u)
    (s := { s with power := { s.power with exits := s.power.exits.filter fun x => x.1 != u } }) herrs hpart st
  refine ⟨hstate, ?_, hmem⟩
  rw [exiting, hexits]
  simp

theorem patrolScrub_corrects (s : State) (line : Nat) : gives (.patrolScrub line) s fun t =>
    t.mem = { s.mem with errs := s.mem.errs.filter fun e => !(markHit .dram 0 (128 * line) 128 e && e.correctable) } :=
  ⟨_, rfl, foldl_mem _ _ (fun _ _ ht => (logMemErr_mem ..).trans ht) _ _ (countClass_mem ..)⟩

theorem illegalWord_traps {s : State} {w : IWord} {core : Nat} {b : Bool} (hcur : s.sch.cur = .bank core b)
    (hrun : (cx s).life.status = .running) (huser : (cx s).trap.smode = false) (heng : engOf w.toNat ≠ 7) :
    gives (.illegalWord w) s fun t => tookTrap s t (.bank core b) 1 (BitVec.ofNat 64 w.toNat) := by
  rw [cx, hcur] at huser
  exact ⟨_, execIllegalWord_bank hcur hrun heng, takeTrap_tookTrap huser (Nat.one_lt_ofNat : 1 < 256) rfl⟩

/-- Settles O37: each kind of step leaves what its own lemma says. -/
theorem powerAndOtherEvents : Obligations.PowerAndOtherEvents := by
  unfold Obligations.PowerAndOtherEvents
  exact ⟨fun s val h => atcmd_answers val h, fun s buf h hmem => attestDone_reports h hmem,
    fun s p val hp h => lattol_sets val hp h, fun s u hready herrs hexit hless => powerStateEntry_enters hready herrs hexit hless,
    fun s u hdeep hexit hwant => powerStateExit_starts hdeep hexit hwant,
    fun s u st hexit herrs hpart => powerExitComplete_reaches hexit herrs hpart, patrolScrub_corrects,
    fun s w core b hcur hrun huser _ _ heng => illegalWord_traps hcur hrun huser heng⟩

end Sys2Proof.Proofs
end

section

/-! # Branches, jumps, CSR words, local counters, the reply queue and the event flag (R171, R172, R175, R176, R186, R189) -/

namespace Sys2Proof.Machine

open Sys2Proof.Safety Sys2Proof.Claims

/-! ### Branches and jumps -/

/-- An address has none of bits 63:48 (R172). -/
theorem lt_two_pow_48_iff (t : Word) : t < 2 ^ 48 ↔ ¬ 2 ^ 48 ≤ t.toNat := by
  rw [BitVec.lt_def, show (2 ^ 48 : Word).toNat = 2 ^ 48 from rfl, Nat.not_le]

theorem jumpTo_wentTo (s : State) (t : Word) : jumpTo s s.sch.cur t = wentTo s 0 0 t := by rw [jumpTo_cur, wentTo, setS_zero]

/-- A conditional branch that passes its checks (R171, R172). -/
theorem branch_ready {s : State} {i : Instr} (h : ready s i = true) (a b : BitVec 5) (m : BitVec 11) (p : Word → Word → Bool) :
    branch i s a b m p = .next (
      if p (src (cx s) 1 a) (src (cx s) 2 b) = false then setCtx s s.sch.cur { cx s with fr := pastFront s i }
      else if (cx s).fr.pc + effImmB (cx s) m <<< 2 < 2 ^ 48 then wentTo s 0 0 ((cx s).fr.pc + effImmB (cx s) m <<< 2)
      else raiseCtl s s.sch.cur 6 ((cx s).fr.pc + effImmB (cx s) m <<< 2) 0) := by
  rw [branch, control_ready h]
  dsimp only
  rw [retire_cur, jumpTo_wentTo]
  simp only [lt_two_pow_48_iff, ite_not]
  change Host.Outcome.next (if p (src (cx s) 1 a) (src (cx s) 2 b) = true then _ else _) = _
  cases p (src (cx s) 1 a) (src (cx s) 2 b) <;> rfl

/-- Each conditional branch is one comparison of two registers (R171). -/
theorem exec_branch {c : Ctx} {i : Instr} {p : Bool} {o : Word} (h : branchOf c i = some (p, o)) (s : State) :
    ∃ a b m f, exec i s = branch i s a b m f ∧ p = f (src c 1 a) (src c 2 b) ∧ o = effImmB c m := by
  have hge : ∀ x y : Word, (!x.slt y) = decide (y.toInt ≤ x.toInt) := fun x y => by
    rw [BitVec.slt, ← decide_not]
    simp only [Int.not_lt]
  have hgeu : ∀ x y : Word, (!decide (x < y)) = decide (y.toNat ≤ x.toNat) := fun x y => by
    rw [← decide_not]
    simp only [BitVec.not_lt, BitVec.le_def]
  unfold branchOf at h
  split at h <;> cases h
  · exact ⟨_, _, _, _, rfl, rfl, rfl⟩
  · exact ⟨_, _, _, _, rfl, rfl, rfl⟩
  · exact ⟨_, _, _, fun x y => decide (x.toInt < y.toInt), rfl, rfl, rfl⟩
  · exact ⟨_, _, _, fun x y => decide (y.toInt ≤ x.toInt), rfl, hge .., rfl⟩
  · exact ⟨_, _, _, fun x y => decide (x.toNat < y.toNat), rfl, rfl, rfl⟩
  · exact ⟨_, _, _, fun x y => decide (y.toNat ≤ x.toNat), rfl, hgeu .., rfl⟩

theorem conditionalBranches_spec : conditionalBranches := by
  intro s i p o hready h
  obtain ⟨a, b, m, f, hexec, rfl, rfl⟩ := exec_branch h s
  rw [hexec, branch_ready hready]

theorem jumps_spec : jumps := by
  refine ⟨fun s z d m hready => ?_, fun s z d a m hready => ?_⟩
  · change execJal z d m s = _
    rw [execJal, control_ready hready]
    dsimp only
    rw [jumpTo_writeS]
    simp only [lt_two_pow_48_iff, ite_not]
    rfl
  · change execJalr z d a m s = _
    rw [execJalr, control_ready hready]
    dsimp only
    rw [jumpTo_writeS]
    have hmod : ∀ t : Word, t % 4 ≠ 0 ↔ t.toNat % 4 ≠ 0 := fun t => by
      rw [ne_eq, ← BitVec.toNat_inj, BitVec.toNat_umod]
      rfl
    simp only [lt_two_pow_48_iff, ite_not, hmod]
    rfl

/-! ### The group of a control word depends on no format (R150, R151) -/

theorem putField_div (w v : Nat) {lo n : Nat} (h : lo = 16 ∧ n = 5 ∨ lo = 11 ∧ n = 5 ∨ lo = 6 ∧ n = 5 ∨ lo = 0 ∧ n = 11) :
    putField w lo n v / 2 ^ 21 = w / 2 ^ 21 := by
  obtain ⟨rfl, rfl⟩ | ⟨rfl, rfl⟩ | ⟨rfl, rfl⟩ | ⟨rfl, rfl⟩ := h <;> simp only [putField, setBits, bits] <;> omega

theorem engOf_of_div {w w' : Nat} (h : w' / 2 ^ 21 = w / 2 ^ 21) : engOf w' = engOf w := by
  simp only [engOf, bits]
  omega

/-- Substitution leaves a control word one (R148). -/
theorem engOf_substRaw (m : MacroCall) {w : Nat} (h : engOf w = 0) : engOf (substRaw m w) = 0 := by
  rw [← h]
  apply engOf_of_div
  simp only [substRaw, h, mapField]
  split
  · rw [putField_div _ _ (by simp), putField_div _ _ (by simp), putField_div _ _ (by simp)]
  · rw [putField_div _ _ (by simp), putField_div _ _ (by simp), putField_div _ _ (by simp)]
  · rw [putField_div _ _ (by simp), putField_div _ _ (by simp), putField_div _ _ (by simp)]
  · rw [putField_div _ _ (by simp), putField_div _ _ (by simp)]
  · rw [putField_div _ _ (by simp)]

theorem stepOne_div {w w' j : Nat} {p : Option (Nat × Nat)} {x : BitVec 3} (hp : p = none ∨ p = some (16, 5) ∨ p = some (11, 5)
    ∨ p = some (6, 5)) (h : stepOne w j p x = some w') : w' / 2 ^ 21 = w / 2 ^ 21 := by
  have hfield : ∀ {lo : Nat}, lo = 16 ∨ lo = 11 ∨ lo = 6 → stepField w lo 5 j x = some w' → w' / 2 ^ 21 = w / 2 ^ 21 :=
    fun {lo} hlo h => by
      unfold stepField at h
      dsimp only at h
      split at h
      · rw [← Option.some.inj h]
        exact putField_div _ _ (by omega)
      · cases h
  obtain rfl | rfl | rfl | rfl := hp
  · rw [← Option.some.inj h]
  · exact hfield (.inl rfl) h
  · exact hfield (.inr (.inl rfl)) h
  · exact hfield (.inr (.inr rfl)) h

/-- So does a step of XREP (R145). -/
theorem engOf_stepRaw {r : Xrep} {j w w' : Nat} (h : engOf w = 0) (hstep : stepRaw r j w = some w') : engOf w' = 0 := by
  rw [← h]
  apply engOf_of_div
  obtain ⟨p1, p2, p3, hfields, hp1, hp2, hp3⟩ : ∃ p1 p2 p3, stepFields w = (p1, p2, p3)
      ∧ (p1 = none ∨ p1 = some (16, 5) ∨ p1 = some (11, 5) ∨ p1 = some (6, 5))
      ∧ (p2 = none ∨ p2 = some (16, 5) ∨ p2 = some (11, 5) ∨ p2 = some (6, 5))
      ∧ (p3 = none ∨ p3 = some (16, 5) ∨ p3 = some (11, 5) ∨ p3 = some (6, 5)) := by
    simp only [stepFields, h]
    split <;> exact ⟨_, _, _, rfl, by simp, by simp, by simp⟩
  simp only [stepRaw, hfields] at hstep
  split at hstep
  · cases hstep
  next h1 =>
    split at hstep
    · cases hstep
    next h2 => rw [stepOne_div hp3 hstep, stepOne_div hp2 h2, stepOne_div hp1 h1]

/-- The encoding checks of a control word ask for no format. -/
theorem badStatic_control {w : Nat} (h : engOf w = 0) (seq : Bool) (p : Prefixes) (v v' : Word) :
    badStatic seq p v w = badStatic seq p v' w := by simp [badStatic, badPrefix, h]

/-- The registers of a control word's issues depend on no format. -/
theorem unionUse_control {w : Nat} (h : engOf w = 0) (seq : Bool) (p : Prefixes) (v v' : Word) :
    unionUse seq p v w = unionUse seq p v' w := by
  have huse : ∀ x, engOf x = 0 → regUse p v x = regUse p v' x := fun x hx => by simp only [regUse, hx]
  have hgood : goodIssues seq p v w = goodIssues seq p v' w := by
    unfold goodIssues
    split
    · rfl
    · refine List.filterMap_congr fun j _ => ?_
      split
      next hx => rw [badStatic_control (engOf_stepRaw h hx) seq p v v']
      · rfl
  have hcontrol : ∀ x ∈ goodIssues seq p v' w, engOf x = 0 := fun x hx => by
    unfold goodIssues at hx
    split at hx
    · rwa [List.mem_singleton.1 hx]
    · obtain ⟨j, -, hj⟩ := List.mem_filterMap.1 hx
      split at hj
      next y hy =>
        split at hj
        · cases hj
          exact engOf_stepRaw h hy
        · cases hj
      · cases hj
  rw [unionUse, unionUse, hgood]
  exact List.foldl_ext _ _ _ fun u x hx => by rw [huse x (hcontrol x hx)]

/-- The front end past a control word depends on the front end alone. -/
theorem pastWord_control {i : Instr} (h : engOf (rawOf i) = 0) {c d : Ctx} (hfr : d.fr = c.fr) (seq : Bool) (n : Nat) :
    pastWord seq d i n = pastWord seq c i n := by
  have hword : engOf (subst c.fr (rawOf i)) = 0 := by
    unfold subst
    split
    · exact engOf_substRaw _ h
    · exact h
  simp only [pastWord, hfr, unionUse_control hword seq c.fr.pfx d.csr.vfmt c.csr.vfmt]

/-! ### CSR words -/

/-- The CSR words that write (R186). -/
def writesCsr : Instr → Prop
  | .csrw _ _ _ _ | .csrs _ _ _ _ | .csrc _ _ _ _ => True
  | _ => False

/-- A word whose engine field is 0 is a control word (R131, R133). -/
theorem engOf_rawOf_of_pack {i : Instr} {z : Bool} {base : Nat} {fs : List (Nat × Nat)}
    (hw : encodeWord i = some (pack base ((b2n z, 28) :: fs))) (hfs : pack base fs < 2 ^ 28) : engOf (rawOf i) = 0 := by
  have hz := b2n_le_one z
  rw [rawOf_of_encodeWord hw, pack, engOf, bits]
  omega

theorem engOf_rawOf_csr {i : Instr} (h : writesCsr i) : engOf (rawOf i) = 0 := by
  unfold writesCsr at h
  split at h
  · exact engOf_rawOf_of_pack rfl (by simp only [pack]; omega)
  · exact engOf_rawOf_of_pack rfl (by simp only [pack]; omega)
  · exact engOf_rawOf_of_pack rfl (by simp only [pack]; omega)
  · cases h

theorem csrWrite_fr (c : Ctx) (n : Nat) (x : Word) : (csrWrite c n x).fr = c.fr := by
  unfold csrWrite
  split_ifs
  · exact setRing_fr ..
  · rfl
  · rfl

/-- The front end past a control word, in a state with the same front end and the same control stores. -/
theorem pastFront_control {s t : State} {i : Instr} (h : engOf (rawOf i) = 0) (hcur : t.sch.cur = s.sch.cur)
    (hfr : (getCtx t s.sch.cur).fr = (cx s).fr) (hstore : ∀ n, (getCore t n).cstore = (getCore s n).cstore) :
    pastFront t i = pastFront s i := by
  have hbody : ∀ a n, bodyOf t a n = bodyOf s a n := fun a n => by cases a <;> simp only [bodyOf, hstore]
  have hcx : cx t = getCtx t s.sch.cur := by rw [cx, hcur]
  have hlen : bodyLen t = bodyLen s := by simp only [bodyLen, hcx, hfr, hcur, hbody]
  rw [pastFront, hcx, hlen, hcur, pastWord_control h hfr, pastFront]

/-- The front end past a control word, after its context has changed and its front end has not. -/
theorem pastFront_setCtx {s : State} {i : Instr} (h : engOf (rawOf i) = 0) {c : Ctx} (hfr : c.fr = (cx s).fr) :
    pastFront (setCtx s s.sch.cur c) i = pastFront s i :=
  pastFront_control h rfl ((congrArg Ctx.fr (getCtx_setCtx ..)).trans hfr) fun _ => rfl

/-- A context that is changed, a register written, and the control word passed. -/
theorem retire_writeS_setCtx {s : State} {i : Instr} (h : engOf (rawOf i) = 0) {c : Ctx} (hfr : c.fr = (cx s).fr) (d : Nat) (x : Word) :
    retire (writeS (setCtx s s.sch.cur c) s.sch.cur d x) s.sch.cur i = setCtx s s.sch.cur { setS c d x with fr := pastFront s i } := by
  have hcx : cx (setCtx s s.sch.cur c) = c := getCtx_setCtx ..
  have hcur := retire_writeS (setCtx s s.sch.cur c) i d x
  rw [setCtx_sch] at hcur
  rw [hcur, stateAfter, setCtx_sch, setCtx_setCtx, ctxAfter, hcx, pastFront_setCtx h hfr]

/-- A CSR word that writes, once it passes its checks (R118, R186). -/
theorem csrWord_ready {s : State} {i : Instr} (hready : ready s i = true) (hcsr : writesCsr i) (d a : BitVec 5) (m : BitVec 11)
    (f : Word → Word → Word) :
    csrWord i s d a m f = .next (
      if 0x018 ≤ effNum (cx s) m ∧ effNum (cx s) m ≤ 0x01F ∧ ringBusy (cx s).eng (effNum (cx s) m - 0x018) then
        stallAt s s.sch.cur .rgcfg
      else setCtx s s.sch.cur
        { setS (csrWrite (cx s) (effNum (cx s) m) (f (csrRead s s.sch.cur (effNum (cx s) m)) (src (cx s) 2 a)))
            (effReg (cx s) 1 d) (csrRead s s.sch.cur (effNum (cx s) m)) with fr := pastFront s i }) := by
  rw [csrWord, control_ready hready]
  dsimp only
  rw [retire_writeS_setCtx (engOf_rawOf_csr hcsr) (csrWrite_fr ..)]
  simp only [Bool.and_eq_true, decide_eq_true_eq, and_assoc]
  rfl

end Sys2Proof.Machine
end

section

namespace Sys2Proof.Proofs

open Sys2Proof Sys2Proof.Machine Sys2Proof.Safety Sys2Proof.Claims

/-- Settles O38: a conditional branch compares two registers, and a target with bits 63:48 is trapped before anything is written. -/
theorem branchesAndJumps : Obligations.BranchesAndJumps := ⟨conditionalBranches_spec, jumps_spec⟩

/-- Settles O7: the front end past a control word depends on no format, so a write of VFMT does not change where the word ends. -/
theorem csrWords : Obligations.CsrWords := by
  unfold Obligations.CsrWords
  intro s i d n w hready h
  unfold csrOf at h
  split at h <;> cases h
  · change execCsrr _ _ _ s = _
    rw [execCsrr, control_ready hready]
    exact congrArg _ (retire_writeS ..)
  · change execCsrw _ _ _ _ s = _
    rw [execCsrw, csrWord_ready hready trivial]
  · change execCsrs _ _ _ _ s = _
    rw [execCsrs, csrWord_ready hready trivial]
  · change execCsrc _ _ _ _ s = _
    rw [execCsrc, csrWord_ready hready trivial]

end Sys2Proof.Proofs
end

section

/-! # Local counters, the reply queue and the event flag (R175, R176, R189) -/

namespace Sys2Proof.Machine

open Sys2Proof.Safety Sys2Proof.Claims

/-- A control word that changes its context, and no register, and goes on. -/
theorem retire_setCtx {s : State} {i : Instr} (h : engOf (rawOf i) = 0) {c : Ctx} (hfr : c.fr = (cx s).fr) :
    retire (setCtx s s.sch.cur c) s.sch.cur i = setCtx s s.sch.cur { c with fr := pastFront s i } := by
  have hcx : cx (setCtx s s.sch.cur c) = c := getCtx_setCtx ..
  have hcur := retire_cur (setCtx s s.sch.cur c) i
  rw [setCtx_sch] at hcur
  rw [hcur, setCtx_setCtx, hcx, pastFront_setCtx h hfr]

theorem waitgeLocal_spec {s : State} {z : Bool} {a b : BitVec 5} (h : ready s (.waitgeLocal z a b) = true)
    (hge : (src (cx s) 3 b).toNat ≤ (getPg (cx s) (effReg (cx s) 2 a)).toNat) :
    exec (.waitgeLocal z a b) s = .next (setCtx s s.sch.cur { cx s with fr := pastFront s (.waitgeLocal z a b) }) := by
  change execWaitgeLocal z a b s = _
  rw [execWaitgeLocal, control_ready h]
  exact congrArg _ ((if_pos hge).trans (retire_cur ..))

/-- What an add to a local counter leaves of its context (R112). -/
theorem addPg_fields {n : Nat} (hn : n < 16) (c : Ctx) (x : Word) :
    getPg (addPg c n x) n = getPg c n + x ∧ (addPg c n x).arch.s = c.arch.s ∧ (addPg c n x).eng.event = true
      ∧ (addPg c n x).fr = c.fr := by
  simp [addPg, hn, getPg]

theorem signalLocal_spec {s : State} {z : Bool} {a b : BitVec 5} (h : ready s (.signalLocal z a b) = true)
    (ha : effReg (cx s) 2 a < 16) :
    ∃ t, exec (.signalLocal z a b) s = .next t ∧ elsewhere t s.sch.cur = elsewhere s s.sch.cur
      ∧ getPg (getCtx t s.sch.cur) (effReg (cx s) 2 a) = getPg (cx s) (effReg (cx s) 2 a) + src (cx s) 3 b
      ∧ (getCtx t s.sch.cur).arch.s = (cx s).arch.s ∧ (getCtx t s.sch.cur).eng.event = true
      ∧ (getCtx t s.sch.cur).fr = pastFront s (.signalLocal z a b) := by
  obtain ⟨hpg, hs, hevent, hfr⟩ := addPg_fields ha (cx s) (src (cx s) 3 b)
  have hgo := retire_setCtx (s := s) (i := .signalLocal z a b) (engOf_rawOf_of_pack rfl (by simp only [pack]; omega)) hfr
  have hexec : exec (.signalLocal z a b) s = .next (setCtx s s.sch.cur
      { addPg (cx s) (effReg (cx s) 2 a) (src (cx s) 3 b) with fr := pastFront s (.signalLocal z a b) }) := by
    change execSignalLocal z a b s = _
    rw [execSignalLocal, control_ready h]
    exact congrArg _ hgo
  refine ⟨_, hexec, ?_, ?_⟩
  · rw [elsewhere, setCtx_setCtx, elsewhere]
  · rw [getCtx_setCtx]
    exact ⟨hpg, hs, hevent, rfl⟩

theorem popr_entry {s : State} {z : Bool} {d : BitVec 5} {x : Word} {r : List Word} (h : ready s (.popr z d) = true)
    (hr : (cx s).eng.reply = x :: r) :
    exec (.popr z d) s = .next (setCtx s s.sch.cur { ctxAfter s (.popr z d) (effReg (cx s) 1 d) x with
      eng := { (cx s).eng with reply := r } }) := by
  have hgo := retire_writeS_setCtx (s := s) (i := .popr z d) (engOf_rawOf_of_pack rfl (by simp only [pack]; omega))
    (c := { cx s with eng := { (cx s).eng with reply := r } }) rfl (effReg (cx s) 1 d) x
  change execPopr z d s = _
  rw [execPopr, control_ready h]
  simp only [hr]
  refine (congrArg _ hgo).trans ?_
  simp only [ctxAfter, setS]
  split <;> rfl

theorem popr_empty {s : State} {z : Bool} {d : BitVec 5} (h : ready s (.popr z d) = true) (hr : (cx s).eng.reply = []) :
    exec (.popr z d) s = .next (stallAt s s.sch.cur .popr) := by
  change execPopr z d s = _
  rw [execPopr, control_ready h]
  simp only [hr]

theorem peekr_spec {s : State} {z : Bool} {d : BitVec 5} (h : ready s (.peekr z d) = true) :
    exec (.peekr z d) s = .next (stateAfter s (.peekr z d) (effReg (cx s) 1 d)
      (match (cx s).eng.reply with
        | x :: _ => x
        | [] => BitVec.allOnes 64)) := by
  change execPeekr z d s = _
  rw [execPeekr, control_ready h, retire_writeS]
  cases (cx s).eng.reply <;> rfl

theorem wfe_spec {s : State} {z : Bool} {core : Nat} {b : Bool} (h : ready s (.wfe z) = true) (hcur : s.sch.cur = .bank core b) :
    exec (.wfe z) s = .next (if (cx s).eng.event then
        setCtx s s.sch.cur { cx s with fr := pastFront s (.wfe z), eng := { (cx s).eng with event := false } }
      else stallAt s s.sch.cur .wfe) := by
  have hevent : eventSet s s.sch.cur = (cx s).eng.event := by
    simp only [eventSet, cx, hcur]
  have hgo := retire_setCtx (s := s) (i := .wfe z) (engOf_rawOf_of_pack rfl (by simp only [pack]; omega))
    (c := { cx s with eng := { (cx s).eng with event := false } }) rfl
  change execWfe z s = _
  rw [execWfe, control_ready h]
  simp only [hevent]
  rw [clearEvent, updCtx, ← cx, hgo]

theorem counterAndReplyWords_spec : counterAndReplyWords :=
  ⟨fun _ _ _ _ => waitgeLocal_spec, fun _ _ _ _ => signalLocal_spec, fun _ _ _ _ _ => popr_entry, fun _ _ _ => popr_empty,
    fun _ _ _ => peekr_spec, fun _ _ _ _ => wfe_spec⟩

/-! ### SEV -/

/-- What a map over the entries that keeps their keys holds under a key. -/
theorem kfind_map {α : Type} (f : Nat → α → α) (m : KMap α) (k : Nat) :
    kfind (m.map fun e => (e.1, f e.1 e.2)) k = (kfind m k).map (f k) := by
  induction m with
  | nil => rfl
  | cons e r ih =>
    obtain ⟨j, x⟩ := e
    simp only [List.map_cons, kfind]
    split_ifs with hlt heq
    · rfl
    · rw [heq, Option.map_some]
    · exact ih

/-- A context after a SEV of the cluster and the partition (R189). -/
def hearsEvent (cl part k : Nat) (c : Ctx) : Ctx :=
  if k < 1000 ∧ coreCluster (k / 2) = cl ∧ c.life.part = part ∧ c.life.status ≠ .empty then
    { c with eng := { c.eng with event := true } }
  else c

/-- The state after a SEV of the cluster and the partition, the word not yet passed. -/
def sendsEvent (s : State) (cl part : Nat) : State :=
  { s with ctxs := s.ctxs.map fun e => (e.1, hearsEvent cl part e.1 e.2) }

theorem hearsEvent_reset (cl part k : Nat) : hearsEvent cl part k Ctx.reset = Ctx.reset := by
  rw [hearsEvent, if_neg]
  exact fun h => h.2.2.2 rfl

theorem getCtx_sendsEvent (s : State) (cl part : Nat) (a : AgentId) :
    getCtx (sendsEvent s cl part) a = hearsEvent cl part (ctxKey a) (getCtx s a) := by
  rw [getCtx, sendsEvent, kget, kfind_map, getCtx, kget]
  cases kfind s.ctxs (ctxKey a) with
  | none => exact (hearsEvent_reset ..).symm
  | some c => rfl

/-- A SEV changes only event flags. -/
theorem hearsEvent_fields (cl part k : Nat) (c : Ctx) :
    (hearsEvent cl part k c).fr = c.fr ∧ (hearsEvent cl part k c).csr = c.csr ∧ (hearsEvent cl part k c).arch = c.arch := by
  rw [hearsEvent]
  split <;> exact ⟨rfl, rfl, rfl⟩

theorem hearsEvent_bank (core part c : Nat) (x : Bool) (hc : c < 384) (d : Ctx) :
    (hearsEvent (coreCluster core) part (ctxKey (.bank c x)) d).eng.event
      = (d.eng.event || (decide (c / 16 = core / 16) && d.life.part == part && d.life.status != .empty)) := by
  have hx := b2n_le_one x
  have hkey : ctxKey (.bank c x) / 2 = c := by
    simp only [ctxKey]
    omega
  have hlt : ctxKey (.bank c x) < 1000 := by
    simp only [ctxKey]
    omega
  rw [hearsEvent, hkey]
  simp only [hlt, true_and, coreCluster]
  split
  next h => simp [h]
  next h =>
    by_cases h1 : c / 16 = core / 16
    · by_cases h2 : d.life.part = part
      · have h3 : d.life.status = .empty := by simpa [h1, h2] using h
        simp [h3]
      · simp [h2]
    · simp [h1]

/-- A context is found by its key. -/
theorem getCtx_of_key (s : State) {a b : AgentId} (h : ctxKey a = ctxKey b) : getCtx s a = getCtx s b := by
  rw [getCtx, getCtx, h]

theorem sendEvent_spec : sendEvent := by
  intro s z core b hready hcur hcore
  have hexec : exec (.sev z) s = .next (retire (sendsEvent s (coreCluster core) (cx s).life.part) s.sch.cur (.sev z)) := by
    change execSev z s = _
    rw [execSev, control_ready hready]
    dsimp only
    rw [sendsEvent, hcur]
    congr 4
    funext e
    rw [hearsEvent]
    split
    next h => exact congrArg _ (if_pos h).symm
    next h => exact congrArg (Prod.mk e.1) (if_neg h).symm
  have hfields := fun a => hearsEvent_fields (coreCluster core) (cx s).life.part (ctxKey a) (getCtx s a)
  have hfr : pastFront (sendsEvent s (coreCluster core) (cx s).life.part) (.sev z) = pastFront s (.sev z) := by
    have hcx : cx (sendsEvent s (coreCluster core) (cx s).life.part)
        = hearsEvent (coreCluster core) (cx s).life.part (ctxKey s.sch.cur) (cx s) := getCtx_sendsEvent ..
    have hfr : (hearsEvent (coreCluster core) (cx s).life.part (ctxKey s.sch.cur) (cx s)).fr = (cx s).fr := (hfields _).1
    rw [pastFront, bodyLen, hcx, hfr]
    exact pastWord_congr hfr (congrArg _ (hfields s.sch.cur).2.1) ..
  have hcurEq := retire_cur (sendsEvent s (coreCluster core) (cx s).life.part) (.sev z)
  have hother : ∀ a, ∃ fr, getCtx (retire (sendsEvent s (coreCluster core) (cx s).life.part) s.sch.cur (.sev z)) a
      = { hearsEvent (coreCluster core) (cx s).life.part (ctxKey a) (getCtx s a) with fr := fr } := fun a => by
    rw [show s.sch.cur = (sendsEvent s (coreCluster core) (cx s).life.part).sch.cur from rfl, hcurEq]
    by_cases ha : ctxKey a = ctxKey (sendsEvent s (coreCluster core) (cx s).life.part).sch.cur
    · rw [getCtx_of_key _ ha, getCtx_setCtx, cx, ← getCtx_of_key _ ha, getCtx_sendsEvent]
      exact ⟨_, rfl⟩
    · rw [getCtx_setCtx_other _ _ ha, getCtx_sendsEvent]
      exact ⟨_, rfl⟩
  refine ⟨_, hexec, ?_, fun c x hc => ?_, fun c x hc => ?_⟩
  · rw [show s.sch.cur = (sendsEvent s (coreCluster core) (cx s).life.part).sch.cur from rfl, hcurEq, getCtx_setCtx]
    exact hfr
  · obtain ⟨fr, h⟩ := hother (.bank c x)
    rw [h]
    exact hearsEvent_bank _ _ _ _ hc _
  · obtain ⟨fr, h⟩ := hother (.bank c x)
    rw [h]
    exact (hfields _).2.2

end Sys2Proof.Machine
end

section

namespace Sys2Proof.Proofs

open Sys2Proof Sys2Proof.Machine Sys2Proof.Safety Sys2Proof.Claims

/-- Settles O39: each word changes its own context alone, and SEV the event flags of the contexts it names. -/
theorem counterReplyAndEventWords : Obligations.CounterReplyAndEventWords := ⟨counterAndReplyWords_spec, sendEvent_spec⟩

end Sys2Proof.Proofs
end

section

/-! # A copy word that joins a queue whose head has been judged (R178, R307) -/

namespace Sys2Proof.Machine

open Sys2Proof.Safety Sys2Proof.Claims

/-- LCP of no byte, with the local counter 0. -/
theorem lcp_dropsNote : DropsNote .l (.lcp true 0 0 0 0 false false) := ⟨by decide +kernel, by decide +kernel, by decide +kernel⟩

/-- The add to a local counter leaves the engines of its context (R112). -/
theorem getE_addCtr_loc (s : State) (a : AgentId) (cache p asid n : Nat) (x : Word) (e : Engine) :
    getE (getCtx (addCtr s (some (ctxKey a)) cache p asid (.loc n) x) a).eng e = getE (getCtx s a).eng e := by
  have hkey : ctxKey (keyAgent (ctxKey a)) = ctxKey a := ctxKey_keyAgent _
  rw [addCtr, getCtx_of_key _ hkey.symm, updCtx, getCtx_setCtx, getCtx_of_key _ hkey, addPg]
  split
  · cases e <;> rfl
  · rfl

/-- A word that drops the note and then adds to a local counter does not leave its engine as `leaves` says. -/
theorem DropsNote.not_leaves_addsOne {e : Engine} {i : Instr} (h : DropsNote e i) {n : Nat}
    (hctr : ctrOf (queued (idleJudged e) i i) = .loc n) {t u : State} (ht : exec i (idleJudged e) = .next t)
    (hone : addsOne (idleJudged e) u t i i) {flags : Nat} {replies : List Nat} : ¬ leaves (idleJudged e) u i i flags replies := by
  rintro ⟨-, ⟨hengine, -⟩, -⟩
  rw [h.engine] at hengine
  have hkept : (getE (getCtx u (idleJudged e).sch.cur).eng e).headOk = true := by rw [hengine, ← idleJudged_headOk e]
  rw [addsOne, hctr] at hone
  have hdrops := h.drops
  rw [leftBy_eq ht, hone, getE_addCtr_loc, hkept] at hdrops
  cases hdrops

end Sys2Proof.Machine
end

section

namespace Sys2Proof.Proofs

open Sys2Proof Sys2Proof.Machine Sys2Proof.Safety Sys2Proof.Claims

/-- Refutes O14: LCP of no byte, with a note that the load engine's head has been judged, runs as the statement asks, and the engine does
not keep the note once the word has left it. -/
theorem not_copyWords : ¬ Obligations.CopyWords := by
  unfold Obligations.CopyWords
  rintro ⟨hloads, -⟩
  obtain ⟨u, t, ht, hone, hleaves, -⟩ := hloads (idleJudged .l) (.lcp true 0 0 0 0 false false) (.lcp true 0 0 0 0 false false) [] []
    lcp_dropsNote.starts lcp_dropsNote.engine (idleJudged_calm _ _ (by decide)) ⟨fun h => absurd h (by decide +kernel), by decide +kernel⟩
    (by decide +kernel) (fun u hu => by cases hu) (by decide +kernel) List.Pairwise.nil
  exact lcp_dropsNote.not_leaves_addsOne (n := 0) (by decide +kernel) ht hone hleaves

end Sys2Proof.Proofs
end

section

/-! # Words that read a range: NEST and CSTORE (R149, R160, R177, R184) -/

namespace Sys2Proof.Machine

open Sys2Proof.Safety Sys2Proof.Claims

/-! ### Ranges that are read -/

/-- Where no error mark stands, the translations of a range change caches alone. -/
theorem ctlPieces_cachesAside {s : State} (h : s.mem.errs = []) (a : AgentId) (kind : AccKind) (ps : List (Nat × Nat)) :
    cachesAside (ctlPieces s a kind ps).2.2.2.2 = cachesAside s := by
  induction ps generalizing s with
  | nil => rfl
  | cons p r ih =>
    obtain ⟨va, n⟩ := p
    have hx := xlate_cachesAside h (coreTlb a) (getCtx s a).life.part (getCtx s a).life.asid va kind (!(getCtx s a).trap.smode)
    have hclean : (xlate s (coreTlb a) (getCtx s a).life.part (getCtx s a).life.asid va kind (!(getCtx s a).trap.smode)).2.mem.errs = [] := by
      have hmem := congrArg State.mem hx
      exact (congrArg Stores.errs hmem).trans h
    have hrest := (ih hclean).trans hx
    simp only [ctlPieces]
    split <;> exact hrest

/-- The loads of a range leave the frame of an access. -/
theorem ctlLoads_accessFrame {s : State} (h : s.mem.errs = []) {a : AgentId} (ps : List (Loc × Nat)) :
    AccessFrame (ctxKey a) s (ctlLoads s a ps).2 := by
  induction ps generalizing s with
  | nil => exact .refl h
  | cons p r ih =>
    obtain ⟨l, n⟩ := p
    have hload := ctlLoad_accessFrame h (a := a) rfl l n
    exact hload.trans (ih hload.clean)

/-- What a word does with a range that passes the checks of R160, and the frame of the reads before it. -/
theorem withRead_of_rangeRead {s s' : State} {va : Word} {n align : Nat} {bs : List Byte} (h : rangeRead s va n align = some (bs, s')) :
    AccessFrame (ctxKey s.sch.cur) s s' ∧ ∀ go, withRead s s.sch.cur va n align go = go s' bs := by
  unfold rangeRead at h
  split at h
  · cases h
  next hcond =>
    obtain ⟨halign, hlow, habort, herrs⟩ : va.toNat % align = 0 ∧ ¬ 2 ^ 48 ≤ va.toNat ∧ (cx s).fr.abort = none ∧ s.mem.errs = [] := by
      simpa only [not_or, ne_eq, not_not] using hcond
    have haside := ctlPieces_cachesAside herrs s.sch.cur .read (pagePieces va.toNat (pieceFuel n) n)
    split at h
    next ls t hpieces =>
      rw [hpieces] at haside
      have hchecked : AccessFrame (ctxKey s.sch.cur) s t := .of_caches herrs haside
      have hframe := hchecked.trans (ctlLoads_accessFrame hchecked.clean
        ((ls.map fun x => linePieces x.1 (x.2 / 128 + 2) x.2).flatten))
      have hnone : (((ls.map fun x => linePieces x.1 (x.2 / 128 + 2) x.2).flatten).find? fun x =>
          (locBad t x.1 x.2).isSome && !dcServes t s.sch.cur x.1) = none := by
        rw [List.find?_eq_none]
        intro x _
        simp [locBad_none hchecked.clean]
      rw [Option.some.inj h] at hframe
      refine ⟨hframe, fun go => ?_⟩
      rw [withRead, if_neg (not_not.mpr halign), if_neg hlow]
      simp only [cx] at habort
      simp only [habort, hpieces, hnone, Option.some.inj h]
      rfl
    · cases h

theorem sch_of_rangeRead {s s' : State} {va : Word} {n align : Nat} {bs : List Byte} (h : rangeRead s va n align = some (bs, s')) :
    s'.sch = s.sch := (withRead_of_rangeRead h).1.sch

/-! ### NEST -/

/-- The register that a field names depends on the front end alone (R146, R148). -/
theorem effReg_congr {c d : Ctx} (h : d.fr = c.fr) (k : Nat) (r : BitVec 5) : effReg d k r = effReg c k r := by
  simp only [effReg, h]

theorem nestDescriptor_spec : nestDescriptor := by
  intro s s' z n a m bs hready hread
  obtain ⟨hframe, hgo⟩ := withRead_of_rangeRead hread
  change execNest z n a m s = _
  rw [execNest, control_ready hready]
  dsimp only
  refine congrArg _ ((hgo _).trans ?_)
  cases nestOf bs with
  | none => rfl
  | some d =>
    have hput := retire_setCtx (s := s') (i := .nest z n a m) (engOf_rawOf_of_pack rfl (by simp only [pack]; omega))
      (setNest_fr (cx s') (effReg (cx s) 1 n) d)
    rw [hframe.sch] at hput
    have hslot : effReg (getCtx s' s.sch.cur) 1 n = effReg (cx s) 1 n := effReg_congr (hframe.fr rfl) ..
    dsimp only
    have hcx : cx s' = getCtx s' s.sch.cur := by rw [cx, hframe.sch]
    rw [← hput, updCtx, hslot, hcx]

/-! ### CSTORE -/

/-- A control store with an entry loaded (R149). -/
theorem kfind_cstore_setCore (s : State) (n entry : Nat) (ws : List IWord) :
    kfind (getCore (setCore s n { getCore s n with cstore := kput (getCore s n).cstore entry (ws, true) }) n).cstore entry = some (ws, true)
      ∧ ∀ k, k ≠ entry →
        kfind (getCore (setCore s n { getCore s n with cstore := kput (getCore s n).cstore entry (ws, true) }) n).cstore k
          = kfind (getCore s n).cstore k := by
  rw [getCore_setCore]
  exact ⟨kfind_kput_same .., fun k hk => kfind_kput_other _ _ hk⟩

theorem controlStoreLoad_spec : controlStoreLoad := by
  intro s z e a n hready
  dsimp only
  have hexec : ∀ t, (if !(cx s).trap.smode && !bit (preg s (cx s).life.part 0x040).toNat (effReg (cx s) 1 e) then
        raiseCtl s s.sch.cur 6 (src (cx s) 2 a) 0
      else withRead s s.sch.cur (src (cx s) 2 a) (4 * (n.toNat + 1)) 4 fun u bs =>
        if bodyOk (cx s).csr.vfmt Prefixes.reset 0 (iwords (n.toNat + 1) bs) then
          retire (setCore u (agentCore s.sch.cur) { getCore u (agentCore s.sch.cur) with
            cstore := kput (getCore u (agentCore s.sch.cur)).cstore (effReg (cx s) 1 e) (iwords (n.toNat + 1) bs, true) })
            s.sch.cur (.cstore z e a n)
        else raiseCtl u s.sch.cur 0x0F 0 (BitVec.ofNat 64 (effReg (cx s) 1 e))) = t → exec (.cstore z e a n) s = .next t := by
    rintro t rfl
    change execCstore z e a n s = _
    rw [execCstore, control_ready hready]
    rfl
  refine ⟨fun hgrant => hexec _ (if_pos ?_), fun bs s' hgrant hread => ?_⟩
  · simpa using hgrant
  · obtain ⟨hframe, hgo⟩ := withRead_of_rangeRead hread
    have hdenied : ¬ (!(cx s).trap.smode && !bit (preg s (cx s).life.part 0x040).toNat (effReg (cx s) 1 e)) = true := by
      simpa only [← Bool.not_or, hgrant, Bool.not_true] using Bool.false_ne_true
    have hrun := hexec _ ((if_neg hdenied).trans (hgo _))
    split
    next hbody =>
      rw [if_pos hbody] at hrun
      obtain ⟨hsame, hother⟩ := kfind_cstore_setCore s' (agentCore s.sch.cur) (effReg (cx s) 1 e) (iwords (n.toNat + 1) bs)
      refine ⟨_, hrun, rfl, hsame, hother, ?_⟩
      have hcx : cx s' = getCtx s' s.sch.cur := by rw [cx, hframe.sch]
      rw [retire, getCtx_updCtx, hcx]
      rfl
    next hbody =>
      rw [if_neg hbody] at hrun
      exact hrun

end Sys2Proof.Machine
end

section

namespace Sys2Proof.Proofs

open Sys2Proof Sys2Proof.Machine Sys2Proof.Safety Sys2Proof.Claims

/-- Settles O40: where no error mark stands, the reads of the range change caches, counts and data caches alone, and the word goes on with
the bytes that they found. -/
theorem nestAndControlStoreWords : Obligations.NestAndControlStoreWords := ⟨nestDescriptor_spec, controlStoreLoad_spec⟩

end Sys2Proof.Proofs
end

section

/-! # Spores and streams: SPAWN, FORK, MSEND, MRECV and CONT (R174, R180 to R182, R309, R317) -/

namespace Sys2Proof.Machine

open Sys2Proof.Safety Sys2Proof.Claims

/-- An acquire leaves the control stores. -/
theorem acquire_cstore (s : State) (a : AgentId) (scope n : Nat) : (getCore (acquire s a scope) n).cstore = (getCore s n).cstore := by
  unfold acquire
  split
  · change (getCore (updCache s a fun _ => []) n).cstore = _
    unfold updCache
    by_cases hn : n = coreTlb a
    · rw [hn, getCore_setCore]
    · rw [getCore_setCore_other _ _ hn]
  · rfl

/-! ### SPAWN -/

theorem spawn_spec : spawn := by
  intro s s' z a m bs hready hdrain hread
  obtain ⟨-, hgo⟩ := withRead_of_rangeRead hread
  have hexec : ∀ t, (if (cx s).life.drain ≠ .none then drainStep s s.sch.cur
      else withRead s s.sch.cur (src (cx s) 2 a + effImm (cx s) m) 64 64 fun u bs =>
        match spawnTarget (getPart u (cx s).life.part) (cx s).life.inst (cx s).life.stage (fieldAt bs 8 2) with
        | none => raiseCtl u s.sch.cur 9 0 (BitVec.ofNat 64 (fieldAt bs 8 2))
        | some d =>
          if queueRoom (getPart u (cx s).life.part) (cx s).life.inst (fieldAt bs 8 2) then
            retire (addItem u (cx s).life.part (cx s).life.inst (fieldAt bs 8 2) (imageSpore bs (cx s).life.rcd.tag d.prio) .queued none)
              s.sch.cur (.spawn z a m)
          else beginDrain u s.sch.cur (.spawn (src (cx s) 2 a + effImm (cx s) m))) = t → exec (.spawn z a m) s = .next t := by
    rintro t rfl
    change execSpawn z a m s = _
    rw [execSpawn, control_ready hready]
    rfl
  replace hexec := hexec _ ((if_neg (not_not.mpr hdrain)).trans (hgo _))
  cases htarget : spawnTarget (getPart s' (cx s).life.part) (cx s).life.inst (cx s).life.stage (fieldAt bs 8 2) with
  | none =>
    simp only [htarget] at hexec
    exact hexec
  | some d =>
    intro hroom
    simp only [htarget, hroom, if_true] at hexec
    exact hexec

/-! ### FORK -/

theorem ctxKey_seq_ne {core : Nat} (h : core < 384) (b : Bool) (n : Nat) : ctxKey (.bank core b) ≠ ctxKey (.seq n) := by
  have hb := b2n_le_one b
  simp only [ctxKey]
  omega

theorem seqFree_iff (s : State) (n : Nat) : seqFree s n = true ↔ (getCtx s (.seq n)).life.status = .empty := by
  rw [seqFree, beq_iff_eq]

/-- The context of a stream that has just started (R180). -/
def streamCtx (p asid : Nat) (pc h arg : Word) : Ctx :=
  setS (setS { Ctx.reset with
    life := { Life.reset with status := .running, part := p, asid := asid, winUnits := 16 }
    fr := { Front.reset with pc := pc }
    csr := { UCsr.reset with sqid := h } } 9 h) 10 arg

/-- What a stream that starts changes. -/
theorem startStream_spec (s : State) (n p asid : Nat) (pc arg : Word) (k : Option Nat) :
    let t := startStream s n p asid pc arg k
    t.mem = s.mem ∧ t.sch = s.sch ∧ (∀ c, (getCore t c).cstore = (getCore s c).cstore)
      ∧ (∀ a, ctxKey a ≠ ctxKey (.seq n) → getCtx t a = getCtx s a)
      ∧ getCtx t (.seq n) = streamCtx p asid pc (streamHandle ((getSeq s n).gen + 1) n) arg
      ∧ (getSeq t n).gen = (getSeq s n).gen + 1 := by
  refine ⟨rfl, rfl, fun c => (acquire_cstore ..).trans rfl, fun a ha => ?_, ?_, ?_⟩
  · exact (getCtx_setCtx_other _ _ ha).trans rfl
  · exact getCtx_setCtx ..
  · exact congrArg SeqSt.gen (getSeq_setSeq s n _)

/-- What a stream that is ended by force keeps (R309). -/
theorem forceEnd_spec (s : State) (n : Nat) :
    (forceEnd s n).mem = s.mem ∧ (forceEnd s n).sch = s.sch ∧ (forceEnd s n).cores = s.cores
      ∧ (∀ a, ctxKey a ≠ ctxKey (.seq n) → getCtx (forceEnd s n) a = getCtx s a)
      ∧ getCtx (forceEnd s n) (.seq n) = { getCtx s (.seq n) with
          eng := dropQueues (getCtx s (.seq n)).eng, life := { (getCtx s (.seq n)).life with status := .running, drain := .exit } }
      ∧ (getSeq (forceEnd s n) n).gen = (getSeq s n).gen := by
  refine ⟨rfl, rfl, rfl, fun a ha => ?_, ?_, ?_⟩
  · exact (getCtx_updCtx_other _ _ ha).trans rfl
  · exact (getCtx_updCtx ..).trans rfl
  · exact (congrArg SeqSt.gen (getSeq_setSeq s n { getSeq s n with forced := true, skip := false })).trans rfl

/-- The context of a stream that FORK starts, and that a partition that is not enabled ends at once. -/
structure ForkedCtx (c : Ctx) (asid : Nat) (pc h arg : Word) : Prop where
  status : c.life.status = .running
  asid : c.life.asid = asid
  pc : c.fr.pc = pc
  handle : getS c 9 = h
  arg : getS c 10 = arg
  mode : c.trap.smode = false
  sqid : c.csr.sqid = h

theorem streamCtx_forked (p asid : Nat) (pc h arg : Word) : ForkedCtx (streamCtx p asid pc h arg) asid pc h arg :=
  ⟨rfl, rfl, rfl, rfl, rfl, rfl, rfl⟩

/-- The state in which FORK has started the stream and has still to write its handle (R180). -/
def forked (s : State) (n : Nat) (pc arg : Word) : State :=
  let t := startStream s n (cx s).life.part (cx s).life.asid pc arg (some (ctxKey s.sch.cur))
  if partOn t (cx s).life.part then t else forceEnd t n

theorem forked_spec {s : State} {core : Nat} {b : Bool} (hcur : s.sch.cur = .bank core b) (hcore : core < 384) (n : Nat) (pc arg : Word) :
    (forked s n pc arg).mem = s.mem ∧ (forked s n pc arg).sch = s.sch ∧ getCtx (forked s n pc arg) s.sch.cur = cx s
      ∧ (∀ i, engOf (rawOf i) = 0 → pastFront (forked s n pc arg) i = pastFront s i)
      ∧ ForkedCtx (getCtx (forked s n pc arg) (.seq n)) (cx s).life.asid pc (streamHandle ((getSeq s n).gen + 1) n) arg
      ∧ (getSeq (forked s n pc arg) n).gen = (getSeq s n).gen + 1 := by
  obtain ⟨hmem, hsch, hstore, hother, hctx, hgen⟩ :=
    startStream_spec s n (cx s).life.part (cx s).life.asid pc arg (some (ctxKey s.sch.cur))
  have hkey : ctxKey s.sch.cur ≠ ctxKey (.seq n) := hcur ▸ ctxKey_seq_ne hcore b n
  have hstart := streamCtx_forked (cx s).life.part (cx s).life.asid pc (streamHandle ((getSeq s n).gen + 1) n) arg
  rw [← hctx] at hstart
  unfold forked
  dsimp only at hmem hsch hstore hother hgen ⊢
  generalize startStream s n (cx s).life.part (cx s).life.asid pc arg (some (ctxKey s.sch.cur)) = t at *
  split
  · exact ⟨hmem, hsch, hother _ hkey, fun i hi => pastFront_control hi (by rw [hsch]) (by rw [hother _ hkey]; rfl) hstore, hstart, hgen⟩
  · obtain ⟨hmem', hsch', hcores', hother', hctx', hgen'⟩ := forceEnd_spec t n
    have hcx := (hother' _ hkey).trans (hother _ hkey)
    have hstore' : ∀ c, (getCore (forceEnd t n) c).cstore = (getCore s c).cstore := fun c => by
      rw [← hstore c, getCore, getCore, hcores']
    refine ⟨hmem'.trans hmem, hsch'.trans hsch, hcx, fun i hi => pastFront_control hi (by rw [hsch', hsch]) (by rw [hcx]; rfl) hstore', ?_, hgen'.trans hgen⟩
    rw [hctx']
    exact ⟨rfl, hstart.asid, hstart.pc, hstart.handle, hstart.arg, hstart.mode, hstart.sqid⟩

theorem fork_spec : fork := by
  intro s core b' z d a b k q hcur hcore hready halign hlow hgrant
  dsimp only
  have hn : 4 * k.toNat + q.toNat < 32 := by omega
  have hhandle : BitVec.ofNat 64 (((getSeq s (4 * k.toNat + q.toNat)).gen + 1).toNat * 2 ^ 32 + 2 ^ 15 + (4 * k.toNat + q.toNat))
      = streamHandle ((getSeq s (4 * k.toNat + q.toNat)).gen + 1) (4 * k.toNat + q.toNat) := by
    rw [streamHandle, Nat.mod_eq_of_lt hn]
  rw [hhandle]
  have hexec : exec (.fork z d a b k q) s = .next (
      if !seqFree s (4 * k.toNat + q.toNat) || !(getSeq s (4 * k.toNat + q.toNat)).up.isEmpty then
        stateAfter s (.fork z d a b k q) (effReg (cx s) 1 d) 0
      else
        retire (writeS (forked s (4 * k.toNat + q.toNat) (src (cx s) 2 a) (src (cx s) 3 b)) s.sch.cur (effReg (cx s) 1 d)
          (getCtx (forked s (4 * k.toNat + q.toNat) (src (cx s) 2 a) (src (cx s) 3 b)) (.seq (4 * k.toNat + q.toNat))).csr.sqid) s.sch.cur
          (.fork z d a b k q)) := by
    change execFork z d a b k q s = _
    rw [execFork, control_ready hready, ← retire_writeS]
    refine congrArg _ ((if_neg (not_not.mpr halign)).trans ((if_neg (Nat.not_le.mpr hlow)).trans ((if_neg ?_).trans rfl)))
    rw [hgrant]
    exact Bool.false_ne_true
  obtain ⟨hmem, hsch, hcx, hpast, hctx, hgen⟩ := forked_spec hcur hcore (4 * k.toNat + q.toNat) (src (cx s) 2 a) (src (cx s) 3 b)
  have hfree : (!seqFree s (4 * k.toNat + q.toNat) || !(getSeq s (4 * k.toNat + q.toNat)).up.isEmpty) = true
      ↔ ¬ ((getCtx s (.seq (4 * k.toNat + q.toNat))).life.status = .empty ∧ (getSeq s (4 * k.toNat + q.toNat)).up = []) := by
    rw [← seqFree_iff, ← List.isEmpty_iff]
    simp [imp_iff_not_or]
  by_cases hidle : (getCtx s (.seq (4 * k.toNat + q.toNat))).life.status = .empty ∧ (getSeq s (4 * k.toNat + q.toNat)).up = []
  · rw [if_neg (fun h => hfree.1 h hidle)] at hexec
    generalize forked s (4 * k.toNat + q.toNat) (src (cx s) 2 a) (src (cx s) 3 b) = t at *
    have hdone := retire_writeS t (.fork z d a b k q) (effReg (cx s) 1 d) (getCtx t (.seq (4 * k.toNat + q.toNat))).csr.sqid
    rw [hsch] at hdone
    rw [hdone, hctx.sqid] at hexec
    have hkey : ctxKey (.seq (4 * k.toNat + q.toNat)) ≠ ctxKey t.sch.cur := by
      rw [hsch, hcur]
      exact (ctxKey_seq_ne hcore _ _).symm
    have hseq : getCtx (stateAfter t (.fork z d a b k q) (effReg (cx s) 1 d)
        (streamHandle ((getSeq s (4 * k.toNat + q.toNat)).gen + 1) (4 * k.toNat + q.toNat))) (.seq (4 * k.toNat + q.toNat))
        = getCtx t (.seq (4 * k.toNat + q.toNat)) := getCtx_setCtx_other _ _ hkey
    refine ⟨_, hexec, hmem, ?_⟩
    rw [if_pos hidle, hseq]
    refine ⟨?_, hgen, hctx.status, hctx.pc, hctx.handle, hctx.arg, hctx.mode, hctx.asid⟩
    have hcx' : cx t = cx s := by rw [cx, hsch, hcx]
    rw [stateAfter, hsch, getCtx_setCtx, ctxAfter, ctxAfter, hpast _ (engOf_rawOf_of_pack rfl (by simp only [pack]; omega)), hcx']
  · rw [if_pos (hfree.2 hidle)] at hexec
    refine ⟨_, hexec, rfl, ?_⟩
    rw [if_neg hidle]

end Sys2Proof.Machine
end

section

namespace Sys2Proof.Proofs

open Sys2Proof Sys2Proof.Machine Sys2Proof.Safety Sys2Proof.Claims

/-- Settles O46: SPAWN reads its image and then looks at the target and the room of its queue; the context of a stream has another key
than that of any bank. -/
theorem spawnAndFork : Obligations.SpawnAndFork := ⟨spawn_spec, fork_spec⟩

end Sys2Proof.Proofs
end

section

/-! # Mailboxes and streams that go on (R181, R182, R309, R317) -/

namespace Sys2Proof.Machine

open Sys2Proof.Safety Sys2Proof.Claims

/-! ### MSEND and MRECV -/

/-- A message loses bit 63 (R181). -/
theorem message_eq (x : Word) : BitVec.ofNat 64 (x.toNat % 2 ^ 63) = x &&& 0x7FFFFFFFFFFFFFFF := by
  apply BitVec.eq_of_toNat_eq
  rw [BitVec.toNat_ofNat, BitVec.toNat_and, show (0x7FFFFFFFFFFFFFFF : Word).toNat = 2 ^ 63 - 1 from rfl,
    Nat.and_two_pow_sub_one_eq_mod]
  omega

/-- A word that writes no register moves past itself. -/
theorem retire_cur_zero (s : State) (i : Instr) : retire s s.sch.cur i = stateAfter s i 0 0 := by
  rw [retire_cur, stateAfter, ctxAfter, setS_zero]

theorem msend_bank {s : State} {core : Nat} {b' z : Bool} {a b : BitVec 5} (hcur : s.sch.cur = .bank core b')
    (hready : ready s (.msend z a b) = true) :
    exec (.msend z a b) s = .next (
      if staleHandle s (cx s).life.part (src (cx s) 2 a) || seqFree s (handleSeq (src (cx s) 2 a)) then raiseCtl s s.sch.cur 6 0 0
      else if 8 ≤ (getSeq s (handleSeq (src (cx s) 2 a))).down.length then stallAt s s.sch.cur .mailbox
      else stateAfter (setSeq s (handleSeq (src (cx s) 2 a)) { getSeq s (handleSeq (src (cx s) 2 a)) with
          down := (getSeq s (handleSeq (src (cx s) 2 a))).down ++ [src (cx s) 3 b &&& 0x7FFFFFFFFFFFFFFF] })
          (.msend z a b) 0 0) := by
  change execMsend z a b s = _
  rw [execMsend, control_ready hready, ← message_eq, ← retire_cur_zero]
  simp only [setSeq_sch, hcur]
  rfl

theorem msend_seq {s : State} {n : Nat} {z : Bool} {a b : BitVec 5} (hcur : s.sch.cur = .seq n)
    (hready : ready s (.msend z a b) = true) (hown : src (cx s) 2 a = (cx s).csr.sqid) :
    exec (.msend z a b) s = .next (
      if 8 ≤ (getSeq s n).up.length then stallAt s s.sch.cur .mailbox
      else retire (appendUp s n (src (cx s) 3 b &&& 0x7FFFFFFFFFFFFFFF)) s.sch.cur (.msend z a b)) := by
  change execMsend z a b s = _
  rw [execMsend, control_ready hready, ← message_eq]
  simp only [hcur]
  refine congrArg _ ((if_neg (not_not.mpr hown)).trans rfl)

theorem mrecv_bank {s : State} {core : Nat} {b' z : Bool} {d a : BitVec 5} (hcur : s.sch.cur = .bank core b')
    (hready : ready s (.mrecv z d a) = true) (hlive : staleHandle s (cx s).life.part (src (cx s) 2 a) = false) :
    exec (.mrecv z d a) s = .next (
      match (getSeq s (handleSeq (src (cx s) 2 a))).up with
      | [] => if seqFree s (handleSeq (src (cx s) 2 a)) then raiseCtl s s.sch.cur 6 0 0 else stallAt s s.sch.cur .mailbox
      | x :: r => retire (writeS (acquire (deliverUp (setSeq s (handleSeq (src (cx s) 2 a))
          { getSeq s (handleSeq (src (cx s) 2 a)) with up := r }) (handleSeq (src (cx s) 2 a))) s.sch.cur 3) s.sch.cur
          (effReg (cx s) 1 d) x) s.sch.cur (.mrecv z d a)) := by
  change execMrecv z d a s = _
  rw [execMrecv, control_ready hready]
  simp only [hcur]
  refine congrArg _ ((if_neg ?_).trans rfl)
  exact fun h => Bool.false_ne_true (hlive.symm.trans h)

/-- Where no message of the hardware waits, none is delivered (R308). -/
theorem deliverUp_setSeq {q : SeqSt} (h : q.pendMsg = []) (s : State) (n : Nat) : deliverUp (setSeq s n q) n = setSeq s n q := by
  simp only [deliverUp, getSeq_setSeq, h]

/-- A message is taken as an acquire at device scope (R181, R317). -/
theorem retire_acquire_setSeq {s : State} {a : AgentId} (h : s.sch.cur = a) (n : Nat) (q : SeqSt) (i : Instr) (d : Nat) (x : Word) :
    retire (writeS (acquire (setSeq s n q) a 3) a d x) a i = stateAfter (acquire (setSeq s n q) s.sch.cur 3) i d x := by
  subst h
  exact retire_writeS (acquire (setSeq s n q) s.sch.cur 3) i d x

/-- A context with its engines put aside. -/
def engAside (c : Ctx) : Ctx := { c with eng := Engines.reset }

/-- What a message in a mailbox towards the bank changes: the mailbox, and an event flag (R181). -/
theorem appendUp_spec (s : State) (n : Nat) (x : Word) :
    (appendUp s n x).mem = s.mem ∧ getSeq (appendUp s n x) n = { getSeq s n with up := (getSeq s n).up ++ [x] }
      ∧ ∀ a, engAside (getCtx (appendUp s n x) a) = engAside (getCtx s a) := by
  have hput : ∀ q, (getSeq (setSeq s n q) n) = q := getSeq_setSeq s n
  unfold appendUp
  dsimp only
  cases (getSeq s n).forker with
  | none => exact ⟨rfl, hput _, fun _ => rfl⟩
  | some k =>
    refine ⟨rfl, hput _, fun a => ?_⟩
    by_cases ha : ctxKey a = ctxKey (keyAgent k)
    · dsimp only
      rw [getCtx_of_key _ ha, getCtx_updCtx, getCtx_setSeq, ← getCtx_of_key s ha]
      rfl
    · exact congrArg engAside (getCtx_updCtx_other _ _ ha)

theorem mailboxes_spec : mailboxes := by
  refine ⟨?_, ?_, ?_, ?_, ?_, ?_, ?_⟩
  · intro s core b' z a b hcur hready hlive hbusy
    rw [msend_bank hcur hready, hlive, hbusy]
    simp only [Bool.or_self, Bool.false_eq_true, if_false, ← Nat.not_lt, ite_not]
  · intro s core b' z a b hcur hready hfree
    rw [msend_bank hcur hready, hfree, Bool.or_true, if_pos rfl]
  · intro s n z a b hcur hready hown hfull
    rw [msend_seq hcur hready hown, if_pos hfull]
  · intro s n z a b hcur hready hown hroom
    obtain ⟨hmem, hseq, hctx⟩ := appendUp_spec s n (src (cx s) 3 b &&& 0x7FFFFFFFFFFFFFFF)
    rw [msend_seq hcur hready hown, if_neg (Nat.not_le.mpr hroom)]
    refine ⟨_, rfl, hmem, congrArg SeqSt.up hseq, ?_⟩
    rw [retire, getCtx_updCtx]
    exact (congrArg Ctx.arch (hctx s.sch.cur) :)
  · intro s core b' z d a x r hcur _ hready hlive hup hpend
    rw [mrecv_bank hcur hready hlive, hup]
    dsimp only
    rw [deliverUp_setSeq (q := { getSeq s (handleSeq (src (cx s) 2 a)) with up := r }) hpend, retire_acquire_setSeq rfl]
  · intro s core b' z d a hcur hready hlive hup
    rw [mrecv_bank hcur hready hlive, hup]
  · intro s n z d a hcur hready hown
    change execMrecv z d a s = _
    rw [execMrecv, control_ready hready]
    simp only [hcur]
    refine congrArg _ ((if_neg (not_not.mpr hown)).trans ?_)
    cases (getSeq s n).down with
    | nil => rfl
    | cons x r => exact (retire_acquire_setSeq hcur ..).trans (by rw [hcur])

/-! ### CONT -/

/-- A word that is routed again changes its engine and RSTEP, and nothing of the stream's life. -/
theorem routeAgain_life (fronts : List (Nat × Front)) (c : Ctx) (e : Engine) : (routeAgain fronts c e).life = c.life := by
  unfold routeAgain
  extract_lets x step
  have hstep : ∀ w c, (step w c).life = c.life := fun w c => by
    unfold step
    split <;> rfl
  split
  · rfl
  · split
    · split
      · exact hstep ..
      · rfl
    · split
      · exact hstep ..
      · rfl

/-- What a stream that goes on keeps (R182). -/
theorem resumeStream_spec (s : State) (n : Nat) (skip : Bool) :
    (resumeStream s n skip).mem = s.mem
      ∧ (getCtx (resumeStream s n skip) (.seq n)).life = { (getCtx s (.seq n)).life with status := .running } := by
  have hfold : ∀ fronts (l : List Engine) (c : Ctx), (l.foldl (routeAgain fronts) c).life = c.life := fun fronts l => by
    induction l with
    | nil => exact fun _ => rfl
    | cons e r ih => exact fun c => (ih _).trans (routeAgain_life ..)
  unfold resumeStream
  extract_lets a q held u fr
  have hlife : (getCtx u a).life = { (getCtx s a).life with status := .running } := by
    unfold u
    rw [getCtx_updCtx]
    cases skip with
    | true => rfl
    | false =>
      have hctx : getCtx (acquire s a 3) a = getCtx s a := rfl
      simp only [Bool.false_eq_true, if_false, hctx, hfold]
  exact ⟨rfl, hlife⟩

/-- What CONT does with a handle and its flags in the state in which it has read them (R182, R309). -/
def continues (s : State) (a : AgentId) (p : Nat) (i : Instr) (h : Word) (flags : Nat) : State :=
  if staleHandle s p h then raiseCtl s a 6 0 0
  else if (getCtx s (.seq (handleSeq h))).life.status ≠ .stopped ∨ (getCtx s (.seq (handleSeq h))).life.drain = .exit then retire s a i
  else if bit flags 1 then retire (forceEnd s (handleSeq h)) a i
  else retire (resumeStream s (handleSeq h) (bit flags 0)) a i

theorem exec_cont {s s' : State} {z : Bool} {a : BitVec 5} {m : BitVec 11} {bs : List Byte} (hready : ready s (.cont z a m) = true)
    (hread : rangeRead s (src (cx s) 2 a + effImm (cx s) m) 16 16 = some (bs, s')) :
    exec (.cont z a m) s
      = .next (continues s' s.sch.cur (cx s).life.part (.cont z a m) (BitVec.ofNat 64 (fieldAt bs 0 8)) (fieldAt bs 8 1)) := by
  change execCont z a m s = _
  rw [execCont, control_ready hready]
  exact congrArg _ ((withRead_of_rangeRead hread).2 _)

/-- The stream after a CONT that ends it or lets it go on (R182, R309). -/
theorem continues_stopped {s : State} {a : AgentId} {p : Nat} {i : Instr} {h : Word} {flags : Nat} (hlive : ¬ staleHandle s p h = true)
    (hstopped : (getCtx s (.seq (handleSeq h))).life.status = .stopped) (hdrain : (getCtx s (.seq (handleSeq h))).life.drain ≠ .exit) :
    (continues s a p i h flags).mem = s.mem ∧ (ctxKey (.seq (handleSeq h)) ≠ ctxKey a →
      (getCtx (continues s a p i h flags) (.seq (handleSeq h))).life.status = .running
        ∧ (getCtx (continues s a p i h flags) (.seq (handleSeq h))).life.drain
          = if bit flags 1 then .exit else (getCtx s (.seq (handleSeq h))).life.drain) := by
  have hother : ∀ t : State, ctxKey (.seq (handleSeq h)) ≠ ctxKey a →
      getCtx (retire t a i) (.seq (handleSeq h)) = getCtx t (.seq (handleSeq h)) := fun t hkey => getCtx_updCtx_other _ _ hkey
  rw [continues, if_neg hlive, if_neg (not_or.mpr ⟨not_not.mpr hstopped, hdrain⟩)]
  split
  · obtain ⟨hmem, -, -, -, hctx, -⟩ := forceEnd_spec s (handleSeq h)
    refine ⟨hmem, fun hkey => ?_⟩
    rw [hother _ hkey, hctx]
    exact ⟨rfl, rfl⟩
  · obtain ⟨hmem, hlife⟩ := resumeStream_spec s (handleSeq h) (bit flags 0)
    refine ⟨hmem, fun hkey => ?_⟩
    rw [hother _ hkey, hlife]
    exact ⟨rfl, rfl⟩

theorem continueStream_spec : continueStream := by
  intro s s' z a m bs hready hread
  dsimp only
  rw [exec_cont hready hread]
  generalize BitVec.ofNat 64 (fieldAt bs 0 8) = h
  split
  next hstale => rw [continues, if_pos hstale]
  next hlive =>
    split
    next hstop =>
      obtain ⟨hstopped, hdrain, hbank⟩ := hstop
      obtain ⟨hmem, hlife⟩ := continues_stopped (a := s.sch.cur) (i := .cont z a m) (flags := fieldAt bs 8 1) hlive hstopped hdrain
      refine ⟨_, rfl, hmem, fun hcore => hlife ?_⟩
      cases hcur : s.sch.cur with
      | bank core b =>
        rw [hcur] at hcore
        exact (ctxKey_seq_ne hcore _ _).symm
      | seq n =>
        rw [hcur] at hbank
        cases hbank
    next hgo =>
      intro hbank
      have hpast : (getCtx s' (.seq (handleSeq h))).life.status ≠ .stopped ∨ (getCtx s' (.seq (handleSeq h))).life.drain = .exit := by
        by_contra hcon
        obtain ⟨hstopped, hdrain⟩ := not_or.mp hcon
        exact hgo ⟨not_not.mp hstopped, hdrain, hbank⟩
      rw [continues, if_neg hlive, if_pos hpast]

end Sys2Proof.Machine
end

section

namespace Sys2Proof.Proofs

open Sys2Proof Sys2Proof.Machine Sys2Proof.Safety Sys2Proof.Claims

/-- Settles O47: a mailbox is part of its sequencer's state, which no check of a word reads, and a stream that goes on or is ended keeps all
of its life but its status and, when it is ended, what it waits for. -/
theorem mailboxesAndStreams : Obligations.MailboxesAndStreams := ⟨mailboxes_spec, continueStream_spec⟩

end Sys2Proof.Proofs
end

section

/-! # PREFL, FENCE, L2PIN and L2UNPIN (R122, R128, R129, R165, R170, R185, R330) -/

namespace Sys2Proof.Machine

open Sys2Proof.Safety Sys2Proof.Claims

/-! ### What the accesses of control cores leave, with error marks or without (R318) -/

/-- The schedule, the sequencers, the buffer, and of every core all but its data cache are as they were. -/
structure CtlKeeps (s t : State) : Prop where
  sch : t.sch = s.sch
  seqs : t.seqs = s.seqs
  buf : t.mem.buf = s.mem.buf
  core : ∀ n, { getCore t n with dcache := [] } = { getCore s n with dcache := [] }

namespace CtlKeeps

variable {s t u : State}

theorem refl (s : State) : CtlKeeps s s := ⟨rfl, rfl, rfl, fun _ => rfl⟩

theorem trans (h : CtlKeeps s t) (k : CtlKeeps t u) : CtlKeeps s u :=
  ⟨k.sch.trans h.sch, k.seqs.trans h.seqs, k.buf.trans h.buf, fun n => (k.core n).trans (h.core n)⟩

theorem of_cores (hs : t.sch = s.sch) (hq : t.seqs = s.seqs) (hb : t.mem.buf = s.mem.buf) (hc : t.cores = s.cores) : CtlKeeps s t :=
  ⟨hs, hq, hb, fun n => by simp only [getCore, hc]⟩

theorem of_access (h : AccessKeeps s t) (hb : t.mem.buf = s.mem.buf) : CtlKeeps s t :=
  .of_cores h.sch (congrArg State.seqs h.beside :) hb (congrArg State.cores h.beside :)

/-- A data cache changes. -/
theorem setDcache (h : CtlKeeps s t) (n : Nat) (d : KMap (List Byte)) : CtlKeeps s (setCore t n { getCore s n with dcache := d }) := by
  refine ⟨h.sch, h.seqs, h.buf, fun m => ?_⟩
  by_cases hm : m = n
  · rw [hm, getCore_setCore]
  · rw [getCore_setCore_other _ _ hm, h.core m]

theorem foldl {α : Type} {f : State → α → State} (hf : ∀ s x, CtlKeeps s (f s x)) (l : List α) (s : State) :
    CtlKeeps s (l.foldl f s) := by
  induction l generalizing s with
  | nil => exact .refl s
  | cons x r ih => exact (hf s x).trans (ih _)

end CtlKeeps

theorem keepsBytes_buf {s t : State} (h : keepsBytes s t) : t.mem.buf = s.mem.buf := by rw [h]

theorem l2Range_ctlKeeps (s : State) (part : Option Nat) (pa n m : Nat) (w pf : Bool) : CtlKeeps s (l2Range s part pa n m w pf) :=
  .of_access (l2Range_accessKeeps ..) (keepsBytes_buf (l2Range_keeps ..))

theorem ctlL2_ctlKeeps (s : State) (a : AgentId) (l : Loc) (n : Nat) (w : Bool) : CtlKeeps s (ctlL2 s a l n w) := by
  unfold ctlL2
  split
  · exact .refl s
  · dsimp only
    refine .trans ?_ (l2Range_ctlKeeps ..)
    split
    · exact .of_cores rfl rfl rfl rfl
    · exact .refl s

theorem dcFresh_ctlKeeps (s : State) (c pa n : Nat) : CtlKeeps s (dcFresh s c pa n) := by
  unfold dcFresh
  split
  · exact .refl s
  · exact .of_cores rfl rfl rfl rfl

theorem noteTook_ctlKeeps (s : State) (c pa n : Nat) : CtlKeeps s (noteTook s c pa n) := by
  unfold noteTook
  split
  · exact .refl s
  · exact .of_cores rfl rfl rfl rfl

theorem noteSaw_ctlKeeps (s : State) (key : Nat) (l : Loc) (n : Nat) : CtlKeeps s (noteSaw s key l n) := by
  unfold noteSaw
  split
  · exact .of_cores rfl rfl rfl rfl
  · exact .refl s

theorem noteSawHeld_ctlKeeps (s : State) (key : Nat) (l : Loc) (n : Nat) : CtlKeeps s (noteSawHeld s key l n) := by
  unfold noteSawHeld
  split
  · exact .of_cores rfl rfl rfl rfl
  · exact .refl s

theorem dcRenew_ctlKeeps (s : State) (key : Nat) (l : Loc) (n : Nat) : CtlKeeps s (dcRenew s key l n) := by
  unfold dcRenew
  dsimp only
  split
  · exact ((dcFresh_ctlKeeps ..).trans (noteTook_ctlKeeps ..)).setDcache _ _
  · exact .refl s

theorem updCache_ctlKeeps (s : State) (a : AgentId) (f : KMap (List Byte) → KMap (List Byte)) : CtlKeeps s (updCache s a f) :=
  (CtlKeeps.refl s).setDcache _ _

theorem dcFill_ctlKeeps (s : State) (a : AgentId) (l : Loc) : CtlKeeps s (dcFill s a l) := by
  unfold dcFill
  split
  · exact ((dcFresh_ctlKeeps ..).trans (noteTook_ctlKeeps ..)).trans (updCache_ctlKeeps ..)
  · exact .refl s

theorem dcParity_ctlKeeps (s : State) (a : AgentId) (l : Loc) : CtlKeeps s (dcParity s a l) := by
  unfold dcParity
  split
  · exact .refl s
  · dsimp only
    split
    · exact .refl s
    · refine .trans ?_ (updCache_ctlKeeps ..)
      exact .of_access (((AccessKeeps.refl s).withMem _).trans (countClass_accessKeeps _ _ _)) (by rw [countClass_mem])

theorem homeRead_ctlKeeps (s : State) (a : AgentId) (l : Loc) (n : Nat) : CtlKeeps s (homeRead s a l n) :=
  (dcRenew_ctlKeeps ..).trans (noteSaw_ctlKeeps ..)

theorem acquire_ctlKeeps (s : State) (a : AgentId) (scope : Nat) : CtlKeeps s (acquire s a scope) := by
  unfold acquire
  split
  · exact (updCache_ctlKeeps s a fun _ => []).trans (.of_cores rfl rfl rfl rfl)
  · exact .refl s

theorem writeS_ctlKeeps (s : State) (a : AgentId) (r : Nat) (x : Word) : CtlKeeps s (writeS s a r x) := .of_cores rfl rfl rfl rfl

theorem ctlStore_ctlKeeps (s : State) (a : AgentId) (l : Loc) (bs : List Byte) : CtlKeeps s (ctlStore s a l bs) := by
  have hbuf : (locWrite s l bs).mem.buf = s.mem.buf := by rw [locWrite_mem]
  exact ((CtlKeeps.of_access (locWrite_accessKeeps s l bs) hbuf).trans (ctlL2_ctlKeeps ..)).trans (dcRenew_ctlKeeps ..)

theorem ctlLoad_ctlKeeps (s : State) (a : AgentId) (l : Loc) (n : Nat) : CtlKeeps s (ctlLoad s a l n).2 := by
  have hp := dcParity_ctlKeeps s a l
  have hmiss := ((hp.trans (noteSaw_ctlKeeps _ (ctxKey a) l n)).trans (ctlL2_ctlKeeps _ a l n false)).trans (dcFill_ctlKeeps _ a l)
  unfold ctlLoad
  dsimp only
  split
  · split
    · exact hp.trans (noteSawHeld_ctlKeeps ..)
    · exact hmiss
  · exact hmiss

theorem ctlAtomic_ctlKeeps (s : State) (a : AgentId) (l : Loc) (amop : Bool) (x : Word) : CtlKeeps s (ctlAtomic s a l amop x) := by
  have hkeep : ∀ t, CtlKeeps t (keepPromo t l amop fun u => ctlStore u a l (leList 8 x.toNat)) := fun t => by
    unfold keepPromo
    split
    · exact (ctlStore_ctlKeeps ..).trans (.of_cores rfl rfl rfl rfl)
    · exact ctlStore_ctlKeeps ..
  exact ((noteSaw_ctlKeeps ..).trans (hkeep _)).trans (dcRenew_ctlKeeps ..)

theorem doAct_ctlKeeps (s : State) (a : AgentId) (l : Loc) (x : HeldAct) : CtlKeeps s (doAct s a l x) := by
  have hends : ∀ (acq : Bool) {t : State} (scope d : Nat) (old : Word), CtlKeeps s t →
      CtlKeeps s (writeS (if acq then acquireAt t a l scope else t) a d old) := fun acq t scope d old ht => by
    refine .trans ?_ (writeS_ctlKeeps ..)
    split
    · exact ht.trans (acquire_ctlKeeps ..)
    · exact ht
  cases x with
  | store bs => exact ctlStore_ctlKeeps ..
  | load d n signed => exact (ctlLoad_ctlKeeps s a l n).trans (writeS_ctlKeeps ..)
  | amo d op x scope acq amop => exact hends _ _ _ _ (ctlAtomic_ctlKeeps ..)
  | cas d old new scope acq amop =>
    refine hends _ _ _ _ ?_
    split
    · exact ctlAtomic_ctlKeeps ..
    · exact (ctlL2_ctlKeeps ..).trans (homeRead_ctlKeeps ..)
  | signal x => exact ctlAtomic_ctlKeeps ..

/-- Once its accesses are performed, a context has none in the buffer; sequencers, and cores but for data caches, are as they were. -/
theorem performOwn_spec (s : State) (a : AgentId) :
    (performOwn s a).sch = s.sch ∧ (performOwn s a).seqs = s.seqs ∧ (∀ x, x ∈ (performOwn s a).mem.buf → x.ctx ≠ ctxKey a)
      ∧ ∀ n, { getCore (performOwn s a) n with dcache := [] } = { getCore s n with dcache := [] } := by
  unfold performOwn
  split
  next hempty =>
    rw [List.isEmpty_iff.1 hempty]
    exact ⟨rfl, rfl, fun x hx => (List.not_mem_nil hx).elim, fun _ => rfl⟩
  next =>
    have hrest := CtlKeeps.foldl (f := performHeld) (fun t x => doAct_ctlKeeps t _ _ _) (s.mem.buf.filter fun x => x.ctx == ctxKey a)
      { s with mem := { s.mem with buf := s.mem.buf.filter fun x => !(x.ctx == ctxKey a) } }
    refine ⟨hrest.sch, hrest.seqs, fun x hx => ?_, hrest.core⟩
    dsimp only at hx
    rw [hrest.buf] at hx
    simpa using (List.mem_filter.1 hx).2

/-! ### PREFL -/

/-- A control word that changes caches alone, and goes on. -/
theorem retire_of_caches {s t : State} {i : Instr} (hi : engOf (rawOf i) = 0) (h : cachesAside t = cachesAside s) :
    retire t s.sch.cur i = setCtx t s.sch.cur { cx s with fr := pastFront s i } := by
  have hsch : t.sch = s.sch := (congrArg State.sch h :)
  have hcores : t.cores = s.cores := (congrArg State.cores h :)
  have hctx : getCtx t s.sch.cur = cx s := getCtx_congr (congrArg State.ctxs h :) _
  have hcur := retire_cur t i
  have hpast : pastFront t i = pastFront s i := pastFront_control hi (by rw [hsch]) (by rw [hctx]) fun n => by simp only [getCore, hcores]
  rwa [cx, hsch, hctx, hpast] at hcur

/-- Where no error mark stands, a prefetch changes caches alone. -/
theorem prefetchLine_cachesAside {s : State} (h : s.mem.errs = []) (a : AgentId) (va : Word) (hint : Nat) :
    cachesAside (prefetchLine s a va hint) = cachesAside s := by
  have hx := xlate_cachesAside h (coreTlb a) (getCtx s a).life.part (getCtx s a).life.asid va.toNat .read (!(getCtx s a).trap.smode)
  unfold prefetchLine
  dsimp only
  split
  next l t heq =>
    rw [heq] at hx
    split
    · have hmem : t.mem = s.mem := (congrArg State.mem hx :)
      exact (l2Access_l2Only (by rw [hmem, h]) ..).aside.trans hx
    · exact hx
  next heq =>
    rw [heq] at hx
    exact hx

theorem prefl_spec {s : State} {z : Bool} {h a : BitVec 5} {m : BitVec 11} (hready : ready s (.prefl z h a m) = true)
    (herrs : s.mem.errs = []) :
    ∃ t, exec (.prefl z h a m) s = .next t ∧ sameMemory s t ∧ onlyHere s t
      ∧ getCtx t s.sch.cur = { cx s with fr := pastFront s (.prefl z h a m) } := by
  have haside := prefetchLine_cachesAside herrs s.sch.cur (src (cx s) 2 a + effImm (cx s) m) (effReg (cx s) 1 h)
  have hframe : AccessFrame (ctxKey s.sch.cur) s _ := .of_caches herrs haside
  have hexec : exec (.prefl z h a m) s = .next (retire
      (prefetchLine s s.sch.cur (src (cx s) 2 a + effImm (cx s) m) (effReg (cx s) 1 h)) s.sch.cur (.prefl z h a m)) := by
    change execPrefl z h a m s = _
    rw [execPrefl, control_ready hready]
    rfl
  refine ⟨_, hexec, (congrArg State.mem haside :), hframe.onlyHere _, ?_⟩
  rw [retire_of_caches (engOf_rawOf_of_pack rfl (by simp only [pack]; omega)) haside, getCtx_setCtx]

/-! ### FENCE -/

/-- A core whose instruction cache is emptied by IF (R170). -/
def dropsIcache (s : State) (n : Nat) (f : Bool) : State := if f then setCore s n { getCore s n with icache := [] } else s

/-- What the end of a FENCE changes: the data cache, the instruction cache, and which AMOPs its context has seen. -/
theorem fenceEnd_spec (p : State) (core : Nat) (b f : Bool) (sc : Nat) :
    let t := dropsIcache (acquire p (.bank core b) sc) core f
    t.sch = p.sch ∧ t.mem = p.mem ∧ t.ctxs = p.ctxs ∧ (∀ n, (getCore t n).cstore = (getCore p n).cstore)
      ∧ (getCore t core).dcache = (if 1 ≤ sc then [] else (getCore p core).dcache)
      ∧ (getCore t core).icache = (if f then [] else (getCore p core).icache) := by
  have hdrop : ∀ u : State, (dropsIcache u core f).sch = u.sch ∧ (dropsIcache u core f).mem = u.mem
      ∧ (dropsIcache u core f).ctxs = u.ctxs ∧ (∀ n, (getCore (dropsIcache u core f) n).cstore = (getCore u n).cstore)
      ∧ (getCore (dropsIcache u core f) core).dcache = (getCore u core).dcache
      ∧ (getCore (dropsIcache u core f) core).icache = (if f then [] else (getCore u core).icache) := fun u => by
    cases f with
    | false => exact ⟨rfl, rfl, rfl, fun _ => rfl, rfl, rfl⟩
    | true =>
      refine ⟨rfl, rfl, rfl, fun n => ?_, ?_, ?_⟩
      · by_cases hn : n = core
        · rw [hn, dropsIcache, if_pos rfl, getCore_setCore]
        · rw [dropsIcache, if_pos rfl, getCore_setCore_other _ _ hn]
      · rw [dropsIcache, if_pos rfl, getCore_setCore]
      · rw [dropsIcache, if_pos rfl, getCore_setCore, if_pos rfl]
  obtain ⟨hsch, hmem, hctxs, hstore, hdcache, hicache⟩ := hdrop (acquire p (.bank core b) sc)
  obtain ⟨hctxs', hmem', -⟩ := acquire_frame p (.bank core b) sc
  have hkeeps := acquire_ctlKeeps p (.bank core b) sc
  have hicache' : (getCore (acquire p (.bank core b) sc) core).icache = (getCore p core).icache :=
    (congrArg Core.icache (hkeeps.core core) :)
  refine ⟨hsch.trans hkeeps.sch, hmem.trans hmem', hctxs.trans hctxs', fun n => (hstore n).trans (acquire_cstore ..), ?_, ?_⟩
  · rw [hdcache, acquire]
    split
    · exact congrArg Core.dcache (getCore_setCore ..)
    · rfl
  · rw [hicache, hicache']

theorem fence_spec {s : State} {z f : Bool} {sc : BitVec 3} {e : BitVec 6} {core : Nat} {b : Bool}
    (hready : ready s (.fence z f sc e) = true) (hcur : s.sch.cur = .bank core b) :
    let p := performOwn s s.sch.cur
    if drained (cx s).eng e.toNat then
      ∃ t, exec (.fence z f sc e) s = .next t ∧ sameMemory p t ∧ (∀ x, x ∈ t.mem.buf → x.ctx ≠ ctxKey s.sch.cur)
        ∧ getCtx t s.sch.cur = { cx p with fr := pastFront s (.fence z f sc e) }
        ∧ (getCore t core).dcache = (if 1 ≤ fenceScope p s.sch.cur sc.toNat then [] else (getCore p core).dcache)
        ∧ (getCore t core).icache = (if f then [] else (getCore s core).icache)
    else exec (.fence z f sc e) s = .next (stallAt s s.sch.cur .fence) := by
  have hexec : exec (.fence z f sc e) s = .next (if !drained (cx s).eng e.toNat then stallAt s s.sch.cur .fence
      else retire (dropsIcache (acquire (performOwn s s.sch.cur) s.sch.cur (fenceScope (performOwn s s.sch.cur) s.sch.cur sc.toNat))
        core f) s.sch.cur (.fence z f sc e)) := by
    change execFence z f sc e s = _
    rw [execFence, control_ready hready]
    simp only [hcur]
    rfl
  dsimp only
  split
  next hdrained =>
    rw [hdrained, Bool.not_true, if_neg Bool.false_ne_true] at hexec
    obtain ⟨hsch, -, hbuf, hcore⟩ := performOwn_spec s s.sch.cur
    have hfr : (getCtx (performOwn s s.sch.cur) s.sch.cur).fr = (cx s).fr := (performOwn_actKeeps s s.sch.cur).fr _
    have hstore : ∀ n, (getCore (performOwn s s.sch.cur) n).cstore = (getCore s n).cstore := fun n => (congrArg Core.cstore (hcore n) :)
    have hicache : (getCore (performOwn s s.sch.cur) core).icache = (getCore s core).icache := (congrArg Core.icache (hcore core) :)
    have hend := fenceEnd_spec (performOwn s s.sch.cur) core b f (fenceScope (performOwn s s.sch.cur) s.sch.cur sc.toNat)
    rw [← hcur] at hend
    dsimp only at hend
    generalize performOwn s s.sch.cur = p at *
    generalize dropsIcache (acquire p s.sch.cur (fenceScope p s.sch.cur sc.toNat)) core f = t at *
    obtain ⟨hsch', hmem', hctxs', hstore', hdcache', hicache'⟩ := hend
    have hctx : getCtx t s.sch.cur = getCtx p s.sch.cur := getCtx_congr hctxs' _
    have hpast : pastFront t (.fence z f sc e) = pastFront s (.fence z f sc e) :=
      pastFront_control (engOf_rawOf_of_pack rfl (by have hf := b2n_le_one f; simp only [pack]; omega)) (by rw [hsch', hsch])
        (by rw [hctx, hfr])
        fun n => (hstore' n).trans (hstore n)
    have hretire := retire_cur t (.fence z f sc e)
    rw [hpast, cx, hsch', hsch, hctx] at hretire
    refine ⟨_, hexec, hmem', fun x hx => hbuf x ?_, ?_, hdcache', hicache'.trans (by rw [hicache])⟩
    · rwa [retire_mem, hmem'] at hx
    · rw [hretire, getCtx_setCtx, cx, hsch]
  next hbusy =>
    rw [hexec, if_pos (by simpa using hbusy)]

theorem prefetchAndFence_spec : prefetchAndFence := ⟨fun _ _ _ _ _ => prefl_spec, fun _ _ _ _ _ _ _ => fence_spec⟩

end Sys2Proof.Machine
end

section

/-! # L2PIN and L2UNPIN (R128, R129, R185, R330) -/

namespace Sys2Proof.Machine

open Sys2Proof.Safety Sys2Proof.Claims

/-! ### Pins while addresses are translated -/

/-- A pin with its counts put aside (R129). -/
def pinPlace (p : Pin) : Pin := { p with hits := 0, ovfl := 0, lines := 0 }

/-- The pins are the same but for their counts. -/
def samePins (s t : State) : Prop := t.cache.pins.map pinPlace = s.cache.pins.map pinPlace

theorem samePins_of_eq {s t : State} (h : t.cache.pins = s.cache.pins) : samePins s t := by rw [samePins, h]

theorem samePins_trans {s t u : State} (h : samePins s t) (k : samePins t u) : samePins s u := Eq.trans k h

theorem samePins_getPin {s t : State} (h : samePins s t) (i : Nat) : pinPlace (getPin t i) = pinPlace (getPin s i) := by
  unfold getPin
  split
  next hi => simpa using congrArg (fun v : Vector Pin 16 => v[i]) h
  next => rfl

theorem samePins_setPin {s t : State} (h : samePins s t) (i : Nat) {p q : Pin} (hp : pinPlace q = pinPlace p) :
    samePins (setPin s i p) (setPin t i q) := by
  unfold samePins at h ⊢
  unfold setPin
  split
  · dsimp only
    rw [Vector.map_set, Vector.map_set, h, hp]
  · exact h

theorem countPin_samePins (s : State) (pa : Nat) (hit ovfl : Bool) : samePins s (countPin s pa hit ovfl) := by
  unfold countPin
  split
  · rfl
  next i _ =>
    split
    · unfold samePins
      dsimp only
      rw [Vector.map_set]
      exact Vector.ext fun j hj => by
        rw [Vector.getElem_set]
        split
        next heq =>
          subst heq
          rw [Vector.getElem_map]
          rfl
        · rfl
    · rfl

theorem l2Hit_pins (s : State) (part : Option Nat) (pa m : Nat) (w : Bool) : (l2Hit s part pa m w).cache.pins = s.cache.pins := by
  unfold l2Hit
  extract_lets key frames
  split
  · rfl
  · extract_lets clk cls l' fits
    split
    · rfl
    · split <;> rfl

theorem l2Install_samePins {s : State} (h : s.mem.errs = []) (part : Option Nat) (pa m : Nat) (d : Bool) :
    samePins s (l2Install s part pa m d) := by
  have hcorr : countCorr s .dram 0 (pa / 128 * 128) 128 = s := by simp [countCorr, countClass, h]
  unfold l2Install
  rw [dramFill_none h, hcorr]
  dsimp only
  split
  · rfl
  · split
    · rfl
    · exact countPin_samePins ..

theorem l2Access_samePins {s : State} (h : s.mem.errs = []) (part : Option Nat) (pa m : Nat) (w pf : Bool) :
    samePins s (l2Access s part pa m w pf) := by
  have herrors : l2Errors s pa = s := by simp [l2Errors, h]
  have hmoved : ∀ {t : State}, t.mem = s.mem ∧ samePins s t → samePins s (moveMarks s t) := fun {t} ht => by
    rw [moveMarks_none s (by rw [ht.1, h])]
    exact ht.2
  unfold l2Access
  rw [herrors]
  refine hmoved ?_
  split
  · split
    · exact ⟨l2Hit_mem .., samePins_of_eq (l2Hit_pins ..)⟩
    · exact ⟨by rw [l2Hit_mem, countPin_mem], samePins_trans (countPin_samePins ..) (samePins_of_eq (l2Hit_pins ..))⟩
  · exact ⟨l2Install_mem h .., l2Install_samePins h ..⟩

theorem walkL2_samePins {s : State} (h : s.mem.errs = []) (p : Nat) (reads : List Nat) : samePins s (walkL2 s p reads) := by
  unfold walkL2
  induction reads generalizing s with
  | nil => rfl
  | cons x r ih =>
    rw [List.foldl_cons]
    simp only [walkBad, locBad_none h]
    exact samePins_trans (l2Access_samePins h ..) (ih (by rw [l2Access_mem h, h]))

theorem xlate_samePins {s : State} (h : s.mem.errs = []) (cache p asid va : Nat) (kind : AccKind) (user : Bool) :
    samePins s (xlate s cache p asid va kind user).2 := by
  unfold xlate
  split
  · rfl
  · split
    · rfl
    · extract_lets w t c u d
      have hu : samePins s u := by
        refine samePins_trans (walkL2_samePins h p w.reads) (samePins_of_eq ?_)
        unfold u
        split <;> rfl
      split
      · exact hu
      · exact hu
      · extract_lets x
        clear_value x
        split
        · exact hu
        · dsimp only
          split
          · exact hu
          · exact samePins_trans hu (samePins_of_eq rfl)

theorem ctlCheck_samePins {s t : State} {a : AgentId} {va : Word} {n align : Nat} {kind : AccKind} {l : Loc} (h : s.mem.errs = [])
    (hok : ctlCheck s a va n align kind = .ok l t) : samePins s t := by
  have hx := xlate_samePins h (coreTlb a) (getCtx s a).life.part (getCtx s a).life.asid va.toNat kind (!(getCtx s a).trap.smode)
  unfold ctlCheck at hok
  dsimp only at hok
  split at hok
  · cases hok
  · split at hok
    · cases hok
    · split at hok
      · cases hok
      · split at hok
        · cases hok
        · cases hok
        · split at hok <;> cases hok
        next heq =>
          rw [heq] at hx
          split at hok
          · cases hok
          · cases hok
            exact hx

/-! ### What pins hold -/

theorem waysTaken_samePins {s t : State} (h : samePins s t) (i : Nat) (part : Option Nat) : waysTaken t i part = waysTaken s i part := by
  unfold waysTaken
  refine congrArg (fun l : List Nat => l.foldl (· + ·) 0) (List.map_congr_left fun j _ => ?_)
  have hpin := samePins_getPin h j
  have hact : (getPin t j).act = (getPin s j).act := (congrArg Pin.act hpin :)
  have hpart : (getPin t j).part = (getPin s j).part := (congrArg Pin.part hpin :)
  have hways : (getPin t j).ways = (getPin s j).ways := (congrArg Pin.ways hpin :)
  simp only [hact, hpart, hways]

theorem reservedWays_samePins {s t : State} (h : samePins s t) : reservedWays t = reservedWays s := by
  have hplace : ∀ u : State, reservedWays u
      = ((u.cache.pins.map pinPlace).toList.map fun p => if p.act then p.mask else []).flatten := fun u => by
    rw [reservedWays, Vector.toList_map, List.map_map]
    rfl
  rw [hplace, hplace, h]

theorem unpin_samePins {s t : State} (h : samePins s t) (i : Nat) : samePins (unpin s i) (unpin t i) := by
  have hpin := samePins_getPin h i
  have hact : (getPin t i).act = (getPin s i).act := (congrArg Pin.act hpin :)
  unfold unpin
  dsimp only
  rw [hact]
  split
  · exact samePins_setPin h i (congrArg (fun p : Pin => { p with act := false, mask := [] }) hpin)
  · exact h

theorem getPin_setPin_same (s : State) {i : Nat} (hi : i < 16) (p : Pin) : getPin (setPin s i p) i = p := by
  simp [getPin, setPin, hi]

theorem getPin_setPin_other (s : State) {i j : Nat} (h : j ≠ i) (p : Pin) : getPin (setPin s i p) j = getPin s j := by
  unfold getPin setPin
  split
  · split
    · exact Vector.getElem_set_ne ‹_› ‹_› (Ne.symm h)
    · rfl
  · rfl

theorem setPin_cachesAside (s : State) (i : Nat) (p : Pin) : cachesAside (setPin s i p) = cachesAside s := by
  unfold setPin
  split <;> rfl

/-- A pin that is given up changes caches alone, and no other pin (R128, R185). -/
theorem unpin_spec (s : State) {i : Nat} (hi : i < 16) :
    cachesAside (unpin s i) = cachesAside s ∧ (∀ j, j ≠ i → getPin (unpin s i) j = getPin s j)
      ∧ getPin (unpin s i) i = { getPin s i with
          act := false, mask := (getPin (unpin s i) i).mask
          lines := if (getPin s i).act then pinLines s i else (getPin s i).lines } := by
  unfold unpin
  dsimp only
  split
  next hact =>
    have hsame : getPin (markNormal (setPin s i { getPin s i with act := false, mask := [], lines := pinLines s i }) (getPin s i).mask) i
        = { getPin s i with act := false, mask := [], lines := pinLines s i } := getPin_setPin_same s hi _
    refine ⟨setPin_cachesAside .., fun j hj => getPin_setPin_other s hj _, ?_⟩
    rw [hsame]
  next hact =>
    have hoff : (getPin s i).act = false := by simpa using hact
    exact ⟨rfl, fun _ _ => rfl, by rw [← hoff]⟩

/-- A range that is pinned changes caches alone, and takes the highest ways that no pin holds (R128, R185). -/
theorem pinRange_spec {s : State} (h : s.mem.errs = []) {i : Nat} (hi : i < 16) (part base len n : Nat) :
    cachesAside (pinRange s i part base len n) = cachesAside s
      ∧ getPin (pinRange s i part base len n) i
        = ⟨true, base, len, n, part, 0, 0, 0, highestWays (reservedWays (unpin s i)) n⟩
      ∧ ∀ j, j ≠ i → getPin (pinRange s i part base len n) j = getPin s j := by
  obtain ⟨haside, hother, -⟩ := unpin_spec s hi
  have herrs : (unpin s i).mem.errs = [] := by
    rw [show (unpin s i).mem = s.mem from (congrArg State.mem haside :), h]
  unfold pinRange
  dsimp only
  rw [moveMarks_none _ (t := evictWays (unpin s i) (highestWays (reservedWays (unpin s i)) n)) herrs]
  refine ⟨(setPin_cachesAside ..).trans haside, getPin_setPin_same _ hi _, fun j hj => ?_⟩
  rw [getPin_setPin_other _ hj]
  exact hother j hj

/-! ### The words -/

theorem l2pin_spec {s s' : State} {z : Bool} {a b : BitVec 5} {r : BitVec 4} {w : BitVec 2} {l : Loc} {t : TlbEntry}
    (hready : ready s (.l2pin z a b r w) = true)
    (hlines : (src (cx s) 3 b).toNat % 128 = 0) (hsome : (src (cx s) 3 b).toNat ≠ 0)
    (herrs : s.mem.errs = []) (hok : ctlCheck s s.sch.cur (src (cx s) 2 a) 0 128 .touch = .ok l s') (htyp : l.typ = 0)
    (htlb : tlbFind s' (coreTlb s.sch.cur) (cx s).life.asid (src (cx s) 2 a).toNat = some t)
    (hfits : (src (cx s) 2 a).toNat + (src (cx s) 3 b).toNat ≤ t.base + t.size)
    (hgrant : bit (preg s (cx s).life.part 0x038).toNat r.toNat = true)
    (hdie : waysTaken s r.toNat none + (w.toNat + 1) ≤ 12)
    (hpart : waysTaken s r.toNat (some (cx s).life.part) + (w.toNat + 1) ≤ wbits (preg s (cx s).life.part 0x030) 3 0) :
    exec (.l2pin z a b r w) s = .next (setCtx (pinRange s' r.toNat (cx s).life.part l.pa (src (cx s) 3 b).toNat (w.toNat + 1)) s.sch.cur
      { cx s with fr := pastFront s (.l2pin z a b r w) }) := by
  have haside := ctlCheck_cachesAside herrs hok
  have hpins := ctlCheck_samePins herrs hok
  have hpreg : preg s' = preg s := preg_eq_of_parts (congrArg State.parts haside :)
  have herrs' : s'.mem.errs = [] := by rw [ctlCheck_mem herrs hok, herrs]
  obtain ⟨hpinned, -, -⟩ := pinRange_spec herrs' r.isLt (cx s).life.part l.pa (src (cx s) 3 b).toNat (w.toNat + 1)
  change execL2pin z a b r w s = _
  rw [execL2pin, control_ready hready]
  refine congrArg _ ((if_neg (not_or.mpr ⟨not_not.mpr hlines, hsome⟩)).trans ((withAccess_ok hok _).trans ?_))
  have htlb' : tlbFind s' (coreTlb s.sch.cur) (cx s).life.asid (getS (cx s) (effReg (cx s) 2 a)).toNat = some t := htlb
  dsimp only
  rw [htlb', hpreg, waysTaken_samePins hpins, waysTaken_samePins hpins, ← retire_of_caches ?_ (hpinned.trans haside)]
  · refine if_neg ?_
    have hfits' : (getS (cx s) (effReg (cx s) 2 a)).toNat + (getS (cx s) (effReg (cx s) 3 b)).toNat ≤ t.base + t.size := hfits
    simp only [hfits', htyp, hgrant, decide_true, Bool.not_true, ne_eq, not_true_eq_false, decide_false, Bool.or_false, Bool.false_or,
      Bool.or_eq_true, decide_eq_true_eq, not_or, Nat.not_lt]
    exact ⟨hdie, hpart⟩
  · exact engOf_rawOf_of_pack rfl (by simp only [pack]; omega)

theorem l2unpin_exec {s : State} {z : Bool} {r : BitVec 4} (hready : ready s (.l2unpin z r) = true) :
    exec (.l2unpin z r) s = .next (if bit (preg s (cx s).life.part 0x038).toNat r.toNat then
        setCtx (unpin s r.toNat) s.sch.cur { cx s with fr := pastFront s (.l2unpin z r) }
      else raiseCtl s s.sch.cur 6 0 0) := by
  obtain ⟨haside, -, -⟩ := unpin_spec s r.isLt
  change execL2unpin z r s = _
  rw [execL2unpin, control_ready hready, ← retire_of_caches (engOf_rawOf_of_pack rfl (by simp only [pack]; omega)) haside]
  cases bit (preg s (cx s).life.part 0x038).toNat r.toNat <;> rfl

theorem retentionWords_spec : retentionWords := by
  refine ⟨fun s s' z a b r w l t hready hlines hsome herrs hok htyp htlb hfits hgrant hdie hpart => ?_, fun s z r hready => ?_⟩
  · have herrs' : s'.mem.errs = [] := by rw [ctlCheck_mem herrs hok, herrs]
    obtain ⟨hpinned, hpin, hother⟩ := pinRange_spec herrs' r.isLt (cx s).life.part l.pa (src (cx s) 3 b).toNat (w.toNat + 1)
    refine ⟨_, l2pin_spec hready hlines hsome herrs hok htyp htlb hfits hgrant hdie hpart, ?_, ?_, hother, getCtx_setCtx ..⟩
    · have hmem : (pinRange s' r.toNat (cx s).life.part l.pa (src (cx s) 3 b).toNat (w.toNat + 1)).mem = s'.mem :=
        (congrArg State.mem hpinned :)
      exact hmem.trans (ctlCheck_mem herrs hok)
    · rw [← reservedWays_samePins (unpin_samePins (ctlCheck_samePins herrs hok) r.toNat)]
      exact hpin
  · obtain ⟨haside, hother, hpin⟩ := unpin_spec s r.isLt
    have hexec := l2unpin_exec hready
    split
    next hgrant =>
      rw [if_pos hgrant] at hexec
      exact ⟨_, hexec, (congrArg State.mem haside :), hpin, hother, getCtx_setCtx ..⟩
    next hgrant => rw [hexec, if_neg hgrant]

end Sys2Proof.Machine
end

section

namespace Sys2Proof.Proofs

open Sys2Proof Sys2Proof.Machine Sys2Proof.Safety Sys2Proof.Claims

/-- Settles O41: a FENCE leaves no access of its context in the buffer, and a translation changes of the pins only their counts. -/
theorem prefetchFenceAndRetentionWords : Obligations.PrefetchFenceAndRetentionWords := ⟨prefetchAndFence_spec, retentionWords_spec⟩

end Sys2Proof.Proofs
end

section

/-! # Accesses that are performed: stores, atomics, and those that waited (R122, R160, R164, R166 to R168, R175, R318) -/

namespace Sys2Proof.Machine

open Sys2Proof.Safety Sys2Proof.Claims

/-! ### Bytes written at a place -/

/-- Where no error mark stands, a write at a place, and what then keeps every byte, does what `wroteAt` says. -/
theorem wroteAt_locWrite {s t : State} {l : Loc} {bs : List Byte} (hc : memoriesCanonical s) (hk : keepsBytes (locWrite s l bs) t)
    (herrs : t.mem.errs = s.mem.errs) : wroteAt s t l bs := by
  obtain ⟨hdram, hhost, hpeer, -, -⟩ := hc
  have hmem : t.mem = { s.mem with
      dram := if l.typ = 0 then mwrite s.mem.dram l.pa bs else s.mem.dram
      host := if l.typ = 1 then mwrite s.mem.host l.pa bs else s.mem.host
      peer := if l.typ ≠ 0 ∧ l.typ ≠ 1 then mwrite s.mem.peer (peerKey l.peer l.pa) bs else s.mem.peer
      promo := t.mem.promo } := by
    rw [hk, locWrite_mem]
    dsimp only
    rw [herrs]
  unfold wroteAt
  dsimp only
  by_cases h0 : l.typ = 0
  · simp only [h0, if_true, not_true_eq_false, false_and, ne_eq, if_false, zero_ne_one] at hmem ⊢
    rw [hmem]
    exact ⟨writtenAt_mwrite hdram .., rfl⟩
  · by_cases h1 : l.typ = 1
    · simp only [h1, if_true, not_true_eq_false, and_false, ne_eq, if_false, one_ne_zero] at hmem ⊢
      rw [hmem]
      exact ⟨writtenAt_mwrite hhost .., rfl⟩
    · simp only [h0, h1, if_false, ne_eq, not_false_eq_true, and_self, if_true] at hmem ⊢
      rw [hmem]
      exact ⟨writtenAt_mwrite hpeer .., rfl⟩

/-- A write at a place reads the memories alone. -/
theorem locWrite_keeps_congr {s t : State} (h : t.mem = s.mem) (l : Loc) (bs : List Byte) :
    keepsBytes (locWrite s l bs) (locWrite t l bs) := by
  rw [keepsBytes, locWrite_mem t, locWrite_mem s, h]

/-! ### Stores and atomics -/

/-- A write of a control core keeps every byte but those it writes, and of every context all but counts of L2 accesses. -/
structure WritesAt (s t : State) (l : Loc) (bs : List Byte) : Prop where
  bytes : keepsBytes (locWrite s l bs) t
  ctx : ∀ a, withoutCounts (getCtx t a) = withoutCounts (getCtx s a)
  clean : t.mem.errs = []

namespace WritesAt

variable {s t u : State} {l : Loc} {bs : List Byte}

theorem reads (h : WritesAt s t l bs) (k : CoreReads t u) : WritesAt s u l bs :=
  ⟨keepsBytes_trans h.bytes (keepsBytes_of_eq k.mem), fun a => (k.ctx a).trans (h.ctx a), by rw [k.mem, h.clean]⟩

theorem wrote (h : WritesAt s t l bs) (hc : memoriesCanonical s) (herrs : s.mem.errs = []) : wroteAt s t l bs :=
  wroteAt_locWrite hc h.bytes (h.clean.trans herrs.symm)

theorem canonical (h : WritesAt s t l bs) (hc : memoriesCanonical s) : memoriesCanonical t :=
  memoriesCanonical_keeps h.bytes (memoriesCanonical_locWrite l bs hc)

end WritesAt

theorem ctlStore_writesAt {s : State} (h : s.mem.errs = []) (a : AgentId) (l : Loc) (bs : List Byte) : WritesAt s (ctlStore s a l bs) l bs := by
  have hclean : (locWrite s l bs).mem.errs = [] := (locWrite_accessFrame (k := 0) h l bs).clean
  have hwrite : WritesAt s (locWrite s l bs) l bs :=
    ⟨keepsBytes_of_eq rfl, fun b => by rw [getCtx_congr (locWrite_frame s l bs).1], hclean⟩
  have hl2 := hwrite.reads (ctlL2_homeReads hclean a l bs.length true).toCoreReads
  exact hl2.reads (dcRenew_homeReads hl2.clean ..).toCoreReads

theorem ctlAtomic_writesAt {s : State} (h : s.mem.errs = []) (a : AgentId) (l : Loc) (amop : Bool) (x : Word) :
    WritesAt s (ctlAtomic s a l amop x) l (leList 8 x.toNat) := by
  have hsaw := (noteSaw_homeReads s (ctxKey a) l 8).toCoreReads
  have hstore : WritesAt s (ctlStore (noteSaw s (ctxKey a) l 8) a l (leList 8 x.toNat)) l (leList 8 x.toNat) := by
    obtain ⟨hbytes, hctx, hclean⟩ := ctlStore_writesAt (by rw [hsaw.mem, h]) a l (leList 8 x.toNat)
    exact ⟨keepsBytes_trans (locWrite_keeps_congr hsaw.mem ..) hbytes, fun b => (hctx b).trans (hsaw.ctx b), hclean⟩
  have hkeep : WritesAt s (keepPromo (noteSaw s (ctxKey a) l 8) l amop fun t => ctlStore t a l (leList 8 x.toNat)) l (leList 8 x.toNat) := by
    unfold keepPromo
    split
    · exact ⟨keepsBytes_trans hstore.bytes rfl, hstore.ctx, hstore.clean⟩
    · exact hstore
  exact hkeep.reads (dcRenew_homeReads hkeep.clean ..).toCoreReads

theorem amoNew_eq (op : Nat) (old x : Word) : amoNew op old x = amoValue op old x := by
  unfold amoNew amoValue
  simp only [BitVec.lt_def]
  split
  all_goals simp_all

/-! ### The end of an atomic -/

/-- An atomic acquires when it is to, and then writes its register. -/
def atomicEnds (t : State) (a : AgentId) (l : Loc) (acq : Bool) (scope d : Nat) (old : Word) : State :=
  writeS (if acq then acquireAt t a l scope else t) a d old

theorem acquireAt_dcache (t : State) (a : AgentId) (l : Loc) {scope : Nat} (h : 1 ≤ scope) :
    (getCore (acquireAt t a l scope) (coreTlb a)).dcache = [] := by
  have hscope : 1 ≤ (if l.typ = 2 then 4 else if promoted t l then max 3 scope else scope) := by
    split
    · decide
    · split
      · exact Nat.le_trans (by decide) (Nat.le_max_left ..)
      · exact h
  rw [acquireAt, acquire, if_pos hscope]
  exact congrArg Core.dcache (getCore_setCore ..)

theorem atomicEnds_spec (t : State) (a : AgentId) (l : Loc) (acq : Bool) (scope d : Nat) (old : Word) :
    (atomicEnds t a l acq scope d old).mem = t.mem
      ∧ (∀ c, withoutCounts (getCtx t a) = withoutCounts c →
        withoutCounts (getCtx (atomicEnds t a l acq scope d old) a) = withoutCounts (setS c d old))
      ∧ (acq = true → 1 ≤ scope → (getCore (atomicEnds t a l acq scope d old) (coreTlb a)).dcache = []) := by
  have hacquire : CoreReads t (if acq then acquireAt t a l scope else t) := by
    split
    · exact acquireAt_coreReads ..
    · exact .refl t
  refine ⟨hacquire.mem, fun c hc => ?_, fun hacq hscope => ?_⟩
  · rw [atomicEnds, writeS, getCtx_updCtx]
    exact withoutCounts_setS ((hacquire.ctx a).trans hc) d old
  · rw [atomicEnds, if_pos hacq]
    exact acquireAt_dcache t a l hscope

/-! ### Every access -/

theorem doAct_amo (s : State) (a : AgentId) (l : Loc) (d op : Nat) (x : Word) (scope : Nat) (acq amop : Bool) :
    doAct s a l (.amo d op x scope acq amop)
      = atomicEnds (ctlAtomic s a l amop (amoNew op (homeWord s l) x)) a l acq scope d (homeWord s l) := rfl

theorem doAct_cas (s : State) (a : AgentId) (l : Loc) (d : Nat) (was new : Word) (scope : Nat) (acq amop : Bool) :
    doAct s a l (.cas d was new scope acq amop)
      = atomicEnds (if homeWord s l = was then ctlAtomic s a l amop new else sliceRead s a l) a l acq scope d (homeWord s l) := rfl

theorem wroteAt_congr {s t u : State} {l : Loc} {bs : List Byte} (h : u.mem = t.mem) (hw : wroteAt s t l bs) : wroteAt s u l bs := by
  unfold wroteAt at hw ⊢
  rwa [h]

/-- An atomic that has written its place, or a CAS that has left it, ends as `performed` says (R167). -/
theorem performed_cas {s t : State} {a : AgentId} {l : Loc} {d : Nat} {was new : Word} {scope : Nat} {acq amop : Bool}
    (hbytes : if homeWord s l = was then wroteAt s t l (leList 8 new.toNat) else sameMemory s t)
    (hkept : withoutCounts (getCtx t a) = withoutCounts (getCtx s a)) :
    performed s (atomicEnds t a l acq scope d (homeWord s l)) a l (.cas d was new scope acq amop) id := by
  obtain ⟨hmem, hctx, hdcache⟩ := atomicEnds_spec t a l acq scope d (homeWord s l)
  refine ⟨⟨?_, hctx _ hkept⟩, ?_⟩
  · change if homeWord s l = was then _ else _
    split at hbytes
    next heq =>
      rw [if_pos heq]
      exact wroteAt_congr hmem hbytes
    next hne =>
      rw [if_neg hne]
      exact hmem.trans hbytes
  · cases acq with
    | true => exact hdcache rfl
    | false => trivial

theorem performed_amo {s t : State} {a : AgentId} {l : Loc} {d op : Nat} {x : Word} {scope : Nat} {acq amop : Bool}
    (hbytes : wroteAt s t l (leList 8 (amoNew op (homeWord s l) x).toNat))
    (hkept : withoutCounts (getCtx t a) = withoutCounts (getCtx s a)) :
    performed s (atomicEnds t a l acq scope d (homeWord s l)) a l (.amo d op x scope acq amop) id := by
  obtain ⟨hmem, hctx, hdcache⟩ := atomicEnds_spec t a l acq scope d (homeWord s l)
  rw [amoNew_eq] at hbytes
  refine ⟨⟨wroteAt_congr hmem hbytes, hctx _ hkept⟩, ?_⟩
  cases acq with
  | true => exact hdcache rfl
  | false => trivial

/-- An access that is performed does what `performed` says. -/
theorem doAct_performed {s : State} (herrs : s.mem.errs = []) (hc : memoriesCanonical s) (a : AgentId) (l : Loc) (act : HeldAct) :
    performed s (doAct s a l act) a l act id := by
  cases act with
  | store bs =>
    have hwrite := ctlStore_writesAt herrs a l bs
    exact ⟨⟨hwrite.wrote hc herrs, hwrite.ctx a⟩, trivial⟩
  | load d n signed =>
    have hreads := ctlLoad_coreReads herrs a l n
    have hctx : withoutCounts (getCtx (doAct s a l (.load d n signed)) a)
        = withoutCounts (setS (getCtx s a) d (extended signed n (leVal (ctlLoad s a l n).1))) := by
      rw [doAct_load, writeS, getCtx_updCtx, loadExt_eq]
      exact withoutCounts_setS (hreads.ctx a) ..
    refine ⟨⟨hreads.mem, ?_⟩, trivial⟩
    obtain hhome | ⟨line, hline, hheld⟩ := ctlLoad_bytes herrs a l n
    · exact .inl (by rw [← hhome]; exact hctx)
    · exact .inr ⟨line, hline, by rw [← hheld]; exact hctx⟩
  | amo d op x scope acq amop =>
    have hwrite := ctlAtomic_writesAt herrs a l amop (amoNew op (homeWord s l) x)
    exact performed_amo (hwrite.wrote hc herrs) (hwrite.ctx a)
  | cas d was new scope acq amop =>
    rw [doAct_cas]
    by_cases heq : homeWord s l = was
    · have hwrite := ctlAtomic_writesAt herrs a l amop new
      rw [if_pos heq]
      exact performed_cas (by rw [if_pos heq]; exact hwrite.wrote hc herrs) (hwrite.ctx a)
    · have hread := (sliceRead_homeReads herrs a l).toCoreReads
      rw [if_neg heq]
      exact performed_cas (by rw [if_neg heq]; exact hread.mem) (hread.ctx a)
  | signal x =>
    have hwrite := ctlAtomic_writesAt herrs a l false (homeWord s l + x)
    exact ⟨⟨hwrite.wrote hc herrs, hwrite.ctx a⟩, trivial⟩

/-- It keeps the canonical form of the memories. -/
theorem doAct_canonical {s : State} (herrs : s.mem.errs = []) (hc : memoriesCanonical s) (a : AgentId) (l : Loc) (act : HeldAct) :
    memoriesCanonical (doAct s a l act) := by
  have hends : ∀ (t : State) (acq : Bool) (scope d : Nat) (old : Word), memoriesCanonical t →
      memoriesCanonical (atomicEnds t a l acq scope d old) := fun t acq scope d old => memoriesCanonical_congr (atomicEnds_spec ..).1
  cases act with
  | store bs => exact (ctlStore_writesAt herrs a l bs).canonical hc
  | load d n signed => exact memoriesCanonical_congr (ctlLoad_coreReads herrs a l n).mem hc
  | amo d op x scope acq amop => exact hends _ _ _ _ _ ((ctlAtomic_writesAt herrs ..).canonical hc)
  | cas d was new scope acq amop =>
    refine hends _ _ _ _ _ ?_
    split
    · exact (ctlAtomic_writesAt herrs ..).canonical hc
    · exact memoriesCanonical_congr (sliceRead_homeReads herrs a l).mem hc
  | signal x => exact (ctlAtomic_writesAt herrs ..).canonical hc

theorem performOwn_canonical {s : State} (herrs : s.mem.errs = []) (hc : memoriesCanonical s) (a : AgentId) :
    memoriesCanonical (performOwn s a) := by
  have hfold : ∀ (l : List HeldAccess) {t : State}, t.mem.errs = [] → memoriesCanonical t → memoriesCanonical (l.foldl performHeld t) := by
    intro l
    induction l with
    | nil => exact fun _ h => h
    | cons x r ih =>
      exact fun ht h => ih (doAct_accessFrame (k := ctxKey (keyAgent x.ctx)) ht rfl ..).clean (doAct_canonical ht h ..)
  unfold performOwn
  split
  · exact hc
  · exact hfold _ herrs hc

/-! ### The words -/

/-- A word whose access has been performed moves on. -/
theorem performed_retire {s v u : State} (hact : AccessFrame (ctxKey s.sch.cur) s u) {i : Instr} {l : Loc} {act : HeldAct}
    (h : performed v u s.sch.cur l act id) :
    performed v (retire u s.sch.cur i) s.sch.cur l act fun c => { c with fr := pastFront s i } := by
  have hctx : ∀ c, withoutCounts (getCtx u s.sch.cur) = withoutCounts c →
      withoutCounts (getCtx (retire u s.sch.cur i) s.sch.cur) = withoutCounts { c with fr := pastFront s i } := fun c hc => by
    rw [hact.retire, getCtx_setCtx]
    exact congrArg (fun c : Ctx => { c with fr := pastFront s i }) hc
  obtain ⟨hdone, hacquired⟩ := h
  refine ⟨?_, hacquired⟩
  cases act with
  | load d n signed =>
    obtain ⟨hmem, hhome | ⟨line, hline, hheld⟩⟩ := hdone
    · exact ⟨hmem, .inl (hctx _ hhome)⟩
    · exact ⟨hmem, .inr ⟨line, hline, hctx _ hheld⟩⟩
  | store bs => exact ⟨hdone.1, hctx _ hdone.2⟩
  | amo d op x scope acq amop => exact ⟨hdone.1, hctx _ hdone.2⟩
  | cas d was new scope acq amop => exact ⟨hdone.1, hctx _ hdone.2⟩
  | signal x => exact ⟨hdone.1, hctx _ hdone.2⟩

/-- A word that has passed the checks of its access runs as `accessRuns` says, whatever the access. -/
theorem accessRuns_of_exec {s s' : State} {i : Instr} {va : Word} {n align : Nat} {kind : AccKind} {l : Loc} {act : HeldAct}
    (hc : memoriesCanonical s) (herrs : s.mem.errs = []) (hok : ctlCheck s s.sch.cur va n align kind = .ok l s')
    (hexec : exec i s = .next (withAccess s s.sch.cur va n align kind fun t l => retire (ctlPost t s.sch.cur l act) s.sch.cur i)) :
    accessRuns s s' i l act := by
  have hmem := ctlCheck_mem herrs hok
  have hcanonical := performOwn_canonical (by rw [hmem, herrs]) (memoriesCanonical_congr hmem hc) s.sch.cur
  exact accessRuns_of_checked herrs hok hexec fun hown hact => performed_retire hact (doAct_performed hown.clean hcanonical ..)

theorem storeWords_spec : storeWords :=
  fun _ _ _ _ _ _ _ _ hready hstore hc herrs hok => accessRuns_of_exec hc herrs hok (exec_store_ready hready hstore)

/-! ### Accesses that waited -/

/-- An access of a context changes nothing of another. -/
theorem AccessFrame.elsewhere {s t : State} {a : AgentId} (h : AccessFrame (ctxKey a) s t) :
    Safety.elsewhere { t with cache := s.cache, mem := s.mem, cores := s.cores } a = Safety.elsewhere s a :=
  (congrArg (fun u : State => { u with cache := s.cache, mem := s.mem, cores := s.cores }) h.aside :)

theorem comesAfter_of_other {y x : HeldAccess} (h : x.ctx ≠ y.ctx) : comesAfter y x = false := by
  rw [comesAfter, beq_eq_false_iff_ne.2 h, Bool.false_and]

/-- Of one context only a load may go before an earlier access, a store of other bytes (R318, R323). -/
theorem comesAfter_of_same {y x : HeldAccess} (h : x.ctx = y.ctx)
    (hmeet : ¬ ((∃ bs, x.act = .store bs) ∧ (∃ d n z, y.act = .load d n z) ∧ accessesMeet x y = false)) : comesAfter y x = true := by
  rw [comesAfter, h, beq_self_eq_true, Bool.true_and]
  split
  next bs d n z hx hy =>
    by_contra hfree
    exact hmeet ⟨⟨bs, hx⟩, ⟨d, n, z, hy⟩, by simpa using hfree⟩
  · rfl

theorem performNth_first {u : State} {k : Nat} {x : HeldAccess} (hx : u.mem.buf[k]? = some x)
    (hfirst : ∀ y, y ∈ u.mem.buf.take k → y.ctx ≠ x.ctx) :
    performNth u k = performHeld { u with mem := { u.mem with buf := u.mem.buf.eraseIdx k } } x := by
  have hfree : (u.mem.buf.take k).any (comesAfter x) = false :=
    List.any_eq_false.2 fun y hy => by rw [comesAfter_of_other (hfirst y hy)]; exact Bool.false_ne_true
  rw [performNth, hx]
  dsimp only
  rw [hfree, if_neg Bool.false_ne_true]

theorem performNth_waits {u : State} {k : Nat} {x y : HeldAccess} (hx : u.mem.buf[k]? = some x) (hy : y ∈ u.mem.buf.take k)
    (hafter : comesAfter x y = true) : performNth u k = u := by
  rw [performNth, hx]
  dsimp only
  rw [List.any_eq_true.2 ⟨y, hy, hafter⟩, if_pos rfl]

theorem bufferedAccesses_spec : bufferedAccesses := by
  intro s k r x hagenda herrs hc hx
  dsimp only
  have hstep : step s = .next (performNth (advance { s with sch := { s.sch with agenda := r } }) k) := by
    rw [step, nextMove, hagenda]
  have hmem : (advance { s with sch := { s.sch with agenda := r } }).mem = s.mem := rfl
  rw [hstep]
  generalize advance { s with sch := { s.sch with agenda := r } } = u at hmem ⊢
  rw [← hmem] at herrs hx ⊢
  replace hc := memoriesCanonical_congr hmem hc
  refine ⟨fun hfirst => ?_, fun ⟨y, hy, hctx, hmeet⟩ => ?_⟩
  · rw [performNth_first hx hfirst]
    have hcanonical : memoriesCanonical { u with mem := { u.mem with buf := u.mem.buf.eraseIdx k } } := hc
    have hframe := doAct_accessFrame (a := keyAgent x.ctx) (s := { u with mem := { u.mem with buf := u.mem.buf.eraseIdx k } }) herrs rfl
      x.loc x.act
    exact ⟨_, rfl, doAct_performed (s := { u with mem := { u.mem with buf := u.mem.buf.eraseIdx k } }) herrs hcanonical ..,
      hframe.elsewhere⟩
  · rw [performNth_waits hx hy (comesAfter_of_same hctx hmeet)]

end Sys2Proof.Machine
end

section

namespace Sys2Proof.Proofs

open Sys2Proof Sys2Proof.Machine Sys2Proof.Safety Sys2Proof.Claims

/-- Settles O4: a store writes at its place, and what follows it changes caches and counts alone; a buffered access is performed in the same
way. -/
theorem stores : Obligations.Stores := ⟨storeWords_spec, bufferedAccesses_spec⟩

/-- Settles O5: the read and the write of an atomic are at its place, the acquire empties the data cache, and neither touches another
context. -/
theorem atomics : Obligations.Atomics := by
  unfold Obligations.Atomics
  exact fun s s' i a act l hready hatomic hc herrs hok => accessRuns_of_exec hc herrs hok (exec_atomic_ready hready hatomic)

end Sys2Proof.Proofs
end

section

/-! # Translations that agree, and entries of the trap ring (R350, R381 to R389) -/

namespace Sys2Proof.Machine

open Sys2Proof.Safety Sys2Proof.Claims

/-! ### What a translation reads -/

/-- What a translation looks at: memories, caches, and what permits an access. -/
structure SameSpace (s t : State) : Prop extends SameAccess s t where
  mem : t.mem = s.mem
  cache : t.cache = s.cache

theorem inDram_congr {s t : State} (h : SameAccess s t) : inDram t = inDram s := by
  have hdram1 : inDram1 t = inDram1 s := by
    funext p pa
    rw [inDram1, inDram1, preg_eq_of_parts h.parts]
  funext p pa len
  rw [inDram, inDram, hdram1]

theorem tableEntry_congr {s t : State} (h : SameSpace s t) : tableEntry t = tableEntry s := by
  funext table idx
  rw [tableEntry, tableEntry, h.mem]

theorem walkFind_congr {s t : State} (h : SameSpace s t) : walkFind t = walkFind s := by
  funext cache asid lvl pre
  rw [walkFind, walkFind, h.cache]

theorem walkFrom_congr {s t : State} (h : SameSpace s t) : walkFrom t = walkFrom s := by
  have hleaf : walkLeaf t = walkLeaf s := by
    funext table lvl idx e va
    rw [walkLeaf, walkLeaf, tableEntry_congr h]
  have htable : tableOk t = tableOk s := by
    funext p e
    rw [tableOk, tableOk, inDram_congr h.toSameAccess]
  funext cache p asid va lvls
  induction lvls with
  | nil => rfl
  | cons lvl rest ih =>
    funext table new rd
    simp only [walkFrom, walkFind_congr h, tableEntry_congr h, hleaf, htable, ih]

theorem walk_congr {s t : State} (h : SameSpace s t) : walk t = walk s := by
  have hroot : rootOk t = rootOk s := by
    funext p r
    rw [rootOk, rootOk, inDram_congr h.toSameAccess]
  have hbase : asidBase t = asidBase s := by
    funext p
    rw [asidBase, asidBase, preg_eq_of_parts h.parts]
  funext cache p asid va
  unfold walk
  rw [walkFind_congr h, walkFrom_congr h, tableEntry_congr h, hroot, hbase, preg_eq_of_parts h.parts]

/-- What a translation answers where no error mark stands (R381 to R389). -/
theorem xlate_answer {s : State} (h : s.mem.errs = []) (cache p asid va : Nat) (kind : AccKind) (user : Bool) :
    (xlate s cache p asid va kind user).1 =
      if 2 ^ 48 ≤ va || !asidOk s p asid then .forbid
      else match tlbFind s cache asid va with
        | some t => leafAccess s p kind user t.leaf t.base t.size va
        | none => match (walk s cache p asid va).walk with
          | .invalid => .invalid
          | .malformed => .forbid
          | .leaf e base size => leafAccess s p kind user e base size va := by
  unfold xlate
  rw [sureWalk_clean h]
  split
  · rfl
  · cases tlbFind s cache asid va with
    | some t => rfl
    | none =>
      extract_lets w t c u d
      have ht : cachesAside t = cachesAside s := (walkL2_l2Only h p w.reads).aside
      have hu : leafAccess u = leafAccess s := by
        refine leafAccess_congr (sameAccess_of_aside ?_)
        unfold u
        split
        · exact ht
        · exact ht
      dsimp only
      cases w.walk with
      | invalid => rfl
      | malformed => rfl
      | leaf e base size =>
        dsimp only
        rw [hu]
        cases leafAccess s p kind user e base size va <;> rfl

/-- Translations that look at the same answer the same. -/
theorem xlate_congr {s t : State} (h : SameSpace s t) (herrs : s.mem.errs = []) (cache p asid va : Nat) (kind : AccKind) (user : Bool) :
    (xlate t cache p asid va kind user).1 = (xlate s cache p asid va kind user).1 := by
  have hfind : tlbFind t = tlbFind s := by
    funext cache asid va
    rw [tlbFind, tlbFind, h.cache]
  rw [xlate_answer herrs, xlate_answer (by rw [h.mem, herrs]), asidOk_congr h.toSameAccess, hfind, walk_congr h, leafAccess_congr h.toSameAccess]

/-! ### Aligned records (R350) -/

/-- A record of 64 bytes at a multiple of 64 lies in one page. -/
theorem sysPieces_line (s : State) (cache p asid : Nat) {va : Nat} (kind : AccKind) (user : Bool) (h : va % 64 = 0) :
    sysPieces s cache p asid va kind user (pieceFuel 64) 64 =
      (match (xlate s cache p asid va kind user).1 with
        | .ok l => .ok [(l, 64)]
        | x => .error x, (xlate s cache p asid va kind user).2) := by
  have hn : min 64 (4096 - va % 4096) = 64 := by omega
  change sysPieces s cache p asid va kind user (1 + 1) 64 = _
  simp only [sysPieces, hn]
  obtain ⟨x, t⟩ := xlate s cache p asid va kind user
  cases x <;> rfl

/-- Where no error mark stands, the device writes such a record at its place, or, when the address does not translate, nothing (R389). -/
theorem devWrite_line {s : State} (h : s.mem.errs = []) (cache p asid : Nat) {va : Nat} {bs : List Byte} (hlen : bs.length = 64)
    (halign : va % 64 = 0) :
    match (xlate s cache p asid va .write false).1 with
    | .ok l => ∃ u, devWrite s cache p asid va bs false 0 = .ok u ∧ keepsBytes (locWrite s l bs) u ∧ u.mem.errs = []
    | _ => ∃ x u, devWrite s cache p asid va bs false 0 = .error (x, u) ∧ u.mem = s.mem := by
  have haside := xlate_cachesAside h cache p asid va .write false
  have hmem : (xlate s cache p asid va .write false).2.mem = s.mem := (congrArg State.mem haside :)
  unfold devWrite
  rw [hlen, sysPieces_line _ _ _ _ _ _ halign]
  generalize (xlate s cache p asid va .write false).2 = v at hmem ⊢
  cases (xlate s cache p asid va .write false).1 with
  | ok l =>
    have hclean : (locWrite v l bs).mem.errs = [] := (locWrite_accessFrame (k := 0) (by rw [hmem, h]) l bs).clean
    have hwrite : piecesWrite v [(l, 64)] bs = locWrite v l bs := by
      rw [piecesWrite, List.take_of_length_le (by rw [hlen])]
      rfl
    have hl2 : (l2Pieces (locWrite v l bs) (some p) 0 true [(l, 64)]).mem = (locWrite v l bs).mem := by
      simp only [l2Pieces, List.foldl_cons, List.foldl_nil]
      split
      · exact l2Range_mem hclean ..
      · rfl
    refine ⟨_, rfl, ?_, ?_⟩
    · rw [hwrite]
      exact keepsBytes_trans (locWrite_keeps_congr hmem l bs) (keepsBytes_of_eq hl2)
    · rw [hwrite]
      exact (congrArg Stores.errs hl2).trans hclean
  | invalid => exact ⟨_, _, rfl, hmem⟩
  | forbid => exact ⟨_, _, rfl, hmem⟩
  | silent l => exact ⟨_, _, rfl, hmem⟩

/-- What an entry of the trap ring does to memory: nothing when the ring is full, and else its bytes at their place, where that translates
(R350; log 22). -/
theorem appendTrapRing_bytes {s : State} (h : s.mem.errs = []) (hc : memoriesCanonical s) (p : Nat) {bs : List Byte} (hlen : bs.length = 64) :
    if ((preg s p 0x068).toNat + 2 ^ 32 - (preg s p 0x070).toNat) % 2 ^ 32 = 2 ^ wbits (preg s p 0x060) 4 0 then
      (appendTrapRing s p bs).mem = s.mem
    else ((preg s p 0x058).toNat + 64 * ((preg s p 0x068).toNat % 2 ^ wbits (preg s p 0x060) 4 0)) % 64 = 0 →
      match (xlate s sysTlb p (asidBase s p)
        ((preg s p 0x058).toNat + 64 * ((preg s p 0x068).toNat % 2 ^ wbits (preg s p 0x060) 4 0)) .write false).1 with
      | .ok l => wroteAt s (appendTrapRing s p bs) l bs
      | _ => (appendTrapRing s p bs).mem = s.mem := by
  unfold appendTrapRing
  extract_lets tail head size lost
  split
  · exact setPreg_mem ..
  · intro halign
    have hline := devWrite_line h sysTlb p (asidBase s p) hlen halign
    rw [← sysWrite] at hline
    split at hline
    next l hl =>
      obtain ⟨u, hu, hbytes, hclean⟩ := hline
      rw [hu]
      refine wroteAt_congr (t := u) ?_ (wroteAt_locWrite hc hbytes (hclean.trans h.symm))
      exact (raiseIrq_mem ..).trans (setPreg_mem ..)
    next =>
      obtain ⟨x, u, hu, hmem⟩ := hline
      rw [hu]
      have hlost : (lost u).mem = s.mem := (setPreg_mem ..).trans hmem
      exact hlost

end Sys2Proof.Machine
end

section

/-! # The environment calls (R188, R342, R348) -/

namespace Sys2Proof.Machine

open Sys2Proof.Safety Sys2Proof.Claims

/-- The request that ECALL and EBREAK make (R188, R342). -/
def callReq (c : Ctx) (cause : Nat) (det : Word) : TrapReq := ⟨cause, .control, 0, curPc c, c.fr.pc + 4, 0, det, false⟩

/-- The record of the trap in the trap ring (R348). -/
def callRecord (c : Ctx) (a : AgentId) (cause : Nat) (det : Word) : List Byte :=
  trapEntryBytes (c.fr.pc + 4) (curPc c) 0 det (tcauseOf c (callReq c cause det)) c.life a c.csr.scyc 0

theorem length_trapEntryBytes (tepc twpc tva tdet tcause : Word) (l : Life) (a : AgentId) (scyc : Word) (kind : Nat) :
    (trapEntryBytes tepc twpc tva tdet tcause l a scyc kind).length = 64 := by simp [trapEntryBytes]

theorem wbits_eq_bit (x : Word) (n : Nat) : (wbits x n n == 1) = bit x.toNat n := (bit_eq_bits x.toNat n).symm

theorem takeTrap_call {s : State} {a : AgentId} (h : (getCtx s a).trap.smode = false) (cause : Nat) (det : Word) :
    takeTrap s a (callReq (getCtx s a) cause det)
      = if bit (preg s (getCtx s a).life.part 0).toNat 8 then
          appendTrapRing (setCtx s a (trapTaken (getCtx s a) (callReq (getCtx s a) cause det))) (getCtx s a).life.part
            (callRecord (getCtx s a) a cause det)
        else setCtx s a (trapTaken (getCtx s a) (callReq (getCtx s a) cause det)) := by
  rw [← wbits_eq_bit]
  exact if_neg (by simp [h])

theorem trapTaken_call (c : Ctx) (cause : Nat) (det : Word) :
    trapTaken c (callReq c cause det) = trapped c ⟨cause, 0, false, curPc c, c.fr.pc + 4, 0, det, none⟩ := by
  simp [trapTaken, trapped, callReq, tcauseOf, b2n]

/-- The record holds what the trap leaves in the registers of the bank (R348). -/
theorem callRecord_eq (c : Ctx) (a : AgentId) (cause : Nat) (det : Word) :
    callRecord c a cause det
      = trapEntryBytes (trapTaken c (callReq c cause det)).trap.tepc (trapTaken c (callReq c cause det)).trap.twpc
          (trapTaken c (callReq c cause det)).trap.tva (trapTaken c (callReq c cause det)).trap.tdet
          (trapTaken c (callReq c cause det)).trap.tcause (trapTaken c (callReq c cause det)).life a
          (trapTaken c (callReq c cause det)).csr.scyc 0 := by
  unfold callRecord trapTaken callReq trapEntryBytes
  rfl

/-- A call of the environment is a trap whose return address is the word after it (R188). -/
theorem exec_call {s : State} {core : Nat} {b : Bool} (hcur : s.sch.cur = .bank core b) (z brk : Bool) (k : BitVec 11)
    (hready : ready s (if brk then .ebreak z k else .ecall z k) = true) :
    exec (if brk then .ebreak z k else .ecall z k) s
      = .next (takeTrap s s.sch.cur (callReq (cx s) (if brk then 0x0D else 0x0C) (BitVec.ofNat 64 (effNum (cx s) k)))) := by
  have hraise : ∀ cause det, raiseCall s s.sch.cur cause det = takeTrap s s.sch.cur (callReq (cx s) cause det) := fun cause det => by
    simp only [raiseCall, hcur, callReq, cx]
  cases brk with
  | true =>
    replace hready : ready s (.ebreak z k) = true := hready
    change execEbreak z k s = _
    rw [execEbreak, control_ready hready, hraise]
    rfl
  | false =>
    replace hready : ready s (.ecall z k) = true := hready
    change execEcall z k s = _
    rw [execEcall, control_ready hready, hraise]
    rfl

theorem sameSpace_setCtx (s : State) (a : AgentId) (c : Ctx) : SameSpace s (setCtx s a c) := ⟨⟨rfl, rfl, rfl⟩, rfl, rfl⟩

/-- What the trap of a call does to memory (R348, R350). -/
theorem takeTrap_call_bytes {s : State} {a : AgentId} (hmode : (getCtx s a).trap.smode = false) (cause : Nat) (det : Word)
    (hlog : bit (preg s (getCtx s a).life.part 0).toNat 8 = true) (hc : memoriesCanonical s) (herrs : s.mem.errs = []) :
    let p := (getCtx s a).life.part
    let tail := (preg s p 0x068).toNat
    let size := 2 ^ wbits (preg s p 0x060) 4 0
    let slot := (preg s p 0x058).toNat + 64 * (tail % size)
    let t := takeTrap s a (callReq (getCtx s a) cause det)
    if (tail + 2 ^ 32 - (preg s p 0x070).toNat) % 2 ^ 32 = size then t.mem = s.mem
    else slot % 64 = 0 → match (xlate s sysTlb p (asidBase s p) slot .write false).1 with
      | .ok l => wroteAt s t l (callRecord (getCtx s a) a cause det)
      | _ => t.mem = s.mem := by
  have hspace := sameSpace_setCtx s a (trapTaken (getCtx s a) (callReq (getCtx s a) cause det))
  have hbytes := appendTrapRing_bytes (s := setCtx s a (trapTaken (getCtx s a) (callReq (getCtx s a) cause det))) herrs hc
    (getCtx s a).life.part (bs := callRecord (getCtx s a) a cause det) (length_trapEntryBytes ..)
  rw [xlate_congr hspace herrs] at hbytes
  dsimp only
  rw [takeTrap_call hmode, if_pos hlog]
  exact hbytes

end Sys2Proof.Machine
end

section

namespace Sys2Proof.Proofs

open Sys2Proof Sys2Proof.Machine Sys2Proof.Safety Sys2Proof.Claims

/-- Settles O9: the entry of the trap ring goes through a translation that looks at no context, so the trap does not change where it lands. -/
theorem environmentCalls : Obligations.EnvironmentCalls := by
  unfold Obligations.EnvironmentCalls
  intro s core b z brk k i hcur hready hmode
  have hctx := getCtx_takeTrap hmode (callReq (cx s) (if brk then 0x0D else 0x0C) (BitVec.ofNat 64 (effNum (cx s) k)))
  rw [← cx, trapTaken_call] at hctx
  refine ⟨_, exec_call hcur z brk k hready, hctx, fun hlog => ?_, fun hlog hc herrs => ?_⟩
  · have htrap := takeTrap_call hmode (if brk then 0x0D else 0x0C) (BitVec.ofNat 64 (effNum (cx s) k))
    rw [← cx, hlog, if_neg Bool.false_ne_true] at htrap
    rw [htrap, setCtx_mem]
  · have hbytes := takeTrap_call_bytes hmode (if brk then 0x0D else 0x0C) (BitVec.ofNat 64 (effNum (cx s) k)) hlog hc herrs
    rw [callRecord_eq, ← cx, trapTaken_call, ← hctx] at hbytes
    exact hbytes

end Sys2Proof.Proofs
end

section

/-! # Streams that stop and end, peer requests, silence and lane failures (R181, R306 to R308, R428 to R431) -/

namespace Sys2Proof.Machine

open Sys2Proof.Safety Sys2Proof.Claims

/-! ### Messages of the hardware (R308) -/

/-- The state in which a message of the hardware has reached the mailbox towards the bank. -/
def delivered (s : State) (n : Nat) (x : Word) : State := appendUp (setSeq s n { getSeq s n with pendMsg := [] }) n x

theorem delivered_spec (s : State) (n : Nat) (x : Word) :
    (delivered s n x).mem = s.mem
      ∧ getSeq (delivered s n x) n = { getSeq s n with pendMsg := [], up := (getSeq s n).up ++ [x] }
      ∧ ∀ a, engAside (getCtx (delivered s n x) a) = engAside (getCtx s a) := by
  obtain ⟨hmem, hseq, hctx⟩ := appendUp_spec (setSeq s n { getSeq s n with pendMsg := [] }) n x
  rw [getSeq_setSeq] at hseq
  exact ⟨hmem, hseq, hctx⟩

/-- A mailbox with room takes a message of the hardware at once; an EXIT message frees the sequencer. -/
theorem hardMsg_room {s : State} {n : Nat} (hpend : (getSeq s n).pendMsg = []) (hroom : (getSeq s n).up.length < 8) (x : Word) :
    hardMsg s n x = if isExitMsg x then
        setCtx (setSeq (delivered s n x) n { getSeq (delivered s n x) n with down := [] }) (.seq n) Ctx.reset
      else delivered s n x := by
  have hput : ∀ q r, setSeq (setSeq s n q) n r = setSeq s n r := fun q r => by simp only [setSeq, kput_kput]
  unfold hardMsg deliverUp
  dsimp only
  rw [getSeq_setSeq, hpend]
  dsimp only [List.nil_append]
  rw [if_pos hroom, hput]
  rfl

/-! ### Streams that stop -/

/-- An access of the device leaves the sequencers. -/
theorem AccessKeeps.seqs {s t : State} (h : AccessKeeps s t) : t.seqs = s.seqs := (congrArg State.seqs h.beside :)

theorem appendTrapRing_seqs (s : State) (p : Nat) (rcd : List Byte) : (appendTrapRing s p rcd).seqs = s.seqs := by
  unfold appendTrapRing
  extract_lets tail head size lost
  split
  · exact setPreg_seqs ..
  · split
    next h => exact (setPreg_seqs ..).trans (devWrite_error_accessKeeps h).seqs
    next h => exact ((raiseIrq_accessKeeps ..).seqs.trans (setPreg_seqs ..)).trans (devWrite_accessKeeps h).seqs

/-- The STOP message (R308). -/
def stopMsg (n cause : Nat) (pc : Word) (recorded : Bool) : Word :=
  BitVec.ofNat 64 (2 ^ 63 + 2 ^ 60 + cause * 2 ^ 52 + n % 4 * 2 ^ 50 + n / 4 * 2 ^ 47 + b2n recorded * 2 ^ 46 + wbits pc 47 2)

/-- A stream that has stopped, its message not yet sent (R307). -/
def stopped (s : State) (n cause : Nat) (pc : Word) : State :=
  updCtx (setSeq s n { getSeq s n with stopPc := pc, stopCause := cause }) (.seq n) fun c =>
    { c with life := { c.life with status := .stopped, drain := .none }, fr := { c.fr with stall := .none, abort := none } }

/-- A stop performs the accesses that wait, writes its record and its entry of the trap ring, and sends its message (R307, R308). -/
theorem stopStream_eq (s : State) (n cause : Nat) (pc va det : Word) (chan bank col : Nat) :
    ∃ v recorded, v.seqs = s.seqs ∧ stopStream s n cause pc va det chan bank col
      = hardMsg (stopped v n cause pc) n (stopMsg n cause pc recorded) := by
  have hown := (performOwn_spec s (.seq n)).2.1
  unfold stopStream
  extract_lets a u c rcd addr
  have hrecord : (if addr = 0 then (u, false) else
      match devWrite u (coreTlb a) c.life.part c.life.asid addr rcd true 0 with
      | .ok t => (t, true)
      | .error (_, t) => (t, false)).1.seqs = s.seqs := by
    split
    · exact hown
    · split
      next h => exact (devWrite_accessKeeps h).seqs.trans hown
      next h => exact (devWrite_error_accessKeeps h).seqs.trans hown
  generalize (if addr = 0 then (u, false) else
      match devWrite u (coreTlb a) c.life.part c.life.asid addr rcd true 0 with
      | .ok t => (t, true)
      | .error (_, t) => (t, false)) = x at hrecord
  exact ⟨appendTrapRing x.1 c.life.part (rcd ++ leList 31 0 ++ leList 1 2), x.2, (appendTrapRing_seqs ..).trans hrecord, rfl⟩

theorem stopMsg_fields {n cause : Nat} (hn : n < 32) (hcause : cause < 256) (pc : Word) (recorded : Bool) :
    wbits (stopMsg n cause pc recorded) 63 52 = 2304 + cause ∧ isExitMsg (stopMsg n cause pc recorded) = false := by
  have hrec := b2n_le_one recorded
  have hpc : wbits pc 47 2 < 2 ^ 46 := Nat.mod_lt _ (by decide)
  obtain ⟨r, hr, hval⟩ : ∃ r, r < 2 ^ 52 ∧ (stopMsg n cause pc recorded).toNat = (2304 + cause) * 2 ^ 52 + r := by
    refine ⟨n % 4 * 2 ^ 50 + n / 4 * 2 ^ 47 + b2n recorded * 2 ^ 46 + wbits pc 47 2, by omega, ?_⟩
    rw [stopMsg, BitVec.toNat_ofNat, Nat.mod_eq_of_lt (by omega)]
    omega
  have hkind : bits (stopMsg n cause pc recorded).toNat 62 60 = 1 := by
    rw [hval, bits]
    omega
  refine ⟨?_, ?_⟩
  · rw [wbits, hval, bits]
    omega
  · rw [isExitMsg, hkind]
    exact Bool.and_false _

/-- A stream that runs and has room in its mailbox stops with its STOP message (R181, R307, R308). -/
theorem stopStream_spec {s : State} {n cause : Nat} (hn : n < 32) (hcause : cause < 256) (hpend : (getSeq s n).pendMsg = [])
    (hroom : (getSeq s n).up.length < 8) {pc va det : Word} {chan bank col : Nat} {t : State}
    (ht : t = stopStream s n cause pc va det chan bank col) :
    (getCtx t (.seq n)).life.status = .stopped ∧ (getSeq t n).stopCause = cause ∧ (getSeq t n).stopPc = pc
      ∧ ∃ m, (getSeq t n).up = (getSeq s n).up ++ [m] ∧ wbits m 63 52 = 2304 + cause := by
  obtain ⟨v, recorded, hseqs, hstop⟩ := stopStream_eq s n cause pc va det chan bank col
  obtain ⟨hfield, hexit⟩ := stopMsg_fields hn hcause pc recorded
  have hv : getSeq v n = getSeq s n := by rw [getSeq, getSeq, hseqs]
  have hq : getSeq (stopped v n cause pc) n = { getSeq s n with stopPc := pc, stopCause := cause } := by
    rw [← hv]
    exact getSeq_setSeq ..
  have hstatus : (getCtx (stopped v n cause pc) (.seq n)).life.status = .stopped := by rw [stopped, getCtx_updCtx]
  obtain ⟨-, hseq, hctx⟩ := delivered_spec (stopped v n cause pc) n (stopMsg n cause pc recorded)
  rw [ht, hstop, hardMsg_room (by rw [hq]; exact hpend) (by rw [hq]; exact hroom), hexit, if_neg Bool.false_ne_true, hseq, hq]
  exact ⟨(congrArg (fun c : Ctx => c.life.status) (hctx (.seq n)) :).trans hstatus, rfl, rfl, _, rfl, hfield⟩

/-- An uncorrectable error stops its stream with cause 0x0E (R307, R438). -/
theorem stopMem_spec {s : State} {n : Nat} (hn : n < 32) (hpend : (getSeq s n).pendMsg = []) (hroom : (getSeq s n).up.length < 8)
    (va : Word) (pa : Nat) :
    (getCtx (stopMem s n va pa) (.seq n)).life.status = .stopped ∧ (getSeq (stopMem s n va pa) n).stopCause = 0x0E
      ∧ (getSeq (stopMem s n va pa) n).stopPc = curPc (getCtx s (.seq n))
      ∧ ∃ m, (getSeq (stopMem s n va pa) n).up = (getSeq s n).up ++ [m] ∧ wbits m 63 52 = 0x90E :=
  stopStream_spec hn (by decide) hpend hroom rfl

/-! ### Streams that end -/

/-- A word that runs on after its context keeps its memory, the sequencers and the registers of every context (R307). -/
theorem detachWords_frame (a : AgentId) (s : State) (e : Engine) :
    (detachWords a s e).mem = s.mem ∧ (detachWords a s e).seqs = s.seqs ∧ ∀ b, (getCtx (detachWords a s e) b).arch = (getCtx s b).arch := by
  have hfold : ∀ (o : Flight → Op) (l : List Flight) (u : State), (l.foldl (fun t x => (addOp t (o x)).2) u).seqs = u.seqs
      ∧ (l.foldl (fun t x => (addOp t (o x)).2) u).ctxs = u.ctxs := fun o l => by
    induction l with
    | nil => exact fun _ => ⟨rfl, rfl⟩
    | cons x r ih => exact fun u => ⟨(ih _).1.trans rfl, (ih _).2.trans rfl⟩
  have hctx : ∀ (t : State) (f : Ctx → Engines), t.ctxs = s.ctxs → ∀ b,
      (getCtx (updCtx t a fun c => { c with eng := f c }) b).arch = (getCtx s b).arch := fun t f ht b => by
    by_cases hb : ctxKey b = ctxKey a
    · rw [getCtx_of_key _ hb, getCtx_updCtx, getCtx_congr ht, getCtx_of_key s hb]
    · rw [getCtx_updCtx_other _ _ hb, getCtx_congr ht]
  refine ⟨detachWords_mem .., ?_, ?_⟩
  · unfold detachWords
    dsimp only
    split
    · exact (hfold _ _ s).1
    · exact (hfold _ _ s).1
  · unfold detachWords
    dsimp only
    split
    · exact hctx _ _ (hfold _ _ s).2
    · exact fun b => by rw [getCtx_congr (hfold _ _ s).2]

/-- The engines of a stream give up the words that run on after it. -/
theorem detachAll_frame (a : AgentId) (l : List Engine) (s : State) :
    (l.foldl (detachWords a) s).mem = s.mem ∧ (l.foldl (detachWords a) s).seqs = s.seqs
      ∧ ∀ b, (getCtx (l.foldl (detachWords a) s) b).arch = (getCtx s b).arch := by
  induction l generalizing s with
  | nil => exact ⟨rfl, rfl, fun _ => rfl⟩
  | cons e r ih =>
    obtain ⟨hmem, hseqs, hctx⟩ := detachWords_frame a s e
    obtain ⟨hmem', hseqs', hctx'⟩ := ih (detachWords a s e)
    exact ⟨hmem'.trans hmem, hseqs'.trans hseqs, fun b => (hctx' b).trans (hctx b)⟩

/-- An EXIT message has bits 62:60 clear (R308). -/
theorem isExitMsg_exit {x : Nat} (h : x < 2 ^ 60) : isExitMsg (BitVec.ofNat 64 (2 ^ 63 + x)) = true := by
  have hval : (BitVec.ofNat 64 (2 ^ 63 + x)).toNat = 2 ^ 63 + x := by
    rw [BitVec.toNat_ofNat]
    omega
  have htop : bit (2 ^ 63 + x) 63 = true := by
    rw [bit, beq_iff_eq]
    omega
  have hkind : bits (2 ^ 63 + x) 62 60 = 0 := by
    rw [bits]
    omega
  rw [isExitMsg, hval, htop, hkind]
  rfl

/-- A stream that ends and has room in its mailbox frees its sequencer (R307, R308). -/
theorem endStream_spec {s : State} {n : Nat} (hpend : (getSeq s n).pendMsg = []) (hroom : (getSeq s n).up.length < 8) :
    getCtx (endStream s n) (.seq n) = Ctx.reset ∧ (getSeq (endStream s n) n).down = []
      ∧ (getSeq (endStream s n) n).up = (getSeq s n).up ++ [BitVec.ofNat 64 (2 ^ 63
          + (if (getSeq s n).forced then 2 ^ 59 else wbits (getS (getCtx (performOwn s (.seq n)) (.seq n)) 10) 58 0))]
      ∧ (endStream s n).mem = (performOwn s (.seq n)).mem := by
  obtain ⟨-, hown, -⟩ := performOwn_spec s (.seq n)
  obtain ⟨hmem, hseqs, harch⟩ := detachAll_frame (.seq n) allEngines (performOwn s (.seq n))
  have hs10 : getS (getCtx (allEngines.foldl (detachWords (.seq n)) (performOwn s (.seq n))) (.seq n)) 10
      = getS (getCtx (performOwn s (.seq n)) (.seq n)) 10 := by rw [getS, getS, harch]
  unfold endStream
  dsimp only
  rw [hs10]
  generalize allEngines.foldl (detachWords (.seq n)) (performOwn s (.seq n)) = v at hmem hseqs ⊢
  have hv : getSeq v n = getSeq s n := by rw [getSeq, getSeq, hseqs, hown]
  have hmsg : (if (getSeq s n).forced then 2 ^ 59 else wbits (getS (getCtx (performOwn s (.seq n)) (.seq n)) 10) 58 0) < 2 ^ 60 := by
    split
    · decide
    · exact (Nat.mod_lt _ (by decide)).trans (by decide)
  rw [hv]
  generalize (if (getSeq s n).forced then 2 ^ 59 else wbits (getS (getCtx (performOwn s (.seq n)) (.seq n)) 10) 58 0) = x at hmsg ⊢
  have hq : getSeq (updCtx v (.seq n) fun c => { c with life := { c.life with status := .stopped, drain := .exit } }) n = getSeq s n := hv
  rw [hardMsg_room (by rw [hq]; exact hpend) (by rw [hq]; exact hroom), isExitMsg_exit hmsg, if_pos rfl]
  obtain ⟨hmem', hseq', -⟩ := delivered_spec (updCtx v (.seq n) fun c => { c with life := { c.life with status := .stopped, drain := .exit } })
    n (BitVec.ofNat 64 (2 ^ 63 + x))
  rw [hq] at hseq'
  refine ⟨getCtx_setCtx .., congrArg SeqSt.down (getSeq_setSeq ..), (congrArg SeqSt.up (getSeq_setSeq ..)).trans ?_, hmem'.trans hmem⟩
  dsimp only
  rw [hseq']

/-! ### Requests of peers -/

theorem wakeDevice_sameSpace (s : State) : SameSpace s (wakeDevice s) := by
  unfold wakeDevice
  split <;> exact ⟨⟨rfl, rfl, rfl⟩, rfl, rfl⟩

theorem inboundPart_congr {s t : State} (h : SameSpace s t) (herrs : s.mem.errs = []) (r : PeerReq) : inboundPart t r = inboundPart s r := by
  have hpreg := preg_eq_of_parts h.parts
  have hring : ringPage t = ringPage s := by
    funext p pa
    simp only [ringPage, asidBase, hpreg, xlate_congr h herrs]
  have hsched : schedPage t = schedPage s := by
    funext p pa
    rw [schedPage, schedPage, getPart_eq_of_parts h.parts]
  unfold inboundPart peerWindow partOn
  rw [hpreg, hring, hsched]

/-- The place in DRAM of a peer's request (R431). -/
def dramLoc (pa : Nat) : Loc := ⟨0, 0, pa, false⟩

theorem locRead_dramLoc (s : State) (pa n : Nat) : locRead s (dramLoc pa) n = mread s.mem.dram pa n := rfl

theorem inboundRead_clean {s : State} (h : s.mem.errs = []) (p pa n : Nat) (go : State → List Byte → State) :
    inboundRead s p pa n go = go s (mread s.mem.dram pa n) := by
  unfold inboundRead
  dsimp only
  rw [locBad_none h]
  rfl

theorem inboundWrite_bytes {s : State} (h : s.mem.errs = []) (hc : memoriesCanonical s) (p pa : Nat) (bs : List Byte) :
    writtenAt s.mem.dram (inboundWrite s p pa bs).mem.dram pa bs := by
  have hclean : (locWrite s (dramLoc pa) bs).mem.errs = [] := (locWrite_accessFrame (k := 0) h (dramLoc pa) bs).clean
  have hmem : (inboundWrite s p pa bs).mem = (locWrite s (dramLoc pa) bs).mem := l2Range_mem hclean ..
  have hdram : (inboundWrite s p pa bs).mem.dram = mwrite s.mem.dram pa bs := by
    rw [hmem, locWrite_mem]
    rfl
  rw [hdram]
  exact writtenAt_mwrite hc.1 ..

theorem keepPromo_dram (s : State) (l : Loc) (amop : Bool) (write : State → State) :
    (keepPromo s l amop write).mem.dram = (write s).mem.dram := by
  unfold keepPromo
  split <;> rfl

/-- A peer's request that is permitted is performed at its address (R431). -/
theorem inbound_spec {s : State} (h : s.mem.errs = []) (hc : memoriesCanonical s) (p : Nat) (r : PeerReq) :
    match r.acc with
    | .read n => (inbound s p r).reply = .data (mread s.mem.dram r.pa n) ∧ (inbound s p r).mem = s.mem
    | .write d => (inbound s p r).reply = .data [] ∧ writtenAt s.mem.dram (inbound s p r).mem.dram r.pa d
    | .amo op x _ => (inbound s p r).reply = .data (mread s.mem.dram r.pa 8)
        ∧ writtenAt s.mem.dram (inbound s p r).mem.dram r.pa
          (leList 8 (amoNew op.toNat (BitVec.ofNat 64 (leVal (mread s.mem.dram r.pa 8))) x).toNat)
    | .cas e x _ => (inbound s p r).reply = .data (mread s.mem.dram r.pa 8)
        ∧ if leVal (mread s.mem.dram r.pa 8) = e.toNat then writtenAt s.mem.dram (inbound s p r).mem.dram r.pa (leList 8 x.toNat)
          else (inbound s p r).mem = s.mem := by
  obtain ⟨src, pa, acc⟩ := r
  cases acc with
  | read n =>
    simp only [inbound, inboundRead_clean h]
    exact ⟨rfl, l2Range_mem h ..⟩
  | write d => exact ⟨rfl, inboundWrite_bytes h hc ..⟩
  | amo op x pr =>
    simp only [inbound, inboundRead_clean h]
    refine ⟨rfl, ?_⟩
    change writtenAt _ (keepPromo _ _ _ _).mem.dram _ _
    rw [keepPromo_dram]
    exact inboundWrite_bytes h hc ..
  | cas e x pr =>
    simp only [inbound, inboundRead_clean h]
    split
    · refine ⟨rfl, ?_⟩
      change writtenAt _ (keepPromo _ _ _ _).mem.dram _ _
      rw [keepPromo_dram]
      exact inboundWrite_bytes h hc ..
    · exact ⟨rfl, l2Range_mem h ..⟩

/-- A request of a peer finds the same partition whatever the power state, and is performed there or refused (R430, R431). -/
theorem labenInboundRequest_spec {s : State} (hready : s.boot.ready = true) (h : s.mem.errs = []) (r : PeerReq) :
    ∃ v, SameSpace s v ∧ exec (.labenInboundRequest r) s = .next (match inboundPart s r with
      | some p => inbound v p r
      | none => answered v .refused) := by
  refine ⟨wakeDevice s, wakeDevice_sameSpace s, ?_⟩
  change execLabenInboundRequest r s = _
  have hpart := inboundPart_congr (wakeDevice_sameSpace s) h r
  cases hs : inboundPart s r <;> simp [execLabenInboundRequest, hready, hpart, hs]

/-! ### The steps -/

theorem exec_streamStop {s : State} {n va pa : Nat} (huncorr : (getSeq s n).uncorr = some (va, pa))
    (hrun : (getCtx s (.seq n)).life.status = .running) (hdrain : (getCtx s (.seq n)).life.drain = .none)
    (hskip : (getSeq s n).skip = false) :
    exec (.streamStop n) s = .next (stopMem (setSeq s n { getSeq s n with uncorr := none }) n (BitVec.ofNat 64 va) pa) := by
  change execStreamStop n s = _
  unfold execStreamStop
  dsimp only
  rw [huncorr]
  dsimp only
  rw [if_pos ⟨hrun, hdrain, by rw [hskip, Bool.not_false]⟩]

theorem exec_streamExit {s : State} {n : Nat} (hrun : (getCtx s (.seq n)).life.status = .running)
    (hdrain : (getCtx s (.seq n)).life.drain = .exit) (hquiet : quiet s (.seq n) = true) :
    exec (.streamExit n) s = .next (endStream s n) := by
  change execStreamExit n s = _
  unfold execStreamExit
  dsimp only
  rw [if_pos ⟨hrun, hdrain, hquiet⟩]

theorem exec_labenTimeout {s : State} {a : AgentId} (h : (getCtx s a).fr.stall = .laben) (b : Bool) :
    exec (.labenTimeout a b) s = .next (updFr s a fun f => { f with stall := .none, abort := some b }) := by
  change execLabenTimeout a b s = _
  unfold execLabenTimeout
  dsimp only
  rw [if_pos h]

theorem exec_laneFail {s : State} {port lanes : Nat} (hport : port < 16) (hlanes : lanes = 0 ∨ lanes = 1 ∨ lanes = 2)
    (hless : lanes < wbits (dreg s (0x2100 + 8 * port)) 18 16) :
    exec (.laneFail port lanes) s = .next (setDreg s (0x2100 + 8 * port)
      (BitVec.ofNat 64 (setBits (dreg s (0x2100 + 8 * port)).toNat 18 16 lanes))) := by
  change execLaneFail port lanes s = _
  unfold execLaneFail
  dsimp only
  rw [if_pos ⟨hlanes, hless, hport⟩]

/-! ### Lanes -/

/-- The width of a port is one field of its register (R429). -/
theorem wbits_setLanes (x : Word) {lanes : Nat} (h : lanes < 8) :
    wbits (BitVec.ofNat 64 (setBits x.toNat 18 16 lanes)) 18 16 = lanes
      ∧ wbits (BitVec.ofNat 64 (setBits x.toNat 18 16 lanes)) 15 0 = wbits x 15 0 := by
  have hx := x.isLt
  have hval : (BitVec.ofNat 64 (setBits x.toNat 18 16 lanes)).toNat = setBits x.toNat 18 16 lanes := by
    rw [BitVec.toNat_ofNat]
    refine Nat.mod_eq_of_lt ?_
    simp only [setBits, bits]
    omega
  unfold wbits
  rw [hval]
  simp only [setBits, bits]
  omega

theorem laneFail_spec {s : State} {port lanes : Nat} (hport : port < 16) (hlanes : lanes = 0 ∨ lanes = 1 ∨ lanes = 2)
    (hless : lanes < wbits (dreg s (0x2100 + 8 * port)) 18 16) :
    gives (.laneFail port lanes) s fun t => wbits (dreg t (0x2100 + 8 * port)) 18 16 = lanes
      ∧ wbits (dreg t (0x2100 + 8 * port)) 15 0 = wbits (dreg s (0x2100 + 8 * port)) 15 0 ∧ t.mem = s.mem := by
  obtain ⟨hwidth, hrest⟩ := wbits_setLanes (dreg s (0x2100 + 8 * port)) (lanes := lanes) (by omega)
  refine ⟨_, exec_laneFail hport hlanes hless, ?_, ?_, rfl⟩
  · rw [dreg_setDreg, hwidth]
  · rw [dreg_setDreg, hrest]

end Sys2Proof.Machine
end

section

namespace Sys2Proof.Proofs

open Sys2Proof Sys2Proof.Machine Sys2Proof.Safety Sys2Proof.Claims

/-- Settles O35: what a stream writes before its message leaves the mailboxes; the partition that a peer's request reaches is found by
translations that no power state changes. -/
theorem streamAndPeerEvents : Obligations.StreamAndPeerEvents := by
  unfold Obligations.StreamAndPeerEvents
  refine ⟨?_, ?_, ?_, ?_, fun s port lanes hport hlanes hless => laneFail_spec hport hlanes hless⟩
  · intro s n va pa hn huncorr hrun hdrain hskip hpend hroom
    have hexec := exec_streamStop huncorr hrun hdrain hskip
    have hseq := getSeq_setSeq s n { getSeq s n with uncorr := none }
    have hctx := getCtx_setSeq s n { getSeq s n with uncorr := none } (.seq n)
    generalize setSeq s n { getSeq s n with uncorr := none } = v at hexec hseq hctx
    obtain ⟨hstatus, hcause, hpc, m, hup, hfield⟩ := stopMem_spec (s := v) hn (by rw [hseq]; exact hpend) (by rw [hseq]; exact hroom)
      (BitVec.ofNat 64 va) pa
    rw [hseq] at hup
    rw [hctx] at hpc
    exact ⟨_, hexec, hstatus, hcause, hpc, m, hup, hfield⟩
  · intro s n _ hrun hdrain hquiet hpend hroom
    exact ⟨_, exec_streamExit hrun hdrain hquiet, endStream_spec hpend hroom⟩
  · intro s r hready herrs hc
    obtain ⟨v, hspace, hexec⟩ := labenInboundRequest_spec hready herrs r
    refine ⟨_, hexec, ?_⟩
    cases inboundPart s r with
    | none => exact ⟨rfl, hspace.mem⟩
    | some p =>
      have hdone := inbound_spec (by rw [hspace.mem, herrs]) (memoriesCanonical_congr hspace.mem hc) p r
      rw [hspace.mem] at hdone
      obtain ⟨src, pa, acc⟩ := r
      cases acc <;> exact hdone
  · intro s a b hstall
    refine ⟨_, exec_labenTimeout hstall b, ?_, ?_, rfl⟩
    · rw [updFr, getCtx_updCtx]
    · rw [updFr, getCtx_updCtx]

end Sys2Proof.Proofs
end

section

/-! # Integer words (R161 to R163) -/

namespace Sys2Proof.Machine

open Sys2Proof.Safety Sys2Proof.Claims

/-! ### Shifts, comparisons, minimum and maximum -/

/-- A shift amount is its low 6 bits (R161). -/
theorem toNat_and_63 (y : Word) : (y &&& 63).toNat = y.toNat % 64 := by
  rw [BitVec.toNat_and]
  exact Nat.and_two_pow_sub_one_eq_mod y.toNat 6

theorem bool64_eq_flag (p : Prop) [Decidable p] : bool64 (decide p) = flag p := by
  by_cases h : p <;> simp [bool64, flag, h]

theorem bool64_toInt_lt (x y : Word) : bool64 (decide (x.toInt < y.toInt)) = flag (x.slt y) := by
  rw [← BitVec.slt_eq_decide]
  cases x.slt y <;> rfl

theorem bool64_beq (x y : Word) : bool64 (x == y) = flag (x = y) := bool64_eq_flag (x = y)

theorem ite_toInt_lt (x y : Word) : (if x.toInt < y.toInt then x else y) = if x.slt y then x else y := by
  simp only [BitVec.slt_iff_toInt_lt]

/-- Two signed numbers that are equal are the same word, so the order of a maximum's operands does not show. -/
theorem ite_toInt_lt_swap (x y : Word) : (if x.toInt < y.toInt then y else x) = if y.slt x then x else y := by
  simp only [BitVec.slt_iff_toInt_lt]
  split_ifs with h₁ h₂ h₂
  · omega
  · rfl
  · rfl
  · exact BitVec.eq_of_toInt_eq (by omega)

theorem ite_toNat_lt_swap (x y : Word) : (if x.toNat < y.toNat then y else x) = if y < x then x else y := by
  simp only [BitVec.lt_def]
  split_ifs with h₁ h₂ h₂
  · omega
  · rfl
  · rfl
  · exact BitVec.eq_of_toNat_eq (by omega)

/-! ### Products, quotients and remainders -/

/-- The high half of a product of 128 bits. -/
theorem extractLsb'_ofInt_128 (z : Int) : BitVec.extractLsb' 64 64 (BitVec.ofInt 128 z) = BitVec.ofInt 64 (z / 2 ^ 64) := by
  apply BitVec.eq_of_toNat_eq
  rw [BitVec.extractLsb'_toNat, BitVec.toNat_ofInt, BitVec.toNat_ofInt, Nat.shiftRight_eq_div_pow]
  omega

theorem mulhs64_eq (x y : Word) : mulhs64 x y = BitVec.extractLsb' 64 64 (x.signExtend 128 * y.signExtend 128) := by
  rw [BitVec.signExtend, BitVec.signExtend, ← BitVec.ofInt_mul, extractLsb'_ofInt_128, mulhs64]

theorem mulhu64_eq (x y : Word) : mulhu64 x y = BitVec.extractLsb' 64 64 (x.zeroExtend 128 * y.zeroExtend 128) := by
  have hx : x.toNat * y.toNat < 2 ^ 64 * 2 ^ 64 := Nat.mul_lt_mul'' x.isLt y.isLt
  apply BitVec.eq_of_toNat_eq
  simp only [BitVec.extractLsb'_toNat, BitVec.toNat_mul, BitVec.toNat_setWidth, mulhu64, BitVec.toNat_ofNat,
    Nat.shiftRight_eq_div_pow]
  rw [Nat.mod_eq_of_lt (show x.toNat < 2 ^ 128 by omega), Nat.mod_eq_of_lt (show y.toNat < 2 ^ 128 by omega)]
  omega

theorem div64_eq (x y : Word) : div64 x y = if y = 0 then BitVec.allOnes 64 else x.sdiv y := by
  have h : BitVec.ofInt 64 (Int.tdiv x.toInt y.toInt) = x.sdiv y :=
    BitVec.eq_of_toInt_eq (by rw [BitVec.toInt_sdiv, BitVec.toInt_ofInt])
  rw [div64, h]

theorem rem64_eq (x y : Word) : rem64 x y = if y = 0 then x else x.srem y := by
  have h : BitVec.ofInt 64 (Int.tmod x.toInt y.toInt) = x.srem y := by rw [← BitVec.toInt_srem, BitVec.ofInt_toInt]
  rw [rem64, h]

theorem divu64_eq (x y : Word) : divu64 x y = if y = 0 then BitVec.allOnes 64 else x / y := by
  have h : BitVec.ofNat 64 (x.toNat / y.toNat) = x / y := by rw [← BitVec.toNat_udiv, BitVec.ofNat_toNat, BitVec.setWidth_eq]
  rw [divu64, h]

theorem remu64_eq (x y : Word) : remu64 x y = if y = 0 then x else x % y := by
  have h : BitVec.ofNat 64 (x.toNat % y.toNat) = x % y := by rw [← BitVec.toNat_umod, BitVec.ofNat_toNat, BitVec.setWidth_eq]
  rw [remu64, h]

/-! ### Counts and orders of bits -/

theorem clz64_eq (x : Word) : clz64 x = x.clz := by
  by_cases hx : x = 0
  · rw [clz64, if_pos hx, BitVec.clz_eq_iff_eq_zero.mpr hx]
    rfl
  have hlow := BitVec.two_pow_sub_clz_le_toNat_of_ne_zero (by decide) hx
  have hhigh := BitVec.toNat_lt_two_pow_sub_clz (x := x)
  have hlt : x.clz.toNat < 64 := BitVec.clz_lt_iff_ne_zero.mpr hx
  have hne : x.toNat ≠ 0 := fun h => hx (BitVec.eq_of_toNat_eq h)
  have hlog : Nat.log2 x.toNat = 63 - x.clz.toNat :=
    (Nat.log2_eq_iff hne).mpr ⟨hlow, by rwa [show 63 - x.clz.toNat + 1 = 64 - x.clz.toNat by omega]⟩
  rw [clz64, if_neg hx, hlog, show 63 - (63 - x.clz.toNat) = x.clz.toNat by omega, BitVec.ofNat_toNat, BitVec.setWidth_eq]

theorem mod_two_eq_testBit (x : Nat) : x % 2 = (x.testBit 0).toNat := by
  rw [Nat.testBit_zero]
  rcases Nat.mod_two_eq_zero_or_one x with h | h <;> simp [h]

/-- The number of trailing zeros is the place of the lowest 1, if the fuel reaches it. -/
theorem ctzNat_eq {n x k : Nat} (hk : k ≤ n) (hzero : ∀ i < k, x.testBit i = false) (hone : k < n → x.testBit k = true) :
    ctzNat n x = k := by
  induction n generalizing x k with
  | zero => rw [ctzNat]; omega
  | succ n ih =>
    rw [ctzNat, mod_two_eq_testBit]
    cases k with
    | zero => rw [hone (by omega)]; rfl
    | succ k =>
      rw [hzero 0 (by omega)]
      have hrest : ctzNat n (x / 2) = k := ih (by omega) (fun i hi => by rw [Nat.testBit_div_two, hzero (i + 1) (by omega)])
        fun h => by rw [Nat.testBit_div_two, hone (by omega)]
      rw [hrest]
      simp [Nat.add_comm]

theorem ctz64_eq (x : Word) : ctz64 x = x.ctz := by
  have hle : x.ctz.toNat ≤ 64 := by
    rw [BitVec.ctz_eq_reverse_clz]
    exact BitVec.clz_le (x := x.reverse)
  have hctz : ctzNat 64 x.toNat = x.ctz.toNat :=
    ctzNat_eq hle (fun _ hi => BitVec.getLsbD_false_of_lt_ctz hi)
      fun h => BitVec.getLsbD_true_ctz_of_ne_zero (BitVec.ctz_lt_iff_ne_zero.mp h)
  rw [ctz64, hctz, BitVec.ofNat_toNat, BitVec.setWidth_eq]

/-- The count of one bit more adds the highest. -/
theorem popNat_succ (n x : Nat) : popNat (n + 1) x = popNat n x + (x.testBit n).toNat := by
  induction n generalizing x with
  | zero => simp only [popNat, mod_two_eq_testBit]; omega
  | succ n ih => rw [popNat, ih, popNat, Nat.testBit_div_two, Nat.add_assoc]

theorem popNat_eq_cpopNatRec (x : Word) (n : Nat) : popNat n x.toNat = x.cpopNatRec n 0 := by
  induction n with
  | zero => rfl
  | succ n ih => rw [popNat_succ, ih, BitVec.cpopNatRec_succ, BitVec.cpopNatRec_add, BitVec.getLsbD]

theorem popc64_eq (x : Word) : popc64 x = x.cpop := by rw [popc64, popNat_eq_cpopNatRec, BitVec.cpop]

theorem revNat_lt (n x : Nat) : revNat n x < 2 ^ n := by
  induction n generalizing x with
  | zero => simp [revNat]
  | succ n ih =>
    have hrest := ih (x / 2)
    rw [revNat, Nat.pow_succ]
    rcases Nat.mod_two_eq_zero_or_one x with h | h <;> rw [h] <;> omega

/-- Bit i of the reversed number is bit n − 1 − i. -/
theorem testBit_revNat {n i : Nat} (x : Nat) (h : i < n) : (revNat n x).testBit i = x.testBit (n - 1 - i) := by
  induction n generalizing x i with
  | zero => omega
  | succ n ih =>
    rw [revNat, Nat.mul_comm, Nat.testBit_two_pow_mul_add _ (revNat_lt n (x / 2))]
    by_cases hi : i < n
    · rw [if_pos hi, ih _ hi, Nat.testBit_div_two]
      congr 1
      omega
    · obtain rfl : i = n := by omega
      simp

theorem brev64_eq (x : Word) : brev64 x = x.reverse := by
  apply BitVec.eq_of_getLsbD_eq
  intro i hi
  rw [brev64, BitVec.getLsbD_ofNat, testBit_revNat _ hi, BitVec.getLsbD_reverse, BitVec.getMsbD, BitVec.getLsbD]

/-! ### Extensions -/

theorem sextW_eq (x : Word) (w : Nat) : sextW x w = (x.setWidth w).signExtend 64 := by
  rw [sextW, sext64, toSigned_eq_toInt, BitVec.ofNat_toNat, BitVec.signExtend]

theorem zextW_eq (x : Word) (w : Nat) : zextW x w = (x.setWidth w).setWidth 64 := by
  apply BitVec.eq_of_toNat_eq
  rw [zextW, BitVec.toNat_ofNat, BitVec.toNat_setWidth, BitVec.toNat_setWidth]

end Sys2Proof.Machine

namespace Sys2Proof.Proofs

open Sys2Proof.Machine Sys2Proof.Safety Sys2Proof.Claims

section

variable {s : State} {i : Instr} {d' : Nat} {x : Word}

/-- A three-register word whose value is the stated one has the stated effect. -/
theorem alu3_value3 (hready : ready s i = true) {d a b : BitVec 5} {f g : Word → Word → Word} (hfg : ∀ y z, f y z = g y z)
    (h : value3 (cx s) d a b g = some (d', x)) : alu3 i s d a b f = .next (stateAfter s i d' x) := by
  cases h
  rw [alu3_ready hready, hfg]
  rfl

theorem alu2_value2 (hready : ready s i = true) {d a : BitVec 5} {f g : Word → Word} (hfg : ∀ y, f y = g y)
    (h : value2 (cx s) d a g = some (d', x)) : alu2 i s d a f = .next (stateAfter s i d' x) := by
  cases h
  rw [alu2_ready hready, hfg]
  rfl

theorem aluI_valueI (hready : ready s i = true) {d a : BitVec 5} {m : BitVec 11} {f g : Word → Word → Word}
    (hfg : ∀ y z, f y z = g y z) (h : valueI (cx s) d a m g = some (d', x)) :
    aluI i s d a m f = .next (stateAfter s i d' x) := by
  cases h
  rw [aluI_ready hready, hfg]
  rfl

end

/-- Settles O1: each integer word is one of the three register forms or a write of an immediate, and the value the model writes is
the one the rules name. -/
theorem integerWords : Obligations.IntegerWords := by
  unfold Obligations.IntegerWords
  intro s i d x hready h
  unfold integerResult at h
  split at h
  · exact show execAdd _ _ _ _ s = _ from alu3_value3 hready (fun _ _ => rfl) h
  · exact show execSub _ _ _ _ s = _ from alu3_value3 hready (fun _ _ => rfl) h
  · exact show execAnd _ _ _ _ s = _ from alu3_value3 hready (fun _ _ => rfl) h
  · exact show execOr _ _ _ _ s = _ from alu3_value3 hready (fun _ _ => rfl) h
  · exact show execXor _ _ _ _ s = _ from alu3_value3 hready (fun _ _ => rfl) h
  · exact show execAndn _ _ _ _ s = _ from alu3_value3 hready (fun _ _ => rfl) h
  · exact show execShl _ _ _ _ s = _ from alu3_value3 hready (fun _ _ => by rw [BitVec.shiftLeft_eq', toNat_and_63]) h
  · exact show execShr _ _ _ _ s = _ from alu3_value3 hready (fun _ _ => by rw [BitVec.ushiftRight_eq', toNat_and_63]) h
  · exact show execShra _ _ _ _ s = _ from alu3_value3 hready (fun _ _ => by rw [toNat_and_63]) h
  · exact show execRotr _ _ _ _ s = _ from alu3_value3 hready (fun _ _ => by rw [toNat_and_63]) h
  · exact show execMul _ _ _ _ s = _ from alu3_value3 hready (fun _ _ => rfl) h
  · exact show execMulhs _ _ _ _ s = _ from alu3_value3 hready mulhs64_eq h
  · exact show execMulhu _ _ _ _ s = _ from alu3_value3 hready mulhu64_eq h
  · exact show execDiv _ _ _ _ s = _ from alu3_value3 hready div64_eq h
  · exact show execDivu _ _ _ _ s = _ from alu3_value3 hready divu64_eq h
  · exact show execRem _ _ _ _ s = _ from alu3_value3 hready rem64_eq h
  · exact show execRemu _ _ _ _ s = _ from alu3_value3 hready remu64_eq h
  · exact show execMin _ _ _ _ s = _ from alu3_value3 hready ite_toInt_lt h
  · exact show execMax _ _ _ _ s = _ from alu3_value3 hready ite_toInt_lt_swap h
  · exact show execMinu _ _ _ _ s = _ from alu3_value3 hready (fun _ _ => rfl) h
  · exact show execMaxu _ _ _ _ s = _ from alu3_value3 hready ite_toNat_lt_swap h
  · exact show execSlt _ _ _ _ s = _ from alu3_value3 hready bool64_toInt_lt h
  · exact show execSltu _ _ _ _ s = _ from alu3_value3 hready (fun _ _ => bool64_eq_flag _) h
  · exact show execSeq _ _ _ _ s = _ from alu3_value3 hready bool64_beq h
  · exact show execClz _ _ _ s = _ from alu2_value2 hready clz64_eq h
  · exact show execCtz _ _ _ s = _ from alu2_value2 hready ctz64_eq h
  · exact show execPopc _ _ _ s = _ from alu2_value2 hready popc64_eq h
  · exact show execBrev _ _ _ s = _ from alu2_value2 hready brev64_eq h
  · exact show execSext _ _ _ _ s = _ from alu2_value2 hready (fun _ => sextW_eq ..) h
  · exact show execZext _ _ _ _ s = _ from alu2_value2 hready (fun _ => zextW_eq ..) h
  · exact show execAddi _ _ _ _ s = _ from aluI_valueI hready (fun _ _ => rfl) h
  · exact show execAndi _ _ _ _ s = _ from aluI_valueI hready (fun _ _ => rfl) h
  · exact show execOri _ _ _ _ s = _ from aluI_valueI hready (fun _ _ => rfl) h
  · exact show execXori _ _ _ _ s = _ from aluI_valueI hready (fun _ _ => rfl) h
  · exact show execShli _ _ _ _ s = _ from alu2_value2 hready (fun _ => rfl) h
  · exact show execShri _ _ _ _ s = _ from alu2_value2 hready (fun _ => rfl) h
  · exact show execShrai _ _ _ _ s = _ from alu2_value2 hready (fun _ => rfl) h
  · exact show execSlti _ _ _ _ s = _ from aluI_valueI hready bool64_toInt_lt h
  · exact show execSltui _ _ _ _ s = _ from aluI_valueI hready (fun _ _ => bool64_eq_flag _) h
  · exact show execSeqi _ _ _ _ s = _ from aluI_valueI hready bool64_beq h
  · cases h
    exact show execLui _ _ _ s = _ from (control_ready hready _).trans (congrArg _ (retire_writeS ..))
  · cases h
    exact show execAuipc _ _ _ s = _ from (control_ready hready _).trans (congrArg _ (retire_writeS ..))
  · cases h

end Sys2Proof.Proofs

end

section

/-! # A set operation after a head word that has been judged (R217, R307)

The word runs as its rule says; what fails is the frame of its engine, which does not keep the note that a head has been judged. -/

namespace Sys2Proof.Machine

open Sys2Proof.Safety Sys2Proof.Claims

/-- A word whose step drops the note that the head of its engine has been judged does not leave the engine as `leaves` says. -/
theorem not_leaves_of_headOk_dropped {s t : State} {i j : Instr} (ht : exec i s = .next t)
    (hnote : (getE (cx s).eng (Safety.engineOf j)).headOk = true)
    (hdrops : (getE (getCtx (leftBy i s) s.sch.cur).eng (Safety.engineOf j)).headOk = false) {flags : Nat} {replies : List Nat} :
    ¬ leaves s t i j flags replies := by
  rintro ⟨-, ⟨hengine, -⟩, -⟩
  have hkept : (getE (getCtx t s.sch.cur).eng (Safety.engineOf j)).headOk = true := by rw [hengine, ← hnote]
  rw [← leftBy_eq ht, hdrops] at hkept
  cases hkept

/-- k0 and k1 are streams of one record each, of key 0 in a scratchpad of zeros, and k6 is an output with room for two records; the
vector engine is idle and holds the note. -/
def streamsJudged : State :=
  let s := idleJudged .v
  updCtx s s.sch.cur fun c =>
    setK (setK (setK c 0 (.input 0 0 15 1 0 none)) 1 (.input 0x40 0 15 1 0 none)) 6 (.output 0x100 0 15 2 0)

/-- The records that the two streams have in common. -/
def commonKeys : Instr := .sisect true 0 6 0 1

theorem streamsJudged_starts : starts streamsJudged commonKeys commonKeys = true := by decide +kernel

theorem streamsJudged_calm : calm streamsJudged commonKeys 1 := by
  unfold calm memoriesCanonical replyFits
  decide +kernel

theorem streamsJudged_bindings : getK (cx streamsJudged) 6 = .output 0x100 0 15 2 0
    ∧ getK (cx streamsJudged) 0 = .input 0 0 15 1 0 none ∧ getK (cx streamsJudged) 1 = .input 0x40 0 15 1 0 none := by
  decide +kernel

theorem streamsJudged_records : recordsFrom streamsJudged 0 0 15 1 0 = [(0, 0)]
    ∧ recordsFrom streamsJudged 0x40 0 15 1 0 = [(0, 0)] := by decide +kernel

theorem rising_singleton (x : Nat × Nat) : rising none [x] := ⟨List.pairwise_singleton .., fun _ h => nomatch h⟩

theorem streamsJudged_headOk : (getE (cx streamsJudged).eng (Safety.engineOf commonKeys)).headOk = true := by decide +kernel

theorem streamsJudged_drops :
    (getE (getCtx (leftBy commonKeys streamsJudged) streamsJudged.sch.cur).eng (Safety.engineOf commonKeys)).headOk = false := by
  decide +kernel

end Sys2Proof.Machine
end

section

namespace Sys2Proof.Proofs

open Sys2Proof Sys2Proof.Machine Sys2Proof.Safety Sys2Proof.Claims

/-- Refutes O17: with a note that the vector engine's head has been judged, SISECT of two streams of one record each runs as the statement
asks, and the engine does not keep the note once the word has left it. -/
theorem not_streamSetOperations : ¬ Obligations.StreamSetOperations := by
  unfold Obligations.StreamSetOperations
  intro h
  obtain ⟨hout, hfirst, hsecond⟩ := streamsJudged_bindings
  obtain ⟨hrecordsA, hrecordsB⟩ := streamsJudged_records
  obtain ⟨t, out, flags, ht, hleaves, -⟩ := h streamsJudged commonKeys commonKeys 6 0 1 0x100 0 15 2 0 0 1 0 0x40 1 0 none none
    streamsJudged_starts streamsJudged_calm rfl (by decide) (by decide) (by decide) (by decide) hout hfirst hsecond
    (by rw [hrecordsA]; exact rising_singleton _) (by rw [hrecordsB]; exact rising_singleton _)
    (by rw [hrecordsA, hrecordsB]; decide) (.inr (by decide)) (.inr (by decide))
  exact not_leaves_of_headOk_dropped ht streamsJudged_headOk streamsJudged_drops hleaves

end Sys2Proof.Proofs
end

section

/-! # An M word after a head word that has been judged (R225, R307)

The words run as their rules say; what fails is the frame of their engine, which does not keep the note that a head has been judged. -/

namespace Sys2Proof.Machine

open Sys2Proof.Safety Sys2Proof.Claims

/-- A ring of one slot of 16 KiB at this offset of the window, and the slot is filled. -/
def filledRing (base : Nat) : Ring := ⟨BitVec.ofNat 64 (2 ^ 63 + 511 * 2 ^ 32 + base), 0, 0, 1⟩

/-- The bank owns the matrix operand state of its core, rings 0 and 1 hold a block of I8 values each, pair 0 is I8 with I8, and the
matrix engine is idle and holds the note. -/
def matrixJudged : State :=
  let s := updCtx (idleJudged .m) (.bank 0 false) fun c =>
    let c := setRing (setRing c 0 (filledRing 0)) 1 (filledRing 0x4000)
    { c with csr := { c.csr with mfmt := 0x0505 } }
  setCore s 0 { getCore s 0 with owner := some false }

/-- MZERO of tile 3. -/
def clearTile : Instr := .mzero true 0 3

/-- A dense outer-product MMA of rings 0 and 1 to tile 3, by pair 0. -/
def outerProduct : Instr := .mma true 0 3 0 1 1 0 false false 0

/-- MDRAIN of tile 1 to the start of the window, as I4 (format code 0), with s0 for both operands. -/
def drainTile : Instr := .mdrain true 0 0 0 0 1

/-- The word starts in the matrix engine there, and its step drops the note. -/
structure DropsMatrixNote (i : Instr) : Prop where
  engine : Safety.engineOf i = .m
  starts : starts matrixJudged i i = true
  drops : (getE (getCtx (leftBy i matrixJudged) matrixJudged.sch.cur).eng .m).headOk = false

theorem clearTile_dropsNote : DropsMatrixNote clearTile := ⟨by decide +kernel, by decide +kernel, by decide +kernel⟩

theorem outerProduct_dropsNote : DropsMatrixNote outerProduct := ⟨by decide +kernel, by decide +kernel, by decide +kernel⟩

theorem drainTile_dropsNote : DropsMatrixNote drainTile := ⟨by decide +kernel, by decide +kernel, by decide +kernel⟩

theorem matrixJudged_headOk : (getE (cx matrixJudged).eng .m).headOk = true := by decide +kernel

/-- A word that drops the note does not leave its engine as `leaves` says. -/
theorem DropsMatrixNote.not_leaves {i : Instr} (h : DropsMatrixNote i) {t : State} (ht : exec i matrixJudged = .next t) {flags : Nat}
    {replies : List Nat} : ¬ leaves matrixJudged t i i flags replies :=
  not_leaves_of_headOk_dropped ht (by rw [h.engine]; exact matrixJudged_headOk) (by rw [h.engine]; exact h.drops)

theorem matrixJudged_calm {i : Instr} (h : DropsMatrixNote i) : calm matrixJudged i 0 := by
  rw [calm, h.engine]
  unfold memoriesCanonical replyFits
  decide +kernel

theorem matrixJudged_ownsCore : ownsCore matrixJudged := ⟨0, false, by decide +kernel, by decide +kernel⟩

theorem matrixJudged_ownsMatrix : ownsMatrix matrixJudged := ⟨matrixJudged_ownsCore, by decide +kernel⟩

theorem matrixJudged_sorted : ksorted (cx matrixJudged).arch.acc = true := by decide +kernel

theorem matrixJudged_tiles (c : BitVec 2) : c.toNat < (cx matrixJudged).life.tiles := by
  have htiles : (cx matrixJudged).life.tiles = 4 := by decide +kernel
  rw [htiles]
  exact c.isLt

/-- No vector word is open, so that no tile is named by one. -/
theorem matrixJudged_vecBusy (t : Nat) : vecBusy (cx matrixJudged).eng t matrixJudged.sch.uid = false := by
  have hopen : openWords (cx matrixJudged).eng.v = [] := by decide +kernel
  rw [vecBusy, hopen, List.any_nil]

theorem outerProduct_pair : pairOf (pairCode (cap matrixJudged outerProduct) 0) = some ⟨.sint 8, false, .sint 8, false⟩ := by
  decide +kernel

theorem outerProduct_ringsHold :
    ringHolds matrixJudged 0 (slotsFor (cx matrixJudged) 0 (16 * 128 * 8))
      ∧ ringHolds matrixJudged 1 (0 + slotsFor (cx matrixJudged) 1 (16 * 128 * 8)) := by
  unfold ringHolds
  decide +kernel

/-- The operands of the drain name I4, set no other field, and give an aligned offset. -/
theorem drainTile_form :
    let k := cap matrixJudged drainTile
    fmtOfCode (wbits k.sb 4 0) = some (.sint 4) ∧ wbits k.sb 15 8 = 0 ∧ wbits k.sb 6 6 = 0 ∧ wbits k.sb 63 32 = 0
      ∧ k.sa.toNat % 32 = 0 ∧ 16 * storedW (.sint 4)
        ≤ if wbits k.sb 31 16 = 0 then (16 * storedW (.sint 4) + 31) / 32 * 32 else 32 * wbits k.sb 31 16 := by decide +kernel

/-- Its lines, 64 bytes each from the start of the window, lie in the window. -/
theorem drainTile_inWindow {l : Nat} (hl : l < 128) : inWindow matrixJudged (0 + l * 64) 64 := by
  have hwindow : winBytes (cx matrixJudged) = 524288 := by decide +kernel
  exact .inr (by omega)

end Sys2Proof.Machine
end

section

namespace Sys2Proof.Proofs

open Sys2Proof Sys2Proof.Machine Sys2Proof.Safety Sys2Proof.Claims

/-- Refutes O18: MZERO of a granted tile, with a note that the matrix engine's head has been judged, runs as the statement asks, and the
engine does not keep the note once the word has left it. -/
theorem not_matrixStateWords : ¬ Obligations.MatrixStateWords := by
  unfold Obligations.MatrixStateWords
  intro h
  obtain ⟨t, ht, hleaves, -⟩ := h matrixJudged clearTile clearTile clearTile_dropsNote.starts (matrixJudged_calm clearTile_dropsNote)
    matrixJudged_ownsCore matrixJudged_sorted (matrixJudged_tiles 3) (matrixJudged_vecBusy 3)
  exact clearTile_dropsNote.not_leaves ht hleaves

/-- Refutes O19: its first half has a dense MMA leave the note that the matrix engine's head has been judged, and the outer product of two
full rings drops it. -/
theorem not_denseMatrixProduct : ¬ Obligations.DenseMatrixProduct := by
  unfold Obligations.DenseMatrixProduct Claims.streamedProduct
  rintro ⟨hstreamed, -⟩
  obtain ⟨t, ht, hleaves, -⟩ := hstreamed matrixJudged outerProduct true false 0 3 0 1 0 0 1 ⟨.sint 8, false, .sint 8, false⟩
    outerProduct_dropsNote.starts (matrixJudged_calm outerProduct_dropsNote) matrixJudged_ownsMatrix matrixJudged_sorted (.inl rfl)
    (matrixJudged_tiles 3) (matrixJudged_vecBusy 3) outerProduct_pair (Nat.zero_le _) (Nat.zero_le _) outerProduct_ringsHold.1
    outerProduct_ringsHold.2
  exact outerProduct_dropsNote.not_leaves ht hleaves

/-- Refutes O51: its second part has MDRAIN leave the note that the matrix engine's head has been judged, and a drain to the window drops
it. -/
theorem not_tileAndDrainWords : ¬ Obligations.TileAndDrainWords := by
  unfold Obligations.TileAndDrainWords Claims.drainToWindow
  rintro ⟨-, hdrain, -⟩
  obtain ⟨hformat, hreserved, hscales, hcap, haligned, hpitch⟩ := drainTile_form
  obtain ⟨t, ht, hleaves, -⟩ := hdrain matrixJudged drainTile true 0 0 0 1 (.sint 4) drainTile_dropsNote.starts
    (matrixJudged_calm drainTile_dropsNote) matrixJudged_ownsMatrix (matrixJudged_tiles 1) hformat hreserved hscales hcap
    haligned hpitch fun l hl => drainTile_inWindow hl
  exact drainTile_dropsNote.not_leaves ht hleaves

end Sys2Proof.Proofs
end
